-- ==== Sys2Proof/Word.lean ====
section
/-! DEFINITION. The word types of the Tilzal T9: bytes, registers and 16-byte message chunks (R13, R14, R99). -/
namespace Sys2Proof

/-- A byte is 8 bits (R13). -/
abbrev Byte := BitVec 8

/-- A BAR0 register is 64 bits wide (R14). -/
abbrev Word := BitVec 64

/-- A message chunk is 16 bytes (R99). -/
abbrev Chunk := BitVec 128

end Sys2Proof
end

