-- ==== Sys2Proof/Syntax.lean ====
section
/-! DEFINITION. The commands the Tilzal T9 takes: one constructor for every row of the opcode table, and the types of their
operands. The operand `t` of a command is the time of the Hearth time base (R189), in ns, at which it takes place. -/
namespace Sys2Proof

/-- A port number (R20). -/
abbrev Port := Fin 512

/-- A logical tile (R20). -/
abbrev Tile := Fin 256

/-- A domain or PCIe function: domain d is reached through VF d, domain 0 through PF0 (R20, R21). -/
abbrev Dom := Fin 4096

/-- An extent number (R425). -/
abbrev Ext := Fin 65536

/-- A GRT context number (R390). -/
abbrev Ctx := Fin 1048576

end Sys2Proof

namespace Sys2Proof.Machine

/-- A Glois message (R99): its 16-byte header chunk and its data chunks. -/
structure Msg where
  hdr : Chunk
  data : List Chunk
  deriving DecidableEq, Repr

/-- An endpoint of the switch core (R165, R172). -/
inductive Endpoint where
  | port (p : Nat)
  | tile (t : Nat)
  | slice (s : Nat)
  | forge (stack : Nat)
  | core
  | host
  | quench (die : Nat)
  | grt (die : Nat)
  | tier
  deriving DecidableEq, Repr

/-- Who asks a home for a line: a requester port, or one of the T9's own engines (R417, R419). -/
inductive Agent where
  | port (p : Nat)
  | tile (t : Nat)
  | grt (ctx : Nat)
  | sweep (dom : Nat)
  | resync (index : Nat)
  | tier (page : Nat)
  | shadow (page : Nat)
  | takeBack (id : Nat)
  deriving DecidableEq, Repr

/-- The atomic opcodes (R147). -/
inductive AtomicOp where
  | fadd | min | max | swap | cas
  deriving DecidableEq, Repr

/-- What a home is asked to do with a line: the requests of R140, and the T9's own line moves (R136, R347, R348, R373, R460). -/
inductive HomeOp where
  | rdShared | rdNoalloc | rdOwn | wrLine | wrPart | wbDirty | inval | evict
  | atomic (a : AtomicOp)
  | sweep | resync | promote | clean | takeBack
  deriving DecidableEq, Repr

/-- A request at a home: who asks with which TAG, its domain, its translated address, COUNT, line index and the first line of
its block (R103), the data it carries, its byte enables (R104), traffic class, the counter it names (R102), the map epoch it is
stamped with (R428), the number of its admission (R430), and what fails on the way: 0 nothing, 1 a
state-table word in one copy, 2 a directory word in both copies (R449), 3 a correctable and 4 an uncorrectable word of a TIER frame
(R450), 5 a range-table word in both copies (R449); and the placement generation of an operator's result that names a counter
(R70). -/
structure HomeReq where
  who : Agent
  tag : Nat
  op : HomeOp
  dom : Nat
  ppa : Nat
  count : Nat
  first : Nat
  data : List Byte
  mask : Nat
  tc : Nat
  ctrKind : Nat
  ctr : Nat
  epoch : Nat
  no : Nat
  parity : Nat
  gen : Option Nat
  deriving DecidableEq, Repr

/-- What a message that the T9 sent to a tray is for. -/
inductive OutUse where
  | read (mirror : Bool)
  | write (copy : Nat)
  | flush (copy : Nat)
  | memside
  | fill (ext : Nat)
  deriving DecidableEq, Repr

/-- Where a message of a flit that proves bad had got to by then (R182): queued in the Hearth, at an internal engine, or in an
outgoing flit of port `egress`. -/
inductive CutFate where
  | queued (m : Msg)
  | atEngine (m : Msg)
  | onFlit (egress : Port) (m : Msg)
  deriving DecidableEq, Repr

/-- What the check bits of the words that a step meets show (R447): whether a word of the scratchpad, the Crucibles or the datapaths
fails its parity in this attempt, the 32-byte words of device memory, by their address over 32, whose ECC has come to show one bad
symbol (true, correctable) or two, and the state-table words found wrong (R449): the table (0 directory, 1 range
table, 2 stripe sets, 3 tier map, 4 ownership, 5 registrations, 6 extent states, 7 port bindings, 8 pools, and 9 to 12 the tables 1, 2,
7 and 8 of the old bank), its entry, and whether the second copy still serves. -/
structure Upset where
  parity : Bool
  words : List (Nat × Bool)
  tables : List (Nat × Nat × Bool)
  deriving DecidableEq, Repr

/-- A parity failure during a cell epoch (R121, R182, R448): in the cell that crosses from an input slot, met on a read of its
Hearth bank or in a crossbar plane, and whether an egress flit already carries the cell. -/
structure ParityHit where
  slot : Fin 1344
  plane : Option (Fin 9)
  begun : Bool
  deriving DecidableEq, Repr

/-- A 64-byte ring command (R487): issuing function, command ring, COMMAND_ID, flags and bytes 8 to 63. -/
structure RingCmd where
  fn : Dom
  ring : Fin 16
  id : BitVec 32
  flags : Byte
  args : List Byte
  deriving DecidableEq, Repr

/-- What a PCIe configuration request reaches (R475, R477, R481): a field the spec names, or another by its offset. -/
inductive CfgField where
  | vendorId
  | deviceId
  | classCode
  | vfEnable
  | completionTimeout
  | other (addr : Nat)
  deriving DecidableEq, Repr

/-- A heat: its function, its command ring and its heat number (R256). -/
structure HeatKey where
  fn : Dom
  ring : Fin 16
  no : Nat
  deriving DecidableEq, Repr

end Sys2Proof.Machine

namespace Sys2Proof

open Machine

/-- The commands: one constructor for every row of the table of operations and events. -/
inductive Instr where
  /-- A flit arrives on a Glois port; the receiver checks FEC and CRC, checks SEQ against E, and delivers or discards its messages, sending NAK or ACK as needed. (R117) -/
  | flitReceive (port : Port) (lanes : List (List Bool)) (corrected uncorrectable : List Nat) (cuts : List CutFate) (t : Nat)
  /-- The T9 sends the next MSG, CTRL or IDLE flit on a port, filling it by ascending class within its credits and holding the CRC until the verdicts are known. (R113) -/
  | flitTransmit (port : Port) (t : Nat)
  /-- When 1 µs has passed since a NAK was sent without SEQ = E arriving, the receiver sends the NAK again. (R117) -/
  | nakResendTimeout (port : Port) (t : Nat)
  /-- When ACK_MAX_NS has passed since a MSG flit was accepted, the receiver sends an ACK that covers every accepted flit. (R116) -/
  | ackMaxNsTimeout (port : Port) (t : Nat)
  /-- Once in each HB_PERIOD_US the T9 sends an MGT HEARTBEAT carrying the port's FENCE_EPOCH. (R107) -/
  | heartbeatSend (port : Port) (t : Nat)
  /-- A port in DOWN with DISABLE clear detects a partner signal and enters EQUALIZE. (R122) -/
  | partnerSignalDetect (port : Port) (t : Nat)
  /-- Transmitter training ends on every lane of the port, and the port enters ALIGN. (R122) -/
  | equalizeDone (port : Port) (t : Nat)
  /-- A port still in EQUALIZE after 100 ms returns to DOWN. (R122) -/
  | equalizeTimeout (port : Port) (t : Nat)
  /-- A port still in ALIGN after 1 ms returns to EQUALIZE. (R122) -/
  | alignTimeout (port : Port) (t : Nat)
  /-- The partner's HELLO is accepted, setting the common width and moving the port to ACTIVE, or refused, setting HELLO_FAIL. (R124) -/
  | hello (port : Port) (payload : List Byte) (t : Nat)
  /-- After 100 µs in HELLO without an accepted HELLO, LINK_STAT.HELLO_FAIL is set and the port stays in HELLO. (R122) -/
  | helloTimeout (port : Port) (t : Nat)
  /-- The partner's REMAP_ACK moves the logical lane onto the spare from the next flit, and the port returns to ACTIVE. (R126) -/
  | remapAck (port : Port) (t : Nat)
  /-- When no REMAP_ACK has arrived 2 µs after REMAP_REQ, the port retrains without the swap, and after a second failure it applies R127. (R126) -/
  | remapTimeout (port : Port) (t : Nat)
  /-- A port that has not returned to ACTIVE within RETRAIN_LIMIT_MS falls to DOWN and discards its replay buffers. (R122) -/
  | retrainLimitTimeout (port : Port) (t : Nat)
  /-- A write of LINK_CTL.RETRAIN moves an ACTIVE port to RETRAIN. (R128) -/
  | linkCtlRetrain (port : Port) (t : Nat)
  /-- A write of LINK_CTL.DISABLE holds the port in DOWN, or releases it when cleared. (R128) -/
  | linkCtlDisable (port : Port) (on : Bool) (t : Nat)
  /-- A write of LANE_CTL.GO starts a REMAP of the named logical lane onto the named assigned spare. (R126) -/
  | laneCtlGo (port : Port) (lane : Fin 16) (spare : Fin 2) (t : Nat)
  /-- The home serves a RD_SHARED in its line's state, returning DATA with GRANT 1 and recording the sharer. (R140) -/
  | rdShared (r : HomeReq) (t : Nat)
  /-- The home serves a non-allocating read with the newest value of the line, recalling an owned line first, and records no entry. (R144) -/
  | rdNoalloc (r : HomeReq) (t : Nat)
  /-- The home invalidates or recalls other copies and grants ownership in an OWNED-WB region, or answers as RD_SHARED in a SHARED-RO region. (R140) -/
  | rdOwn (r : HomeReq) (t : Nat)
  /-- The home writes a full line to the tray or frame, invalidating sharers if it holds no hold, and answers CMP after the tray's CMP. (R140) -/
  | wrLine (r : HomeReq) (t : Nat)
  /-- The home merges the enabled bytes of a partial write into the line and writes it through the store engine. (R140) -/
  | wrPart (r : HomeReq) (t : Nat)
  /-- The home writes an owner's dirty line back to the pool and answers CMP, or discards the write with POISON from a port that is not the owner. (R140) -/
  | wbDirty (r : HomeReq) (t : Nat)
  /-- The home invalidates every other sharer of up to four lines, answers INV_DONE and holds the lines for the issuer. (R141) -/
  | inval (r : HomeReq) (t : Nat)
  /-- The home removes a recorded sharer or owner, or ends a hold, and answers CMP. (R140) -/
  | evict (r : HomeReq) (t : Nat)
  /-- An atomic add is applied at the home's atomic buffer or at the tray, and the old value is returned. (R147) -/
  | fadd (r : HomeReq) (t : Nat)
  /-- An atomic signed minimum is applied at the home or the tray, and the old value is returned. (R147) -/
  | min (r : HomeReq) (t : Nat)
  /-- An atomic signed maximum is applied at the home or the tray, and the old value is returned. (R147) -/
  | max (r : HomeReq) (t : Nat)
  /-- An atomic swap stores its operand at the home or the tray and returns the old value. (R147) -/
  | swap (r : HomeReq) (t : Nat)
  /-- An atomic compare-and-swap stores the swap value if the old value equals the compare value, and returns the old value. (R147) -/
  | cas (r : HomeReq) (t : Nat)
  /-- An operator write lands in a tile's scratchpad or in device memory and increments the arrival counter it names, which may satisfy a wait. (R62) -/
  | opsWr (port : Port) (m : Msg) (gen : Nat) (t : Nat)
  /-- A DAT DATA returns a line from a tray to its issuing engine, where it lands, is forwarded to the requester, or fails over to the mirror. (R105) -/
  | data (port : Port) (m : Msg) (par : Bool) (t : Nat)
  /-- A tray's ATOMIC_RET returns the old value of a memory-side atomic, which the home forwards to the requester. (R120) -/
  | atomicRet (port : Port) (m : Msg) (par : Bool) (t : Nat)
  /-- A requester's SNP_DATA returns a modified line for a recall, which the home writes to the tray before serving the waiting request. (R143) -/
  | snpData (port : Port) (m : Msg) (t : Nat)
  /-- A tray's RSP CMP completes a write at the home, which answers the requester and updates the in-flight counts. (R140) -/
  | cmp (port : Port) (m : Msg) (t : Nat)
  /-- A requester acknowledges a snoop, and the home continues the request once every acknowledgement is in. (R134) -/
  | snpAck (port : Port) (m : Msg) (t : Nat)
  /-- A requester acknowledges an OPS_RESULT piece of a REDUCE, ATTEND or weight push. (R298) -/
  | resultAck (port : Port) (m : Msg) (t : Nat)
  /-- An MGT NOP is received and ignored. (R104) -/
  | mgtNop (port : Port) (m : Msg) (t : Nat)
  /-- A HEARTBEAT with the port's FENCE_EPOCH restarts the heartbeat timer or completes a pending admission; one with another epoch is ignored. (R463) -/
  | heartbeat (port : Port) (m : Msg) (t : Nat)
  /-- A tray's TRAY_EVENT is passed to RAS and counted in its Temper window. (R107) -/
  | trayEvent (port : Port) (m : Msg) (t : Nat)
  /-- An INVAL hold that reaches HOLD_LIMIT_NS ends, is counted in HOLD_EXPIRED, and releases the waiting requests. (R141) -/
  | holdLimitExpiry (line : Nat) (t : Nat)
  /-- A snoop answer outstanding beyond SNP_TIMEOUT_US is counted and reported to RAS while the home keeps waiting. (R142) -/
  | snpTimeout (line : Nat) (t : Nat)
  /-- A line untouched by atomics for ATOMIC_IDLE_NS is written back from the atomic buffer to the tray. (R150) -/
  | atomicIdleWriteback (line : Nat) (t : Nat)
  /-- An atomic group closes when COMBINE_WIN_NS has passed since it opened. (R152) -/
  | combineWindowClose (line : Nat) (t : Nat)
  /-- A request parked for PARK_LIMIT_US completes with POISON and counts in PARK_POISON. (R161) -/
  | parkLimitExpiry (t : Nat)
  /-- A write of PARK_LIMIT_US applies the new limit at once to every request already parked. (R161) -/
  | parkCtlWrite (limit : BitVec 32) (t : Nat)
  /-- A write of REVERT_GO accepts the pool copy of every LOST-DIRTY line in the page range, and those lines enter I. (R157) -/
  | revertGo (pages : BitVec 32) (t : Nat)
  /-- In one self-timed wave the matcher pairs input and output slots and every matched pair moves one cell across the crossbar. (R176) -/
  | cellEpoch (ps : Nat) (hits : List ParityHit) (t : Nat)
  /-- The Hearth examines the queued cells and discards every cell older than its AGE_LIMIT, answering its messages under R192. (R190) -/
  | ageSweep (t : Nat)
  /-- Once in each SAMPLE_NS, Bellows samples the depth and delay of every egress class queue into its telemetry registers and histogram. (R212) -/
  | telemetrySample (t : Nat)
  /-- A write of TEL_CLR clears the highest sampled values and the delay histogram of the port. (R221) -/
  | telClr (port : Port) (t : Nat)
  /-- The ring command submits a heat record, which is admitted or refused as a whole. (R258) -/
  | heatSubmit (c : RingCmd) (t : Nat)
  /-- An admitted heat whose tiles, counters and dependency are all free takes them at once and starts. (R260) -/
  | heatStart (h : HeatKey) (t : Nat)
  /-- A heat whose operators have finished and whose writes are acknowledged writes its status words, releases its resources and posts its completion. (R262) -/
  | heatComplete (h : HeatKey) (t : Nat)
  /-- A heat not complete at WATCHDOG_MS after its start is ended, with POISON and REASON WATCHDOG for its unfinished descriptors. (R263) -/
  | watchdogExpiry (h : HeatKey) (t : Nat)
  /-- A descriptor whose wait is not satisfied within WAIT_TIMEOUT_US ends with POISON and REASON WAIT_TIMEOUT. (R269) -/
  | waitTimeout (tile : Tile) (t : Nat)
  /-- At heat start plus DEADLINE, every page not yet landed is missed and treated under the descriptor's MISS policy. (R277) -/
  | deadline (tile : Tile) (t : Nat)
  /-- A NOP descriptor performs only its wait, acquire and release, and writes its status word. (R267) -/
  | opNop (tile : Tile) (par : Upset) (t : Nat)
  /-- A FILL step writes 4 KiB of the destination with the repeated 8-byte pattern. (R285) -/
  | fill (tile : Tile) (par : Upset) (t : Nat)
  /-- A COPY step moves 4 KiB of destination rows between spaces, converting formats when CONVERT is set. (R286) -/
  | copy (tile : Tile) (par : Upset) (t : Nat)
  /-- A COMPARE step compares 4 KiB of each operand and records equality and the offset of the first difference. (R287) -/
  | compare (tile : Tile) (par : Upset) (t : Nat)
  /-- Once all contributions to a slice have landed, the tile places them exactly, rounds the slice and sends the results. (R298) -/
  | reduce (tile : Tile) (par : Upset) (t : Nat)
  /-- A GATHER step lands one page read through the Tongs page table into its scratchpad slot. (R288) -/
  | gather (tile : Tile) (par : Upset) (t : Nat)
  /-- A SCATTER step writes 4 KiB of source to its destination or through a page table. (R289) -/
  | scatter (tile : Tile) (par : Upset) (t : Nat)
  /-- A FILTER step tests every record of one page against the predicate terms and passes or writes the matching ones. (R290) -/
  | filter (tile : Tile) (par : Upset) (t : Nat)
  /-- A TOPK step scores the records of one page against the queries and keeps the K best for each query. (R292) -/
  | topk (tile : Tile) (par : Upset) (t : Nat)
  /-- An ATTEND step scores the live tokens of one KV page against G query heads and updates their softmax states, sending the states after an entry's last page. (R326) -/
  | attend (tile : Tile) (par : Upset) (t : Nat)
  /-- A COMBINE step merges the partial softmax states or sums of one head exactly and writes the result. (R304) -/
  | combine (tile : Tile) (par : Upset) (t : Nat)
  /-- A RESHARD step copies the KV rows of one source page into the other layout. (R306) -/
  | reshard (tile : Tile) (par : Upset) (t : Nat)
  /-- A PACK step compresses 4 KiB of source into the stream, ending with REASON LIMIT past DST_LIMIT. (R308) -/
  | pack (tile : Tile) (par : Upset) (t : Nat)
  /-- An UNPACK step expands the compressed stream into 4 KiB of destination, ending with REASON MALFORMED if it cannot be decoded. (R308) -/
  | unpack (tile : Tile) (par : Upset) (t : Nat)
  /-- The scheduler freezes a descriptor, copies its state if FOLLOW is set, repoints the logical tile and resumes under the next placement generation. (R71) -/
  | migration (tile : Tile) (readable : Bool) (t : Nat)
  /-- The tier manager takes a candidate and promotes it into a free frame or one freed by demotion, or drops it. (R346) -/
  | tierPromotion (t : Nat)
  /-- Every DECAY_MS the tier manager halves every access counter. (R345) -/
  | counterDecay (t : Nat)
  /-- A line dirty in a TIER frame for CLEAN_MS is written back to its tray. (R348) -/
  | cleanWriteback (line : Nat) (t : Nat)
  /-- A write of TIER_CTL.FLUSH writes back every line then dirty, with FLUSH_BUSY set until done. (R350) -/
  | flush (t : Nat)
  /-- The tier manager builds or rebuilds an MXFP4 shadow page once the page has been quiet for SHADOW_QUIET_US. (R355) -/
  | shadowBuild (ppa : Nat) (t : Nat)
  /-- A write of WPUSH_GO starts a weight push from device memory to every member of a multicast group. (R358) -/
  | wpushGo (t : Nat)
  /-- The re-encryption sweep rewrites one line still under the previous generation under the current key. (R373) -/
  | keySweepLine (dom : Dom) (t : Nat)
  /-- An uplink frame is checked in order and discarded, parked for a context miss or passed to sequencing. (R384) -/
  | grtFrameReceive (port : Port) (frame : List Byte) (bad : Bool) (t : Nat)
  /-- A received PFC pause holds the named priority's queue toward the uplink for its quanta. (R408) -/
  | pfcFrame (port : Port) (frame : List Byte) (t : Nat)
  /-- When the quanta of a received pause run out, the priority's queue is no longer held. (R408) -/
  | pfcPauseExpiry (port : Port) (prio : Fin 8) (t : Nat)
  /-- An accepted WRITE packet is checked if FIRST and written into the registration's domain through the homes. (R400) -/
  | grtWrite (ctx : Ctx) (t : Nat)
  /-- An accepted READ_REQ is served after earlier packets commit, and the responder answers with READ_RESP packets. (R403) -/
  | readReq (ctx : Ctx) (t : Nat)
  /-- An accepted READ_RESP payload is written into its local destination, or discarded if no read is outstanding. (R403) -/
  | readResp (ctx : Ctx) (t : Nat)
  /-- A GRT ACK advances UNA, frees retransmit storage and clears the retry count. (R398) -/
  | grtAck (ctx : Ctx) (t : Nat)
  /-- A GRT NAK makes the sender resend, wait out an RNR, or fail the message by its kind. (R398) -/
  | grtNak (ctx : Ctx) (t : Nat)
  /-- The GRT engine forms and sends the next sequenced packet of a cached context within its window. (R396) -/
  | grtPacketSend (ctx : Ctx) (t : Nat)
  /-- A fetched context is installed and its parked packets are checked and sequenced in arrival order. (R393) -/
  | contextFetchDone (ctx : Ctx) (t : Nat)
  /-- A host context fetch not complete within HOST_FETCH_LIMIT_US fails, and the context enters ERROR. (R393) -/
  | hostFetchLimit (ctx : Ctx) (t : Nat)
  /-- When UNA is unacknowledged for RTO_US, the sender resends from UNA, or enters ERROR past RETRY_LIMIT. (R399) -/
  | rtoExpiry (ctx : Ctx) (t : Nat)
  /-- After 10 µs without EPSN following a SEQ NAK, the receiver sends the NAK again. (R397) -/
  | seqNakResend (ctx : Ctx) (t : Nat)
  /-- Within ACK_DELAY_NS of committing a packet, the receiver sends an ACK with PSN = CPSN. (R398) -/
  | ackDelayExpiry (ctx : Ctx) (t : Nat)
  /-- At the end of an RNR wait the sender resends from the wait's PSN. (R398) -/
  | rnrWaitExpiry (ctx : Ctx) (t : Nat)
  /-- A DRAINING context is freed after RTO_US × RETRY_LIMIT, and its remaining operations complete with POISON. (R399) -/
  | ctxDrainTimeout (ctx : Ctx) (t : Nat)
  /-- Every 10 µs the uplink sends XOFF again while its cell count stays above XON_CELLS, and sends XON once it falls below. (R408) -/
  | xoffRefresh (port : Port) (t : Nat)
  /-- A priority paused for PFC_WD_MS posts PFC_STORM and, with PFC_WD_DROP set, discards its frames. (R409) -/
  | pfcWatchdog (port : Port) (prio : Fin 8) (t : Nat)
  /-- An uplink's PCS aligns, it reads ACTIVE, and UPLINK_UP is posted. (R381) -/
  | uplinkUp (port : Port) (t : Nat)
  /-- An uplink's PCS loses alignment, it reads DOWN, and UPLINK_DOWN is posted. (R381) -/
  | uplinkDown (port : Port) (t : Nat)
  /-- A write of COMP_CTL.COMMIT makes PF0's staged changes live under the next epoch, or is refused. (R428) -/
  | compCommit (t : Nat)
  /-- A write of COMP_CTL.DISCARD discards PF0's staged changes. (R444) -/
  | compDiscard (t : Nat)
  /-- A write of RT_GO.WRITE stages RT_DATA as PF0's change to entry INDEX. (R444) -/
  | rtGoWrite (t : Nat)
  /-- A write of RT_GO.READ loads live entry INDEX into RT_DATA. (R444) -/
  | rtGoRead (t : Nat)
  /-- EXT_CMD ASSIGN moves a FREE extent to ASSIGNED with the given owner, or is refused. (R426) -/
  | extAssign (ext : Ext) (dom : Dom) (t : Nat)
  /-- EXT_CMD REVOKE fences an ASSIGNED extent, ends its parked requests with REVOKED and recalls its lines. (R432) -/
  | extRevoke (ext : Ext) (erase : Bool) (t : Nat)
  /-- At TRANS_LIMIT_US after a commit, every request still stamped with the old epoch completes with STALE-EPOCH. (R429) -/
  | transitionLimit (t : Nat)
  /-- A fenced extent whose in-flight count is zero and whose recall is done enters QUENCHING, and its traces are removed. (R432) -/
  | extentDrainDone (ext : Ext) (t : Nat)
  /-- Quench writes one zero line of an extent through its recorded or fill sets under the Quench shaper. (R436) -/
  | quenchZeroFill (ext : Ext) (t : Nat)
  /-- When a lease's LEFT_MS reaches 0, HELD clears and the expiry counts in LEASES_EXPIRED. (R440) -/
  | leaseExpiry (entry : Fin 16384) (t : Nat)
  /-- A write of WIN_w changes a device memory window, or is ignored while the domain has an admitted heat or when windows would overlap. (R424) -/
  | winWrite (w : Fin 8192) (v : Word) (t : Nat)
  /-- No HEARTBEAT within HB_TIMEOUT_US on an ACTIVE port makes the detector declare the port dead. (R463) -/
  | heartbeatTimeout (port : Port) (t : Nat)
  /-- A write of FENCE_CTL.FENCE declares the named port dead. (R463) -/
  | fenceCtlFence (port : Port) (t : Nat)
  /-- A write of FENCE_CTL.ADMIT raises FENCE_EPOCH and sends MGT ADMIT to a FENCED port. (R465) -/
  | fenceCtlAdmit (port : Port) (t : Nat)
  /-- A write of PART_CTL.FENCE declares every port of a partition dead, optionally holding its lanes in electrical idle. (R467) -/
  | partCtlFence (part : Fin 16) (electrical : Bool) (t : Nat)
  /-- A write of PART_CTL.RELEASE ends the electrical hold of a fenced partition. (R467) -/
  | partCtlRelease (part : Fin 16) (t : Nat)
  /-- A write of MIRROR_MARK.GO makes a mirrored region DEGRADED with every page marked, reading from the named survivor. (R462) -/
  | mirrorMark (index : Nat) (survivor : Fin 2) (t : Nat)
  /-- The resync copies one marked line from the surviving copy to the returning or new port under the Quench budget. (R460) -/
  | resyncCopy (index : Nat) (t : Nat)
  /-- Each 1 ms interval in which a lane's corrected symbols exceed LANE_SER_16 × 16 counts as a LANE event. (R451) -/
  | laneSerInterval (port : Port) (lane : Fin 18) (symbols : Nat) (t : Nat)
  /-- An emptied faulty Hearth bank is replaced by a spare bank and the shared region regains its cells. (R454) -/
  | bankDrainDone (bank : Fin 128) (t : Nat)
  /-- The NOP ring command completes at once. (R491) -/
  | nop (c : RingCmd) (t : Nat)
  /-- The RT_STAGE ring command stages a range-table entry for the issuing function. (R491) -/
  | rtStage (c : RingCmd) (t : Nat)
  /-- The COMMIT ring command makes the function's staged changes live under a new epoch, waiting while an old epoch is live. (R428) -/
  | commit (c : RingCmd) (t : Nat)
  /-- The DISCARD ring command discards the function's staged changes. (R491) -/
  | discard (c : RingCmd) (t : Nat)
  /-- The POOL_SET ring command stages a pool's members and domain. (R491) -/
  | poolSet (c : RingCmd) (t : Nat)
  /-- The LEASE_CLAIM ring command decides a claim on an ownership entry by epoch and pool. (R440) -/
  | leaseClaim (c : RingCmd) (t : Nat)
  /-- The LEASE_RELEASE ring command clears HELD when issued by the holding pool at the held epoch, or is denied. (R440) -/
  | leaseRelease (c : RingCmd) (t : Nat)
  /-- The REG_CREATE ring command registers a DPA range for GRT and returns a handle and its REG_EPOCH. (R404) -/
  | regCreate (c : RingCmd) (t : Nat)
  /-- The REG_REVOKE ring command raises the registration's epoch and makes it REVOKING. (R406) -/
  | regRevoke (c : RingCmd) (t : Nat)
  /-- The CTX_ALLOC ring command reserves a FREE GRT context for a domain. (R491) -/
  | ctxAlloc (c : RingCmd) (t : Nat)
  /-- The CTX_CREATE ring command installs a context record, which becomes READY or is refused. (R391) -/
  | ctxCreate (c : RingCmd) (t : Nat)
  /-- The CTX_MODIFY ring command changes a context record and keeps its PSNs. (R491) -/
  | ctxModify (c : RingCmd) (t : Nat)
  /-- The CTX_DESTROY ring command moves a context to DRAINING until nothing is outstanding or the drain time ends. (R399) -/
  | ctxDestroy (c : RingCmd) (t : Nat)
  /-- The SHADOW_ADD ring command registers a shadow span. (R354) -/
  | shadowAdd (c : RingCmd) (t : Nat)
  /-- The SHADOW_DEL ring command removes a shadow span. (R491) -/
  | shadowDel (c : RingCmd) (t : Nat)
  /-- The KEY_LOAD ring command unwraps a key record and applies it as a first load, a rotation or a PREV restore, or refuses it. (R538) -/
  | keyLoad (c : RingCmd) (t : Nat)
  /-- The WPUSH ring command pushes bytes from the domain's windows to its ports in a multicast group. (R358) -/
  | wpush (c : RingCmd) (t : Nat)
  /-- The REVERT ring command accepts the pool copy of LOST-DIRTY lines in the domain's DPA range. (R157) -/
  | revert (c : RingCmd) (t : Nat)
  /-- The ADMIT ring command starts the admission of a fenced port. (R465) -/
  | admitCmd (c : RingCmd) (t : Nat)
  /-- The FENCE ring command declares a port dead and returns its FENCE_EPOCH. (R464) -/
  | fence (c : RingCmd) (t : Nat)
  /-- The EXTENT ring command issues an ASSIGN or REVOKE of an extent. (R491) -/
  | extent (c : RingCmd) (t : Nat)
  /-- The WINDOW ring command changes a device memory window, or is refused under R424. (R424) -/
  | window (c : RingCmd) (t : Nat)
  /-- The HOST_BACKING ring command records the host backing region for GRT contexts. (R491) -/
  | hostBacking (c : RingCmd) (t : Nat)
  /-- The ATTEST ring command captures a signed attestation report describing one live epoch. (R535) -/
  | attest (c : RingCmd) (t : Nat)
  /-- The CORE_RESTART ring command restarts one control core from its verified image. (R501) -/
  | coreRestart (c : RingCmd) (t : Nat)
  /-- A write of CMD_DB_r sets the command ring's producer index, or is ignored with DB_ERR set. (R485) -/
  | cmdDb (fn : Dom) (ring : Fin 16) (pi : BitVec 16) (t : Nat)
  /-- A write of CPL_DB_r releases completion slots consumed by the host. (R485) -/
  | cplDb (fn : Dom) (ring : Fin 16) (ci : BitVec 16) (t : Nat)
  /-- A write of EVT_DB releases event ring slots consumed by the host. (R489) -/
  | evtDb (fn : Dom) (ci : BitVec 16) (t : Nat)
  /-- A write of RING_CFG0 configures the selected ring, and setting EN zeroes it and begins a new heat stream. (R484) -/
  | ringCfg0Write (fn : Dom) (v : Word) (t : Nat)
  /-- The T9 fetches a command once it can reserve a completion slot and starts it in ring order. (R485) -/
  | commandFetch (fn : Dom) (ring : Fin 16) (t : Nat)
  /-- IRQ_US after the oldest unsignalled entry, the ring signals its MSI-X vector. (R496) -/
  | irqUsExpiry (fn : Dom) (kind : Fin 4) (ring : Fin 16) (t : Nat)
  /-- A Function Level Reset ends the function's heats, drops its commands and disables and zeroes its rings. (R481) -/
  | functionLevelReset (fn : Dom) (t : Nat)
  /-- A BAR2 access reaches the function's ring region or device memory aperture, or is refused. (R479) -/
  | bar2Access (fn : Dom) (addr : Nat) (len : Nat) (write : Option (List Byte)) (t : Nat)
  /-- A PCIe read completion, or its timeout, completes or fails a HOST read of the host controller. (R477) -/
  | hostReadCompletion (tag : Nat) (answer : Option (List Byte)) (t : Nat)
  /-- A write of FW_GO starts copying the firmware bundle from host memory into the firmware store. (R498) -/
  | fwGo (t : Nat)
  /-- The bundle copy ends and the boot ROM begins verifying it. (R498) -/
  | fwCopyDone (t : Nat)
  /-- A verified bundle is copied into the cores and started, setting GSTAT.RUNNING, or FW_STAT reads FAILED. (R499) -/
  | fwVerifyDone (t : Nat)
  /-- A write of CORE_CTL.RESTART restarts the named control core. (R501) -/
  | coreCtlRestart (core : Fin 16) (t : Nat)
  /-- A core whose watchdog has not been fed for WD_MS restarts alone. (R501) -/
  | coreWatchdog (core : Fin 16) (parity : Bool) (t : Nat)
  /-- A restarted core resumes from its journal and CORE_RESTARTED is posted. (R502) -/
  | coreRestartDone (core : Fin 16) (t : Nat)
  /-- A write of TEL_SNAP.HOLD freezes or releases the read value of every 48-bit counter. (R508) -/
  | telSnap (hold : Bool) (t : Nat)
  /-- A BAR0 write to a register with no row of its own sets its RW fields or clears RW1C bits, and an invalid access does nothing. (R15) -/
  | registerWrite (fn : Dom) (addr : Nat) (bytes : Nat) (v : Word) (t : Nat)
  /-- VIN at or above 40.0 V for 1 ms brings the rails up, samples the straps and starts a power-on reset. (R554) -/
  | powerOn (mv : Nat) (straps : Nat) (t : Nat)
  /-- VIN below 38.5 V for 10 µs removes every rail at once. (R554) -/
  | powerDown (mv : Nat) (t : Nat)
  /-- RESET_N held low resets the part with cause 1. (R509) -/
  | resetN (t : Nat)
  /-- PERST_N held low resets the part with cause 2. (R509) -/
  | perstN (t : Nat)
  /-- A write of 0x0A09 to DEV_RESET.CODE resets the part with cause 3. (R509) -/
  | devReset (code : BitVec 16) (t : Nat)
  /-- The reset wipe of scratchpads, Hearth, stores, key store and forge cache completes. (R511) -/
  | wipeDone (t : Nat)
  /-- The verified configuration image is applied, WIPE_ACTIVE falls and FW_GO is accepted, or the part enters HALT_IMAGE. (R512) -/
  | imageApplied (unread : List (Fin 2)) (t : Nat)
  /-- Core 15 tests each store engine, holds failing ports in DOWN and sets SVC_MODE to SERVICE. (R514) -/
  | storeEngineTest (failing : List Port) (t : Nat)
  /-- A tamper sensor alarm latches and acts by its policy: LOG, FENCE or ERASE. (R540) -/
  | tamperAlarm (src : Fin 4) (t : Nat)
  /-- An ERASE source that has read inactive for 100 ms lets the held reset proceed. (R541) -/
  | eraseHoldRelease (src : Fin 4) (t : Nat)
  /-- An RW1C write clears a tamper latch whose source no longer reads active. (R540) -/
  | tamperStatClear (bits active : BitVec 4) (t : Nat)
  /-- A write of LC_CTL.GO performs a permitted lifecycle transition by burning fuses and resetting, or refuses it. (R530) -/
  | lcCtlGo (target : BitVec 3) (t : Nat)
  /-- A write of DBG_CTL.UNLOCK with a valid token opens debug in PROVISIONED and zeroizes the loaded keys. (R532) -/
  | dbgCtlUnlock (t : Nat)
  /-- A write of DBG_CTL.LOCK closes debug and resumes halted cores. (R532) -/
  | dbgCtlLock (t : Nat)
  /-- A write of FUSE_PROG.GO starts burning a fuse field from FUSE_DATA, or is refused. (R528) -/
  | fuseProgGo (field : Fin 8) (t : Nat)
  /-- A fuse burn completes and FUSE_STAT.BUSY clears. (R528) -/
  | fuseBurnDone (t : Nat)
  /-- A write of SVN_RAISE burns SVN_FLOOR up to FLOOR, or is refused. (R529) -/
  | svnRaise (floor : BitVec 7) (t : Nat)
  /-- The I3C STATUS command returns the global, power, thermal, strap, lifecycle and reset-cause images. (R551) -/
  | status (we : Bool) (t : Nat)
  /-- The I3C TEMP_ALL command returns all 64 sensor readings. (R551) -/
  | tempAll (t : Nat)
  /-- The I3C FLASH_READ command returns up to 256 flash bytes while RESET_N is low. (R551) -/
  | flashRead (addr : Nat) (len : Nat) (t : Nat)
  /-- The I3C FLASH_ERASE command starts erasing a 64 KiB sector when write-enabled. (R553) -/
  | flashErase (addr : Nat) (we : Bool) (t : Nat)
  /-- The I3C FLASH_PROGRAM command starts programming 256 flash bytes when write-enabled. (R553) -/
  | flashProgram (addr : Nat) (bytes : List Byte) (we : Bool) (t : Nat)
  /-- The I3C FLASH_STATUS command returns the flash bridge status. (R551) -/
  | flashStatus (t : Nat)
  /-- A flash erase or program completes and the bridge is no longer busy. (R551) -/
  | flashOpDone (t : Nat)
  /-- The I3C TRACE_READ command drains up to 16 queued trace records. (R552) -/
  | traceRead (n : Nat) (t : Nat)
  /-- The DBG_STATUS debug command returns the LC_STAT image and the halted cores. (R533) -/
  | dbgStatus (t : Nat)
  /-- The DBG_HALT debug command halts a control core. (R533) -/
  | dbgHalt (core : Fin 16) (t : Nat)
  /-- The DBG_RESUME debug command continues a halted core where it halted. (R533) -/
  | dbgResume (core : Fin 16) (t : Nat)
  /-- The DBG_MEM_READ debug command reads bytes of a core's SRAM. (R533) -/
  | dbgMemRead (core : Fin 16) (addr len : Nat) (t : Nat)
  /-- The DBG_MEM_WRITE debug command writes bytes of a core's SRAM. (R533) -/
  | dbgMemWrite (core : Fin 16) (addr : Nat) (bytes : List Byte) (t : Nat)
  /-- The DBG_REG_READ debug command reads an 8-byte BAR0 register. (R533) -/
  | dbgRegRead (addr : Nat) (t : Nat)
  /-- The DBG_REG_WRITE debug command writes an 8-byte BAR0 register as PF0 would. (R533) -/
  | dbgRegWrite (addr : Nat) (v : Word) (t : Nat)
  /-- The DBG_CORE_REGS debug command returns a halted core's registers and program counter. (R533) -/
  | dbgCoreRegs (core : Fin 16) (t : Nat)
  /-- The I3C ENTDAA procedure assigns the interface a dynamic address. (R550) -/
  | entdaa (addr : BitVec 7) (t : Nat)
  /-- The I3C SETDASA command assigns a dynamic address from the static address. (R550) -/
  | setdasa (addr : BitVec 7) (t : Nat)
  /-- Every 10 µs the input power is measured, and the limiter engages or releases by its rules. (R557) -/
  | powerSample (mv ma : Nat) (t : Nat)
  /-- Every 10 µs the hottest sensor is reported, and the warning and trip states are updated. (R560) -/
  | thermalSample (temps : List Nat) (t : Nat)
  /-- A write of PWR_CTL.VCORE_MV ramps both core rails toward the new setting at 1 mV per µs. (R556) -/
  | vcoreMvWrite (mv : BitVec 12) (t : Nat)
  /-- An ACTIVE Glois port loses its partner's signal or its FEC and flit alignment and falls to DOWN, which declares the port dead once a HELLO has been accepted. (R463) -/
  | partnerSignalLoss (port : Port) (t : Nat)
  /-- With the rails up, RESET_N and PERST_N both return high, or an internal reset ends, releasing the reset and starting the start sequence and its wipe. (R512) -/
  | resetRelease (t : Nat)
  /-- A PCIe configuration request reaches a function and is answered with Request Retry Status until step 5 of the start sequence, then served as configuration space. (R513) -/
  | configurationRequest (fn : Dom) (field : CfgField) (write : Option Nat) (t : Nat)
  /-- The copy and repointing of a migrating descriptor complete, and the descriptor resumes at its new placement, releasing the frames held since the freeze. (R71) -/
  | migrationDone (tile : Tile) (t : Nat)
  deriving DecidableEq, Repr

end Sys2Proof
end

