-- ==== Sys2Proof/Config.lean ====
section
/-! DEFINITION. What the spec leaves open or takes from another standard without stating it: constants with no body, so that no
proof can see a value of theirs. -/
namespace Sys2Proof

/-- A free value of `w` bits, fresh for every value of the counter (assumption log 3). -/
opaque Config.freeBits (w : Nat) : Nat → BitVec w

/-- FIPS 205 SLH-DSA-SHA2-128s verification in pure mode: public key, message, context, signature (R520; log 4). -/
opaque Config.slhVerify : List Byte → List Byte → List Byte → List Byte → Bool

/-- FIPS 205 SLH-DSA-SHA2-128s deterministic signature (R534, R535; log 4): the 48 seed bytes, message, context. -/
opaque Config.slhSign : List Byte → List Byte → List Byte → List Byte

/-- FIPS 205 SLH-DSA-SHA2-128s public key that follows from the 48 seed bytes (R534; log 4). -/
opaque Config.slhPublic : List Byte → List Byte

/-- The vendor manufacturing hash held in the boot ROM (R521): the spec names it and gives no value (log 5). -/
opaque Config.mfgRootHash : BitVec 256

/-- The traffic class of what the T9's own engines send and ask, where the spec gives none (assumption log 14): 0 snoops, 1 MGT,
2 operators' line accesses, 3 operators' results, 4 weight pushes, 5 recalls, 6 answers at the transition limit. -/
opaque Config.engineTc : Nat → BitVec 3

/-- ENDPOINT_ID of the T9's HELLO, which the spec does not give (R123; log 13). -/
opaque Config.endpointId : BitVec 64

/-- The table codes of the UNCORRECTABLE event (R449, R473; log 15), by the model's number of the table:
0 directory, 1 range table, 2 stripe sets, 3 tier map, 4 ownership, 5 registrations, 6 extent states, 7 port bindings, 8 pools, and 9 to
12 the tables 1, 2, 7 and 8 of the old bank. -/
opaque Config.areaCode : Nat → BitVec 8

/-- The core that FW_FAILED names when the failure is of no one core's image (R494, R498; log 19). -/
opaque Config.bundleCore : BitVec 4

/-- What the firmware of a core logs at one of its doings, by the counter of the free values (R503; log 167): LEVEL, CODE, arguments. -/
opaque Config.logLines : Nat → Nat → List (BitVec 2 × BitVec 16 × BitVec 384)

/-- The trace points that the firmware of a core passes at one of its doings (R504; log 167): the point and its ARG. -/
opaque Config.tracePoints : Nat → Nat → List (BitVec 8 × BitVec 64)

/-- The bytes that fill the last 16-byte chunk of an OPS_RESULT behind its data, which the spec does not give (log 18). -/
opaque Config.padByte : Nat → Byte

/-- The bits of the IDLE data on an unused assigned spare, by time, port, spare and place in the stream (R126; log 176). -/
opaque Config.spareIdle : Nat → Nat → Nat → Nat → Bool

/-- The place of a line's entry in the directory backing, by line, which the spec does not give (R131, R450; log 183). -/
opaque Config.dirPlace : Nat → BitVec 32

end Sys2Proof
end

