-- ==== Sys2Proof/Machine/Bits.lean ====
section
/-! DEFINITION. Bit fields (R11), little-endian byte order (R12), sparse tables in one canonical form, and the small list
helpers the model shares. -/
namespace Sys2Proof.Machine

/-- The field of `w` bits that begins at bit `lo` of `x`, bit 0 being the least significant (R11). -/
def fieldOf (x lo w : Nat) : Nat := x / 2 ^ lo % 2 ^ w

/-- `x` with its field `[lo + w - 1 : lo]` replaced by `v` (R11). -/
def fieldPut (x lo w v : Nat) : Nat :=
  x / 2 ^ (lo + w) * 2 ^ (lo + w) + v % 2 ^ w * 2 ^ lo + x % 2 ^ lo

/-- Bit `i` of `x` as a truth value. -/
def bitOf (x i : Nat) : Bool := x / 2 ^ i % 2 == 1

/-- The number a little-endian byte list spells (R12). -/
def bytesNat : List Byte → Nat
  | [] => 0
  | b :: bs => b.toNat + 256 * bytesNat bs

/-- The `n` little-endian bytes of a number (R12). -/
def natBytes : Nat → Nat → List Byte
  | 0, _ => []
  | n + 1, v => BitVec.ofNat 8 v :: natBytes n (v / 256)

/-- The number in bytes `off .. off + n - 1` of a structure (R12). -/
def fieldBytes (bs : List Byte) (off n : Nat) : Nat := bytesNat ((bs.drop off).take n)

/-- A byte list cut or padded with zero bytes to exactly `n` bytes. -/
def padBytes : Nat → List Byte → List Byte
  | 0, _ => []
  | n + 1, [] => 0#8 :: padBytes n []
  | n + 1, b :: bs => b :: padBytes n bs

/-- A two's-complement reading of the low `w` bits of `v`. -/
def signedOf (w v : Nat) : Int :=
  let x := v % 2 ^ w
  if x < 2 ^ (w - 1) then (x : Int) else (x : Int) - (2 ^ w : Nat)

/-- The low `w` bits of an integer, two's complement. -/
def unsignedOf (w : Nat) (i : Int) : Nat := (i % ((2 ^ w : Nat) : Int)).toNat

/-- The 16 bytes of a chunk, byte 0 first (R12). -/
def chunkBytes (c : Chunk) : List Byte := natBytes 16 c.toNat

/-- The bytes of a list of chunks in chunk order. -/
def chunksBytes (cs : List Chunk) : List Byte := cs.flatMap chunkBytes

/-- `n` chunks cut from a byte list, padded with zeros. -/
def bytesChunks : Nat → List Byte → List Chunk
  | 0, _ => []
  | n + 1, bs => BitVec.ofNat 128 (bytesNat (bs.take 16)) :: bytesChunks n (bs.drop 16)

/-- `⌈a / b⌉`. -/
def ceilDiv (a b : Nat) : Nat := (a + b - 1) / b

/-- A value cut to the range a register states: outside values act as the nearest bound. -/
def clampTo (lo hi v : Nat) : Nat := max lo (min hi v)

/-- The entry of a sparse table at key `k`, if it is listed. -/
def Tab.find? {α : Type} : List (Nat × α) → Nat → Option α
  | [], _ => none
  | (i, v) :: t, k => if i = k then some v else if k < i then none else Tab.find? t k

/-- What a sparse table holds at key `k`: an unlisted key holds `dflt`. -/
def Tab.get {α : Type} (dflt : α) (t : List (Nat × α)) (k : Nat) : α := (Tab.find? t k).getD dflt

/-- A sparse table with key `k` no longer listed. -/
def Tab.del {α : Type} : List (Nat × α) → Nat → List (Nat × α)
  | [], _ => []
  | (i, v) :: t, k => if i = k then t else if k < i then (i, v) :: t else (i, v) :: Tab.del t k

/-- A sparse table with `v` listed at key `k`, keys kept rising. -/
def Tab.ins {α : Type} : List (Nat × α) → Nat → α → List (Nat × α)
  | [], k, v => [(k, v)]
  | (i, u) :: t, k, v =>
    if i = k then (k, v) :: t else if k < i then (k, v) :: (i, u) :: t else (i, u) :: Tab.ins t k v

/-- Write `v` at key `k`: writing what an unlisted key holds removes the entry, so that equal tables are equal data. -/
def Tab.put {α : Type} [DecidableEq α] (dflt : α) (t : List (Nat × α)) (k : Nat) (v : α) : List (Nat × α) :=
  if v = dflt then Tab.del t k else Tab.ins t k v

/-- All listed keys of a table lie above `k`. -/
def Tab.above {α : Type} (k : Nat) : List (Nat × α) → Bool
  | [] => true
  | (i, _) :: _ => decide (k < i)

/-- The canonical form of a sparse table: keys strictly rise and no entry equals the default. -/
def Tab.wf {α : Type} [DecidableEq α] (dflt : α) : List (Nat × α) → Bool
  | [] => true
  | (k, v) :: t => decide (v ≠ dflt) && Tab.above k t && Tab.wf dflt t

/-- A byte memory that is a sparse table of cells: unlisted addresses read as `dflt`. -/
def Memory.read (dflt : Byte) (m : List (Nat × Byte)) (a : Nat) : Byte := Tab.get dflt m a

/-- `n` bytes of a byte memory from address `a`. -/
def Memory.readN (dflt : Byte) (m : List (Nat × Byte)) : Nat → Nat → List Byte
  | _, 0 => []
  | a, n + 1 => Memory.read dflt m a :: Memory.readN dflt m (a + 1) n

/-- One byte of a memory written. -/
def Memory.write (dflt : Byte) (m : List (Nat × Byte)) (a : Nat) (b : Byte) : List (Nat × Byte) := Tab.put dflt m a b

/-- Bytes written to consecutive addresses from `a`. -/
def Memory.writeN (dflt : Byte) (m : List (Nat × Byte)) (a : Nat) : List Byte → List (Nat × Byte)
  | [] => m
  | b :: bs => Memory.writeN dflt (Memory.write dflt m a b) (a + 1) bs

/-- A memory whose cells in `[a, a + n)` read as `dflt` again. -/
def Memory.clear (m : List (Nat × Byte)) (a n : Nat) : List (Nat × Byte) :=
  m.filter (fun c => decide (c.1 < a) || decide (a + n ≤ c.1))

/-- The canonical form of a byte memory. -/
def Memory.wf (dflt : Byte) (m : List (Nat × Byte)) : Bool := Tab.wf dflt m

/-- The numbers `a, a + 1, …, a + n - 1`. -/
def rangeFrom (a : Nat) : Nat → List Nat
  | 0 => []
  | n + 1 => a :: rangeFrom (a + 1) n

/-- The first element that satisfies `p`, and the list without it. -/
def takeFirst {α : Type} (p : α → Bool) : List α → Option (α × List α)
  | [] => none
  | a :: l => if p a then some (a, l) else (takeFirst p l).map (fun r => (r.1, a :: r.2))

/-- The list without its first element that satisfies `p`. -/
def dropFirst {α : Type} (p : α → Bool) : List α → List α
  | [] => []
  | a :: l => if p a then l else a :: dropFirst p l

/-- A list with `f` applied to its first element that satisfies `p`. -/
def mapFirst {α : Type} (p : α → Bool) (f : α → α) : List α → List α
  | [] => []
  | a :: l => if p a then f a :: l else a :: mapFirst p f l

/-- Put `a` into a list kept rising by `key`, after equal keys. -/
def insertBy {α : Type} (key : α → Nat) (a : α) : List α → List α
  | [] => [a]
  | b :: l => if key a < key b then a :: b :: l else b :: insertBy key a l

/-- A list put into rising order of `key`, equal keys kept in their order. -/
def sortBy {α : Type} (key : α → Nat) (l : List α) : List α := l.foldl (fun acc a => insertBy key a acc) []

/-- The sum of `f` over a list. -/
def sumBy {α : Type} (f : α → Nat) (l : List α) : Nat := l.foldl (fun n a => n + f a) 0

/-- A number added to a list unless it is there. -/
def addOnce {α : Type} [DecidableEq α] (l : List α) (a : α) : List α := if a ∈ l then l else l ++ [a]

end Sys2Proof.Machine
end

