-- ==== Sys2Proof/Machine/Numeric.lean ====
section
/-! DEFINITION. The numerics of the Anvil tiles: formats (R231), MX rows (R232, R234), conversion and rounding (R235 to R238, R568),
exact group sums (R239 to R241), Crucibles (R242 to R248) and NUMFLAGS (R247). Every finite value is exact: an integer times a
power of two. -/
namespace Sys2Proof.Machine

/-- The value a number of any format stands for: NaN, an infinity, a signed zero, or `m × 2^e` with `m` not zero. -/
inductive Num where
  | nan
  | inf (neg : Bool)
  | zero (neg : Bool)
  | fin (m e : Int)
  deriving DecidableEq, Repr

/-- A float or MX element format of R231: widths, bias, largest finite code, the infinity and the canonical NaN code, if any. -/
structure FloatFmt where
  ebits : Nat
  mbits : Nat
  bias : Nat
  maxCode : Nat
  infCode : Option Nat
  nanCode : Option Nat
  deriving DecidableEq, Repr

def fmtFP32 : FloatFmt := ⟨8, 23, 127, 0x7F7FFFFF, some 0x7F800000, some 0x7FC00000⟩
def fmtBF16 : FloatFmt := ⟨8, 7, 127, 0x7F7F, some 0x7F80, some 0x7FC0⟩
def fmtFP16 : FloatFmt := ⟨5, 10, 15, 0x7BFF, some 0x7C00, some 0x7E00⟩
def fmtE5M2 : FloatFmt := ⟨5, 2, 15, 0x7B, some 0x7C, some 0x7F⟩
def fmtE4M3 : FloatFmt := ⟨4, 3, 7, 0x7E, none, some 0x7F⟩
def fmtE3M2 : FloatFmt := ⟨3, 2, 3, 0x1F, none, none⟩
def fmtE2M3 : FloatFmt := ⟨2, 3, 1, 0x1F, none, none⟩
def fmtE2M1 : FloatFmt := ⟨2, 1, 1, 0x7, none, none⟩

/-- The width of a float format in bits. -/
def FloatFmt.width (f : FloatFmt) : Nat := 1 + f.ebits + f.mbits

/-- The format codes of R266 that are floats or MX elements, 0x00 to 0x07. -/
def fmtOf : Nat → FloatFmt
  | 0 => fmtFP32
  | 1 => fmtBF16
  | 2 => fmtFP16
  | 3 => fmtE5M2
  | 4 => fmtE4M3
  | 5 => fmtE3M2
  | 6 => fmtE2M3
  | _ => fmtE2M1

/-- Codes 0x03 to 0x07 are MX formats (R266). -/
def fmtIsMx (c : Nat) : Bool := decide (3 ≤ c) && decide (c ≤ 7)

/-- The width in bits of one element of a format code of R266. -/
def fmtBits (c : Nat) : Nat :=
  if c ≤ 7 then (fmtOf c).width else if c = 8 then 8 else if c = 9 then 8 else if c = 10 then 32 else 8

/-- The value of a float code; subnormals are kept (R231). -/
def decodeFloat (f : FloatFmt) (x : Nat) : Num :=
  let neg := bitOf x (f.ebits + f.mbits)
  let mag := x % 2 ^ (f.ebits + f.mbits)
  if f.maxCode < mag then
    if f.infCode = some mag then .inf neg else .nan
  else if mag = 0 then .zero neg
  else
    let ex := mag / 2 ^ f.mbits
    let mn := mag % 2 ^ f.mbits
    let m : Nat := if ex = 0 then mn else mn + 2 ^ f.mbits
    let e : Int := (max ex 1 : Nat) - (f.bias : Int) - f.mbits
    .fin (if neg then -(m : Int) else m) e

/-- NUMFLAGS bit masks (R247). -/
def nfNanIn : Nat := 1
def nfInfIn : Nat := 2
def nfOvf : Nat := 4
def nfRangeHi : Nat := 8
def nfRangeLo : Nat := 16
def nfSat : Nat := 32
def nfInexact : Nat := 64
def nfInvalid : Nat := 128

/-- `n / 2^sh` rounded to nearest, ties to even (R235). -/
def roundShift (n sh : Nat) : Nat :=
  let q := n / 2 ^ sh
  let r := n % 2 ^ sh
  if sh = 0 then n
  else if 2 ^ (sh - 1) < r then q + 1
  else if r = 2 ^ (sh - 1) then q + q % 2
  else q

/-- The code and flags of `n × 2^e` (`n` not zero) rounded once into a float format (R235, R236). -/
def encodeFin (f : FloatFmt) (neg : Bool) (n : Nat) (e : Int) : Nat × Nat :=
  let top : Int := (Nat.log2 n : Int) + e
  let emin : Int := 1 - (f.bias : Int)
  let ex := max top emin
  let ulp := ex - f.mbits
  let q := if ulp ≤ e then n * 2 ^ (e - ulp).toNat else roundShift n (ulp - e).toNat
  let exact := decide (ulp ≤ e) || decide (n % 2 ^ (ulp - e).toNat = 0)
  let code := (ex - emin).toNat * 2 ^ f.mbits + q
  let sign := if neg then 2 ^ (f.ebits + f.mbits) else 0
  if f.maxCode < code then (sign + f.infCode.getD f.maxCode, nfSat)
  else (sign + code, if exact then 0 else nfInexact)

/-- A value converted to a float or MX element format, with the flags of R236. -/
def encodeFloat (f : FloatFmt) : Num → Nat × Nat
  | .nan => match f.nanCode with
    | some c => (c, 0)
    | none => (0, nfInvalid)
  | .inf neg =>
    let sign := if neg then 2 ^ (f.ebits + f.mbits) else 0
    match f.infCode, f.nanCode with
    | some c, _ => (sign + c, 0)
    | none, some c => (c, nfInvalid)
    | none, none => (sign + f.maxCode, nfSat ||| nfInvalid)
  | .zero neg => (if neg then 2 ^ (f.ebits + f.mbits) else 0, 0)
  | .fin m e => if m = 0 then (0, 0) else encodeFin f (decide (m < 0)) m.natAbs e

/-- A value converted to a two's-complement integer of `w` bits (R236). -/
def encodeInt (w : Nat) : Num → Nat × Nat
  | .nan => (0, nfInvalid)
  | .inf neg => (if neg then 2 ^ (w - 1) else 2 ^ (w - 1) - 1, nfSat ||| nfInvalid)
  | .zero _ => (0, 0)
  | .fin m e =>
    let n := m.natAbs
    let q := if 0 ≤ e then n * 2 ^ e.toNat else roundShift n (-e).toNat
    let exact := decide (0 ≤ e) || decide (n % 2 ^ (-e).toNat = 0)
    let neg := decide (m < 0)
    if (if neg then 2 ^ (w - 1) < q else 2 ^ (w - 1) ≤ q) then (if neg then 2 ^ (w - 1) else 2 ^ (w - 1) - 1, nfSat)
    else ((if neg then 2 ^ w - q else q) % 2 ^ w, if exact then 0 else nfInexact)

/-- Conversion to E8M0 (R568). The nearest power of two, a tie at 1.5 × 2^k going to the even scale byte. -/
def encodeE8M0 : Num → Nat × Nat
  | .nan => (0xFF, 0)
  | .inf _ => (0xFF, nfInvalid)
  | .zero _ => (0xFF, nfInvalid)
  | .fin m e =>
    if m < 0 then (0xFF, nfInvalid)
    else
      let n := m.natAbs
      let k : Int := (Nat.log2 n : Int) + e
      let half := 3 * 2 ^ Nat.log2 n
      let up := if half < 2 * n then true else if half = 2 * n then decide ((k + 127) % 2 ≠ 0) else false
      let r := if up then k + 1 else k
      if 127 < r then (0xFE, nfSat)
      else if k < -127 then (0, nfInexact)
      else ((r + 127).toNat, if n = 2 ^ Nat.log2 n then 0 else nfInexact)

/-- The value of an E8M0 code: `2^(S - 127)`, NaN for 0xFF (R231). -/
def decodeE8M0 (s : Nat) : Num := if s = 0xFF then .nan else .fin 1 ((s : Int) - 127)

/-- A value times `2^k`, exactly. -/
def Num.scale (k : Int) : Num → Num
  | .fin m e => .fin m (e + k)
  | x => x

/-- Element `i` of an MX block with scale byte `s` (R232): in a NaN block every element reads as NaN. -/
def mxValue (f : FloatFmt) (s x : Nat) : Num :=
  if s = 0xFF then .nan else (decodeFloat f x).scale ((s : Int) - 127)

/-- The magnitude order of two finite values `|m| × 2^e`. -/
def magLt (a b : Nat × Int) : Bool :=
  let lo := min a.2 b.2
  decide (a.1 * 2 ^ (a.2 - lo).toNat < b.1 * 2 ^ (b.2 - lo).toNat)

/-- Exact numbers `m × 2^e` summed exactly. -/
def sumExact (l : List (Int × Int)) : Int × Int :=
  l.foldl (fun a b =>
    if b.1 = 0 then a else if a.1 = 0 then b
    else
      let lo := min a.2 b.2
      (a.1 * (2 : Int) ^ (a.2 - lo).toNat + b.1 * (2 : Int) ^ (b.2 - lo).toNat, lo)) (0, 0)

/-- The largest element exponent of an MX format (R237). -/
def mxEmax (c : Nat) : Int := if c = 3 then 15 else if c = 4 then 8 else if c = 5 then 4 else 2

/-- One block of up to 32 values converted to an MX format: scale byte, element codes, flags (R237). -/
def mxBlock (c : Nat) (xs : List Num) : Nat × List Nat × Nat :=
  let anyNan := xs.any (fun x => x == .nan)
  let anyInf := xs.any (fun x => x == .inf true || x == .inf false)
  let fins := xs.filterMap (fun x => match x with | .fin m e => if m = 0 then none else some (m.natAbs, e) | _ => none)
  let f := fmtOf c
  if anyNan || (anyInf && decide (c ≠ 3)) then (0xFF, xs.map (fun _ => 0), if anyInf && decide (c ≠ 3) then nfInvalid else 0)
  else match fins with
    | [] =>
      let els := xs.map (encodeFloat f)
      (0, els.map Prod.fst, 0)
    | h :: t =>
      let amax := t.foldl (fun a b => if magLt a b then b else a) h
      let x : Int := max (-127) (min 127 ((Nat.log2 amax.1 : Int) + amax.2 - mxEmax c))
      let els := xs.map (fun v => encodeFloat f (v.scale (-x)))
      ((x + 127).toNat, els.map Prod.fst, els.foldl (fun n e => n ||| e.2) 0)

/-- The bytes of one row of `n` elements in a format code of R266 (R234, R568). -/
def rowBytes (c n : Nat) : Nat :=
  if fmtIsMx c then ceilDiv (n * fmtBits c) 8 + n / 32 else n * (fmtBits c / 8)

/-- The values of a row of `n` elements stored in format `c` (R232, R234). -/
def readRow (c n : Nat) (bs : List Byte) : List Num :=
  let v := bytesNat (bs.take (ceilDiv (n * fmtBits c) 8))
  let base := ceilDiv (n * fmtBits c) 8
  (List.range n).map (fun i =>
    let x := fieldOf v (i * fmtBits c) (fmtBits c)
    if fmtIsMx c then mxValue (fmtOf c) (fieldBytes bs (base + i / 32) 1) x
    else if c ≤ 2 then decodeFloat (fmtOf c) x
    else if c = 8 then decodeE8M0 x
    else
      let s := signedOf (fmtBits c) x
      if s = 0 then .zero false else .fin s 0)

/-- Pack element codes of `w` bits as a bit stream, element 0 lowest (R234). -/
def packCodes (w : Nat) (cs : List Nat) : Nat := cs.foldr (fun c acc => c % 2 ^ w + 2 ^ w * acc) 0

/-- A row of values written in format `c`, with the flags raised (R234, R236, R237, R568). -/
def writeRow (c : Nat) (xs : List Num) : List Byte × Nat :=
  if fmtIsMx c then
    let blocks := (pieces32 (xs.length / 32 + 1) xs).map (mxBlock c)
    let codes := blocks.flatMap (fun b => b.2.1)
    (natBytes (ceilDiv (xs.length * fmtBits c) 8) (packCodes (fmtBits c) codes) ++ blocks.map (fun b => BitVec.ofNat 8 b.1),
      blocks.foldl (fun n b => n ||| b.2.2) 0)
  else
    let es := xs.map (fun x =>
      if c ≤ 2 then encodeFloat (fmtOf c) x else if c = 8 then encodeE8M0 x else encodeInt (fmtBits c) x)
    (es.flatMap (fun e => natBytes (fmtBits c / 8) e.1), es.foldl (fun n e => n ||| e.2) 0)
where
  /-- The list in pieces of 32, empty pieces left out. -/
  pieces32 : Nat → List Num → List (List Num)
    | 0, _ => []
    | n + 1, l => if l.isEmpty then [] else l.take 32 :: pieces32 n (l.drop 32)

/-- The flags that reading these values raises: NAN_IN and INF_IN (R247). -/
def readFlags (xs : List Num) : Nat :=
  (if xs.any (fun x => x == .nan) then nfNanIn else 0) |||
    (if xs.any (fun x => x == .inf true || x == .inf false) then nfInfIn else 0)

/-- An FP32 value: the code of R231. -/
abbrev F32 := Nat

/-- The value of an FP32 code. -/
def f32Num (x : F32) : Num := decodeFloat fmtFP32 x

/-- Rounding into FP32, with flags. -/
def toF32 (x : Num) : F32 × Nat := encodeFloat fmtFP32 x

/-- The canonical FP32 NaN (R233). -/
def f32Nan : F32 := 0x7FC00000

/-- FP32 minus infinity. -/
def f32NegInf : F32 := 0xFF800000

/-- The sign of a value. -/
def Num.isNeg : Num → Bool
  | .nan => false
  | .inf n => n
  | .zero n => n
  | .fin m _ => decide (m < 0)

/-- The product of two values, exact; infinity times zero is NaN (R241). -/
def Num.mul : Num → Num → Num
  | .nan, _ => .nan
  | _, .nan => .nan
  | .inf a, .zero _ => let _ := a; .nan
  | .zero _, .inf _ => .nan
  | .inf a, y => .inf (a != y.isNeg)
  | x, .inf b => .inf (x.isNeg != b)
  | .zero a, y => .zero (a != y.isNeg)
  | x, .zero b => .zero (x.isNeg != b)
  | .fin a e, .fin b f => .fin (a * b) (e + f)

/-- A value negated. -/
def Num.neg : Num → Num
  | .nan => .nan
  | .inf a => .inf (!a)
  | .zero a => .zero (!a)
  | .fin m e => .fin (-m) e

/-- The exact sum of values. Opposite infinities and NaN give NaN (R241). A zero sum of zeros is −0 only when every term is −0; an
exact cancellation gives +0. -/
def Num.sum (xs : List Num) : Num :=
  if xs.any (fun x => x == .nan) then .nan
  else if xs.any (fun x => x == .inf true) then (if xs.any (fun x => x == .inf false) then .nan else .inf true)
  else if xs.any (fun x => x == .inf false) then .inf false
  else
    let s := sumExact (xs.filterMap (fun x => match x with | .fin m e => some (m, e) | _ => none))
    if s.1 = 0 then .zero (!xs.isEmpty && xs.all (fun x => x == .zero true)) else .fin s.1 s.2

/-- INVALID when a step made a NaN from operands none of which is NaN (R247). -/
def invalidIf (ops : List Num) (r : Num) : Nat :=
  if r == .nan && !(ops.any (fun x => x == .nan)) then nfInvalid else 0

/-- SAT of an intermediate rounding: INEXACT of an intermediate step is not reported (R247). -/
def stepFlags (fl : Nat) : Nat := fl &&& (nfSat ||| nfInvalid)

/-- A vector operation on `ops` with exact result `r` in a float format: one rounding, and INVALID where it made a NaN (R238, R247). -/
def FloatFmt.done (f : FloatFmt) (ops : List Num) (r : Num) : Nat × Nat :=
  let e := encodeFloat f r
  (e.1, Nat.lor e.2 (invalidIf ops r))

/-- MUL in a float format (R238). -/
def FloatFmt.mul (f : FloatFmt) (a b : Nat) : Nat × Nat :=
  let x := decodeFloat f a
  let y := decodeFloat f b
  f.done [x, y] (x.mul y)

/-- ADD in a float format (R238). -/
def FloatFmt.add (f : FloatFmt) (a b : Nat) : Nat × Nat :=
  let x := decodeFloat f a
  let y := decodeFloat f b
  f.done [x, y] (Num.sum [x, y])

/-- SUB in a float format (R238). -/
def FloatFmt.sub (f : FloatFmt) (a b : Nat) : Nat × Nat :=
  let x := decodeFloat f a
  let y := decodeFloat f b
  f.done [x, y] (Num.sum [x, y.neg])

/-- FMA in a float format, with one rounding (R238). -/
def FloatFmt.fma (f : FloatFmt) (a b c : Nat) : Nat × Nat :=
  let x := decodeFloat f a
  let y := decodeFloat f b
  let z := decodeFloat f c
  f.done [x, y, z] (Num.sum [x.mul y, z])

/-- MUL in FP32 (R238). -/
def f32Mul (a b : F32) : F32 × Nat := fmtFP32.mul a b

/-- SUB in FP32 (R238). -/
def f32Sub (a b : F32) : F32 × Nat := fmtFP32.sub a b

/-- ADD in FP32 (R238). -/
def f32Add (a b : F32) : F32 × Nat := fmtFP32.add a b

/-- FMA in FP32 with one rounding (R238). -/
def f32Fma (a b c : F32) : F32 × Nat := fmtFP32.fma a b c

/-- The order of two values that are not NaN; −0 below +0 when `zeros` is set (R238). -/
def Num.lt (zeros : Bool) : Num → Num → Bool
  | .nan, _ => false
  | _, .nan => false
  | .inf true, y => !(y == .inf true)
  | .inf false, _ => false
  | x, .inf false => !(x == .inf false)
  | _, .inf true => false
  | .zero a, .zero b => zeros && a && !b
  | .zero _, .fin m _ => decide (0 < m)
  | .fin m _, .zero _ => decide (m < 0)
  | .fin a e, .fin b f =>
    let lo := min e f
    decide (a * (2 : Int) ^ (e - lo).toNat < b * (2 : Int) ^ (f - lo).toNat)

/-- MAX in a float format: canonical NaN if either is NaN, −0 less than +0 (R238). -/
def FloatFmt.max (f : FloatFmt) (a b : Nat) : Nat :=
  let x := decodeFloat f a
  let y := decodeFloat f b
  if x == .nan || y == .nan then f.nanCode.getD 0 else if x.lt true y then b else a

/-- MIN in a float format (R238). -/
def FloatFmt.min (f : FloatFmt) (a b : Nat) : Nat :=
  let x := decodeFloat f a
  let y := decodeFloat f b
  if x == .nan || y == .nan then f.nanCode.getD 0 else if y.lt true x then b else a

/-- MAX in FP32 (R238). -/
def f32Max (a b : F32) : F32 := fmtFP32.max a b

/-- MIN in FP32 (R238). -/
def f32Min (a b : F32) : F32 := fmtFP32.min a b

/-- The value `num / den × 2^e` rounded to FP32: a quotient of 64 more bits with a sticky bit is enough for one rounding. -/
def ratToF32 (neg : Bool) (num den : Nat) (e : Int) : F32 × Nat :=
  let k := Nat.log2 den + 64
  let q := num * 2 ^ k / den
  let s := if num * 2 ^ k % den = 0 then 0 else 1
  encodeFin fmtFP32 neg (2 * q + s) (e - k - 1)

/-- DIV in FP32, correctly rounded (R238). A finite value divided by zero is an infinity of the quotient's sign (PRESUMED,
IEEE 754; log 7). -/
def f32Div (a b : F32) : F32 × Nat :=
  match f32Num a, f32Num b with
  | .nan, _ => (f32Nan, 0)
  | _, .nan => (f32Nan, 0)
  | .inf _, .inf _ => (f32Nan, nfInvalid)
  | .zero _, .zero _ => (f32Nan, nfInvalid)
  | .inf s, y => (if s != y.isNeg then f32NegInf else 0x7F800000, 0)
  | x, .inf s => (if x.isNeg != s then 0x80000000 else 0, 0)
  | .zero s, y => (if s != y.isNeg then 0x80000000 else 0, 0)
  | x, .zero s => (if x.isNeg != s then f32NegInf else 0x7F800000, 0)
  | .fin m e, .fin n f => ratToF32 (decide (m < 0) != decide (n < 0)) m.natAbs n.natAbs (e - f)

/-- RCP in FP32 (R238): DIV of one. -/
def f32Rcp (a : F32) : F32 × Nat := f32Div 0x3F800000 a

/-- `ln 2 × 2^200`. -/
def ln2Fixed : Nat := 0xb17217f7d1cf79abc9e3b39803f2f6af40f343267298b62d8a

/-- The terms of the exponential series in fixed point with 200 fraction bits, from the term after `k`. -/
def expSeries (y : Nat) : Nat → Nat → Nat → Nat
  | 0, _, _ => 0
  | n + 1, k, t =>
    let t := t * y / 2 ^ 200 / k
    t + expSeries y n (k + 1) t

/-- EXP2 in FP32, correctly rounded (R238): the fraction's power is formed with 200 fraction bits before the one rounding. -/
def f32Exp2 (a : F32) : F32 × Nat :=
  match f32Num a with
  | .nan => (f32Nan, 0)
  | .inf true => (0, 0)
  | .inf false => (0x7F800000, 0)
  | .zero _ => (0x3F800000, 0)
  | .fin m e =>
    let x : Int := if 0 ≤ e then m * (2 : Int) ^ (e.toNat + 160) else m * (2 : Int) ^ (160 - (-e).toNat)
    let n := x / (2 : Int) ^ (160 : Nat)
    let f := (x % (2 : Int) ^ (160 : Nat)).toNat
    if 128 ≤ n then (0x7F800000, nfSat)
    else if n < -151 then (0, nfInexact)
    else if f = 0 then encodeFin fmtFP32 false 1 n
    else
      let y := f * 2 ^ 40 * ln2Fixed / 2 ^ 200
      let r := 2 ^ 200 + expSeries y 60 1 (2 ^ 200)
      encodeFin fmtFP32 false (2 * r + 1) (n - 201)

/-- The fraction bits of log2 of a mantissa in [1, 2) held with 256 fraction bits, by repeated squaring. -/
def log2Bits : Nat → Nat → Nat → Nat
  | 0, _, acc => acc
  | n + 1, m, acc =>
    let s := m * m / 2 ^ 256
    if 2 ^ 257 ≤ s then log2Bits n (s / 2) (2 * acc + 1) else log2Bits n s (2 * acc)

/-- LOG2 in FP32, correctly rounded (R238). The spec states no result at zero or below: a free value (log 7). -/
def f32Log2 (free : F32) (a : F32) : F32 × Nat :=
  match f32Num a with
  | .nan => (f32Nan, 0)
  | .inf false => (0x7F800000, 0)
  | .inf true => (free, 0)
  | .zero _ => (free, 0)
  | .fin m e =>
    if m < 0 then (free, 0)
    else
      let n := m.natAbs
      let k : Int := (Nat.log2 n : Int) + e
      if n = 2 ^ Nat.log2 n then toF32 (if k = 0 then .zero false else .fin k 0)
      else
        let fr := log2Bits 160 (n * 2 ^ 256 / 2 ^ Nat.log2 n) 0
        let v : Int := k * (2 : Int) ^ (161 : Nat) + (2 * fr + 1 : Nat)
        encodeFin fmtFP32 (decide (v < 0)) v.natAbs (-161)

/-- The integer square root of `n`, `k` bits from the top. -/
def isqrtBits (n : Nat) : Nat → Nat → Nat
  | 0, r => r
  | k + 1, r => let c := r + 2 ^ k; isqrtBits n k (if c * c ≤ n then c else r)

/-- RSQRT in FP32, correctly rounded (R238). At zero an infinity and below zero NaN (PRESUMED, IEEE 754; log 7). -/
def f32Rsqrt (a : F32) : F32 × Nat :=
  match f32Num a with
  | .nan => (f32Nan, 0)
  | .inf false => (0, 0)
  | .inf true => (f32Nan, nfInvalid)
  | .zero s => (if s then f32NegInf else 0x7F800000, 0)
  | .fin m e =>
    if m < 0 then (f32Nan, nfInvalid)
    else
      let (n, e) : Nat × Int := if e % 2 = 0 then (m.natAbs, e) else (2 * m.natAbs, e - 1)
      let q := 2 ^ 240 / n
      let r := isqrtBits q 121 0
      let sticky := if r * r * n = 2 ^ 240 then 0 else 1
      encodeFin fmtFP32 false (2 * r + sticky) (-120 - 1 - e / 2)

/-- One group of terms added to an FP32 accumulator with one rounding (R240), with the flags of every step. -/
def accGroup (acc : F32) (terms : List (Num × Num)) : F32 × Nat :=
  let prods := terms.map (fun t => t.1.mul t.2)
  let g := Num.sum prods
  let made := (terms.map (fun t => invalidIf [t.1, t.2] (t.1.mul t.2))).foldl Nat.lor (invalidIf prods g)
  let r := if f32Num acc == .nan then .nan else Num.sum [f32Num acc, g]
  let e := fmtFP32.done [f32Num acc, g] r
  (e.1, Nat.lor e.2 made)

/-- Terms cut into groups of `k` (R240), at most `n` of them. -/
def groupsOf {α : Type} (k : Nat) : Nat → List α → List (List α)
  | 0, _ => []
  | n + 1, l => if l.isEmpty then [] else l.take k :: groupsOf k n (l.drop k)

/-- A matrix-unit reduction into an FP32 accumulator that starts at +0 (R239, R240). `lastFlags` tells the flags of the last
rounding, the only one whose INEXACT can count. -/
def dotF32 (k : Nat) (terms : List (Num × Num)) : F32 × Nat :=
  let gs := groupsOf k (terms.length + 1) terms
  gs.foldl (fun a g =>
    let r := accGroup a.1 g
    (r.1, stepFlags a.2 ||| r.2)) (0, 0)

/-- An INT8 × INT8 reduction: it accumulates in INT32 from zero without rounding, modulo 2^32 (R240). -/
def dotInt8 (terms : List (BitVec 8 × BitVec 8)) : BitVec 32 :=
  terms.foldl (fun acc t => acc + t.1.signExtend 32 * t.2.signExtend 32) 0#32

/-- A Crucible (R242). `rangeBits` is byte 57 of its image (R248). -/
structure Crucible where
  v : BitVec 384
  addends : Nat
  nan : Bool
  pinf : Bool
  ninf : Bool
  allneg0 : Bool
  rangeBits : Nat
  deriving DecidableEq, Repr

/-- CLEAR (R243). -/
def Crucible.clear : Crucible := ⟨0#384, 0, false, false, false, true, 0⟩

/-- A Crucible as a wipe leaves it (R261, R511): every bit 0. -/
def Crucible.zero : Crucible := ⟨0#384, 0, false, false, false, false, 0⟩

/-- ADDENDS stops at 2^64 − 1 (R242). -/
def addendsMax : Nat := 2 ^ 64 - 1

/-- PLACE of one value (R243, R244). -/
def Crucible.place (c : Crucible) (x : Num) : Crucible :=
  let c := { c with addends := min addendsMax (c.addends + 1) }
  match x with
  | .nan => { c with nan := true, allneg0 := false }
  | .inf false => { c with pinf := true, allneg0 := false }
  | .inf true => { c with ninf := true, allneg0 := false }
  | .zero true => c
  | .zero false => { c with allneg0 := false }
  | .fin m e =>
    if (Nat.log2 m.natAbs : Int) + e ≥ 160 then
      { c with pinf := c.pinf || decide (0 < m), ninf := c.ninf || decide (m < 0), rangeBits := c.rangeBits ||| 1, allneg0 := false }
    else if -160 ≤ e then
      { c with v := c.v + BitVec.ofInt 384 (m * (2 : Int) ^ (e + 160).toNat), allneg0 := false }
    else
      let sh := (-160 - e).toNat
      let q := roundShift m.natAbs sh
      let lo := if m.natAbs % 2 ^ sh = 0 then 0 else 2
      { c with v := c.v + BitVec.ofInt 384 (if m < 0 then -(q : Int) else q), rangeBits := c.rangeBits ||| lo, allneg0 := false }

/-- MERGE (R243). -/
def Crucible.merge (c i : Crucible) : Crucible :=
  { v := c.v + i.v, addends := min addendsMax (c.addends + i.addends), nan := c.nan || i.nan, pinf := c.pinf || i.pinf,
    ninf := c.ninf || i.ninf, allneg0 := c.allneg0 && i.allneg0, rangeBits := c.rangeBits ||| i.rangeBits }

/-- The value ROUND gives to a conversion, and the flags beyond it, before the output format acts (R245). The first component
is none where ROUND answers canonical NaN, or 0 for an integer format, by the count of addends. -/
def Crucible.value (c : Crucible) : Num :=
  if 2 ^ 63 < c.addends then .nan
  else if c.nan || (c.pinf && c.ninf) then .nan
  else if c.pinf then .inf false
  else if c.ninf then .inf true
  else if c.v = 0#384 then .zero (decide (1 ≤ c.addends) && c.allneg0)
  else .fin c.v.toInt (-160)

/-- The flags ROUND sets whatever the format: NAN_IN, INF_IN, RANGE_HI, RANGE_LO, OVF, INVALID (R245). `isInt` says that the
output format is an integer. -/
def Crucible.flags (c : Crucible) (isInt : Bool) : Nat :=
  (if c.nan then nfNanIn else 0) ||| (if c.pinf || c.ninf then nfInfIn else 0) |||
    (if c.rangeBits % 2 = 1 then nfRangeHi else 0) ||| (if c.rangeBits / 2 % 2 = 1 then nfRangeLo else 0) |||
    (if 2 ^ 63 < c.addends then nfOvf ||| nfInvalid
      else if c.nan || (c.pinf && c.ninf) then (if (c.pinf && c.ninf) || isInt then nfInvalid else 0) else 0)

/-- The image of a Crucible: one 64-byte sector (R248). -/
def Crucible.image (c : Crucible) : List Byte :=
  natBytes 48 c.v.toNat ++ natBytes 8 c.addends ++
    [BitVec.ofNat 8 ((if c.nan then 1 else 0) + (if c.pinf then 2 else 0) + (if c.ninf then 4 else 0) + (if c.allneg0 then 8 else 0)),
      BitVec.ofNat 8 (c.rangeBits % 4)] ++ List.replicate 6 0#8

/-- A Crucible read from its image; none when the bytes that must be zero are not (R248). -/
def Crucible.ofImage (bs : List Byte) : Option Crucible :=
  let fl := fieldBytes bs 56 1
  let rb := fieldBytes bs 57 1
  if 16 ≤ fl || 4 ≤ rb || fieldBytes bs 58 6 != 0 then none
  else some ⟨BitVec.ofNat 384 (fieldBytes bs 0 48), fieldBytes bs 48 8, bitOf fl 0, bitOf fl 1, bitOf fl 2, bitOf fl 3, rb⟩

/-- ROUND of a row of Crucibles into format `c`, blocks of an MX format together (R245). -/
def roundRow (c : Nat) (cs : List Crucible) : List Byte × Nat :=
  let isInt := decide (c = 9) || decide (c = 10)
  let r := writeRow c (cs.map Crucible.value)
  (r.1, cs.foldl (fun n k => n ||| k.flags isInt) r.2)

end Sys2Proof.Machine
end

