-- ==== Sys2Proof/Machine/RegMap.lean ====
section
/-! DEFINITION. The BAR0 register map (R38): every register of the spec's register tables with its address, its fields, their
access types (R15) and reset values (R16). A field whose Reset is "image", "map", "straps" or "fuses" stands here as 0 until
the image, the straps or the fuses set it (assumption log 2). -/
namespace Sys2Proof.Machine

/-- A register as the model names it: its BAR0 address and its value after reset. -/
structure RegRef where
  addr : Nat
  rst : Nat
  deriving DecidableEq, Repr

/-- A field of a register: bits `[lo + w - 1 : lo]`. -/
structure Fld where
  reg : RegRef
  lo : Nat
  w : Nat
  deriving DecidableEq, Repr

/-- The access types of R15; `cnt` is a 48-bit RO counter, which TEL_SNAP freezes (R508). -/
inductive Acc where
  | ro | rw | w1c | wo | cnt
  deriving DecidableEq, Repr

/-- One field of a register table. -/
structure FieldRow where
  lo : Nat
  w : Nat
  acc : Acc
  rst : Nat
  deriving DecidableEq, Repr

/-- One row of the register map: a register, or an array of registers with the stride and the count of each index. -/
structure RegRow where
  name : String
  base : Nat
  dims : List (Nat × Nat)
  fields : List FieldRow
  deriving DecidableEq, Repr

/-- IDENT (R41). -/
def Reg.IDENT : RegRef := ⟨0x0, 0x1100A094D48⟩
def Reg.IDENT_VENDOR_CODE : Fld := ⟨Reg.IDENT, 0, 16⟩
def Reg.IDENT_PART_CODE : Fld := ⟨Reg.IDENT, 16, 16⟩
def Reg.IDENT_STEPPING : Fld := ⟨Reg.IDENT, 32, 8⟩
def Reg.IDENT_PACKAGE_CODE : Fld := ⟨Reg.IDENT, 40, 8⟩

/-- CAPS (R42). -/
def Reg.CAPS : RegRef := ⟨0x8, 0x4000400000100⟩
def Reg.CAPS_TILES_ACTIVE : Fld := ⟨Reg.CAPS, 0, 16⟩
def Reg.CAPS_TILE_SPARES_FREE : Fld := ⟨Reg.CAPS, 16, 8⟩
def Reg.CAPS_LANES_USABLE : Fld := ⟨Reg.CAPS, 24, 16⟩
def Reg.CAPS_LANE_SPARES_FREE : Fld := ⟨Reg.CAPS, 40, 8⟩
def Reg.CAPS_HBM_STACKS : Fld := ⟨Reg.CAPS, 48, 4⟩
def Reg.CAPS_XBAR_SPARES_FREE : Fld := ⟨Reg.CAPS, 52, 4⟩

/-- GSTAT (R43). -/
def Reg.GSTAT : RegRef := ⟨0x10, 0x10⟩
def Reg.GSTAT_RUNNING : Fld := ⟨Reg.GSTAT, 0, 1⟩
def Reg.GSTAT_ALARM : Fld := ⟨Reg.GSTAT, 1, 1⟩
def Reg.GSTAT_LASTING_FAULT : Fld := ⟨Reg.GSTAT, 2, 1⟩
def Reg.GSTAT_SPARES_EXHAUSTED : Fld := ⟨Reg.GSTAT, 3, 1⟩
def Reg.GSTAT_WIPE_ACTIVE : Fld := ⟨Reg.GSTAT, 4, 1⟩
def Reg.GSTAT_THERMAL_WARN : Fld := ⟨Reg.GSTAT, 5, 1⟩
def Reg.GSTAT_CORE_RESTARTS : Fld := ⟨Reg.GSTAT, 8, 8⟩

/-- PWR_STAT (R562). -/
def Reg.PWR_STAT : RegRef := ⟨0x100, 0x0⟩
def Reg.PWR_STAT_VIN_MV : Fld := ⟨Reg.PWR_STAT, 0, 16⟩
def Reg.PWR_STAT_IIN_10MA : Fld := ⟨Reg.PWR_STAT, 16, 16⟩
def Reg.PWR_STAT_PIN_W : Fld := ⟨Reg.PWR_STAT, 32, 16⟩
def Reg.PWR_STAT_VCORE_NOW_MV : Fld := ⟨Reg.PWR_STAT, 48, 12⟩

/-- PWR_CTL (R562). -/
def Reg.PWR_CTL : RegRef := ⟨0x108, 0x67202EE⟩
def Reg.PWR_CTL_VCORE_MV : Fld := ⟨Reg.PWR_CTL, 0, 12⟩
def Reg.PWR_CTL_CAP_W : Fld := ⟨Reg.PWR_CTL, 16, 12⟩

/-- THERM_STAT (R562). -/
def Reg.THERM_STAT : RegRef := ⟨0x110, 0x0⟩
def Reg.THERM_STAT_TJ_MAX : Fld := ⟨Reg.THERM_STAT, 0, 8⟩
def Reg.THERM_STAT_HOT_SENSOR : Fld := ⟨Reg.THERM_STAT, 8, 6⟩
def Reg.THERM_STAT_TRIP : Fld := ⟨Reg.THERM_STAT, 14, 1⟩
def Reg.THERM_STAT_THROTTLE : Fld := ⟨Reg.THERM_STAT, 15, 1⟩

/-- THERM_CFG (R562). -/
def Reg.THERM_CFG : RegRef := ⟨0x118, 0x64⟩
def Reg.THERM_CFG_WARN_C : Fld := ⟨Reg.THERM_CFG, 0, 8⟩

/-- STRAP_STAT (R562). -/
def Reg.STRAP_STAT : RegRef := ⟨0x120, 0x0⟩
def Reg.STRAP_STAT_ADDR : Fld := ⟨Reg.STRAP_STAT, 0, 2⟩
def Reg.STRAP_STAT_FLASH_WE : Fld := ⟨Reg.STRAP_STAT, 2, 1⟩
def Reg.STRAP_STAT_DYN_ADDR : Fld := ⟨Reg.STRAP_STAT, 3, 7⟩
def Reg.STRAP_STAT_DYN_VALID : Fld := ⟨Reg.STRAP_STAT, 10, 1⟩

/-- ALERT_MASK (R562). -/
def Reg.ALERT_MASK : RegRef := ⟨0x128, 0xF⟩
def Reg.ALERT_MASK_THERMAL_WARN : Fld := ⟨Reg.ALERT_MASK, 0, 1⟩
def Reg.ALERT_MASK_ALARM : Fld := ⟨Reg.ALERT_MASK, 1, 1⟩
def Reg.ALERT_MASK_LASTING_FAULT : Fld := ⟨Reg.ALERT_MASK, 2, 1⟩
def Reg.ALERT_MASK_SPARES_EXHAUSTED : Fld := ⟨Reg.ALERT_MASK, 3, 1⟩
def Reg.ALERT_MASK_THROTTLE : Fld := ⟨Reg.ALERT_MASK, 4, 1⟩

/-- THROTTLE_US (R563). -/
def Reg.THROTTLE_US : RegRef := ⟨0x180, 0x0⟩

/-- TRIP_COUNT (R563). -/
def Reg.TRIP_COUNT : RegRef := ⟨0x188, 0x0⟩

/-- PORT_CFG (R128). -/
def Reg.PORT_CFG (i : Nat) : RegRef := ⟨0x100000 + i * 0x1000, 0x0⟩
def Reg.PORT_CFG_ROLE (i : Nat) : Fld := ⟨Reg.PORT_CFG i, 0, 2⟩
def Reg.PORT_CFG_WIDTH_CODE (i : Nat) : Fld := ⟨Reg.PORT_CFG i, 2, 3⟩
def Reg.PORT_CFG_MIN_WIDTH_CODE (i : Nat) : Fld := ⟨Reg.PORT_CFG i, 5, 3⟩
def Reg.PORT_CFG_IO_DIE (i : Nat) : Fld := ⟨Reg.PORT_CFG i, 8, 3⟩
def Reg.PORT_CFG_FIRST_LANE (i : Nat) : Fld := ⟨Reg.PORT_CFG i, 11, 7⟩
def Reg.PORT_CFG_SPARES (i : Nat) : Fld := ⟨Reg.PORT_CFG i, 18, 2⟩

/-- LINK_STAT (R128). -/
def Reg.LINK_STAT (i : Nat) : RegRef := ⟨0x100008 + i * 0x1000, 0x0⟩
def Reg.LINK_STAT_STATE (i : Nat) : Fld := ⟨Reg.LINK_STAT i, 0, 3⟩
def Reg.LINK_STAT_WIDTH_NOW (i : Nat) : Fld := ⟨Reg.LINK_STAT i, 3, 3⟩
def Reg.LINK_STAT_DEGRADED (i : Nat) : Fld := ⟨Reg.LINK_STAT i, 6, 1⟩
def Reg.LINK_STAT_HELLO_FAIL (i : Nat) : Fld := ⟨Reg.LINK_STAT i, 7, 1⟩
def Reg.LINK_STAT_PARTNER_VERSION (i : Nat) : Fld := ⟨Reg.LINK_STAT i, 8, 8⟩
def Reg.LINK_STAT_RETRAINS (i : Nat) : Fld := ⟨Reg.LINK_STAT i, 16, 16⟩

/-- LINK_CTL (R128). -/
def Reg.LINK_CTL (i : Nat) : RegRef := ⟨0x100010 + i * 0x1000, 0xA000A0C8800⟩
def Reg.LINK_CTL_RETRAIN (i : Nat) : Fld := ⟨Reg.LINK_CTL i, 0, 1⟩
def Reg.LINK_CTL_DISABLE (i : Nat) : Fld := ⟨Reg.LINK_CTL i, 1, 1⟩
def Reg.LINK_CTL_REPLAY_LIMIT (i : Nat) : Fld := ⟨Reg.LINK_CTL i, 8, 4⟩
def Reg.LINK_CTL_ACK_MAX_NS (i : Nat) : Fld := ⟨Reg.LINK_CTL i, 12, 12⟩
def Reg.LINK_CTL_HB_PERIOD_US (i : Nat) : Fld := ⟨Reg.LINK_CTL i, 24, 16⟩
def Reg.LINK_CTL_RETRAIN_LIMIT_MS (i : Nat) : Fld := ⟨Reg.LINK_CTL i, 40, 8⟩

/-- CRC_ERR (R129). -/
def Reg.CRC_ERR (i : Nat) : RegRef := ⟨0x100040 + i * 0x1000, 0x0⟩

/-- FEC_CORR (R129). -/
def Reg.FEC_CORR (i : Nat) : RegRef := ⟨0x100048 + i * 0x1000, 0x0⟩

/-- FEC_UNCORR (R129). -/
def Reg.FEC_UNCORR (i : Nat) : RegRef := ⟨0x100050 + i * 0x1000, 0x0⟩

/-- NAK_TX (R129). -/
def Reg.NAK_TX (i : Nat) : RegRef := ⟨0x100058 + i * 0x1000, 0x0⟩

/-- NAK_RX (R129). -/
def Reg.NAK_RX (i : Nat) : RegRef := ⟨0x100060 + i * 0x1000, 0x0⟩

/-- REPLAY_FLITS (R129). -/
def Reg.REPLAY_FLITS (i : Nat) : RegRef := ⟨0x100068 + i * 0x1000, 0x0⟩

/-- STOMP_TX (R129). -/
def Reg.STOMP_TX (i : Nat) : RegRef := ⟨0x100070 + i * 0x1000, 0x0⟩

/-- STOMP_RX (R129). -/
def Reg.STOMP_RX (i : Nat) : RegRef := ⟨0x100078 + i * 0x1000, 0x0⟩

/-- E2E_REPLAY (R129). -/
def Reg.E2E_REPLAY (i : Nat) : RegRef := ⟨0x100080 + i * 0x1000, 0x0⟩

/-- CREDIT_OVF (R129). -/
def Reg.CREDIT_OVF (i : Nat) : RegRef := ⟨0x100088 + i * 0x1000, 0x0⟩

/-- SLAG_REJECT (R129). -/
def Reg.SLAG_REJECT (i : Nat) : RegRef := ⟨0x100090 + i * 0x1000, 0x0⟩

/-- LANE_REMAPS (R129). -/
def Reg.LANE_REMAPS (i : Nat) : RegRef := ⟨0x100098 + i * 0x1000, 0x0⟩

/-- CREDIT (R129). -/
def Reg.CREDIT (i : Nat) (j : Nat) : RegRef := ⟨0x1000C0 + i * 0x1000 + j * 0x8, 0x0⟩
def Reg.CREDIT_TX_H (i : Nat) (j : Nat) : Fld := ⟨Reg.CREDIT i j, 0, 16⟩
def Reg.CREDIT_TX_D (i : Nat) (j : Nat) : Fld := ⟨Reg.CREDIT i j, 16, 16⟩
def Reg.CREDIT_RX_H (i : Nat) (j : Nat) : Fld := ⟨Reg.CREDIT i j, 32, 16⟩
def Reg.CREDIT_RX_D (i : Nat) (j : Nat) : Fld := ⟨Reg.CREDIT i j, 48, 16⟩

/-- LANE (R129). -/
def Reg.LANE (i : Nat) (j : Nat) : RegRef := ⟨0x100100 + i * 0x1000 + j * 0x8, 0x0⟩
def Reg.LANE_PHYS (i : Nat) (j : Nat) : Fld := ⟨Reg.LANE i j, 0, 8⟩
def Reg.LANE_ON_SPARE (i : Nat) (j : Nat) : Fld := ⟨Reg.LANE i j, 8, 1⟩
def Reg.LANE_FAILED (i : Nat) (j : Nat) : Fld := ⟨Reg.LANE i j, 9, 1⟩

/-- LANE_CTL (R129). -/
def Reg.LANE_CTL (i : Nat) : RegRef := ⟨0x100180 + i * 0x1000, 0x0⟩
def Reg.LANE_CTL_LANE (i : Nat) : Fld := ⟨Reg.LANE_CTL i, 0, 4⟩
def Reg.LANE_CTL_SPARE (i : Nat) : Fld := ⟨Reg.LANE_CTL i, 4, 1⟩
def Reg.LANE_CTL_GO (i : Nat) : Fld := ⟨Reg.LANE_CTL i, 5, 1⟩

/-- Q_CELLS (R202). -/
def Reg.Q_CELLS (i : Nat) : RegRef := ⟨0x100200 + i * 0x1000, 0x0⟩
def Reg.Q_CELLS_NOW (i : Nat) : Fld := ⟨Reg.Q_CELLS i, 0, 20⟩
def Reg.Q_CELLS_RES (i : Nat) : Fld := ⟨Reg.Q_CELLS i, 20, 20⟩

/-- FRAMES_IN (R202). -/
def Reg.FRAMES_IN (i : Nat) : RegRef := ⟨0x100240 + i * 0x1000, 0x0⟩

/-- FRAMES_OUT (R202). -/
def Reg.FRAMES_OUT (i : Nat) : RegRef := ⟨0x100248 + i * 0x1000, 0x0⟩

/-- MCAST_COPIES (R202). -/
def Reg.MCAST_COPIES (i : Nat) : RegRef := ⟨0x100250 + i * 0x1000, 0x0⟩

/-- CUT_DISCARD (R202). -/
def Reg.CUT_DISCARD (i : Nat) : RegRef := ⟨0x100258 + i * 0x1000, 0x0⟩

/-- SLAG_PUSHED_OUT (R202). -/
def Reg.SLAG_PUSHED_OUT (i : Nat) : RegRef := ⟨0x100260 + i * 0x1000, 0x0⟩

/-- SLAG_HEARTH_FULL (R202). -/
def Reg.SLAG_HEARTH_FULL (i : Nat) : RegRef := ⟨0x100268 + i * 0x1000, 0x0⟩

/-- SLAG_AGED (R202). -/
def Reg.SLAG_AGED (i : Nat) (j : Nat) : RegRef := ⟨0x100280 + i * 0x1000 + j * 0x8, 0x0⟩

/-- HEAT_CTL (R309). -/
def Reg.HEAT_CTL : RegRef := ⟨0x400000, 0x3E8⟩
def Reg.HEAT_CTL_WATCHDOG_MS : Fld := ⟨Reg.HEAT_CTL, 0, 32⟩
def Reg.HEAT_CTL_HOLD_ADMIT : Fld := ⟨Reg.HEAT_CTL, 32, 1⟩

/-- HEAT_STAT (R309). -/
def Reg.HEAT_STAT : RegRef := ⟨0x400008, 0x0⟩
def Reg.HEAT_STAT_RUNNING : Fld := ⟨Reg.HEAT_STAT, 0, 9⟩
def Reg.HEAT_STAT_WAITING : Fld := ⟨Reg.HEAT_STAT, 9, 20⟩

/-- TILE_RES (R309). -/
def Reg.TILE_RES (i : Nat) : RegRef := ⟨0x401000 + i * 0x8, 0x0⟩
def Reg.TILE_RES_DOMAIN (i : Nat) : Fld := ⟨Reg.TILE_RES i, 0, 12⟩
def Reg.TILE_RES_RESERVED (i : Nat) : Fld := ⟨Reg.TILE_RES i, 12, 1⟩
def Reg.TILE_RES_LAST_DOMAIN (i : Nat) : Fld := ⟨Reg.TILE_RES i, 16, 12⟩
def Reg.TILE_RES_HELD (i : Nat) : Fld := ⟨Reg.TILE_RES i, 28, 1⟩

/-- HEATS_DONE (R310). -/
def Reg.HEATS_DONE : RegRef := ⟨0x402000, 0x0⟩

/-- HEATS_REFUSED (R310). -/
def Reg.HEATS_REFUSED : RegRef := ⟨0x402008, 0x0⟩

/-- DESC_DONE (R310). -/
def Reg.DESC_DONE : RegRef := ⟨0x402010, 0x0⟩

/-- WATCHDOG_EXPIRED (R310). -/
def Reg.WATCHDOG_EXPIRED : RegRef := ⟨0x402018, 0x0⟩

/-- ANVIL_REPLAY (R310). -/
def Reg.ANVIL_REPLAY : RegRef := ⟨0x402020, 0x0⟩

/-- STEP_POISON (R310). -/
def Reg.STEP_POISON : RegRef := ⟨0x402028, 0x0⟩

/-- DL_MISSED_PAGES (R310). -/
def Reg.DL_MISSED_PAGES : RegRef := ⟨0x402030, 0x0⟩

/-- SHADOW_PAGES_ALL (R310). -/
def Reg.SHADOW_PAGES_ALL : RegRef := ⟨0x402038, 0x0⟩

/-- SKIP_PAGES_ALL (R310). -/
def Reg.SKIP_PAGES_ALL : RegRef := ⟨0x402040, 0x0⟩

/-- TILE_WIPES (R310). -/
def Reg.TILE_WIPES : RegRef := ⟨0x402048, 0x0⟩

/-- ATTEND_DESC (R338). -/
def Reg.ATTEND_DESC : RegRef := ⟨0x403000, 0x0⟩

/-- ATTEND_TOKENS (R338). -/
def Reg.ATTEND_TOKENS : RegRef := ⟨0x403008, 0x0⟩

/-- ATTEND_MASKED (R338). -/
def Reg.ATTEND_MASKED : RegRef := ⟨0x403010, 0x0⟩

/-- ATTEND_KV_BYTES (R338). -/
def Reg.ATTEND_KV_BYTES : RegRef := ⟨0x403018, 0x0⟩

/-- ATTEND_OVERREAD (R338). -/
def Reg.ATTEND_OVERREAD : RegRef := ⟨0x403020, 0x0⟩

/-- ATTEND_TABLE_BYTES (R338). -/
def Reg.ATTEND_TABLE_BYTES : RegRef := ⟨0x403028, 0x0⟩

/-- ATTEND_STATES (R338). -/
def Reg.ATTEND_STATES : RegRef := ⟨0x403030, 0x0⟩

/-- TILE_MAP (R254). -/
def Reg.TILE_MAP (i : Nat) : RegRef := ⟨0x5E0000 + i * 0x8, 0x0⟩
def Reg.TILE_MAP_PHYS (i : Nat) : Fld := ⟨Reg.TILE_MAP i, 0, 9⟩
def Reg.TILE_MAP_DIE (i : Nat) : Fld := ⟨Reg.TILE_MAP i, 9, 1⟩
def Reg.TILE_MAP_GROUP (i : Nat) : Fld := ⟨Reg.TILE_MAP i, 10, 5⟩
def Reg.TILE_MAP_ON_SPARE (i : Nat) : Fld := ⟨Reg.TILE_MAP i, 15, 1⟩
def Reg.TILE_MAP_FAILED (i : Nat) : Fld := ⟨Reg.TILE_MAP i, 16, 1⟩

/-- TILE_STAT (R254). -/
def Reg.TILE_STAT (i : Nat) : RegRef := ⟨0x5E0800 + i * 0x8, 0x0⟩
def Reg.TILE_STAT_NUMFLAGS (i : Nat) : Fld := ⟨Reg.TILE_STAT i, 0, 8⟩
def Reg.TILE_STAT_BUSY (i : Nat) : Fld := ⟨Reg.TILE_STAT i, 8, 1⟩

/-- ANVIL_CAPS (R254). -/
def Reg.ANVIL_CAPS : RegRef := ⟨0x5E1000, 0x8008002407FF⟩
def Reg.ANVIL_CAPS_FORMATS : Fld := ⟨Reg.ANVIL_CAPS, 0, 12⟩
def Reg.ANVIL_CAPS_CRUCIBLES : Fld := ⟨Reg.ANVIL_CAPS, 12, 8⟩
def Reg.ANVIL_CAPS_TONGS : Fld := ⟨Reg.ANVIL_CAPS, 20, 4⟩
def Reg.ANVIL_CAPS_SPA_KIB : Fld := ⟨Reg.ANVIL_CAPS, 24, 12⟩
def Reg.ANVIL_CAPS_TONGS_LINES : Fld := ⟨Reg.ANVIL_CAPS, 36, 12⟩

/-- SLAG_PLACEMENT (R69). -/
def Reg.SLAG_PLACEMENT : RegRef := ⟨0x5FF000, 0x0⟩

/-- SLAG_ORPHAN_ARRIVAL (R69). -/
def Reg.SLAG_ORPHAN_ARRIVAL : RegRef := ⟨0x5FF008, 0x0⟩

/-- SLAG_LATE_PAGE (R310). -/
def Reg.SLAG_LATE_PAGE : RegRef := ⟨0x5FF010, 0x0⟩

/-- SLAG_REDUCE_FOREIGN (R310). -/
def Reg.SLAG_REDUCE_FOREIGN : RegRef := ⟨0x5FF018, 0x0⟩

/-- SLAG_REDUCE_OVERRUN (R310). -/
def Reg.SLAG_REDUCE_OVERRUN : RegRef := ⟨0x5FF020, 0x0⟩

/-- SLAG_LATE_ARRIVAL (R310). -/
def Reg.SLAG_LATE_ARRIVAL : RegRef := ⟨0x5FF028, 0x0⟩

/-- TCTR_CUR (R68). -/
def Reg.TCTR_CUR (i : Nat) (j : Nat) : RegRef := ⟨0x600000 + i * 0x1000 + j * 0x10, 0x0⟩
def Reg.TCTR_CUR_COUNT (i : Nat) (j : Nat) : Fld := ⟨Reg.TCTR_CUR i j, 0, 44⟩
def Reg.TCTR_CUR_UNIT (i : Nat) (j : Nat) : Fld := ⟨Reg.TCTR_CUR i j, 44, 1⟩
def Reg.TCTR_CUR_SAT (i : Nat) (j : Nat) : Fld := ⟨Reg.TCTR_CUR i j, 45, 1⟩
def Reg.TCTR_CUR_HELD (i : Nat) (j : Nat) : Fld := ⟨Reg.TCTR_CUR i j, 46, 1⟩
def Reg.TCTR_CUR_FOLLOW (i : Nat) (j : Nat) : Fld := ⟨Reg.TCTR_CUR i j, 47, 1⟩
def Reg.TCTR_CUR_GEN (i : Nat) (j : Nat) : Fld := ⟨Reg.TCTR_CUR i j, 48, 16⟩

/-- TCTR_PREV (R68). -/
def Reg.TCTR_PREV (i : Nat) (j : Nat) : RegRef := ⟨0x600008 + i * 0x1000 + j * 0x10, 0x0⟩
def Reg.TCTR_PREV_COUNT (i : Nat) (j : Nat) : Fld := ⟨Reg.TCTR_PREV i j, 0, 44⟩
def Reg.TCTR_PREV_SAT (i : Nat) (j : Nat) : Fld := ⟨Reg.TCTR_PREV i j, 45, 1⟩
def Reg.TCTR_PREV_LIVE (i : Nat) (j : Nat) : Fld := ⟨Reg.TCTR_PREV i j, 46, 1⟩
def Reg.TCTR_PREV_GEN (i : Nat) (j : Nat) : Fld := ⟨Reg.TCTR_PREV i j, 48, 16⟩

/-- DCTR_CUR (R68). -/
def Reg.DCTR_CUR (i : Nat) : RegRef := ⟨0x700000 + i * 0x10, 0x0⟩
def Reg.DCTR_CUR_COUNT (i : Nat) : Fld := ⟨Reg.DCTR_CUR i, 0, 44⟩
def Reg.DCTR_CUR_UNIT (i : Nat) : Fld := ⟨Reg.DCTR_CUR i, 44, 1⟩
def Reg.DCTR_CUR_SAT (i : Nat) : Fld := ⟨Reg.DCTR_CUR i, 45, 1⟩
def Reg.DCTR_CUR_HELD (i : Nat) : Fld := ⟨Reg.DCTR_CUR i, 46, 1⟩
def Reg.DCTR_CUR_FOLLOW (i : Nat) : Fld := ⟨Reg.DCTR_CUR i, 47, 1⟩
def Reg.DCTR_CUR_GEN (i : Nat) : Fld := ⟨Reg.DCTR_CUR i, 48, 16⟩

/-- DCTR_PREV (R68). -/
def Reg.DCTR_PREV (i : Nat) : RegRef := ⟨0x700008 + i * 0x10, 0x0⟩
def Reg.DCTR_PREV_COUNT (i : Nat) : Fld := ⟨Reg.DCTR_PREV i, 0, 44⟩
def Reg.DCTR_PREV_SAT (i : Nat) : Fld := ⟨Reg.DCTR_PREV i, 45, 1⟩
def Reg.DCTR_PREV_LIVE (i : Nat) : Fld := ⟨Reg.DCTR_PREV i, 46, 1⟩
def Reg.DCTR_PREV_GEN (i : Nat) : Fld := ⟨Reg.DCTR_PREV i, 48, 16⟩

/-- HEARTH_CFG (R199). -/
def Reg.HEARTH_CFG : RegRef := ⟨0x800000, 0x40000000000000⟩
def Reg.HEARTH_CFG_CREDIT_RES_A : Fld := ⟨Reg.HEARTH_CFG, 0, 20⟩
def Reg.HEARTH_CFG_CREDIT_RES_B : Fld := ⟨Reg.HEARTH_CFG, 20, 20⟩
def Reg.HEARTH_CFG_COH_RES : Fld := ⟨Reg.HEARTH_CFG, 40, 16⟩

/-- HEARTH_STAT (R199). -/
def Reg.HEARTH_STAT : RegRef := ⟨0x800008, 0x0⟩
def Reg.HEARTH_STAT_FREE_A : Fld := ⟨Reg.HEARTH_STAT, 0, 20⟩
def Reg.HEARTH_STAT_FREE_B : Fld := ⟨Reg.HEARTH_STAT, 20, 20⟩
def Reg.HEARTH_STAT_BANK_SPARES_A : Fld := ⟨Reg.HEARTH_STAT, 40, 3⟩
def Reg.HEARTH_STAT_BANK_SPARES_B : Fld := ⟨Reg.HEARTH_STAT, 43, 3⟩
def Reg.HEARTH_STAT_FULL_A : Fld := ⟨Reg.HEARTH_STAT, 46, 1⟩
def Reg.HEARTH_STAT_FULL_B : Fld := ⟨Reg.HEARTH_STAT, 47, 1⟩

/-- PUSH_CTL (R199). -/
def Reg.PUSH_CTL : RegRef := ⟨0x800010, 0x1⟩
def Reg.PUSH_CTL_EN : Fld := ⟨Reg.PUSH_CTL, 0, 1⟩
def Reg.PUSH_CTL_PROTECT : Fld := ⟨Reg.PUSH_CTL, 8, 8⟩

/-- MATCH_CTL (R199). -/
def Reg.MATCH_CTL : RegRef := ⟨0x800018, 0x4⟩
def Reg.MATCH_CTL_ROUNDS : Fld := ⟨Reg.MATCH_CTL, 0, 3⟩

/-- MATCH_STAT (R199). -/
def Reg.MATCH_STAT : RegRef := ⟨0x800020, 0x0⟩
def Reg.MATCH_STAT_EPOCH_PS : Fld := ⟨Reg.MATCH_STAT, 0, 16⟩
def Reg.MATCH_STAT_EPOCH_PS_MAX : Fld := ⟨Reg.MATCH_STAT, 16, 16⟩

/-- XBAR_STAT (R199). -/
def Reg.XBAR_STAT : RegRef := ⟨0x800028, 0x0⟩
def Reg.XBAR_STAT_PLANES_ACTIVE : Fld := ⟨Reg.XBAR_STAT, 0, 9⟩
def Reg.XBAR_STAT_SPARE_PLANE : Fld := ⟨Reg.XBAR_STAT, 9, 4⟩

/-- AGE_CTL (R199). -/
def Reg.AGE_CTL (i : Nat) : RegRef := ⟨0x800040 + i * 0x8, 0x3E8⟩
def Reg.AGE_CTL_AGE_LIMIT (i : Nat) : Fld := ⟨Reg.AGE_CTL i, 0, 17⟩

/-- MCAST_RO (R200). -/
def Reg.MCAST_RO (i : Nat) (j : Nat) : RegRef := ⟨0x840000 + i * 0x40 + j * 0x8, 0x0⟩
def Reg.MCAST_RO_PORTS (i : Nat) (j : Nat) : Fld := ⟨Reg.MCAST_RO i j, 0, 64⟩

/-- MCAST_RW (R200). -/
def Reg.MCAST_RW (i : Nat) (j : Nat) : RegRef := ⟨0x8C0000 + i * 0x40 + j * 0x8, 0x0⟩
def Reg.MCAST_RW_PORTS (i : Nat) (j : Nat) : Fld := ⟨Reg.MCAST_RW i j, 0, 64⟩

/-- MIR_CFG (R201). -/
def Reg.MIR_CFG (i : Nat) : RegRef := ⟨0x980000 + i * 0x40, 0x4800000200000⟩
def Reg.MIR_CFG_EN (i : Nat) : Fld := ⟨Reg.MIR_CFG i, 0, 1⟩
def Reg.MIR_CFG_KIND (i : Nat) : Fld := ⟨Reg.MIR_CFG i, 1, 2⟩
def Reg.MIR_CFG_SRC_PORT (i : Nat) : Fld := ⟨Reg.MIR_CFG i, 3, 9⟩
def Reg.MIR_CFG_DEST_PORT (i : Nat) : Fld := ⟨Reg.MIR_CFG i, 12, 9⟩
def Reg.MIR_CFG_SAMPLE_N (i : Nat) : Fld := ⟨Reg.MIR_CFG i, 21, 16⟩
def Reg.MIR_CFG_TRUNC_LEN (i : Nat) : Fld := ⟨Reg.MIR_CFG i, 37, 14⟩
def Reg.MIR_CFG_RANDOM (i : Nat) : Fld := ⟨Reg.MIR_CFG i, 51, 1⟩

/-- MIR_FLOW (R201). -/
def Reg.MIR_FLOW (i : Nat) : RegRef := ⟨0x980008 + i * 0x40, 0x1004111000⟩
def Reg.MIR_FLOW_DOMAIN (i : Nat) : Fld := ⟨Reg.MIR_FLOW i, 0, 12⟩
def Reg.MIR_FLOW_DOMAIN_ANY (i : Nat) : Fld := ⟨Reg.MIR_FLOW i, 12, 1⟩
def Reg.MIR_FLOW_MCLASS (i : Nat) : Fld := ⟨Reg.MIR_FLOW i, 13, 3⟩
def Reg.MIR_FLOW_MCLASS_ANY (i : Nat) : Fld := ⟨Reg.MIR_FLOW i, 16, 1⟩
def Reg.MIR_FLOW_TC (i : Nat) : Fld := ⟨Reg.MIR_FLOW i, 17, 3⟩
def Reg.MIR_FLOW_TC_ANY (i : Nat) : Fld := ⟨Reg.MIR_FLOW i, 20, 1⟩
def Reg.MIR_FLOW_OPCODE (i : Nat) : Fld := ⟨Reg.MIR_FLOW i, 21, 5⟩
def Reg.MIR_FLOW_OPCODE_ANY (i : Nat) : Fld := ⟨Reg.MIR_FLOW i, 26, 1⟩
def Reg.MIR_FLOW_PORT (i : Nat) : Fld := ⟨Reg.MIR_FLOW i, 27, 9⟩
def Reg.MIR_FLOW_PORT_ANY (i : Nat) : Fld := ⟨Reg.MIR_FLOW i, 36, 1⟩

/-- MIR_STAT (R201). -/
def Reg.MIR_STAT (i : Nat) : RegRef := ⟨0x980010 + i * 0x40, 0x0⟩
def Reg.MIR_STAT_SEQ (i : Nat) : Fld := ⟨Reg.MIR_STAT i, 0, 32⟩

/-- MIR_DROP (R201). -/
def Reg.MIR_DROP (i : Nat) : RegRef := ⟨0x980018 + i * 0x40, 0x0⟩

/-- MIR_DMAC (R201). -/
def Reg.MIR_DMAC (i : Nat) : RegRef := ⟨0x980020 + i * 0x40, 0x0⟩
def Reg.MIR_DMAC_MAC (i : Nat) : Fld := ⟨Reg.MIR_DMAC i, 0, 48⟩

/-- SLAG_AGED_ALL (R203). -/
def Reg.SLAG_AGED_ALL : RegRef := ⟨0x9FF000, 0x0⟩

/-- SLAG_PUSHED_OUT_ALL (R203). -/
def Reg.SLAG_PUSHED_OUT_ALL : RegRef := ⟨0x9FF008, 0x0⟩

/-- SLAG_HEARTH_FULL_ALL (R203). -/
def Reg.SLAG_HEARTH_FULL_ALL : RegRef := ⟨0x9FF010, 0x0⟩

/-- CUT_DISCARD_ALL (R203). -/
def Reg.CUT_DISCARD_ALL : RegRef := ⟨0x9FF018, 0x0⟩

/-- SHAPE_CFG (R220). -/
def Reg.SHAPE_CFG (i : Nat) (j : Nat) : RegRef := ⟨0xA00000 + i * 0x400 + j * 0x20, 0x4000100000000⟩
def Reg.SHAPE_CFG_RATE_MBPS (i : Nat) (j : Nat) : Fld := ⟨Reg.SHAPE_CFG i j, 0, 22⟩
def Reg.SHAPE_CFG_BURST_64B (i : Nat) (j : Nat) : Fld := ⟨Reg.SHAPE_CFG i j, 22, 20⟩
def Reg.SHAPE_CFG_OVERHEAD (i : Nat) (j : Nat) : Fld := ⟨Reg.SHAPE_CFG i j, 42, 8⟩
def Reg.SHAPE_CFG_PRIO (i : Nat) (j : Nat) : Fld := ⟨Reg.SHAPE_CFG i j, 50, 2⟩
def Reg.SHAPE_CFG_MODE (i : Nat) (j : Nat) : Fld := ⟨Reg.SHAPE_CFG i j, 52, 1⟩

/-- SHAPE_STAT (R220). -/
def Reg.SHAPE_STAT (i : Nat) (j : Nat) : RegRef := ⟨0xA00008 + i * 0x400 + j * 0x20, 0x10000⟩
def Reg.SHAPE_STAT_TOKENS (i : Nat) (j : Nat) : Fld := ⟨Reg.SHAPE_STAT i j, 0, 32⟩
def Reg.SHAPE_STAT_HELD (i : Nat) (j : Nat) : Fld := ⟨Reg.SHAPE_STAT i j, 32, 1⟩

/-- TEL (R220). -/
def Reg.TEL (i : Nat) (j : Nat) : RegRef := ⟨0xA00010 + i * 0x400 + j * 0x20, 0x0⟩
def Reg.TEL_DEPTH_NOW (i : Nat) (j : Nat) : Fld := ⟨Reg.TEL i j, 0, 20⟩
def Reg.TEL_DEPTH_MAX (i : Nat) (j : Nat) : Fld := ⟨Reg.TEL i j, 20, 20⟩

/-- TEL_DLY (R220). -/
def Reg.TEL_DLY (i : Nat) (j : Nat) : RegRef := ⟨0xA00018 + i * 0x400 + j * 0x20, 0x0⟩
def Reg.TEL_DLY_DELAY_NOW_NS (i : Nat) (j : Nat) : Fld := ⟨Reg.TEL_DLY i j, 0, 24⟩
def Reg.TEL_DLY_DELAY_MAX_NS (i : Nat) (j : Nat) : Fld := ⟨Reg.TEL_DLY i j, 24, 24⟩

/-- POL_CFG (R221). -/
def Reg.POL_CFG (i : Nat) : RegRef := ⟨0xA00100 + i * 0x400, 0x100000000⟩
def Reg.POL_CFG_RATE_MBPS (i : Nat) : Fld := ⟨Reg.POL_CFG i, 0, 22⟩
def Reg.POL_CFG_BURST_64B (i : Nat) : Fld := ⟨Reg.POL_CFG i, 22, 20⟩
def Reg.POL_CFG_OVERHEAD (i : Nat) : Fld := ⟨Reg.POL_CFG i, 42, 8⟩
def Reg.POL_CFG_ACTION (i : Nat) : Fld := ⟨Reg.POL_CFG i, 50, 2⟩
def Reg.POL_CFG_REMARK_TC (i : Nat) : Fld := ⟨Reg.POL_CFG i, 52, 3⟩

/-- POL_STAT (R221). -/
def Reg.POL_STAT (i : Nat) : RegRef := ⟨0xA00108 + i * 0x400, 0x10000⟩
def Reg.POL_STAT_TOKENS (i : Nat) : Fld := ⟨Reg.POL_STAT i, 0, 32⟩

/-- POL_EXCEED (R221). -/
def Reg.POL_EXCEED (i : Nat) : RegRef := ⟨0xA00110 + i * 0x400, 0x0⟩

/-- SLAG_POLICED (R221). -/
def Reg.SLAG_POLICED (i : Nat) : RegRef := ⟨0xA00118 + i * 0x400, 0x0⟩

/-- TEL_CLR (R221). -/
def Reg.TEL_CLR (i : Nat) : RegRef := ⟨0xA00120 + i * 0x400, 0x0⟩
def Reg.TEL_CLR_CLR (i : Nat) : Fld := ⟨Reg.TEL_CLR i, 0, 1⟩

/-- TEL_HIST (R221). -/
def Reg.TEL_HIST (i : Nat) (j : Nat) (k : Nat) : RegRef := ⟨0xA00200 + i * 0x400 + j * 0x40 + k * 0x8, 0x0⟩

/-- BELLOWS_CTL (R222). -/
def Reg.BELLOWS_CTL : RegRef := ⟨0xB00000, 0x303E8⟩
def Reg.BELLOWS_CTL_SAMPLE_NS : Fld := ⟨Reg.BELLOWS_CTL, 0, 16⟩
def Reg.BELLOWS_CTL_INT_PRIO : Fld := ⟨Reg.BELLOWS_CTL, 16, 2⟩
def Reg.BELLOWS_CTL_QUENCH_TC : Fld := ⟨Reg.BELLOWS_CTL, 18, 3⟩

/-- QSHAPE_CFG (R223). -/
def Reg.QSHAPE_CFG (i : Nat) : RegRef := ⟨0xB10000 + i * 0x10, 0x10009C40⟩
def Reg.QSHAPE_CFG_RATE_MBPS (i : Nat) : Fld := ⟨Reg.QSHAPE_CFG i, 0, 22⟩
def Reg.QSHAPE_CFG_BURST_64B (i : Nat) : Fld := ⟨Reg.QSHAPE_CFG i, 22, 20⟩

/-- QSHAPE_STAT (R223). -/
def Reg.QSHAPE_STAT (i : Nat) : RegRef := ⟨0xB10008 + i * 0x10, 0x1000⟩
def Reg.QSHAPE_STAT_TOKENS (i : Nat) : Fld := ⟨Reg.QSHAPE_STAT i, 0, 32⟩
def Reg.QSHAPE_STAT_HELD (i : Nat) : Fld := ⟨Reg.QSHAPE_STAT i, 32, 1⟩

/-- DIR_CTL (R163). -/
def Reg.DIR_CTL : RegRef := ⟨0xC00000, 0x1F4001407D000C8⟩
def Reg.DIR_CTL_COMBINE_WIN_NS : Fld := ⟨Reg.DIR_CTL, 0, 14⟩
def Reg.DIR_CTL_HOLD_LIMIT_NS : Fld := ⟨Reg.DIR_CTL, 16, 16⟩
def Reg.DIR_CTL_SNP_TIMEOUT_US : Fld := ⟨Reg.DIR_CTL, 32, 16⟩
def Reg.DIR_CTL_ATOMIC_IDLE_NS : Fld := ⟨Reg.DIR_CTL, 48, 12⟩

/-- PARK_CTL (R163). -/
def Reg.PARK_CTL : RegRef := ⟨0xC00008, 0x0⟩
def Reg.PARK_CTL_PARK_LIMIT_US : Fld := ⟨Reg.PARK_CTL, 0, 32⟩

/-- DIR_STAT (R163). -/
def Reg.DIR_STAT : RegRef := ⟨0xC00010, 0x0⟩
def Reg.DIR_STAT_REVERT_BUSY : Fld := ⟨Reg.DIR_STAT, 0, 1⟩
def Reg.DIR_STAT_BACKING_FULL : Fld := ⟨Reg.DIR_STAT, 1, 1⟩
def Reg.DIR_STAT_MODE_CHANGE_BUSY : Fld := ⟨Reg.DIR_STAT, 2, 1⟩
def Reg.DIR_STAT_PARKED_NOW : Fld := ⟨Reg.DIR_STAT, 16, 19⟩

/-- REVERT_BASE (R163). -/
def Reg.REVERT_BASE : RegRef := ⟨0xC00018, 0x0⟩
def Reg.REVERT_BASE_PAGE : Fld := ⟨Reg.REVERT_BASE, 0, 31⟩

/-- REVERT_GO (R163). -/
def Reg.REVERT_GO : RegRef := ⟨0xC00020, 0x0⟩
def Reg.REVERT_GO_PAGES : Fld := ⟨Reg.REVERT_GO, 0, 32⟩

/-- DIR_CAP (R163). -/
def Reg.DIR_CAP : RegRef := ⟨0xC00028, 0x0⟩
def Reg.DIR_CAP_BACKING_GIB : Fld := ⟨Reg.DIR_CAP, 0, 5⟩

/-- SNP_INV_TX (R164). -/
def Reg.SNP_INV_TX : RegRef := ⟨0xC00100, 0x0⟩

/-- SNP_RECALL_TX (R164). -/
def Reg.SNP_RECALL_TX : RegRef := ⟨0xC00108, 0x0⟩

/-- BACK_INVAL (R164). -/
def Reg.BACK_INVAL : RegRef := ⟨0xC00110, 0x0⟩

/-- UNHELD_WRITE (R164). -/
def Reg.UNHELD_WRITE : RegRef := ⟨0xC00118, 0x0⟩

/-- HOLD_EXPIRED (R164). -/
def Reg.HOLD_EXPIRED : RegRef := ⟨0xC00120, 0x0⟩

/-- COMBINED_READS (R164). -/
def Reg.COMBINED_READS : RegRef := ⟨0xC00128, 0x0⟩

/-- COMBINED_ATOMICS (R164). -/
def Reg.COMBINED_ATOMICS : RegRef := ⟨0xC00130, 0x0⟩

/-- SNP_TIMEOUTS (R164). -/
def Reg.SNP_TIMEOUTS : RegRef := ⟨0xC00138, 0x0⟩

/-- LOST_DIRTY_LINES (R164). -/
def Reg.LOST_DIRTY_LINES : RegRef := ⟨0xC00140, 0x0⟩

/-- LOST_DIRTY_POISON (R164). -/
def Reg.LOST_DIRTY_POISON : RegRef := ⟨0xC00148, 0x0⟩

/-- PARKED_TOTAL (R164). -/
def Reg.PARKED_TOTAL : RegRef := ⟨0xC00150, 0x0⟩

/-- PARK_POISON (R164). -/
def Reg.PARK_POISON : RegRef := ⟨0xC00158, 0x0⟩

/-- PARK_OVERFLOW (R164). -/
def Reg.PARK_OVERFLOW : RegRef := ⟨0xC00160, 0x0⟩

/-- OWN_DOWNGRADE (R164). -/
def Reg.OWN_DOWNGRADE : RegRef := ⟨0xC00168, 0x0⟩

/-- SLAG_WB_NOT_OWNER (R164). -/
def Reg.SLAG_WB_NOT_OWNER : RegRef := ⟨0xC00170, 0x0⟩

/-- TIER_CTL (R376). -/
def Reg.TIER_CTL : RegRef := ⟨0xE00000, 0x6400⟩
def Reg.TIER_CTL_SVC_MODE : Fld := ⟨Reg.TIER_CTL, 0, 2⟩
def Reg.TIER_CTL_FLUSH : Fld := ⟨Reg.TIER_CTL, 2, 1⟩
def Reg.TIER_CTL_TIER_TC : Fld := ⟨Reg.TIER_CTL, 3, 3⟩
def Reg.TIER_CTL_PROMOTE_EN : Fld := ⟨Reg.TIER_CTL, 6, 1⟩
def Reg.TIER_CTL_SHADOW_QUIET_US : Fld := ⟨Reg.TIER_CTL, 8, 16⟩

/-- TIER_THR (R376). -/
def Reg.TIER_THR : RegRef := ⟨0xE00008, 0x6403E800400400⟩
def Reg.TIER_THR_PROMOTE_THR : Fld := ⟨Reg.TIER_THR, 0, 16⟩
def Reg.TIER_THR_DEMOTE_THR : Fld := ⟨Reg.TIER_THR, 16, 16⟩
def Reg.TIER_THR_DECAY_MS : Fld := ⟨Reg.TIER_THR, 32, 16⟩
def Reg.TIER_THR_CLEAN_MS : Fld := ⟨Reg.TIER_THR, 48, 16⟩

/-- TIER_STAT (R376). -/
def Reg.TIER_STAT : RegRef := ⟨0xE00010, 0x0⟩
def Reg.TIER_STAT_FRAMES : Fld := ⟨Reg.TIER_STAT, 0, 17⟩
def Reg.TIER_STAT_FRAMES_USED : Fld := ⟨Reg.TIER_STAT, 17, 17⟩
def Reg.TIER_STAT_FRAMES_DIRTY : Fld := ⟨Reg.TIER_STAT, 34, 17⟩
def Reg.TIER_STAT_FLUSH_BUSY : Fld := ⟨Reg.TIER_STAT, 51, 1⟩
def Reg.TIER_STAT_CAND_NOW : Fld := ⟨Reg.TIER_STAT, 52, 12⟩

/-- FORGE_AREA (R376). -/
def Reg.FORGE_AREA (i : Nat) : RegRef := ⟨0xE00040 + i * 0x8, 0x0⟩
def Reg.FORGE_AREA_BASE_2M (i : Nat) : Fld := ⟨Reg.FORGE_AREA i, 0, 17⟩
def Reg.FORGE_AREA_SIZE_2M (i : Nat) : Fld := ⟨Reg.FORGE_AREA i, 17, 17⟩

/-- PROMOTIONS (R377). -/
def Reg.PROMOTIONS : RegRef := ⟨0xE00100, 0x0⟩

/-- DEMOTIONS (R377). -/
def Reg.DEMOTIONS : RegRef := ⟨0xE00108, 0x0⟩

/-- DIRTY_WRITEBACKS (R377). -/
def Reg.DIRTY_WRITEBACKS : RegRef := ⟨0xE00110, 0x0⟩

/-- FORGE_HITS (R377). -/
def Reg.FORGE_HITS : RegRef := ⟨0xE00118, 0x0⟩

/-- CAND_DROPPED (R377). -/
def Reg.CAND_DROPPED : RegRef := ⟨0xE00120, 0x0⟩

/-- RO_WRITE_REFUSED (R377). -/
def Reg.RO_WRITE_REFUSED : RegRef := ⟨0xE00128, 0x0⟩

/-- FR_REFUSED (R377). -/
def Reg.FR_REFUSED : RegRef := ⟨0xE00130, 0x0⟩

/-- NATIVE_BYPASS (R377). -/
def Reg.NATIVE_BYPASS : RegRef := ⟨0xE00138, 0x0⟩

/-- CHECK_FAIL (R377). -/
def Reg.CHECK_FAIL : RegRef := ⟨0xE00140, 0x0⟩

/-- CHECK_POISON (R377). -/
def Reg.CHECK_POISON : RegRef := ⟨0xE00148, 0x0⟩

/-- GEN_UNKNOWN (R377). -/
def Reg.GEN_UNKNOWN : RegRef := ⟨0xE00150, 0x0⟩

/-- NO_KEY (R377). -/
def Reg.NO_KEY : RegRef := ⟨0xE00158, 0x0⟩

/-- SHADOW_BUILT (R377). -/
def Reg.SHADOW_BUILT : RegRef := ⟨0xE00160, 0x0⟩

/-- SHADOW_ABSENT (R377). -/
def Reg.SHADOW_ABSENT : RegRef := ⟨0xE00168, 0x0⟩

/-- ROTATE_REFUSED (R377). -/
def Reg.ROTATE_REFUSED : RegRef := ⟨0xE00170, 0x0⟩

/-- SWEEP_LINE_FAILED (R377). -/
def Reg.SWEEP_LINE_FAILED : RegRef := ⟨0xE00178, 0x0⟩

/-- WPUSH_SRC (R378). -/
def Reg.WPUSH_SRC : RegRef := ⟨0xE00200, 0x0⟩
def Reg.WPUSH_SRC_ADDR : Fld := ⟨Reg.WPUSH_SRC, 0, 38⟩

/-- WPUSH_DST (R378). -/
def Reg.WPUSH_DST : RegRef := ⟨0xE00208, 0x0⟩
def Reg.WPUSH_DST_ADDR : Fld := ⟨Reg.WPUSH_DST, 0, 52⟩

/-- WPUSH_CFG (R378). -/
def Reg.WPUSH_CFG : RegRef := ⟨0xE00210, 0x8000000000000⟩
def Reg.WPUSH_CFG_LENGTH : Fld := ⟨Reg.WPUSH_CFG, 0, 38⟩
def Reg.WPUSH_CFG_GROUP : Fld := ⟨Reg.WPUSH_CFG, 38, 14⟩

/-- WPUSH_GO (R378). -/
def Reg.WPUSH_GO : RegRef := ⟨0xE00218, 0x0⟩
def Reg.WPUSH_GO_GO : Fld := ⟨Reg.WPUSH_GO, 0, 1⟩

/-- WPUSH_STAT (R378). -/
def Reg.WPUSH_STAT : RegRef := ⟨0xE00220, 0xFF800⟩
def Reg.WPUSH_STAT_BUSY : Fld := ⟨Reg.WPUSH_STAT, 0, 1⟩
def Reg.WPUSH_STAT_FAILED : Fld := ⟨Reg.WPUSH_STAT, 1, 10⟩
def Reg.WPUSH_STAT_FIRST_FAILED : Fld := ⟨Reg.WPUSH_STAT, 11, 9⟩

/-- STRIPE_HDR (R379). -/
def Reg.STRIPE_HDR (i : Nat) : RegRef := ⟨0xE80000 + i * 0x200, 0x0⟩
def Reg.STRIPE_HDR_N (i : Nat) : Fld := ⟨Reg.STRIPE_HDR i, 0, 8⟩

/-- STRIPE_PORTS (R379). -/
def Reg.STRIPE_PORTS (i : Nat) (j : Nat) : RegRef := ⟨0xE80100 + i * 0x200 + j * 0x8, 0x0⟩
def Reg.STRIPE_PORTS_PORT_4K (i : Nat) (j : Nat) : Fld := ⟨Reg.STRIPE_PORTS i j, 0, 16⟩
def Reg.STRIPE_PORTS_PORT_4K1 (i : Nat) (j : Nat) : Fld := ⟨Reg.STRIPE_PORTS i j, 16, 16⟩
def Reg.STRIPE_PORTS_PORT_4K2 (i : Nat) (j : Nat) : Fld := ⟨Reg.STRIPE_PORTS i j, 32, 16⟩
def Reg.STRIPE_PORTS_PORT_4K3 (i : Nat) (j : Nat) : Fld := ⟨Reg.STRIPE_PORTS i j, 48, 16⟩

/-- COMP_CTL (R444). -/
def Reg.COMP_CTL : RegRef := ⟨0x1000000, 0x3E80000⟩
def Reg.COMP_CTL_COMMIT : Fld := ⟨Reg.COMP_CTL, 0, 1⟩
def Reg.COMP_CTL_DISCARD : Fld := ⟨Reg.COMP_CTL, 1, 1⟩
def Reg.COMP_CTL_TRANS_LIMIT_US : Fld := ⟨Reg.COMP_CTL, 16, 16⟩

/-- COMP_STAT (R444). -/
def Reg.COMP_STAT : RegRef := ⟨0x1000008, 0x1⟩
def Reg.COMP_STAT_LIVE_EPOCH : Fld := ⟨Reg.COMP_STAT, 0, 16⟩
def Reg.COMP_STAT_OLD_LIVE : Fld := ⟨Reg.COMP_STAT, 16, 1⟩
def Reg.COMP_STAT_STAGED : Fld := ⟨Reg.COMP_STAT, 17, 1⟩
def Reg.COMP_STAT_OLD_INFLIGHT : Fld := ⟨Reg.COMP_STAT, 24, 24⟩

/-- COMP_ERR (R444). -/
def Reg.COMP_ERR : RegRef := ⟨0x1000010, 0x0⟩
def Reg.COMP_ERR_INDEX : Fld := ⟨Reg.COMP_ERR, 0, 29⟩
def Reg.COMP_ERR_CAUSE : Fld := ⟨Reg.COMP_ERR, 29, 3⟩
def Reg.COMP_ERR_VALID : Fld := ⟨Reg.COMP_ERR, 32, 1⟩

/-- RT_CAP (R444). -/
def Reg.RT_CAP : RegRef := ⟨0x1000018, 0x10000⟩
def Reg.RT_CAP_ON_DIE : Fld := ⟨Reg.RT_CAP, 0, 17⟩
def Reg.RT_CAP_TOTAL : Fld := ⟨Reg.RT_CAP, 17, 29⟩

/-- RT_SEL (R444). -/
def Reg.RT_SEL : RegRef := ⟨0x1000020, 0x0⟩
def Reg.RT_SEL_INDEX : Fld := ⟨Reg.RT_SEL, 0, 29⟩

/-- EXT_CMD (R444). -/
def Reg.EXT_CMD : RegRef := ⟨0x1000030, 0x0⟩
def Reg.EXT_CMD_EXT : Fld := ⟨Reg.EXT_CMD, 0, 16⟩
def Reg.EXT_CMD_OP : Fld := ⟨Reg.EXT_CMD, 16, 2⟩
def Reg.EXT_CMD_DOMAIN : Fld := ⟨Reg.EXT_CMD, 18, 12⟩
def Reg.EXT_CMD_ERASE : Fld := ⟨Reg.EXT_CMD, 30, 1⟩
def Reg.EXT_CMD_GO : Fld := ⟨Reg.EXT_CMD, 31, 1⟩

/-- QUENCH_STAT (R444). -/
def Reg.QUENCH_STAT : RegRef := ⟨0x1000038, 0x0⟩
def Reg.QUENCH_STAT_ACTIVE : Fld := ⟨Reg.QUENCH_STAT, 0, 16⟩
def Reg.QUENCH_STAT_LINES_LEFT : Fld := ⟨Reg.QUENCH_STAT, 16, 48⟩

/-- RT_DATA (R444). -/
def Reg.RT_DATA (i : Nat) : RegRef := ⟨0x1000050 + i * 0x8, 0x0⟩
def Reg.RT_DATA_WORD (i : Nat) : Fld := ⟨Reg.RT_DATA i, 0, 64⟩

/-- RT_GO (R444). -/
def Reg.RT_GO : RegRef := ⟨0x1000070, 0x0⟩
def Reg.RT_GO_WRITE : Fld := ⟨Reg.RT_GO, 0, 1⟩
def Reg.RT_GO_READ : Fld := ⟨Reg.RT_GO, 1, 1⟩

/-- DOMAIN_MISMATCH (R445). -/
def Reg.DOMAIN_MISMATCH : RegRef := ⟨0x1000100, 0x0⟩

/-- FOREIGN_OPS (R445). -/
def Reg.FOREIGN_OPS : RegRef := ⟨0x1000108, 0x0⟩

/-- UNMAPPED (R445). -/
def Reg.UNMAPPED : RegRef := ⟨0x1000110, 0x0⟩

/-- ACCESS_DENIED (R445). -/
def Reg.ACCESS_DENIED : RegRef := ⟨0x1000118, 0x0⟩

/-- REVOKED_REQ (R445). -/
def Reg.REVOKED_REQ : RegRef := ⟨0x1000120, 0x0⟩

/-- QUENCHED_REQ (R445). -/
def Reg.QUENCHED_REQ : RegRef := ⟨0x1000128, 0x0⟩

/-- OWN_DENIED_REQ (R445). -/
def Reg.OWN_DENIED_REQ : RegRef := ⟨0x1000130, 0x0⟩

/-- STALE_EPOCH_REQ (R445). -/
def Reg.STALE_EPOCH_REQ : RegRef := ⟨0x1000138, 0x0⟩

/-- SLAG_STALE (R445). -/
def Reg.SLAG_STALE : RegRef := ⟨0x1000140, 0x0⟩

/-- TRAY_REFUSED (R445). -/
def Reg.TRAY_REFUSED : RegRef := ⟨0x1000148, 0x0⟩

/-- RT_MISS (R445). -/
def Reg.RT_MISS : RegRef := ⟨0x1000150, 0x0⟩

/-- COMMIT_REFUSED (R445). -/
def Reg.COMMIT_REFUSED : RegRef := ⟨0x1000158, 0x0⟩

/-- EXT_CMD_REFUSED (R445). -/
def Reg.EXT_CMD_REFUSED : RegRef := ⟨0x1000160, 0x0⟩

/-- WIN_REFUSED (R445). -/
def Reg.WIN_REFUSED : RegRef := ⟨0x1000168, 0x0⟩

/-- CLAIMS_DENIED (R445). -/
def Reg.CLAIMS_DENIED : RegRef := ⟨0x1000170, 0x0⟩

/-- LEASES_EXPIRED (R445). -/
def Reg.LEASES_EXPIRED : RegRef := ⟨0x1000178, 0x0⟩

/-- QUENCH_LINE_FAILED (R445). -/
def Reg.QUENCH_LINE_FAILED : RegRef := ⟨0x1000180, 0x0⟩

/-- PORT_BIND (R446). -/
def Reg.PORT_BIND (i : Nat) : RegRef := ⟨0x1010000 + i * 0x8, 0x0⟩
def Reg.PORT_BIND_DOMAIN (i : Nat) : Fld := ⟨Reg.PORT_BIND i, 0, 12⟩
def Reg.PORT_BIND_BOUND (i : Nat) : Fld := ⟨Reg.PORT_BIND i, 12, 1⟩

/-- EXT_BASE (R446). -/
def Reg.EXT_BASE (i : Nat) : RegRef := ⟨0x1040000 + i * 0x10, 0x0⟩
def Reg.EXT_BASE_PPA_PAGE (i : Nat) : Fld := ⟨Reg.EXT_BASE i, 0, 31⟩
def Reg.EXT_BASE_PAGES (i : Nat) : Fld := ⟨Reg.EXT_BASE i, 32, 32⟩

/-- EXT_STATE (R446). -/
def Reg.EXT_STATE (i : Nat) : RegRef := ⟨0x1040008 + i * 0x10, 0x0⟩
def Reg.EXT_STATE_OWNER (i : Nat) : Fld := ⟨Reg.EXT_STATE i, 0, 12⟩
def Reg.EXT_STATE_STATE (i : Nat) : Fld := ⟨Reg.EXT_STATE i, 12, 3⟩
def Reg.EXT_STATE_ERASE (i : Nat) : Fld := ⟨Reg.EXT_STATE i, 15, 1⟩
def Reg.EXT_STATE_WAIT_KEY (i : Nat) : Fld := ⟨Reg.EXT_STATE i, 16, 1⟩
def Reg.EXT_STATE_INFLIGHT (i : Nat) : Fld := ⟨Reg.EXT_STATE i, 24, 24⟩

/-- WIN (R446). -/
def Reg.WIN (i : Nat) : RegRef := ⟨0x1140000 + i * 0x8, 0x0⟩
def Reg.WIN_BASE_2M (i : Nat) : Fld := ⟨Reg.WIN i, 0, 17⟩
def Reg.WIN_SIZE_2M (i : Nat) : Fld := ⟨Reg.WIN i, 17, 17⟩
def Reg.WIN_DOMAIN (i : Nat) : Fld := ⟨Reg.WIN i, 34, 12⟩
def Reg.WIN_WRITE (i : Nat) : Fld := ⟨Reg.WIN i, 46, 1⟩

/-- POOL (R446). -/
def Reg.POOL (i : Nat) (j : Nat) : RegRef := ⟨0x1160000 + i * 0x40 + j * 0x8, 0x0⟩
def Reg.POOL_PORTS (i : Nat) (j : Nat) : Fld := ⟨Reg.POOL i j, 0, 64⟩

/-- POOL_DOM (R446). -/
def Reg.POOL_DOM (i : Nat) : RegRef := ⟨0x1164000 + i * 0x8, 0x0⟩
def Reg.POOL_DOM_DOMAIN (i : Nat) : Fld := ⟨Reg.POOL_DOM i, 0, 12⟩
def Reg.POOL_DOM_VALID (i : Nat) : Fld := ⟨Reg.POOL_DOM i, 12, 1⟩

/-- OWN (R446). -/
def Reg.OWN (i : Nat) (j : Nat) : RegRef := ⟨0x1180000 + i * 0x20 + j * 0x8, 0x0⟩
def Reg.OWN_WORD (i : Nat) (j : Nat) : Fld := ⟨Reg.OWN i j, 0, 64⟩

/-- EXT_ZFILL (R446). -/
def Reg.EXT_ZFILL (i : Nat) : RegRef := ⟨0x1200000 + i * 0x8, 0x0⟩
def Reg.EXT_ZFILL_ZSTRIPE (i : Nat) : Fld := ⟨Reg.EXT_ZFILL i, 0, 10⟩
def Reg.EXT_ZFILL_ZMSTRIPE (i : Nat) : Fld := ⟨Reg.EXT_ZFILL i, 16, 10⟩
def Reg.EXT_ZFILL_ZMIRROR (i : Nat) : Fld := ⟨Reg.EXT_ZFILL i, 31, 1⟩

/-- GRT_CFG (R411). -/
def Reg.GRT_CFG : RegRef := ⟨0x1300000, 0x6407D01040C35A⟩
def Reg.GRT_CFG_UDP_PORT : Fld := ⟨Reg.GRT_CFG, 0, 16⟩
def Reg.GRT_CFG_HOP_LIMIT : Fld := ⟨Reg.GRT_CFG, 16, 8⟩
def Reg.GRT_CFG_ACK_EVERY : Fld := ⟨Reg.GRT_CFG, 24, 8⟩
def Reg.GRT_CFG_ACK_DELAY_NS : Fld := ⟨Reg.GRT_CFG, 32, 16⟩
def Reg.GRT_CFG_PFC_WD_MS : Fld := ⟨Reg.GRT_CFG, 48, 8⟩
def Reg.GRT_CFG_PFC_WD_DROP : Fld := ⟨Reg.GRT_CFG, 56, 1⟩

/-- GRT_CFG2 (R411). -/
def Reg.GRT_CFG2 : RegRef := ⟨0x1300008, 0x64⟩
def Reg.GRT_CFG2_HOST_FETCH_LIMIT_US : Fld := ⟨Reg.GRT_CFG2, 0, 16⟩

/-- GRT_STAT (R411). -/
def Reg.GRT_STAT : RegRef := ⟨0x1300010, 0x0⟩
def Reg.GRT_STAT_CACHED_A : Fld := ⟨Reg.GRT_STAT, 0, 14⟩
def Reg.GRT_STAT_CACHED_B : Fld := ⟨Reg.GRT_STAT, 14, 14⟩
def Reg.GRT_STAT_MISSQ : Fld := ⟨Reg.GRT_STAT, 28, 13⟩

/-- GRT_CAP (R411). -/
def Reg.GRT_CAP : RegRef := ⟨0x1300018, 0x0⟩
def Reg.GRT_CAP_CTX_MAX : Fld := ⟨Reg.GRT_CAP, 0, 21⟩
def Reg.GRT_CAP_HOST_BACKING : Fld := ⟨Reg.GRT_CAP, 21, 1⟩
def Reg.GRT_CAP_RETX_MIB : Fld := ⟨Reg.GRT_CAP, 22, 16⟩

/-- GRT_TX_PKTS (R412). -/
def Reg.GRT_TX_PKTS : RegRef := ⟨0x1300100, 0x0⟩

/-- GRT_RX_PKTS (R412). -/
def Reg.GRT_RX_PKTS : RegRef := ⟨0x1300108, 0x0⟩

/-- GRT_RETX_PKTS (R412). -/
def Reg.GRT_RETX_PKTS : RegRef := ⟨0x1300110, 0x0⟩

/-- GRT_DUP_RX (R412). -/
def Reg.GRT_DUP_RX : RegRef := ⟨0x1300118, 0x0⟩

/-- GRT_SEQ_NAK_TX (R412). -/
def Reg.GRT_SEQ_NAK_TX : RegRef := ⟨0x1300120, 0x0⟩

/-- GRT_RNR_TX (R412). -/
def Reg.GRT_RNR_TX : RegRef := ⟨0x1300128, 0x0⟩

/-- GRT_NAK_REVOKED_TX (R412). -/
def Reg.GRT_NAK_REVOKED_TX : RegRef := ⟨0x1300130, 0x0⟩

/-- GRT_ACCESS_DENIED (R412). -/
def Reg.GRT_ACCESS_DENIED : RegRef := ⟨0x1300138, 0x0⟩

/-- GRT_NAK_IGNORED (R412). -/
def Reg.GRT_NAK_IGNORED : RegRef := ⟨0x1300140, 0x0⟩

/-- GRT_RTO (R412). -/
def Reg.GRT_RTO : RegRef := ⟨0x1300148, 0x0⟩

/-- GRT_LATE_ACK (R412). -/
def Reg.GRT_LATE_ACK : RegRef := ⟨0x1300150, 0x0⟩

/-- GRT_CTX_MISS (R412). -/
def Reg.GRT_CTX_MISS : RegRef := ⟨0x1300158, 0x0⟩

/-- GRT_CTX_MISS_HOST (R412). -/
def Reg.GRT_CTX_MISS_HOST : RegRef := ⟨0x1300160, 0x0⟩

/-- REMOTE_REQ_REFUSED (R412). -/
def Reg.REMOTE_REQ_REFUSED : RegRef := ⟨0x1300168, 0x0⟩

/-- PFC_STORMS (R412). -/
def Reg.PFC_STORMS : RegRef := ⟨0x1300170, 0x0⟩

/-- SLAG_GRT_BAD (R412). -/
def Reg.SLAG_GRT_BAD : RegRef := ⟨0x1300178, 0x0⟩

/-- SLAG_GRT_NOCTX (R412). -/
def Reg.SLAG_GRT_NOCTX : RegRef := ⟨0x1300180, 0x0⟩

/-- SLAG_GRT_RNR_DROP (R412). -/
def Reg.SLAG_GRT_RNR_DROP : RegRef := ⟨0x1300188, 0x0⟩

/-- SLAG_GRT_FAILED_MSG (R412). -/
def Reg.SLAG_GRT_FAILED_MSG : RegRef := ⟨0x1300190, 0x0⟩

/-- UPL_MAC (R413). -/
def Reg.UPL_MAC (i : Nat) : RegRef := ⟨0x1301000 + i * 0x40, 0x0⟩
def Reg.UPL_MAC_MAC (i : Nat) : Fld := ⟨Reg.UPL_MAC i, 0, 48⟩

/-- UPL_IP_LO (R413). -/
def Reg.UPL_IP_LO (i : Nat) : RegRef := ⟨0x1301008 + i * 0x40, 0x0⟩
def Reg.UPL_IP_LO_IP_LO (i : Nat) : Fld := ⟨Reg.UPL_IP_LO i, 0, 64⟩

/-- UPL_IP_HI (R413). -/
def Reg.UPL_IP_HI (i : Nat) : RegRef := ⟨0x1301010 + i * 0x40, 0x0⟩
def Reg.UPL_IP_HI_IP_HI (i : Nat) : Fld := ⟨Reg.UPL_IP_HI i, 0, 64⟩

/-- UPL_PFC (R413). -/
def Reg.UPL_PFC (i : Nat) : RegRef := ⟨0x1301018 + i * 0x40, 0x0⟩
def Reg.UPL_PFC_PFC_EN (i : Nat) : Fld := ⟨Reg.UPL_PFC i, 0, 8⟩
def Reg.UPL_PFC_XOFF_CELLS (i : Nat) : Fld := ⟨Reg.UPL_PFC i, 8, 20⟩
def Reg.UPL_PFC_XON_CELLS (i : Nat) : Fld := ⟨Reg.UPL_PFC i, 28, 20⟩

/-- UPL_PFC_TX (R413). -/
def Reg.UPL_PFC_TX (i : Nat) : RegRef := ⟨0x1301020 + i * 0x40, 0x0⟩

/-- UPL_PFC_RX (R413). -/
def Reg.UPL_PFC_RX (i : Nat) : RegRef := ⟨0x1301028 + i * 0x40, 0x0⟩

/-- GRT_REG (R414). -/
def Reg.GRT_REG (i : Nat) : RegRef := ⟨0x1380000 + i * 0x8, 0x0⟩
def Reg.GRT_REG_DOMAIN (i : Nat) : Fld := ⟨Reg.GRT_REG i, 0, 12⟩
def Reg.GRT_REG_STATE (i : Nat) : Fld := ⟨Reg.GRT_REG i, 12, 2⟩
def Reg.GRT_REG_ACCESS (i : Nat) : Fld := ⟨Reg.GRT_REG i, 14, 2⟩
def Reg.GRT_REG_REG_EPOCH (i : Nat) : Fld := ⟨Reg.GRT_REG i, 16, 16⟩
def Reg.GRT_REG_INFLIGHT (i : Nat) : Fld := ⟨Reg.GRT_REG i, 32, 16⟩

/-- RAS_STAT (R471). -/
def Reg.RAS_STAT : RegRef := ⟨0x1400000, 0x0⟩
def Reg.RAS_STAT_DEGRADED_ANY : Fld := ⟨Reg.RAS_STAT, 0, 1⟩
def Reg.RAS_STAT_RESYNC_BUSY : Fld := ⟨Reg.RAS_STAT, 1, 1⟩
def Reg.RAS_STAT_LAST_DEAD : Fld := ⟨Reg.RAS_STAT, 2, 9⟩

/-- RAS_CTL (R471). -/
def Reg.RAS_CTL : RegRef := ⟨0x1400008, 0x1200000C8⟩
def Reg.RAS_CTL_HB_TIMEOUT_US : Fld := ⟨Reg.RAS_CTL, 0, 16⟩
def Reg.RAS_CTL_LANE_SER_16 : Fld := ⟨Reg.RAS_CTL, 16, 16⟩
def Reg.RAS_CTL_AUTO_SPARE : Fld := ⟨Reg.RAS_CTL, 32, 1⟩

/-- FENCE_CTL (R471). -/
def Reg.FENCE_CTL : RegRef := ⟨0x1400018, 0x0⟩
def Reg.FENCE_CTL_PORT : Fld := ⟨Reg.FENCE_CTL, 0, 9⟩
def Reg.FENCE_CTL_FENCE : Fld := ⟨Reg.FENCE_CTL, 9, 1⟩
def Reg.FENCE_CTL_ADMIT : Fld := ⟨Reg.FENCE_CTL, 10, 1⟩

/-- PART_CTL (R471). -/
def Reg.PART_CTL : RegRef := ⟨0x1400020, 0x0⟩
def Reg.PART_CTL_PART : Fld := ⟨Reg.PART_CTL, 0, 4⟩
def Reg.PART_CTL_FENCE : Fld := ⟨Reg.PART_CTL, 4, 1⟩
def Reg.PART_CTL_ELECTRICAL : Fld := ⟨Reg.PART_CTL, 5, 1⟩
def Reg.PART_CTL_RELEASE : Fld := ⟨Reg.PART_CTL, 6, 1⟩

/-- MIRROR_MARK (R471). -/
def Reg.MIRROR_MARK : RegRef := ⟨0x1400028, 0x0⟩
def Reg.MIRROR_MARK_INDEX : Fld := ⟨Reg.MIRROR_MARK, 0, 29⟩
def Reg.MIRROR_MARK_SURVIVOR : Fld := ⟨Reg.MIRROR_MARK, 29, 1⟩
def Reg.MIRROR_MARK_GO : Fld := ⟨Reg.MIRROR_MARK, 30, 1⟩

/-- TEMPER_CFG (R471). -/
def Reg.TEMPER_CFG (i : Nat) : RegRef := ⟨0x1400040 + i * 0x8, 0x27104⟩
def Reg.TEMPER_CFG_THRESHOLD (i : Nat) : Fld := ⟨Reg.TEMPER_CFG i, 0, 4⟩
def Reg.TEMPER_CFG_WINDOW_MS (i : Nat) : Fld := ⟨Reg.TEMPER_CFG i, 4, 32⟩

/-- STATE_CORRECTED (R472). -/
def Reg.STATE_CORRECTED : RegRef := ⟨0x1400100, 0x0⟩

/-- STATE_UNCORR (R472). -/
def Reg.STATE_UNCORR : RegRef := ⟨0x1400108, 0x0⟩

/-- HBM_CORRECTED (R472). -/
def Reg.HBM_CORRECTED : RegRef := ⟨0x1400110, 0x0⟩

/-- HBM_UNCORR (R472). -/
def Reg.HBM_UNCORR : RegRef := ⟨0x1400118, 0x0⟩

/-- FRAMES_RETIRED (R472). -/
def Reg.FRAMES_RETIRED : RegRef := ⟨0x1400120, 0x0⟩

/-- PORTS_DEAD (R472). -/
def Reg.PORTS_DEAD : RegRef := ⟨0x1400128, 0x0⟩

/-- FENCED_RX (R472). -/
def Reg.FENCED_RX : RegRef := ⟨0x1400130, 0x0⟩

/-- SLAG_FENCED (R472). -/
def Reg.SLAG_FENCED : RegRef := ⟨0x1400138, 0x0⟩

/-- HB_STALE (R472). -/
def Reg.HB_STALE : RegRef := ⟨0x1400140, 0x0⟩

/-- MIRROR_FAILOVER (R472). -/
def Reg.MIRROR_FAILOVER : RegRef := ⟨0x1400148, 0x0⟩

/-- MIRROR_DEGRADED_WRITES (R472). -/
def Reg.MIRROR_DEGRADED_WRITES : RegRef := ⟨0x1400150, 0x0⟩

/-- RESYNC_LINES (R472). -/
def Reg.RESYNC_LINES : RegRef := ⟨0x1400158, 0x0⟩

/-- PART_BLOCKED (R472). -/
def Reg.PART_BLOCKED : RegRef := ⟨0x1400160, 0x0⟩

/-- LATE_ITEMS (R472). -/
def Reg.LATE_ITEMS : RegRef := ⟨0x1400168, 0x0⟩

/-- TRACE_DROP (R472). -/
def Reg.TRACE_DROP : RegRef := ⟨0x1400170, 0x0⟩

/-- TRANSIENT (R472). -/
def Reg.TRANSIENT (i : Nat) : RegRef := ⟨0x1400200 + i * 0x8, 0x0⟩

/-- LASTING (R472). -/
def Reg.LASTING (i : Nat) : RegRef := ⟨0x1400240 + i * 0x8, 0x0⟩

/-- PORT_FENCE (R471). -/
def Reg.PORT_FENCE (i : Nat) : RegRef := ⟨0x1410000 + i * 0x8, 0x1⟩
def Reg.PORT_FENCE_FENCE_EPOCH (i : Nat) : Fld := ⟨Reg.PORT_FENCE i, 0, 16⟩
def Reg.PORT_FENCE_FENCED (i : Nat) : Fld := ⟨Reg.PORT_FENCE i, 16, 1⟩
def Reg.PORT_FENCE_CAUSE (i : Nat) : Fld := ⟨Reg.PORT_FENCE i, 17, 3⟩
def Reg.PORT_FENCE_PART (i : Nat) : Fld := ⟨Reg.PORT_FENCE i, 20, 4⟩
def Reg.PORT_FENCE_ADMIT_PENDING (i : Nat) : Fld := ⟨Reg.PORT_FENCE i, 24, 1⟩

/-- DOM_PART (R471). -/
def Reg.DOM_PART (i : Nat) : RegRef := ⟨0x1420000 + i * 0x8, 0x0⟩
def Reg.DOM_PART_PARTS (i : Nat) : Fld := ⟨Reg.DOM_PART i, 0, 64⟩

/-- REPAIR_LOG (R471). -/
def Reg.REPAIR_LOG (i : Nat) : RegRef := ⟨0x1430000 + i * 0x8, 0x0⟩
def Reg.REPAIR_LOG_CLASS (i : Nat) : Fld := ⟨Reg.REPAIR_LOG i, 0, 3⟩
def Reg.REPAIR_LOG_VALID (i : Nat) : Fld := ⟨Reg.REPAIR_LOG i, 3, 1⟩
def Reg.REPAIR_LOG_RESOURCE (i : Nat) : Fld := ⟨Reg.REPAIR_LOG i, 4, 16⟩
def Reg.REPAIR_LOG_TIME_US (i : Nat) : Fld := ⟨Reg.REPAIR_LOG i, 20, 44⟩

/-- LC_STAT (R543). -/
def Reg.LC_STAT : RegRef := ⟨0x1800000, 0x0⟩
def Reg.LC_STAT_STATE : Fld := ⟨Reg.LC_STAT, 0, 3⟩
def Reg.LC_STAT_DEBUG_OPEN : Fld := ⟨Reg.LC_STAT, 3, 1⟩
def Reg.LC_STAT_DEBUG_EVER : Fld := ⟨Reg.LC_STAT, 4, 1⟩
def Reg.LC_STAT_SVN_FLOOR : Fld := ⟨Reg.LC_STAT, 5, 7⟩
def Reg.LC_STAT_ID_READY : Fld := ⟨Reg.LC_STAT, 12, 1⟩
def Reg.LC_STAT_IMG_SLOT : Fld := ⟨Reg.LC_STAT, 13, 1⟩
def Reg.LC_STAT_IMG_FALLBACK : Fld := ⟨Reg.LC_STAT, 14, 1⟩
def Reg.LC_STAT_LC_ERR : Fld := ⟨Reg.LC_STAT, 16, 8⟩

/-- IMG_STAT (R543). -/
def Reg.IMG_STAT : RegRef := ⟨0x1800008, 0x0⟩
def Reg.IMG_STAT_ERR : Fld := ⟨Reg.IMG_STAT, 0, 8⟩
def Reg.IMG_STAT_SECTION : Fld := ⟨Reg.IMG_STAT, 8, 8⟩
def Reg.IMG_STAT_OFFSET : Fld := ⟨Reg.IMG_STAT, 16, 32⟩
def Reg.IMG_STAT_APPLIED : Fld := ⟨Reg.IMG_STAT, 48, 1⟩

/-- IMG_SVN (R543). -/
def Reg.IMG_SVN : RegRef := ⟨0x1800010, 0x0⟩
def Reg.IMG_SVN_SVN : Fld := ⟨Reg.IMG_SVN, 0, 32⟩

/-- RESET_CAUSE (R543). -/
def Reg.RESET_CAUSE : RegRef := ⟨0x1800018, 0x0⟩
def Reg.RESET_CAUSE_CAUSE : Fld := ⟨Reg.RESET_CAUSE, 0, 4⟩
def Reg.RESET_CAUSE_ALARM_SRC : Fld := ⟨Reg.RESET_CAUSE, 4, 4⟩
def Reg.RESET_CAUSE_WARM_RESETS : Fld := ⟨Reg.RESET_CAUSE, 8, 16⟩

/-- DEV_RESET (R543). -/
def Reg.DEV_RESET : RegRef := ⟨0x1800020, 0x0⟩
def Reg.DEV_RESET_CODE : Fld := ⟨Reg.DEV_RESET, 0, 16⟩

/-- LC_CTL (R543). -/
def Reg.LC_CTL : RegRef := ⟨0x1800028, 0x0⟩
def Reg.LC_CTL_TARGET : Fld := ⟨Reg.LC_CTL, 0, 3⟩
def Reg.LC_CTL_GO : Fld := ⟨Reg.LC_CTL, 3, 1⟩

/-- LC_TOKEN (R543). -/
def Reg.LC_TOKEN : RegRef := ⟨0x1800030, 0x0⟩
def Reg.LC_TOKEN_ADDR : Fld := ⟨Reg.LC_TOKEN, 0, 38⟩

/-- DBG_CTL (R543). -/
def Reg.DBG_CTL : RegRef := ⟨0x1800038, 0x0⟩
def Reg.DBG_CTL_UNLOCK : Fld := ⟨Reg.DBG_CTL, 0, 1⟩
def Reg.DBG_CTL_LOCK : Fld := ⟨Reg.DBG_CTL, 1, 1⟩

/-- FUSE_PROG (R543). -/
def Reg.FUSE_PROG : RegRef := ⟨0x1800040, 0x0⟩
def Reg.FUSE_PROG_FIELD : Fld := ⟨Reg.FUSE_PROG, 0, 3⟩
def Reg.FUSE_PROG_GO : Fld := ⟨Reg.FUSE_PROG, 3, 1⟩

/-- FUSE_DATA (R543). -/
def Reg.FUSE_DATA (i : Nat) : RegRef := ⟨0x1800048 + i * 0x8, 0x0⟩
def Reg.FUSE_DATA_DATA (i : Nat) : Fld := ⟨Reg.FUSE_DATA i, 0, 64⟩

/-- FUSE_STAT (R543). -/
def Reg.FUSE_STAT : RegRef := ⟨0x1800068, 0x0⟩
def Reg.FUSE_STAT_PROGRAMMED : Fld := ⟨Reg.FUSE_STAT, 0, 8⟩
def Reg.FUSE_STAT_BUSY : Fld := ⟨Reg.FUSE_STAT, 8, 1⟩

/-- UID_LO (R543). -/
def Reg.UID_LO : RegRef := ⟨0x1800070, 0x0⟩
def Reg.UID_LO_UID : Fld := ⟨Reg.UID_LO, 0, 64⟩

/-- UID_HI (R543). -/
def Reg.UID_HI : RegRef := ⟨0x1800078, 0x0⟩
def Reg.UID_HI_UID : Fld := ⟨Reg.UID_HI, 0, 64⟩

/-- SVN_RAISE (R543). -/
def Reg.SVN_RAISE : RegRef := ⟨0x1800080, 0x0⟩
def Reg.SVN_RAISE_FLOOR : Fld := ⟨Reg.SVN_RAISE, 0, 7⟩

/-- TAMPER_POL (R543). -/
def Reg.TAMPER_POL : RegRef := ⟨0x1800100, 0x0⟩
def Reg.TAMPER_POL_POL : Fld := ⟨Reg.TAMPER_POL, 0, 8⟩

/-- TAMPER_STAT (R543). -/
def Reg.TAMPER_STAT : RegRef := ⟨0x1800108, 0x0⟩
def Reg.TAMPER_STAT_LATCHED : Fld := ⟨Reg.TAMPER_STAT, 0, 4⟩
def Reg.TAMPER_STAT_ACTIVE : Fld := ⟨Reg.TAMPER_STAT, 4, 4⟩

/-- KEY_LOADS (R543). -/
def Reg.KEY_LOADS : RegRef := ⟨0x1800200, 0x0⟩

/-- KEY_REJECTS (R543). -/
def Reg.KEY_REJECTS : RegRef := ⟨0x1800208, 0x0⟩

/-- TAMPER_EVENTS (R543). -/
def Reg.TAMPER_EVENTS : RegRef := ⟨0x1800210, 0x0⟩

/-- ATTESTS (R543). -/
def Reg.ATTESTS : RegRef := ⟨0x1800218, 0x0⟩

/-- KEYGEN (R380). -/
def Reg.KEYGEN (i : Nat) : RegRef := ⟨0x1900000 + i * 0x10, 0x0⟩
def Reg.KEYGEN_CUR_GEN (i : Nat) : Fld := ⟨Reg.KEYGEN i, 0, 16⟩
def Reg.KEYGEN_PREV_GEN (i : Nat) : Fld := ⟨Reg.KEYGEN i, 16, 16⟩
def Reg.KEYGEN_PREV_LIVE (i : Nat) : Fld := ⟨Reg.KEYGEN i, 32, 1⟩
def Reg.KEYGEN_SWEEP_BUSY (i : Nat) : Fld := ⟨Reg.KEYGEN i, 33, 1⟩

/-- KEYPAGES (R380). -/
def Reg.KEYPAGES (i : Nat) : RegRef := ⟨0x1900008 + i * 0x10, 0x0⟩
def Reg.KEYPAGES_PREV_PAGES (i : Nat) : Fld := ⟨Reg.KEYPAGES i, 0, 32⟩

/-- FW_SRC (R507). -/
def Reg.FW_SRC : RegRef := ⟨0x1C00000, 0x0⟩
def Reg.FW_SRC_ADDR : Fld := ⟨Reg.FW_SRC, 0, 57⟩

/-- FW_LEN (R507). -/
def Reg.FW_LEN : RegRef := ⟨0x1C00008, 0x0⟩
def Reg.FW_LEN_BYTES : Fld := ⟨Reg.FW_LEN, 0, 25⟩

/-- FW_GO (R507). -/
def Reg.FW_GO : RegRef := ⟨0x1C00010, 0x0⟩
def Reg.FW_GO_GO : Fld := ⟨Reg.FW_GO, 0, 1⟩

/-- FW_STAT (R507). -/
def Reg.FW_STAT : RegRef := ⟨0x1C00018, 0x0⟩
def Reg.FW_STAT_STATE : Fld := ⟨Reg.FW_STAT, 0, 3⟩
def Reg.FW_STAT_ERR : Fld := ⟨Reg.FW_STAT, 8, 8⟩
def Reg.FW_STAT_CORES : Fld := ⟨Reg.FW_STAT, 16, 16⟩

/-- CORE_STAT (R507). -/
def Reg.CORE_STAT (i : Nat) : RegRef := ⟨0x1C00100 + i * 0x8, 0x0⟩
def Reg.CORE_STAT_STATE (i : Nat) : Fld := ⟨Reg.CORE_STAT i, 0, 2⟩
def Reg.CORE_STAT_RESTARTS (i : Nat) : Fld := ⟨Reg.CORE_STAT i, 2, 8⟩
def Reg.CORE_STAT_LAST_CAUSE (i : Nat) : Fld := ⟨Reg.CORE_STAT i, 10, 2⟩
def Reg.CORE_STAT_LAST_US (i : Nat) : Fld := ⟨Reg.CORE_STAT i, 16, 32⟩

/-- CORE_CTL (R507). -/
def Reg.CORE_CTL : RegRef := ⟨0x1C00180, 0x0⟩
def Reg.CORE_CTL_CORE : Fld := ⟨Reg.CORE_CTL, 0, 4⟩
def Reg.CORE_CTL_RESTART : Fld := ⟨Reg.CORE_CTL, 4, 1⟩

/-- CORE_WD (R507). -/
def Reg.CORE_WD : RegRef := ⟨0x1C00188, 0x64⟩
def Reg.CORE_WD_WD_MS : Fld := ⟨Reg.CORE_WD, 0, 16⟩

/-- CMD_DB (R506). -/
def Reg.CMD_DB (i : Nat) (j : Nat) : RegRef := ⟨0x1E00000 + i * 0x200 + j * 0x8, 0x0⟩
def Reg.CMD_DB_PI (i : Nat) (j : Nat) : Fld := ⟨Reg.CMD_DB i j, 0, 16⟩

/-- CPL_DB (R506). -/
def Reg.CPL_DB (i : Nat) (j : Nat) : RegRef := ⟨0x1E00080 + i * 0x200 + j * 0x8, 0x0⟩
def Reg.CPL_DB_CI (i : Nat) (j : Nat) : Fld := ⟨Reg.CPL_DB i j, 0, 16⟩

/-- EVT_DB (R506). -/
def Reg.EVT_DB (i : Nat) : RegRef := ⟨0x1E00100 + i * 0x200, 0x0⟩
def Reg.EVT_DB_CI (i : Nat) : Fld := ⟨Reg.EVT_DB i, 0, 16⟩

/-- RING_SEL (R506). -/
def Reg.RING_SEL (i : Nat) : RegRef := ⟨0x1E00108 + i * 0x200, 0x0⟩
def Reg.RING_SEL_INDEX (i : Nat) : Fld := ⟨Reg.RING_SEL i, 0, 5⟩
def Reg.RING_SEL_KIND (i : Nat) : Fld := ⟨Reg.RING_SEL i, 5, 2⟩

/-- RING_CFG0 (R506). -/
def Reg.RING_CFG0 (i : Nat) : RegRef := ⟨0x1E00110 + i * 0x200, 0x0⟩
def Reg.RING_CFG0_EN (i : Nat) : Fld := ⟨Reg.RING_CFG0 i, 0, 1⟩
def Reg.RING_CFG0_OFFSET_64B (i : Nat) : Fld := ⟨Reg.RING_CFG0 i, 1, 20⟩
def Reg.RING_CFG0_SIZE_CODE (i : Nat) : Fld := ⟨Reg.RING_CFG0 i, 21, 4⟩
def Reg.RING_CFG0_HOST (i : Nat) : Fld := ⟨Reg.RING_CFG0 i, 25, 1⟩
def Reg.RING_CFG0_VECTOR (i : Nat) : Fld := ⟨Reg.RING_CFG0 i, 32, 6⟩
def Reg.RING_CFG0_IRQ_COUNT (i : Nat) : Fld := ⟨Reg.RING_CFG0 i, 38, 10⟩
def Reg.RING_CFG0_IRQ_US (i : Nat) : Fld := ⟨Reg.RING_CFG0 i, 48, 16⟩

/-- RING_CFG1 (R506). -/
def Reg.RING_CFG1 (i : Nat) : RegRef := ⟨0x1E00118 + i * 0x200, 0x0⟩
def Reg.RING_CFG1_HOST_ADDR (i : Nat) : Fld := ⟨Reg.RING_CFG1 i, 0, 57⟩

/-- RING_STAT (R506). -/
def Reg.RING_STAT (i : Nat) : RegRef := ⟨0x1E00120 + i * 0x200, 0x0⟩
def Reg.RING_STAT_PI (i : Nat) : Fld := ⟨Reg.RING_STAT i, 0, 16⟩
def Reg.RING_STAT_CI (i : Nat) : Fld := ⟨Reg.RING_STAT i, 16, 16⟩
def Reg.RING_STAT_PHASE (i : Nat) : Fld := ⟨Reg.RING_STAT i, 32, 1⟩

/-- FN_STAT (R506). -/
def Reg.FN_STAT (i : Nat) : RegRef := ⟨0x1E00128 + i * 0x200, 0x0⟩
def Reg.FN_STAT_READY (i : Nat) : Fld := ⟨Reg.FN_STAT i, 0, 1⟩
def Reg.FN_STAT_DB_ERR (i : Nat) : Fld := ⟨Reg.FN_STAT i, 1, 1⟩
def Reg.FN_STAT_EVT_LOST (i : Nat) : Fld := ⟨Reg.FN_STAT i, 2, 1⟩
def Reg.FN_STAT_HOST_ERR (i : Nat) : Fld := ⟨Reg.FN_STAT i, 3, 1⟩
def Reg.FN_STAT_REGION_64K (i : Nat) : Fld := ⟨Reg.FN_STAT i, 4, 16⟩

/-- FN_BAR2_WIN (R506). -/
def Reg.FN_BAR2_WIN (i : Nat) : RegRef := ⟨0x1E00130 + i * 0x200, 0x0⟩
def Reg.FN_BAR2_WIN_BASE_2M (i : Nat) : Fld := ⟨Reg.FN_BAR2_WIN i, 0, 17⟩

/-- DB_BAD (R506). -/
def Reg.DB_BAD (i : Nat) : RegRef := ⟨0x1E00140 + i * 0x200, 0x0⟩

/-- EVT_DROP (R506). -/
def Reg.EVT_DROP (i : Nat) : RegRef := ⟨0x1E00148 + i * 0x200, 0x0⟩

/-- BAR2_REFUSED (R506). -/
def Reg.BAR2_REFUSED (i : Nat) : RegRef := ⟨0x1E00150 + i * 0x200, 0x0⟩

/-- HOST_ERRS (R506). -/
def Reg.HOST_ERRS (i : Nat) : RegRef := ⟨0x1E00158 + i * 0x200, 0x0⟩

/-- TRACE_CTL (R508). -/
def Reg.TRACE_CTL : RegRef := ⟨0x2000000, 0x0⟩
def Reg.TRACE_CTL_EN : Fld := ⟨Reg.TRACE_CTL, 0, 1⟩
def Reg.TRACE_CTL_STOP_FULL : Fld := ⟨Reg.TRACE_CTL, 1, 1⟩
def Reg.TRACE_CTL_PIN_OUT : Fld := ⟨Reg.TRACE_CTL, 2, 1⟩

/-- TRACE_EN (R508). -/
def Reg.TRACE_EN (i : Nat) : RegRef := ⟨0x2000008 + i * 0x8, 0x0⟩
def Reg.TRACE_EN_POINTS (i : Nat) : Fld := ⟨Reg.TRACE_EN i, 0, 64⟩

/-- TRACE_STAT (R508). -/
def Reg.TRACE_STAT : RegRef := ⟨0x2000028, 0x0⟩
def Reg.TRACE_STAT_NEXT : Fld := ⟨Reg.TRACE_STAT, 0, 20⟩
def Reg.TRACE_STAT_WRAPPED : Fld := ⟨Reg.TRACE_STAT, 20, 1⟩

/-- LOG_CFG (R508). -/
def Reg.LOG_CFG (i : Nat) : RegRef := ⟨0x2000100 + i * 0x8, 0x2⟩
def Reg.LOG_CFG_LEVEL (i : Nat) : Fld := ⟨Reg.LOG_CFG i, 0, 2⟩

/-- TEL_SNAP (R508). -/
def Reg.TEL_SNAP : RegRef := ⟨0x2001000, 0x0⟩
def Reg.TEL_SNAP_HOLD : Fld := ⟨Reg.TEL_SNAP, 0, 1⟩

/-- Rows 0 to 11 of the register map. -/
def Reg.rows0 : List RegRow := [
  ⟨"IDENT", 0x0, [], [⟨0, 16, .ro, 0x4D48⟩, ⟨16, 16, .ro, 0xA09⟩, ⟨32, 8, .ro, 0x10⟩, ⟨40, 8, .ro, 0x1⟩]⟩,
  ⟨"CAPS", 0x8, [], [⟨0, 16, .ro, 0x100⟩, ⟨16, 8, .ro, 0x0⟩, ⟨24, 16, .ro, 0x400⟩, ⟨40, 8, .ro, 0x0⟩, ⟨48, 4, .ro, 0x4⟩, ⟨52, 4, .ro, 0x0⟩]⟩,
  ⟨"GSTAT", 0x10, [], [⟨0, 1, .ro, 0x0⟩, ⟨1, 1, .ro, 0x0⟩, ⟨2, 1, .ro, 0x0⟩, ⟨3, 1, .ro, 0x0⟩, ⟨4, 1, .ro, 0x1⟩, ⟨5, 1, .ro, 0x0⟩, ⟨8, 8, .ro, 0x0⟩]⟩,
  ⟨"PWR_STAT", 0x100, [], [⟨0, 16, .ro, 0x0⟩, ⟨16, 16, .ro, 0x0⟩, ⟨32, 16, .ro, 0x0⟩, ⟨48, 12, .ro, 0x0⟩]⟩,
  ⟨"PWR_CTL", 0x108, [], [⟨0, 12, .rw, 0x2EE⟩, ⟨16, 12, .rw, 0x672⟩]⟩,
  ⟨"THERM_STAT", 0x110, [], [⟨0, 8, .ro, 0x0⟩, ⟨8, 6, .ro, 0x0⟩, ⟨14, 1, .ro, 0x0⟩, ⟨15, 1, .ro, 0x0⟩]⟩,
  ⟨"THERM_CFG", 0x118, [], [⟨0, 8, .rw, 0x64⟩]⟩,
  ⟨"STRAP_STAT", 0x120, [], [⟨0, 2, .ro, 0x0⟩, ⟨2, 1, .ro, 0x0⟩, ⟨3, 7, .ro, 0x0⟩, ⟨10, 1, .ro, 0x0⟩]⟩,
  ⟨"ALERT_MASK", 0x128, [], [⟨0, 1, .rw, 0x1⟩, ⟨1, 1, .rw, 0x1⟩, ⟨2, 1, .rw, 0x1⟩, ⟨3, 1, .rw, 0x1⟩, ⟨4, 1, .rw, 0x0⟩]⟩,
  ⟨"THROTTLE_US", 0x180, [], [⟨0, 48, .cnt, 0x0⟩]⟩,
  ⟨"TRIP_COUNT", 0x188, [], [⟨0, 48, .cnt, 0x0⟩]⟩,
  ⟨"PORT_CFG", 0x100000, [(0x1000, 512)], [⟨0, 2, .ro, 0x0⟩, ⟨2, 3, .ro, 0x0⟩, ⟨5, 3, .ro, 0x0⟩, ⟨8, 3, .ro, 0x0⟩, ⟨11, 7, .ro, 0x0⟩, ⟨18, 2, .ro, 0x0⟩]⟩]

/-- Rows 12 to 23 of the register map. -/
def Reg.rows1 : List RegRow := [
  ⟨"LINK_STAT", 0x100008, [(0x1000, 512)], [⟨0, 3, .ro, 0x0⟩, ⟨3, 3, .ro, 0x0⟩, ⟨6, 1, .ro, 0x0⟩, ⟨7, 1, .ro, 0x0⟩, ⟨8, 8, .ro, 0x0⟩, ⟨16, 16, .ro, 0x0⟩]⟩,
  ⟨"LINK_CTL", 0x100010, [(0x1000, 512)], [⟨0, 1, .wo, 0x0⟩, ⟨1, 1, .rw, 0x0⟩, ⟨8, 4, .rw, 0x8⟩, ⟨12, 12, .rw, 0xC8⟩, ⟨24, 16, .rw, 0xA⟩, ⟨40, 8, .rw, 0xA⟩]⟩,
  ⟨"CRC_ERR", 0x100040, [(0x1000, 512)], [⟨0, 48, .cnt, 0x0⟩]⟩,
  ⟨"FEC_CORR", 0x100048, [(0x1000, 512)], [⟨0, 48, .cnt, 0x0⟩]⟩,
  ⟨"FEC_UNCORR", 0x100050, [(0x1000, 512)], [⟨0, 48, .cnt, 0x0⟩]⟩,
  ⟨"NAK_TX", 0x100058, [(0x1000, 512)], [⟨0, 48, .cnt, 0x0⟩]⟩,
  ⟨"NAK_RX", 0x100060, [(0x1000, 512)], [⟨0, 48, .cnt, 0x0⟩]⟩,
  ⟨"REPLAY_FLITS", 0x100068, [(0x1000, 512)], [⟨0, 48, .cnt, 0x0⟩]⟩,
  ⟨"STOMP_TX", 0x100070, [(0x1000, 512)], [⟨0, 48, .cnt, 0x0⟩]⟩,
  ⟨"STOMP_RX", 0x100078, [(0x1000, 512)], [⟨0, 48, .cnt, 0x0⟩]⟩,
  ⟨"E2E_REPLAY", 0x100080, [(0x1000, 512)], [⟨0, 48, .cnt, 0x0⟩]⟩,
  ⟨"CREDIT_OVF", 0x100088, [(0x1000, 512)], [⟨0, 48, .cnt, 0x0⟩]⟩]

/-- Rows 24 to 35 of the register map. -/
def Reg.rows2 : List RegRow := [
  ⟨"SLAG_REJECT", 0x100090, [(0x1000, 512)], [⟨0, 48, .cnt, 0x0⟩]⟩,
  ⟨"LANE_REMAPS", 0x100098, [(0x1000, 512)], [⟨0, 48, .cnt, 0x0⟩]⟩,
  ⟨"CREDIT", 0x1000C0, [(0x1000, 512), (0x8, 6)], [⟨0, 16, .ro, 0x0⟩, ⟨16, 16, .ro, 0x0⟩, ⟨32, 16, .ro, 0x0⟩, ⟨48, 16, .ro, 0x0⟩]⟩,
  ⟨"LANE", 0x100100, [(0x1000, 512), (0x8, 16)], [⟨0, 8, .ro, 0x0⟩, ⟨8, 1, .ro, 0x0⟩, ⟨9, 1, .ro, 0x0⟩]⟩,
  ⟨"LANE_CTL", 0x100180, [(0x1000, 512)], [⟨0, 4, .wo, 0x0⟩, ⟨4, 1, .wo, 0x0⟩, ⟨5, 1, .wo, 0x0⟩]⟩,
  ⟨"Q_CELLS", 0x100200, [(0x1000, 512)], [⟨0, 20, .ro, 0x0⟩, ⟨20, 20, .ro, 0x0⟩]⟩,
  ⟨"FRAMES_IN", 0x100240, [(0x1000, 512)], [⟨0, 48, .cnt, 0x0⟩]⟩,
  ⟨"FRAMES_OUT", 0x100248, [(0x1000, 512)], [⟨0, 48, .cnt, 0x0⟩]⟩,
  ⟨"MCAST_COPIES", 0x100250, [(0x1000, 512)], [⟨0, 48, .cnt, 0x0⟩]⟩,
  ⟨"CUT_DISCARD", 0x100258, [(0x1000, 512)], [⟨0, 48, .cnt, 0x0⟩]⟩,
  ⟨"SLAG_PUSHED_OUT", 0x100260, [(0x1000, 512)], [⟨0, 48, .cnt, 0x0⟩]⟩,
  ⟨"SLAG_HEARTH_FULL", 0x100268, [(0x1000, 512)], [⟨0, 48, .cnt, 0x0⟩]⟩]

/-- Rows 36 to 47 of the register map. -/
def Reg.rows3 : List RegRow := [
  ⟨"SLAG_AGED", 0x100280, [(0x1000, 512), (0x8, 8)], [⟨0, 48, .cnt, 0x0⟩]⟩,
  ⟨"HEAT_CTL", 0x400000, [], [⟨0, 32, .rw, 0x3E8⟩, ⟨32, 1, .rw, 0x0⟩]⟩,
  ⟨"HEAT_STAT", 0x400008, [], [⟨0, 9, .ro, 0x0⟩, ⟨9, 20, .ro, 0x0⟩]⟩,
  ⟨"TILE_RES", 0x401000, [(0x8, 256)], [⟨0, 12, .rw, 0x0⟩, ⟨12, 1, .rw, 0x0⟩, ⟨16, 12, .ro, 0x0⟩, ⟨28, 1, .ro, 0x0⟩]⟩,
  ⟨"HEATS_DONE", 0x402000, [], [⟨0, 48, .cnt, 0x0⟩]⟩,
  ⟨"HEATS_REFUSED", 0x402008, [], [⟨0, 48, .cnt, 0x0⟩]⟩,
  ⟨"DESC_DONE", 0x402010, [], [⟨0, 48, .cnt, 0x0⟩]⟩,
  ⟨"WATCHDOG_EXPIRED", 0x402018, [], [⟨0, 48, .cnt, 0x0⟩]⟩,
  ⟨"ANVIL_REPLAY", 0x402020, [], [⟨0, 48, .cnt, 0x0⟩]⟩,
  ⟨"STEP_POISON", 0x402028, [], [⟨0, 48, .cnt, 0x0⟩]⟩,
  ⟨"DL_MISSED_PAGES", 0x402030, [], [⟨0, 48, .cnt, 0x0⟩]⟩,
  ⟨"SHADOW_PAGES_ALL", 0x402038, [], [⟨0, 48, .cnt, 0x0⟩]⟩]

/-- Rows 48 to 59 of the register map. -/
def Reg.rows4 : List RegRow := [
  ⟨"SKIP_PAGES_ALL", 0x402040, [], [⟨0, 48, .cnt, 0x0⟩]⟩,
  ⟨"TILE_WIPES", 0x402048, [], [⟨0, 48, .cnt, 0x0⟩]⟩,
  ⟨"ATTEND_DESC", 0x403000, [], [⟨0, 48, .cnt, 0x0⟩]⟩,
  ⟨"ATTEND_TOKENS", 0x403008, [], [⟨0, 48, .cnt, 0x0⟩]⟩,
  ⟨"ATTEND_MASKED", 0x403010, [], [⟨0, 48, .cnt, 0x0⟩]⟩,
  ⟨"ATTEND_KV_BYTES", 0x403018, [], [⟨0, 48, .cnt, 0x0⟩]⟩,
  ⟨"ATTEND_OVERREAD", 0x403020, [], [⟨0, 48, .cnt, 0x0⟩]⟩,
  ⟨"ATTEND_TABLE_BYTES", 0x403028, [], [⟨0, 48, .cnt, 0x0⟩]⟩,
  ⟨"ATTEND_STATES", 0x403030, [], [⟨0, 48, .cnt, 0x0⟩]⟩,
  ⟨"TILE_MAP", 0x5E0000, [(0x8, 256)], [⟨0, 9, .ro, 0x0⟩, ⟨9, 1, .ro, 0x0⟩, ⟨10, 5, .ro, 0x0⟩, ⟨15, 1, .ro, 0x0⟩, ⟨16, 1, .ro, 0x0⟩]⟩,
  ⟨"TILE_STAT", 0x5E0800, [(0x8, 256)], [⟨0, 8, .w1c, 0x0⟩, ⟨8, 1, .ro, 0x0⟩]⟩,
  ⟨"ANVIL_CAPS", 0x5E1000, [], [⟨0, 12, .ro, 0x7FF⟩, ⟨12, 8, .ro, 0x40⟩, ⟨20, 4, .ro, 0x2⟩, ⟨24, 12, .ro, 0x800⟩, ⟨36, 12, .ro, 0x800⟩]⟩]

/-- Rows 60 to 71 of the register map. -/
def Reg.rows5 : List RegRow := [
  ⟨"SLAG_PLACEMENT", 0x5FF000, [], [⟨0, 48, .cnt, 0x0⟩]⟩,
  ⟨"SLAG_ORPHAN_ARRIVAL", 0x5FF008, [], [⟨0, 48, .cnt, 0x0⟩]⟩,
  ⟨"SLAG_LATE_PAGE", 0x5FF010, [], [⟨0, 48, .cnt, 0x0⟩]⟩,
  ⟨"SLAG_REDUCE_FOREIGN", 0x5FF018, [], [⟨0, 48, .cnt, 0x0⟩]⟩,
  ⟨"SLAG_REDUCE_OVERRUN", 0x5FF020, [], [⟨0, 48, .cnt, 0x0⟩]⟩,
  ⟨"SLAG_LATE_ARRIVAL", 0x5FF028, [], [⟨0, 48, .cnt, 0x0⟩]⟩,
  ⟨"TCTR_CUR", 0x600000, [(0x1000, 256), (0x10, 256)], [⟨0, 44, .ro, 0x0⟩, ⟨44, 1, .ro, 0x0⟩, ⟨45, 1, .ro, 0x0⟩, ⟨46, 1, .ro, 0x0⟩, ⟨47, 1, .ro, 0x0⟩, ⟨48, 16, .ro, 0x0⟩]⟩,
  ⟨"TCTR_PREV", 0x600008, [(0x1000, 256), (0x10, 256)], [⟨0, 44, .ro, 0x0⟩, ⟨45, 1, .ro, 0x0⟩, ⟨46, 1, .ro, 0x0⟩, ⟨48, 16, .ro, 0x0⟩]⟩,
  ⟨"DCTR_CUR", 0x700000, [(0x10, 65536)], [⟨0, 44, .ro, 0x0⟩, ⟨44, 1, .ro, 0x0⟩, ⟨45, 1, .ro, 0x0⟩, ⟨46, 1, .ro, 0x0⟩, ⟨47, 1, .ro, 0x0⟩, ⟨48, 16, .ro, 0x0⟩]⟩,
  ⟨"DCTR_PREV", 0x700008, [(0x10, 65536)], [⟨0, 44, .ro, 0x0⟩, ⟨45, 1, .ro, 0x0⟩, ⟨46, 1, .ro, 0x0⟩, ⟨48, 16, .ro, 0x0⟩]⟩,
  ⟨"HEARTH_CFG", 0x800000, [], [⟨0, 20, .ro, 0x0⟩, ⟨20, 20, .ro, 0x0⟩, ⟨40, 16, .ro, 0x4000⟩]⟩,
  ⟨"HEARTH_STAT", 0x800008, [], [⟨0, 20, .ro, 0x0⟩, ⟨20, 20, .ro, 0x0⟩, ⟨40, 3, .ro, 0x0⟩, ⟨43, 3, .ro, 0x0⟩, ⟨46, 1, .ro, 0x0⟩, ⟨47, 1, .ro, 0x0⟩]⟩]

/-- Rows 72 to 83 of the register map. -/
def Reg.rows6 : List RegRow := [
  ⟨"PUSH_CTL", 0x800010, [], [⟨0, 1, .rw, 0x1⟩, ⟨8, 8, .rw, 0x0⟩]⟩,
  ⟨"MATCH_CTL", 0x800018, [], [⟨0, 3, .rw, 0x4⟩]⟩,
  ⟨"MATCH_STAT", 0x800020, [], [⟨0, 16, .ro, 0x0⟩, ⟨16, 16, .ro, 0x0⟩]⟩,
  ⟨"XBAR_STAT", 0x800028, [], [⟨0, 9, .ro, 0x0⟩, ⟨9, 4, .ro, 0x0⟩]⟩,
  ⟨"AGE_CTL", 0x800040, [(0x8, 8)], [⟨0, 17, .rw, 0x3E8⟩]⟩,
  ⟨"MCAST_RO", 0x840000, [(0x40, 8192), (0x8, 8)], [⟨0, 64, .ro, 0x0⟩]⟩,
  ⟨"MCAST_RW", 0x8C0000, [(0x40, 8192), (0x8, 8)], [⟨0, 64, .rw, 0x0⟩]⟩,
  ⟨"MIR_CFG", 0x980000, [(0x40, 64)], [⟨0, 1, .rw, 0x0⟩, ⟨1, 2, .rw, 0x0⟩, ⟨3, 9, .rw, 0x0⟩, ⟨12, 9, .rw, 0x0⟩, ⟨21, 16, .rw, 0x1⟩, ⟨37, 14, .rw, 0x2400⟩, ⟨51, 1, .rw, 0x0⟩]⟩,
  ⟨"MIR_FLOW", 0x980008, [(0x40, 64)], [⟨0, 12, .rw, 0x0⟩, ⟨12, 1, .rw, 0x1⟩, ⟨13, 3, .rw, 0x0⟩, ⟨16, 1, .rw, 0x1⟩, ⟨17, 3, .rw, 0x0⟩, ⟨20, 1, .rw, 0x1⟩, ⟨21, 5, .rw, 0x0⟩, ⟨26, 1, .rw, 0x1⟩, ⟨27, 9, .rw, 0x0⟩, ⟨36, 1, .rw, 0x1⟩]⟩,
  ⟨"MIR_STAT", 0x980010, [(0x40, 64)], [⟨0, 32, .ro, 0x0⟩]⟩,
  ⟨"MIR_DROP", 0x980018, [(0x40, 64)], [⟨0, 48, .cnt, 0x0⟩]⟩,
  ⟨"MIR_DMAC", 0x980020, [(0x40, 64)], [⟨0, 48, .rw, 0x0⟩]⟩]

/-- Rows 84 to 95 of the register map. -/
def Reg.rows7 : List RegRow := [
  ⟨"SLAG_AGED_ALL", 0x9FF000, [], [⟨0, 48, .cnt, 0x0⟩]⟩,
  ⟨"SLAG_PUSHED_OUT_ALL", 0x9FF008, [], [⟨0, 48, .cnt, 0x0⟩]⟩,
  ⟨"SLAG_HEARTH_FULL_ALL", 0x9FF010, [], [⟨0, 48, .cnt, 0x0⟩]⟩,
  ⟨"CUT_DISCARD_ALL", 0x9FF018, [], [⟨0, 48, .cnt, 0x0⟩]⟩,
  ⟨"SHAPE_CFG", 0xA00000, [(0x400, 512), (0x20, 8)], [⟨0, 22, .rw, 0x0⟩, ⟨22, 20, .rw, 0x400⟩, ⟨42, 8, .rw, 0x0⟩, ⟨50, 2, .rw, 0x1⟩, ⟨52, 1, .rw, 0x0⟩]⟩,
  ⟨"SHAPE_STAT", 0xA00008, [(0x400, 512), (0x20, 8)], [⟨0, 32, .ro, 0x10000⟩, ⟨32, 1, .ro, 0x0⟩]⟩,
  ⟨"TEL", 0xA00010, [(0x400, 512), (0x20, 8)], [⟨0, 20, .ro, 0x0⟩, ⟨20, 20, .ro, 0x0⟩]⟩,
  ⟨"TEL_DLY", 0xA00018, [(0x400, 512), (0x20, 8)], [⟨0, 24, .ro, 0x0⟩, ⟨24, 24, .ro, 0x0⟩]⟩,
  ⟨"POL_CFG", 0xA00100, [(0x400, 512)], [⟨0, 22, .rw, 0x0⟩, ⟨22, 20, .rw, 0x400⟩, ⟨42, 8, .rw, 0x0⟩, ⟨50, 2, .rw, 0x0⟩, ⟨52, 3, .rw, 0x0⟩]⟩,
  ⟨"POL_STAT", 0xA00108, [(0x400, 512)], [⟨0, 32, .ro, 0x10000⟩]⟩,
  ⟨"POL_EXCEED", 0xA00110, [(0x400, 512)], [⟨0, 48, .cnt, 0x0⟩]⟩,
  ⟨"SLAG_POLICED", 0xA00118, [(0x400, 512)], [⟨0, 48, .cnt, 0x0⟩]⟩]

/-- Rows 96 to 107 of the register map. -/
def Reg.rows8 : List RegRow := [
  ⟨"TEL_CLR", 0xA00120, [(0x400, 512)], [⟨0, 1, .wo, 0x0⟩]⟩,
  ⟨"TEL_HIST", 0xA00200, [(0x400, 512), (0x40, 8), (0x8, 8)], [⟨0, 48, .cnt, 0x0⟩]⟩,
  ⟨"BELLOWS_CTL", 0xB00000, [], [⟨0, 16, .rw, 0x3E8⟩, ⟨16, 2, .rw, 0x3⟩, ⟨18, 3, .rw, 0x0⟩]⟩,
  ⟨"QSHAPE_CFG", 0xB10000, [(0x10, 512)], [⟨0, 22, .rw, 0x9C40⟩, ⟨22, 20, .rw, 0x40⟩]⟩,
  ⟨"QSHAPE_STAT", 0xB10008, [(0x10, 512)], [⟨0, 32, .ro, 0x1000⟩, ⟨32, 1, .ro, 0x0⟩]⟩,
  ⟨"DIR_CTL", 0xC00000, [], [⟨0, 14, .rw, 0xC8⟩, ⟨16, 16, .rw, 0x7D0⟩, ⟨32, 16, .rw, 0x14⟩, ⟨48, 12, .rw, 0x1F4⟩]⟩,
  ⟨"PARK_CTL", 0xC00008, [], [⟨0, 32, .rw, 0x0⟩]⟩,
  ⟨"DIR_STAT", 0xC00010, [], [⟨0, 1, .ro, 0x0⟩, ⟨1, 1, .ro, 0x0⟩, ⟨2, 1, .ro, 0x0⟩, ⟨16, 19, .ro, 0x0⟩]⟩,
  ⟨"REVERT_BASE", 0xC00018, [], [⟨0, 31, .rw, 0x0⟩]⟩,
  ⟨"REVERT_GO", 0xC00020, [], [⟨0, 32, .wo, 0x0⟩]⟩,
  ⟨"DIR_CAP", 0xC00028, [], [⟨0, 5, .ro, 0x0⟩]⟩,
  ⟨"SNP_INV_TX", 0xC00100, [], [⟨0, 48, .cnt, 0x0⟩]⟩]

/-- Rows 108 to 119 of the register map. -/
def Reg.rows9 : List RegRow := [
  ⟨"SNP_RECALL_TX", 0xC00108, [], [⟨0, 48, .cnt, 0x0⟩]⟩,
  ⟨"BACK_INVAL", 0xC00110, [], [⟨0, 48, .cnt, 0x0⟩]⟩,
  ⟨"UNHELD_WRITE", 0xC00118, [], [⟨0, 48, .cnt, 0x0⟩]⟩,
  ⟨"HOLD_EXPIRED", 0xC00120, [], [⟨0, 48, .cnt, 0x0⟩]⟩,
  ⟨"COMBINED_READS", 0xC00128, [], [⟨0, 48, .cnt, 0x0⟩]⟩,
  ⟨"COMBINED_ATOMICS", 0xC00130, [], [⟨0, 48, .cnt, 0x0⟩]⟩,
  ⟨"SNP_TIMEOUTS", 0xC00138, [], [⟨0, 48, .cnt, 0x0⟩]⟩,
  ⟨"LOST_DIRTY_LINES", 0xC00140, [], [⟨0, 48, .cnt, 0x0⟩]⟩,
  ⟨"LOST_DIRTY_POISON", 0xC00148, [], [⟨0, 48, .cnt, 0x0⟩]⟩,
  ⟨"PARKED_TOTAL", 0xC00150, [], [⟨0, 48, .cnt, 0x0⟩]⟩,
  ⟨"PARK_POISON", 0xC00158, [], [⟨0, 48, .cnt, 0x0⟩]⟩,
  ⟨"PARK_OVERFLOW", 0xC00160, [], [⟨0, 48, .cnt, 0x0⟩]⟩]

/-- Rows 120 to 131 of the register map. -/
def Reg.rows10 : List RegRow := [
  ⟨"OWN_DOWNGRADE", 0xC00168, [], [⟨0, 48, .cnt, 0x0⟩]⟩,
  ⟨"SLAG_WB_NOT_OWNER", 0xC00170, [], [⟨0, 48, .cnt, 0x0⟩]⟩,
  ⟨"TIER_CTL", 0xE00000, [], [⟨0, 2, .rw, 0x0⟩, ⟨2, 1, .wo, 0x0⟩, ⟨3, 3, .rw, 0x0⟩, ⟨6, 1, .rw, 0x0⟩, ⟨8, 16, .rw, 0x64⟩]⟩,
  ⟨"TIER_THR", 0xE00008, [], [⟨0, 16, .rw, 0x400⟩, ⟨16, 16, .rw, 0x40⟩, ⟨32, 16, .rw, 0x3E8⟩, ⟨48, 16, .rw, 0x64⟩]⟩,
  ⟨"TIER_STAT", 0xE00010, [], [⟨0, 17, .ro, 0x0⟩, ⟨17, 17, .ro, 0x0⟩, ⟨34, 17, .ro, 0x0⟩, ⟨51, 1, .ro, 0x0⟩, ⟨52, 12, .ro, 0x0⟩]⟩,
  ⟨"FORGE_AREA", 0xE00040, [(0x8, 8)], [⟨0, 17, .ro, 0x0⟩, ⟨17, 17, .ro, 0x0⟩]⟩,
  ⟨"PROMOTIONS", 0xE00100, [], [⟨0, 48, .cnt, 0x0⟩]⟩,
  ⟨"DEMOTIONS", 0xE00108, [], [⟨0, 48, .cnt, 0x0⟩]⟩,
  ⟨"DIRTY_WRITEBACKS", 0xE00110, [], [⟨0, 48, .cnt, 0x0⟩]⟩,
  ⟨"FORGE_HITS", 0xE00118, [], [⟨0, 48, .cnt, 0x0⟩]⟩,
  ⟨"CAND_DROPPED", 0xE00120, [], [⟨0, 48, .cnt, 0x0⟩]⟩,
  ⟨"RO_WRITE_REFUSED", 0xE00128, [], [⟨0, 48, .cnt, 0x0⟩]⟩]

/-- Rows 132 to 143 of the register map. -/
def Reg.rows11 : List RegRow := [
  ⟨"FR_REFUSED", 0xE00130, [], [⟨0, 48, .cnt, 0x0⟩]⟩,
  ⟨"NATIVE_BYPASS", 0xE00138, [], [⟨0, 48, .cnt, 0x0⟩]⟩,
  ⟨"CHECK_FAIL", 0xE00140, [], [⟨0, 48, .cnt, 0x0⟩]⟩,
  ⟨"CHECK_POISON", 0xE00148, [], [⟨0, 48, .cnt, 0x0⟩]⟩,
  ⟨"GEN_UNKNOWN", 0xE00150, [], [⟨0, 48, .cnt, 0x0⟩]⟩,
  ⟨"NO_KEY", 0xE00158, [], [⟨0, 48, .cnt, 0x0⟩]⟩,
  ⟨"SHADOW_BUILT", 0xE00160, [], [⟨0, 48, .cnt, 0x0⟩]⟩,
  ⟨"SHADOW_ABSENT", 0xE00168, [], [⟨0, 48, .cnt, 0x0⟩]⟩,
  ⟨"ROTATE_REFUSED", 0xE00170, [], [⟨0, 48, .cnt, 0x0⟩]⟩,
  ⟨"SWEEP_LINE_FAILED", 0xE00178, [], [⟨0, 48, .cnt, 0x0⟩]⟩,
  ⟨"WPUSH_SRC", 0xE00200, [], [⟨0, 38, .rw, 0x0⟩]⟩,
  ⟨"WPUSH_DST", 0xE00208, [], [⟨0, 52, .rw, 0x0⟩]⟩]

/-- Rows 144 to 155 of the register map. -/
def Reg.rows12 : List RegRow := [
  ⟨"WPUSH_CFG", 0xE00210, [], [⟨0, 38, .rw, 0x0⟩, ⟨38, 14, .rw, 0x2000⟩]⟩,
  ⟨"WPUSH_GO", 0xE00218, [], [⟨0, 1, .wo, 0x0⟩]⟩,
  ⟨"WPUSH_STAT", 0xE00220, [], [⟨0, 1, .ro, 0x0⟩, ⟨1, 10, .ro, 0x0⟩, ⟨11, 9, .ro, 0x1FF⟩]⟩,
  ⟨"STRIPE_HDR", 0xE80000, [(0x200, 1024)], [⟨0, 8, .ro, 0x0⟩]⟩,
  ⟨"STRIPE_PORTS", 0xE80100, [(0x200, 1024), (0x8, 32)], [⟨0, 16, .ro, 0x0⟩, ⟨16, 16, .ro, 0x0⟩, ⟨32, 16, .ro, 0x0⟩, ⟨48, 16, .ro, 0x0⟩]⟩,
  ⟨"COMP_CTL", 0x1000000, [], [⟨0, 1, .wo, 0x0⟩, ⟨1, 1, .wo, 0x0⟩, ⟨16, 16, .rw, 0x3E8⟩]⟩,
  ⟨"COMP_STAT", 0x1000008, [], [⟨0, 16, .ro, 0x1⟩, ⟨16, 1, .ro, 0x0⟩, ⟨17, 1, .ro, 0x0⟩, ⟨24, 24, .ro, 0x0⟩]⟩,
  ⟨"COMP_ERR", 0x1000010, [], [⟨0, 29, .ro, 0x0⟩, ⟨29, 3, .ro, 0x0⟩, ⟨32, 1, .ro, 0x0⟩]⟩,
  ⟨"RT_CAP", 0x1000018, [], [⟨0, 17, .ro, 0x10000⟩, ⟨17, 29, .ro, 0x0⟩]⟩,
  ⟨"RT_SEL", 0x1000020, [], [⟨0, 29, .rw, 0x0⟩]⟩,
  ⟨"EXT_CMD", 0x1000030, [], [⟨0, 16, .wo, 0x0⟩, ⟨16, 2, .wo, 0x0⟩, ⟨18, 12, .wo, 0x0⟩, ⟨30, 1, .wo, 0x0⟩, ⟨31, 1, .wo, 0x0⟩]⟩,
  ⟨"QUENCH_STAT", 0x1000038, [], [⟨0, 16, .ro, 0x0⟩, ⟨16, 48, .ro, 0x0⟩]⟩]

/-- Rows 156 to 167 of the register map. -/
def Reg.rows13 : List RegRow := [
  ⟨"RT_DATA", 0x1000050, [(0x8, 4)], [⟨0, 64, .rw, 0x0⟩]⟩,
  ⟨"RT_GO", 0x1000070, [], [⟨0, 1, .wo, 0x0⟩, ⟨1, 1, .wo, 0x0⟩]⟩,
  ⟨"DOMAIN_MISMATCH", 0x1000100, [], [⟨0, 48, .cnt, 0x0⟩]⟩,
  ⟨"FOREIGN_OPS", 0x1000108, [], [⟨0, 48, .cnt, 0x0⟩]⟩,
  ⟨"UNMAPPED", 0x1000110, [], [⟨0, 48, .cnt, 0x0⟩]⟩,
  ⟨"ACCESS_DENIED", 0x1000118, [], [⟨0, 48, .cnt, 0x0⟩]⟩,
  ⟨"REVOKED_REQ", 0x1000120, [], [⟨0, 48, .cnt, 0x0⟩]⟩,
  ⟨"QUENCHED_REQ", 0x1000128, [], [⟨0, 48, .cnt, 0x0⟩]⟩,
  ⟨"OWN_DENIED_REQ", 0x1000130, [], [⟨0, 48, .cnt, 0x0⟩]⟩,
  ⟨"STALE_EPOCH_REQ", 0x1000138, [], [⟨0, 48, .cnt, 0x0⟩]⟩,
  ⟨"SLAG_STALE", 0x1000140, [], [⟨0, 48, .cnt, 0x0⟩]⟩,
  ⟨"TRAY_REFUSED", 0x1000148, [], [⟨0, 48, .cnt, 0x0⟩]⟩]

/-- Rows 168 to 179 of the register map. -/
def Reg.rows14 : List RegRow := [
  ⟨"RT_MISS", 0x1000150, [], [⟨0, 48, .cnt, 0x0⟩]⟩,
  ⟨"COMMIT_REFUSED", 0x1000158, [], [⟨0, 48, .cnt, 0x0⟩]⟩,
  ⟨"EXT_CMD_REFUSED", 0x1000160, [], [⟨0, 48, .cnt, 0x0⟩]⟩,
  ⟨"WIN_REFUSED", 0x1000168, [], [⟨0, 48, .cnt, 0x0⟩]⟩,
  ⟨"CLAIMS_DENIED", 0x1000170, [], [⟨0, 48, .cnt, 0x0⟩]⟩,
  ⟨"LEASES_EXPIRED", 0x1000178, [], [⟨0, 48, .cnt, 0x0⟩]⟩,
  ⟨"QUENCH_LINE_FAILED", 0x1000180, [], [⟨0, 48, .cnt, 0x0⟩]⟩,
  ⟨"PORT_BIND", 0x1010000, [(0x8, 512)], [⟨0, 12, .rw, 0x0⟩, ⟨12, 1, .rw, 0x0⟩]⟩,
  ⟨"EXT_BASE", 0x1040000, [(0x10, 65536)], [⟨0, 31, .ro, 0x0⟩, ⟨32, 32, .ro, 0x0⟩]⟩,
  ⟨"EXT_STATE", 0x1040008, [(0x10, 65536)], [⟨0, 12, .ro, 0x0⟩, ⟨12, 3, .ro, 0x0⟩, ⟨15, 1, .ro, 0x0⟩, ⟨16, 1, .ro, 0x0⟩, ⟨24, 24, .ro, 0x0⟩]⟩,
  ⟨"WIN", 0x1140000, [(0x8, 8192)], [⟨0, 17, .rw, 0x0⟩, ⟨17, 17, .rw, 0x0⟩, ⟨34, 12, .rw, 0x0⟩, ⟨46, 1, .rw, 0x0⟩]⟩,
  ⟨"POOL", 0x1160000, [(0x40, 256), (0x8, 8)], [⟨0, 64, .rw, 0x0⟩]⟩]

/-- Rows 180 to 191 of the register map. -/
def Reg.rows15 : List RegRow := [
  ⟨"POOL_DOM", 0x1164000, [(0x8, 256)], [⟨0, 12, .rw, 0x0⟩, ⟨12, 1, .rw, 0x0⟩]⟩,
  ⟨"OWN", 0x1180000, [(0x20, 16384), (0x8, 4)], [⟨0, 64, .ro, 0x0⟩]⟩,
  ⟨"EXT_ZFILL", 0x1200000, [(0x8, 65536)], [⟨0, 10, .ro, 0x0⟩, ⟨16, 10, .ro, 0x0⟩, ⟨31, 1, .ro, 0x0⟩]⟩,
  ⟨"GRT_CFG", 0x1300000, [], [⟨0, 16, .rw, 0xC35A⟩, ⟨16, 8, .rw, 0x40⟩, ⟨24, 8, .rw, 0x10⟩, ⟨32, 16, .rw, 0x7D0⟩, ⟨48, 8, .rw, 0x64⟩, ⟨56, 1, .rw, 0x0⟩]⟩,
  ⟨"GRT_CFG2", 0x1300008, [], [⟨0, 16, .rw, 0x64⟩]⟩,
  ⟨"GRT_STAT", 0x1300010, [], [⟨0, 14, .ro, 0x0⟩, ⟨14, 14, .ro, 0x0⟩, ⟨28, 13, .ro, 0x0⟩]⟩,
  ⟨"GRT_CAP", 0x1300018, [], [⟨0, 21, .ro, 0x0⟩, ⟨21, 1, .ro, 0x0⟩, ⟨22, 16, .ro, 0x0⟩]⟩,
  ⟨"GRT_TX_PKTS", 0x1300100, [], [⟨0, 48, .cnt, 0x0⟩]⟩,
  ⟨"GRT_RX_PKTS", 0x1300108, [], [⟨0, 48, .cnt, 0x0⟩]⟩,
  ⟨"GRT_RETX_PKTS", 0x1300110, [], [⟨0, 48, .cnt, 0x0⟩]⟩,
  ⟨"GRT_DUP_RX", 0x1300118, [], [⟨0, 48, .cnt, 0x0⟩]⟩,
  ⟨"GRT_SEQ_NAK_TX", 0x1300120, [], [⟨0, 48, .cnt, 0x0⟩]⟩]

/-- Rows 192 to 203 of the register map. -/
def Reg.rows16 : List RegRow := [
  ⟨"GRT_RNR_TX", 0x1300128, [], [⟨0, 48, .cnt, 0x0⟩]⟩,
  ⟨"GRT_NAK_REVOKED_TX", 0x1300130, [], [⟨0, 48, .cnt, 0x0⟩]⟩,
  ⟨"GRT_ACCESS_DENIED", 0x1300138, [], [⟨0, 48, .cnt, 0x0⟩]⟩,
  ⟨"GRT_NAK_IGNORED", 0x1300140, [], [⟨0, 48, .cnt, 0x0⟩]⟩,
  ⟨"GRT_RTO", 0x1300148, [], [⟨0, 48, .cnt, 0x0⟩]⟩,
  ⟨"GRT_LATE_ACK", 0x1300150, [], [⟨0, 48, .cnt, 0x0⟩]⟩,
  ⟨"GRT_CTX_MISS", 0x1300158, [], [⟨0, 48, .cnt, 0x0⟩]⟩,
  ⟨"GRT_CTX_MISS_HOST", 0x1300160, [], [⟨0, 48, .cnt, 0x0⟩]⟩,
  ⟨"REMOTE_REQ_REFUSED", 0x1300168, [], [⟨0, 48, .cnt, 0x0⟩]⟩,
  ⟨"PFC_STORMS", 0x1300170, [], [⟨0, 48, .cnt, 0x0⟩]⟩,
  ⟨"SLAG_GRT_BAD", 0x1300178, [], [⟨0, 48, .cnt, 0x0⟩]⟩,
  ⟨"SLAG_GRT_NOCTX", 0x1300180, [], [⟨0, 48, .cnt, 0x0⟩]⟩]

/-- Rows 204 to 215 of the register map. -/
def Reg.rows17 : List RegRow := [
  ⟨"SLAG_GRT_RNR_DROP", 0x1300188, [], [⟨0, 48, .cnt, 0x0⟩]⟩,
  ⟨"SLAG_GRT_FAILED_MSG", 0x1300190, [], [⟨0, 48, .cnt, 0x0⟩]⟩,
  ⟨"UPL_MAC", 0x1301000, [(0x40, 512)], [⟨0, 48, .rw, 0x0⟩]⟩,
  ⟨"UPL_IP_LO", 0x1301008, [(0x40, 512)], [⟨0, 64, .rw, 0x0⟩]⟩,
  ⟨"UPL_IP_HI", 0x1301010, [(0x40, 512)], [⟨0, 64, .rw, 0x0⟩]⟩,
  ⟨"UPL_PFC", 0x1301018, [(0x40, 512)], [⟨0, 8, .rw, 0x0⟩, ⟨8, 20, .rw, 0x0⟩, ⟨28, 20, .rw, 0x0⟩]⟩,
  ⟨"UPL_PFC_TX", 0x1301020, [(0x40, 512)], [⟨0, 48, .cnt, 0x0⟩]⟩,
  ⟨"UPL_PFC_RX", 0x1301028, [(0x40, 512)], [⟨0, 48, .cnt, 0x0⟩]⟩,
  ⟨"GRT_REG", 0x1380000, [(0x8, 65536)], [⟨0, 12, .ro, 0x0⟩, ⟨12, 2, .ro, 0x0⟩, ⟨14, 2, .ro, 0x0⟩, ⟨16, 16, .ro, 0x0⟩, ⟨32, 16, .ro, 0x0⟩]⟩,
  ⟨"RAS_STAT", 0x1400000, [], [⟨0, 1, .ro, 0x0⟩, ⟨1, 1, .ro, 0x0⟩, ⟨2, 9, .ro, 0x0⟩]⟩,
  ⟨"RAS_CTL", 0x1400008, [], [⟨0, 16, .rw, 0xC8⟩, ⟨16, 16, .rw, 0x2000⟩, ⟨32, 1, .rw, 0x1⟩]⟩,
  ⟨"FENCE_CTL", 0x1400018, [], [⟨0, 9, .wo, 0x0⟩, ⟨9, 1, .wo, 0x0⟩, ⟨10, 1, .wo, 0x0⟩]⟩]

/-- Rows 216 to 227 of the register map. -/
def Reg.rows18 : List RegRow := [
  ⟨"PART_CTL", 0x1400020, [], [⟨0, 4, .wo, 0x0⟩, ⟨4, 1, .wo, 0x0⟩, ⟨5, 1, .wo, 0x0⟩, ⟨6, 1, .wo, 0x0⟩]⟩,
  ⟨"MIRROR_MARK", 0x1400028, [], [⟨0, 29, .wo, 0x0⟩, ⟨29, 1, .wo, 0x0⟩, ⟨30, 1, .wo, 0x0⟩]⟩,
  ⟨"TEMPER_CFG", 0x1400040, [(0x8, 7)], [⟨0, 4, .rw, 0x4⟩, ⟨4, 32, .rw, 0x2710⟩]⟩,
  ⟨"STATE_CORRECTED", 0x1400100, [], [⟨0, 48, .cnt, 0x0⟩]⟩,
  ⟨"STATE_UNCORR", 0x1400108, [], [⟨0, 48, .cnt, 0x0⟩]⟩,
  ⟨"HBM_CORRECTED", 0x1400110, [], [⟨0, 48, .cnt, 0x0⟩]⟩,
  ⟨"HBM_UNCORR", 0x1400118, [], [⟨0, 48, .cnt, 0x0⟩]⟩,
  ⟨"FRAMES_RETIRED", 0x1400120, [], [⟨0, 48, .cnt, 0x0⟩]⟩,
  ⟨"PORTS_DEAD", 0x1400128, [], [⟨0, 48, .cnt, 0x0⟩]⟩,
  ⟨"FENCED_RX", 0x1400130, [], [⟨0, 48, .cnt, 0x0⟩]⟩,
  ⟨"SLAG_FENCED", 0x1400138, [], [⟨0, 48, .cnt, 0x0⟩]⟩,
  ⟨"HB_STALE", 0x1400140, [], [⟨0, 48, .cnt, 0x0⟩]⟩]

/-- Rows 228 to 239 of the register map. -/
def Reg.rows19 : List RegRow := [
  ⟨"MIRROR_FAILOVER", 0x1400148, [], [⟨0, 48, .cnt, 0x0⟩]⟩,
  ⟨"MIRROR_DEGRADED_WRITES", 0x1400150, [], [⟨0, 48, .cnt, 0x0⟩]⟩,
  ⟨"RESYNC_LINES", 0x1400158, [], [⟨0, 48, .cnt, 0x0⟩]⟩,
  ⟨"PART_BLOCKED", 0x1400160, [], [⟨0, 48, .cnt, 0x0⟩]⟩,
  ⟨"LATE_ITEMS", 0x1400168, [], [⟨0, 48, .cnt, 0x0⟩]⟩,
  ⟨"TRACE_DROP", 0x1400170, [], [⟨0, 48, .cnt, 0x0⟩]⟩,
  ⟨"TRANSIENT", 0x1400200, [(0x8, 7)], [⟨0, 48, .cnt, 0x0⟩]⟩,
  ⟨"LASTING", 0x1400240, [(0x8, 7)], [⟨0, 48, .cnt, 0x0⟩]⟩,
  ⟨"PORT_FENCE", 0x1410000, [(0x8, 512)], [⟨0, 16, .ro, 0x1⟩, ⟨16, 1, .ro, 0x0⟩, ⟨17, 3, .ro, 0x0⟩, ⟨20, 4, .rw, 0x0⟩, ⟨24, 1, .ro, 0x0⟩]⟩,
  ⟨"DOM_PART", 0x1420000, [(0x8, 256)], [⟨0, 64, .rw, 0x0⟩]⟩,
  ⟨"REPAIR_LOG", 0x1430000, [(0x8, 256)], [⟨0, 3, .ro, 0x0⟩, ⟨3, 1, .ro, 0x0⟩, ⟨4, 16, .ro, 0x0⟩, ⟨20, 44, .ro, 0x0⟩]⟩,
  ⟨"LC_STAT", 0x1800000, [], [⟨0, 3, .ro, 0x0⟩, ⟨3, 1, .ro, 0x0⟩, ⟨4, 1, .ro, 0x0⟩, ⟨5, 7, .ro, 0x0⟩, ⟨12, 1, .ro, 0x0⟩, ⟨13, 1, .ro, 0x0⟩, ⟨14, 1, .ro, 0x0⟩, ⟨16, 8, .ro, 0x0⟩]⟩]

/-- Rows 240 to 251 of the register map. -/
def Reg.rows20 : List RegRow := [
  ⟨"IMG_STAT", 0x1800008, [], [⟨0, 8, .ro, 0x0⟩, ⟨8, 8, .ro, 0x0⟩, ⟨16, 32, .ro, 0x0⟩, ⟨48, 1, .ro, 0x0⟩]⟩,
  ⟨"IMG_SVN", 0x1800010, [], [⟨0, 32, .ro, 0x0⟩]⟩,
  ⟨"RESET_CAUSE", 0x1800018, [], [⟨0, 4, .ro, 0x0⟩, ⟨4, 4, .ro, 0x0⟩, ⟨8, 16, .ro, 0x0⟩]⟩,
  ⟨"DEV_RESET", 0x1800020, [], [⟨0, 16, .wo, 0x0⟩]⟩,
  ⟨"LC_CTL", 0x1800028, [], [⟨0, 3, .wo, 0x0⟩, ⟨3, 1, .wo, 0x0⟩]⟩,
  ⟨"LC_TOKEN", 0x1800030, [], [⟨0, 38, .rw, 0x0⟩]⟩,
  ⟨"DBG_CTL", 0x1800038, [], [⟨0, 1, .wo, 0x0⟩, ⟨1, 1, .wo, 0x0⟩]⟩,
  ⟨"FUSE_PROG", 0x1800040, [], [⟨0, 3, .wo, 0x0⟩, ⟨3, 1, .wo, 0x0⟩]⟩,
  ⟨"FUSE_DATA", 0x1800048, [(0x8, 4)], [⟨0, 64, .wo, 0x0⟩]⟩,
  ⟨"FUSE_STAT", 0x1800068, [], [⟨0, 8, .ro, 0x0⟩, ⟨8, 1, .ro, 0x0⟩]⟩,
  ⟨"UID_LO", 0x1800070, [], [⟨0, 64, .ro, 0x0⟩]⟩,
  ⟨"UID_HI", 0x1800078, [], [⟨0, 64, .ro, 0x0⟩]⟩]

/-- Rows 252 to 263 of the register map. -/
def Reg.rows21 : List RegRow := [
  ⟨"SVN_RAISE", 0x1800080, [], [⟨0, 7, .wo, 0x0⟩]⟩,
  ⟨"TAMPER_POL", 0x1800100, [], [⟨0, 8, .rw, 0x0⟩]⟩,
  ⟨"TAMPER_STAT", 0x1800108, [], [⟨0, 4, .w1c, 0x0⟩, ⟨4, 4, .ro, 0x0⟩]⟩,
  ⟨"KEY_LOADS", 0x1800200, [], [⟨0, 48, .cnt, 0x0⟩]⟩,
  ⟨"KEY_REJECTS", 0x1800208, [], [⟨0, 48, .cnt, 0x0⟩]⟩,
  ⟨"TAMPER_EVENTS", 0x1800210, [], [⟨0, 48, .cnt, 0x0⟩]⟩,
  ⟨"ATTESTS", 0x1800218, [], [⟨0, 48, .cnt, 0x0⟩]⟩,
  ⟨"KEYGEN", 0x1900000, [(0x10, 4096)], [⟨0, 16, .ro, 0x0⟩, ⟨16, 16, .ro, 0x0⟩, ⟨32, 1, .ro, 0x0⟩, ⟨33, 1, .ro, 0x0⟩]⟩,
  ⟨"KEYPAGES", 0x1900008, [(0x10, 4096)], [⟨0, 32, .ro, 0x0⟩]⟩,
  ⟨"FW_SRC", 0x1C00000, [], [⟨0, 57, .rw, 0x0⟩]⟩,
  ⟨"FW_LEN", 0x1C00008, [], [⟨0, 25, .rw, 0x0⟩]⟩,
  ⟨"FW_GO", 0x1C00010, [], [⟨0, 1, .wo, 0x0⟩]⟩]

/-- Rows 264 to 275 of the register map. -/
def Reg.rows22 : List RegRow := [
  ⟨"FW_STAT", 0x1C00018, [], [⟨0, 3, .ro, 0x0⟩, ⟨8, 8, .ro, 0x0⟩, ⟨16, 16, .ro, 0x0⟩]⟩,
  ⟨"CORE_STAT", 0x1C00100, [(0x8, 16)], [⟨0, 2, .ro, 0x0⟩, ⟨2, 8, .ro, 0x0⟩, ⟨10, 2, .ro, 0x0⟩, ⟨16, 32, .ro, 0x0⟩]⟩,
  ⟨"CORE_CTL", 0x1C00180, [], [⟨0, 4, .wo, 0x0⟩, ⟨4, 1, .wo, 0x0⟩]⟩,
  ⟨"CORE_WD", 0x1C00188, [], [⟨0, 16, .rw, 0x64⟩]⟩,
  ⟨"CMD_DB", 0x1E00000, [(0x200, 4096), (0x8, 16)], [⟨0, 16, .wo, 0x0⟩]⟩,
  ⟨"CPL_DB", 0x1E00080, [(0x200, 4096), (0x8, 16)], [⟨0, 16, .wo, 0x0⟩]⟩,
  ⟨"EVT_DB", 0x1E00100, [(0x200, 4096)], [⟨0, 16, .wo, 0x0⟩]⟩,
  ⟨"RING_SEL", 0x1E00108, [(0x200, 4096)], [⟨0, 5, .rw, 0x0⟩, ⟨5, 2, .rw, 0x0⟩]⟩,
  ⟨"RING_CFG0", 0x1E00110, [(0x200, 4096)], [⟨0, 1, .rw, 0x0⟩, ⟨1, 20, .rw, 0x0⟩, ⟨21, 4, .rw, 0x0⟩, ⟨25, 1, .rw, 0x0⟩, ⟨32, 6, .rw, 0x0⟩, ⟨38, 10, .rw, 0x0⟩, ⟨48, 16, .rw, 0x0⟩]⟩,
  ⟨"RING_CFG1", 0x1E00118, [(0x200, 4096)], [⟨0, 57, .rw, 0x0⟩]⟩,
  ⟨"RING_STAT", 0x1E00120, [(0x200, 4096)], [⟨0, 16, .ro, 0x0⟩, ⟨16, 16, .ro, 0x0⟩, ⟨32, 1, .ro, 0x0⟩]⟩,
  ⟨"FN_STAT", 0x1E00128, [(0x200, 4096)], [⟨0, 1, .ro, 0x0⟩, ⟨1, 1, .w1c, 0x0⟩, ⟨2, 1, .w1c, 0x0⟩, ⟨3, 1, .w1c, 0x0⟩, ⟨4, 16, .ro, 0x0⟩]⟩]

/-- Rows 276 to 285 of the register map. -/
def Reg.rows23 : List RegRow := [
  ⟨"FN_BAR2_WIN", 0x1E00130, [(0x200, 4096)], [⟨0, 17, .rw, 0x0⟩]⟩,
  ⟨"DB_BAD", 0x1E00140, [(0x200, 4096)], [⟨0, 48, .cnt, 0x0⟩]⟩,
  ⟨"EVT_DROP", 0x1E00148, [(0x200, 4096)], [⟨0, 48, .cnt, 0x0⟩]⟩,
  ⟨"BAR2_REFUSED", 0x1E00150, [(0x200, 4096)], [⟨0, 48, .cnt, 0x0⟩]⟩,
  ⟨"HOST_ERRS", 0x1E00158, [(0x200, 4096)], [⟨0, 48, .cnt, 0x0⟩]⟩,
  ⟨"TRACE_CTL", 0x2000000, [], [⟨0, 1, .rw, 0x0⟩, ⟨1, 1, .rw, 0x0⟩, ⟨2, 1, .rw, 0x0⟩]⟩,
  ⟨"TRACE_EN", 0x2000008, [(0x8, 4)], [⟨0, 64, .rw, 0x0⟩]⟩,
  ⟨"TRACE_STAT", 0x2000028, [], [⟨0, 20, .ro, 0x0⟩, ⟨20, 1, .ro, 0x0⟩]⟩,
  ⟨"LOG_CFG", 0x2000100, [(0x8, 16)], [⟨0, 2, .rw, 0x2⟩]⟩,
  ⟨"TEL_SNAP", 0x2001000, [], [⟨0, 1, .rw, 0x0⟩]⟩]

/-- The whole register map. -/
def Reg.rows : List RegRow :=
  Reg.rows0 ++
  Reg.rows1 ++
  Reg.rows2 ++
  Reg.rows3 ++
  Reg.rows4 ++
  Reg.rows5 ++
  Reg.rows6 ++
  Reg.rows7 ++
  Reg.rows8 ++
  Reg.rows9 ++
  Reg.rows10 ++
  Reg.rows11 ++
  Reg.rows12 ++
  Reg.rows13 ++
  Reg.rows14 ++
  Reg.rows15 ++
  Reg.rows16 ++
  Reg.rows17 ++
  Reg.rows18 ++
  Reg.rows19 ++
  Reg.rows20 ++
  Reg.rows21 ++
  Reg.rows22 ++
  Reg.rows23

/-- The indices of address `a` in a register array, if it names one of its registers. -/
def Reg.indices (a : Nat) : List (Nat × Nat) → Option (List Nat)
  | [] => if a = 0 then some [] else none
  | (stride, count) :: ds =>
    let i := min (a / stride) (count - 1)
    (Reg.indices (a - i * stride) ds).map (fun l => i :: l)

/-- The row that holds the register at address `a`, with its indices. -/
def Reg.findIn (a : Nat) : List RegRow → Option (RegRow × List Nat)
  | [] => none
  | r :: rs =>
    if r.base ≤ a then
      match Reg.indices (a - r.base) r.dims with
      | some is => some (r, is)
      | none => Reg.findIn a rs
    else Reg.findIn a rs

/-- The row that holds the register at BAR0 address `a`. -/
def Reg.find (a : Nat) : Option (RegRow × List Nat) := Reg.findIn a Reg.rows

/-- The bits of a register whose field has one of the given access types. -/
def RegRow.mask (r : RegRow) (p : Acc → Bool) : Nat :=
  sumBy (fun f => if p f.acc then (2 ^ f.w - 1) * 2 ^ f.lo else 0) r.fields

/-- The value of a register after reset (R16). -/
def RegRow.rst (r : RegRow) : Nat := sumBy (fun f => f.rst * 2 ^ f.lo) r.fields

end Sys2Proof.Machine
end

