-- ==== Sys2Proof/Machine/State.lean ====
section
/-! DEFINITION. The state of the Tilzal T9 as plain data, and the state after a power-on reset. Registers stand in one sparse
table over their reset values; everything a chapter gives a block beside its registers stands in that block's structure. -/
namespace Sys2Proof.Machine

/-- One entry of the range tables as its four words (R420). -/
structure RtEntry where
  w0 : Nat
  w1 : Nat
  w2 : Nat
  w3 : Nat
  deriving DecidableEq, Repr

/-- One bank of the composition map (R428): range tables, stripe sets, port bindings and the pool table. -/
structure Bank where
  rt : List (Nat × RtEntry)
  stripes : List (Nat × List Nat)
  bind : List (Nat × Nat)
  pools : List (Nat × Nat)
  poolDom : List (Nat × Nat)
  deriving DecidableEq, Repr

/-- One staged change of the composition map (R428, R444, R446). -/
inductive Change where
  | entry (index : Nat) (e : RtEntry)
  | stripe (s : Nat) (ports : List Nat)
  | bind (port v : Nat)
  | pool (k v : Nat)
  | poolDom (k v : Nat)
  deriving DecidableEq, Repr

/-- A request admitted at the ingress and not yet finally answered (R418 check 9, R428), with the number of its admission. -/
structure Flight where
  who : Agent
  tag : Nat
  epoch : Nat
  ext : Nat
  write : Bool
  at_ : Nat
  no : Nat
  deriving DecidableEq, Repr

/-- What a range-table entry recorded at the fence tells the zero-fill (R436). -/
structure FillRange where
  page : Nat
  pages : Nat
  stripe : List Nat
  mirror : List Nat
  deriving DecidableEq, Repr

/-- An extent under revocation or zero-fill (R432 to R436): whether it is ready, the next line, the lines failed and on their way, what the
fence recorded of the map, the generations it waits for, its former owner, and the shadow spans that lay in it at the fence. -/
structure Scrub where
  ext : Nat
  ready : Bool
  next : Nat
  failed : Nat
  out : List (Nat × Nat × Nat)
  ranges : List FillRange
  waitGens : List Nat
  owner : Nat
  spans : List Nat
  deriving DecidableEq, Repr

/-- One ownership-table entry (R439); `until_` is the time at which LEFT_MS reaches 0, `made` orders removals; whether its lease has ended by
expiry, so that a renewal comes late (R442, R468), and whether its word is lost in both copies (R449). -/
structure Lease where
  state : Nat
  epoch : Nat
  pool : Nat
  held : Bool
  dom : Nat
  page : Nat
  pages : Nat
  ms : Nat
  until_ : Nat
  made : Nat
  expired : Bool
  lost : Bool
  deriving DecidableEq, Repr

/-- Domains, extents and composition (chapter 12): the two banks (R428) with the commit time of the old one, staged changes by
function, requests in flight and how many have been admitted, extents under scrub, ownership entries, the numbers of the extents the
image defines, and those that it declares FREE and that have not been zero-filled yet: they have no owner (R426). -/
structure Tenancy where
  live : Bank
  old : Option Bank
  oldAt : Nat
  staged : List (Nat × List Change)
  flight : List Flight
  admissions : Nat
  scrubs : List Scrub
  leases : List (Nat × Lease)
  exts : List Nat
  unowned : List Nat
  deriving DecidableEq, Repr

/-- One MSG flit kept for replay (R115): its messages, and which of them were stomped (R118). -/
structure ReplayFlit where
  seq : Nat
  msgs : List Msg
  stomped : List Bool
  deriving DecidableEq, Repr

/-- A completion that the home hands to an internal engine. -/
structure Mail where
  who : Agent
  tag : Nat
  ppa : Nat
  op : HomeOp
  status : Nat
  data : List Byte
  deriving DecidableEq, Repr

/-- A frame addressed to a tile (R62, R70, R71): its address in the tile, its bytes, the counter it names plus one or 0, its domain and
generation, its source for a REDUCE (R301) with the descriptor that sent it, and whom to answer: a port with TAG, TC and the number of its
admission, or a write of a tile. -/
structure HeldFrame where
  off : Nat
  bytes : List Byte
  ctr : Nat
  dom : Nat
  gen : Nat
  src : Endpoint
  ix : Nat
  answer : Option (Nat × Nat × Nat × Nat)
  ack : Option Nat
  deriving DecidableEq, Repr

/-- A remote access an operator asks of GRT (R387): the tile and TAG to answer, context, handle and epoch, offset in the
registration, the bytes to write or the length to read, the counter named, and the scope of its release or acquire, if it is one. -/
structure RemoteAsk where
  tile : Nat
  tag : Nat
  ctx : Nat
  handle : Nat
  epoch : Nat
  offset : Nat
  write : Bool
  bytes : List Byte
  len : Nat
  ctrKind : Nat
  ctr : Nat
  order : Option Nat
  deriving DecidableEq, Repr

/-- What a HOST read is for (R477); `given` is the fetch of a context that has been given up (R393, R468). -/
inductive HostUse where
  | operator (tile tag : Nat)
  | landed (tile tag : Nat)
  | ring (fn ring slot : Nat)
  | context (ctx : Nat)
  | given (ctx : Nat)
  | bundle (off : Nat)
  | record (cmd : RingCmd) (op : Nat)
  deriving DecidableEq, Repr

/-- What a message between two internal engines stands for (R165, R567): a request at its home, a home's answer, a write that a tile sends
to another or to device memory, a read of device memory by a tile and its answer, the acknowledgement of a tile's write, an access that
a tile or a GRT engine asks of the host controller and a context record that comes back, a remote access of a tile, one packet of what
a remote read brings, and any but the last of the messages that carry one of these. -/
inductive Inner where
  | ask (r : HomeReq)
  | answer (m : Mail)
  | land (tile : Nat) (f : HeldFrame)
  | store (tag addr ctr dom gen : Nat) (bytes : List Byte)
  | fetch (tag addr len : Nat)
  | came (tag status : Nat) (bytes : List Byte)
  | done (tag : Nat)
  | host (fn addr len : Nat) (bytes : List Byte) (use : HostUse)
  | context (ctx : Nat) (got : Option (List Byte))
  | remote (a : RemoteAsk)
  | part (tag off : Nat) (bytes : List Byte)
  | piece
  deriving DecidableEq, Repr

/-- What a frame carries across the core (R165): a GRT frame of the part, or one that an uplink has received with the verdict on its FCS
(R384); `orig` of an analysis copy is the serial number of its original plus one, or 0 once the copy
is spoilt with it (R198). -/
inductive Body where
  | glois (m : Msg)
  | home (m : Msg) (r : HomeReq)
  | opsIn (m : Msg) (gen no : Nat)
  | inner (m : Msg) (w : Inner)
  | eth (bytes : List Byte)
  | grtIn (bytes : List Byte) (good : Bool)
  | copy (session seq : Nat) (bytes : List Byte) (orig : Nat)
  deriving DecidableEq, Repr

/-- A message waiting at an egress port for a flit (R113), or an Ethernet frame; `stomp` says that its FCS is to be spoilt (R182). -/
structure Staged where
  body : Body
  tc : Nat
  at_ : Nat
  copyOf : Bool
  stomp : Bool
  deriving DecidableEq, Repr

/-- A requester message held for an earlier write of its port (R146), with the traffic class its policer left it (R211). -/
structure ReleaseHold where
  msg : Msg
  tc : Nat
  after : List Nat
  at_ : Nat
  deriving DecidableEq, Repr

/-- The lane swap under way (R126). -/
structure Remap where
  lane : Nat
  spare : Nat
  since : Nat
  again : Bool
  deriving DecidableEq, Repr

/-- What a Glois port keeps beside its registers (chapter 03): when it entered its state (R122), good SYNC flits in a row, whether
a HELLO has been accepted and the lanes trained, the running width and the partner's MIN_WIDTH (R124), the first lane that runs (R127),
the partner's initial credits by class (R111); sequence numbers, the replay buffer and flits to be sent again (R115, R118), the
SEQ named by the last NAK and how often; E, the time of the NAK outstanding, acknowledgements owed (R116, R117); credits to return
by class (R112); CTRL payloads and messages to be sent; heartbeats (R107, R463); the lane swap, the physical lanes of the assigned
spares and those used, the logical lanes that a lasting fault has hit and no spare carries, and those treated as having no spare
(R126); release holds (R146); replays by TAG (R121); an ADMIT to be sent at ACTIVE (R465); whether the heartbeat whose timeout has won is still to come (R468); holds in
electrical idle (R467) and in DOWN (R512, R514); and the bytes last sent,
with the bit streams of the lanes that carried them (R89) and of the unused spares (R126), and those of an x16 analysis port's upper interface (R196). -/
structure PortLink where
  since : Nat
  syncs : Nat
  helloOk : Bool
  trained : Bool
  run : Nat
  partnerMin : Nat
  base : Nat
  credits : List (Nat × Nat)
  txSeq : Nat
  replay : List ReplayFlit
  resend : List Nat
  nakSeq : Option Nat
  nakRun : Nat
  rxE : Nat
  nakAt : Option Nat
  nakDue : Bool
  ackDue : Bool
  ackFrom : Option Nat
  ackCount : Nat
  back : List (Nat × Nat)
  ctrl : List (List Byte)
  staged : List Staged
  mgtAt : Nat
  hbAt : Nat
  hbCount : Nat
  hbSeen : Nat
  remap : Option Remap
  retry : Option (Nat × Nat)
  spares : List Nat
  spareUsed : List Nat
  faulty : List Nat
  barred : List Nat
  holds : List ReleaseHold
  replays : List (Nat × Nat)
  admitSend : Bool
  hbLate : Bool
  electrical : Bool
  sent : List Byte
  wires : List (List Bool)
  idles : List (Nat × List Bool)
  sentUpper : List Byte
  deriving DecidableEq, Repr

/-- A port in DOWN that has met no partner. -/
def PortLink.idle : PortLink :=
  { since := 0, syncs := 0, helloOk := false, trained := false, run := 0, partnerMin := 0, base := 0, credits := [], txSeq := 0,
    replay := [], resend := [], nakSeq := none, nakRun := 0, rxE := 0, nakAt := none, nakDue := false, ackDue := false,
    ackFrom := none, ackCount := 0, back := [], ctrl := [], staged := [], mgtAt := 0, hbAt := 0, hbCount := 0, hbSeen := 0,
    remap := none, retry := none, spares := [], spareUsed := [], faulty := [], barred := [], holds := [], replays := [], admitSend := false, hbLate := false, electrical := false,
    sent := [], wires := [], idles := [], sentUpper := [] }

/-- A frame of the switch core (R165) with the time of its arrival (R189) and its domain. -/
structure Frame where
  body : Body
  born : Nat
  dom : Nat
  quench : Bool
  serial : Nat
  deriving DecidableEq, Repr

/-- One queued cell (R169): its queue, its Hearth half and region (0 credit, 1 coherence, 2 shared), its number, the store that
multicast copies share (R184) and its frames. A GRT frame stands in each of its cells, and `more` counts those that follow (R170). `half`
marks a cell that has crossed half with too few planes (R453). -/
structure Cell where
  src : Endpoint
  dst : Endpoint
  cls : Nat
  tc : Nat
  region : Nat
  number : Nat
  store : Nat
  opened : Nat
  frames : List Frame
  more : Nat
  begun : Bool
  half : Bool
  deriving DecidableEq, Repr

/-- A frame that has reached an internal endpoint and waits for its engine. -/
structure Arrival where
  at_ : Endpoint
  src : Endpoint
  frame : Frame
  deriving DecidableEq, Repr

/-- A token bucket (R207): its count in units of 1/8000 byte and the time at which the count held. -/
structure Bucket where
  tok : Int
  at_ : Nat
  deriving DecidableEq, Repr

/-- A frame of an internal engine that waits for a free shared cell (R188); a multicast frame with its copies by port, and whether it
takes a dynamic group (R183). -/
structure Waiting where
  src : Endpoint
  dst : Endpoint
  cls : Nat
  tc : Nat
  frame : Frame
  copies : List (Nat × Msg)
  dyn : Bool
  deriving DecidableEq, Repr

/-- The switch core (chapters 05 and 06): queued cells in the order of their opening, the number of the next frame, frames at
internal endpoints, the matcher's pointers (R176), the token buckets (R207), ingress ports whose queues the policer holds (R211),
multicast groups in use (R183), mirror sampling counts (R194), Hearth banks being drained and retired (R454), the last sweep and
sample, frames awaiting a cell, and frames discarded (R192) or failed by parity (R121) that are still to be answered. -/
structure Switch where
  cells : List Cell
  nextStore : Nat
  arrived : List Arrival
  grantPtr : List (Nat × Nat)
  acceptPtr : List (Nat × Nat)
  classPtr : List (Nat × Nat)
  shapers : List (Nat × Bucket)
  policers : List (Nat × Bucket)
  quenchers : List (Nat × Bucket)
  polHold : List Nat
  groups : List (Nat × Nat)
  samples : List (Nat × Nat)
  draining : List Nat
  retired : List Nat
  sweptAt : Nat
  sampledAt : Nat
  waiting : List Waiting
  dropped : List Arrival
  failed : List Arrival
  mcast : List Nat
  deriving DecidableEq, Repr

/-- The recorded sharers of a line (R133). -/
inductive Sharers where
  | exact (ports : List Nat)
  | coarse (vec : Nat)
  deriving DecidableEq, Repr

/-- The state of a line at its home (R137). `held p since` begins its limit when `since` is set by the INV_DONE (R141). -/
inductive LineState where
  | inv
  | shared (s : Sharers)
  | held (port : Nat) (since : Option Nat)
  | owned (port : Nat)
  | atomic
  | lost
  deriving DecidableEq, Repr

/-- What a BUSY line waits for (R137, R140); `crossed` is a WB_DIRTY that crossed its recall being written while snoops are out (R143). -/
inductive Wait where
  | acks (ports : List Nat)
  | takeBack (ports : List Nat)
  | read (mirror : Bool) (tries : Nat)
  | write (left : List Nat)
  | flush (left : List Nat)
  | memside
  | room (victim : Nat)
  | parked (port since : Nat)
  | crossed (ports left : List Nat)
  deriving DecidableEq, Repr

/-- A request at its home with the members that combining has joined to it (R151, R152). -/
structure Work where
  req : HomeReq
  opened : Nat
  members : List HomeReq
  closed : Bool
  deriving DecidableEq, Repr

/-- A request being served: what it waits for, since when, the line as it is to be written or forwarded, whether its snoop time has been
reported (R142), which stage a parked request goes back to (0 read, 1 write, 2 write-back before service, 3 atomic at the tray), and the
code that the answered copies of its write have drawn so far (R19, R457). -/
structure Busy where
  work : Work
  wait : Wait
  since : Nat
  line : List Byte
  told : Bool
  stage : Nat
  code : Nat
  deriving DecidableEq, Repr

/-- One directory entry with its per-line queue (R137, R138). -/
structure Line where
  st : LineState
  made : Nat
  busy : Option Busy
  queue : List Work
  deriving DecidableEq, Repr

/-- A line with no entry. -/
def Line.idle : Line := ⟨.inv, 0, none, []⟩

/-- A request the T9 has sent to a tray (R101): port and TAG, what it is for, and its message for a re-issue (R121). -/
structure Out where
  port : Nat
  tag : Nat
  line : Nat
  use : OutUse
  msg : Msg
  tries : Nat
  at_ : Nat
  deriving DecidableEq, Repr

/-- A line of the atomic buffer (R150). -/
structure AtomicLine where
  line : Nat
  data : List Byte
  used : Nat
  deriving DecidableEq, Repr

/-- A multi-line INVAL not yet answered (R103, R141), with the code its lines have drawn so far (R19). -/
structure InvalWait where
  port : Nat
  tag : Nat
  lines : List Nat
  left : List Nat
  req : HomeReq
  code : Nat
  deriving DecidableEq, Repr

/-- A request in the park store (R159) that had not come to its turn: whole as it arrived, or one line of it taken from that line's
queue; with the dead port and the time of its parking. -/
structure ParkedReq where
  req : HomeReq
  line : Option Nat
  port : Nat
  since : Nat
  deriving DecidableEq, Repr

/-- A Quench write in the park store (R159, R436). -/
structure Parked where
  port : Nat
  msg : Msg
  use : OutUse
  line : Nat
  since : Nat
  deriving DecidableEq, Repr

/-- The homes (chapter 04): lines by number, allocations so far (R132), the atomic buffer, requests at trays, INVALs open, the park store
(R159), completions for engines, snoops out as port, TAG and line (R101; from 16,384 on the number of one that waits for a TAG), the lines
whose hold has ended by its limit with the former holder, and the ports and lines of requests that the park limit has ended (R468). -/
structure Homes where
  lines : List (Nat × Line)
  made : Nat
  abuf : List AtomicLine
  outs : List Out
  invals : List InvalWait
  parked : List Parked
  park : List ParkedReq
  mail : List Mail
  snoops : List (Nat × Nat × Nat)
  lateHolds : List (Nat × Nat)
  lateParks : List (Nat × Nat)
  deriving DecidableEq, Repr

/-- A TIER frame (R343): its page, its frame number, the lines moved in, the dirty lines with their times (R348),
whether it is resident (0), being promoted (1) or demoted (2), or its entry of the tier map is lost (3, R449), the next line of a promotion, the page to be promoted into it after its demotion plus one, the line in move (R347), and whether it
lost a dirty line and is to be retired (R450). -/
structure TierFrame where
  page : Nat
  slot : Nat
  moved : List Nat
  dirty : List (Nat × Nat)
  mode : Nat
  at_ : Nat
  next : Nat
  out : List Nat
  hurt : Bool
  deriving DecidableEq, Repr

/-- A shadow span (R354). -/
structure Span where
  dom : Nat
  base : Nat
  length : Nat
  pageLog : Nat
  fmt : Nat
  d : Nat
  order : Nat
  heads : Nat
  deriving DecidableEq, Repr

/-- A shadow page (R355, R356): page PPA, shadow address, VALID, the lengths of page and shadow, the span's format and head
dimension, building order. -/
structure Shadow where
  ppa : Nat
  addr : Nat
  len : Nat
  size : Nat
  fmt : Nat
  d : Nat
  valid : Bool
  made : Nat
  deriving DecidableEq, Repr

/-- A shadow page being built (R355): page PPA, its length, the span's format and head dimension, the lines read so far, and
whether a write has reached the page since the build began (R356). -/
structure Build where
  ppa : Nat
  len : Nat
  fmt : Nat
  d : Nat
  bytes : List Byte
  spoiled : Bool
  deriving DecidableEq, Repr

/-- A key slot pair (R370): CUR and PREV as 64-byte XTS keys; the generations are registers (R380). -/
structure KeyPair where
  cur : List Byte
  prev : List Byte
  deriving DecidableEq, Repr

/-- A port's native queue (R364): when its waiting lines begin coding and when the last one ends, in ps, and by region the D of the last line
coded. -/
structure NativeQueue where
  starts : List Nat
  free : Nat
  last : List (Nat × Nat)
  deriving DecidableEq, Repr

/-- A native queue with nothing in it. -/
def NativeQueue.idle : NativeQueue := ⟨[], 0, []⟩

/-- A re-encryption sweep (R373): the next line of the current page, pages still to sweep, and lines awaiting their homes. -/
structure Sweep where
  dom : Nat
  pages : List Nat
  next : Nat
  out : List Nat
  deriving DecidableEq, Repr

/-- A weight push (R358): the ring command it serves, if any, source, destination, length, the members still served, the offset of
the piece in flight, the members that have not answered it, and the members dropped. -/
structure Push where
  number : Nat
  cmd : Option RingCmd
  src : Nat
  dst : Nat
  len : Nat
  members : List Nat
  off : Nat
  wait : List Nat
  failed : List Nat
  deriving DecidableEq, Repr

/-- Tiers, shadows, keys and pushes (chapter 10); `badLines` are the dirty lines lost to an uncorrectable word (R450), `native` the native
queues by port. -/
structure Store where
  frames : List TierFrame
  cands : List Nat
  flush : List (Nat × Nat)
  spans : List (Nat × Span)
  shadows : List Shadow
  shadowMade : Nat
  quiet : List (Nat × Nat)
  builds : List Build
  keys : List (Nat × KeyPair)
  sweeps : List Sweep
  pushes : List Push
  pushMade : Nat
  decayAt : Nat
  badLines : List Nat
  native : List (Nat × NativeQueue)
  deriving DecidableEq, Repr

/-- A mirrored region out of sync with one port, or as a whole (R459 to R462): its range-table entry, the copy that survives (0 primary, 1
mirror), the port, the marked pages, lines of the current page already copied, lines in copy, whether the resync
runs and whether it copies every line or only those of one port, and the lines copied. -/
structure Degraded where
  index : Nat
  survivor : Nat
  port : Nat
  marks : List Nat
  done : List Nat
  out : List Nat
  resync : Bool
  whole : Bool
  copied : Nat
  deriving DecidableEq, Repr

/-- Faults, sparing and fencing (chapter 13): Temper windows by class and resource, degraded regions, swaps
recorded, events with their times that wait for a RAS core (R502), lasting faults and declarations to act on, physical tiles that carry no work, 2 MiB units of device memory retired,
the spare lanes of each I/O die that are bad or in use (R42, R43), and the extents whose state is lost in both copies (R449). -/
structure Ras where
  temper : List (Nat × List Nat)
  degraded : List Degraded
  swaps : Nat
  waiting : List (Nat × Nat × Nat)
  due : List (Nat × Nat)
  dead : List (Nat × Nat)
  badTiles : List Nat
  badUnits : List Nat
  laneSpares : List (Nat × Nat)
  lostExts : List Nat
  deriving DecidableEq, Repr

/-- What an OPS_RESULT is for: a write of an Anvil, or a piece of a weight push from a stack of the forge (R56, R358). -/
inductive ResUse where
  | anvil (tile tag : Nat)
  | push (number stack : Nat)
  deriving DecidableEq, Repr

/-- An OPS_RESULT sent and not yet acknowledged (R101, R192). -/
structure ResOut where
  port : Nat
  tag : Nat
  use : ResUse
  msg : Msg
  tries : Nat
  deriving DecidableEq, Repr

/-- A line, table or host piece that a tile reads (R252, R477): the TAG of its request, the key of the page or of the operands
it belongs to, its typed address and length, the Tongs engine that issued it (2 for none), its status once it has landed, and its
data. -/
structure Item where
  tag : Nat
  page : Nat
  addr : Nat
  len : Nat
  tongs : Nat
  status : Option Nat
  data : List Byte
  deriving DecidableEq, Repr

/-- One write of a descriptor (R62, R268): its descriptor, its typed address or, with `port`, a requester's address, and its bytes. -/
structure Put where
  ix : Nat
  port : Option Nat
  addr : Nat
  bytes : List Byte
  deriving DecidableEq, Repr

/-- A write of a heat that its destination has not acknowledged (R57): its TAG, tile and descriptor, and the least scope that
contains its destination (R75). -/
structure Ack where
  tag : Nat
  tile : Nat
  ix : Nat
  scope : Nat
  deriving DecidableEq, Repr

/-- A descriptor that runs (R265, R276): its index and words, its next step, whether its wait is over, the fields of its status
word, whether its steps have ended and its status is written, and what its operator keeps between steps: numbers, byte strings,
ranked records (R294), passing slots by page (R290), the entry of a length table (R318), and the pages that its counter has counted
before the stage took its steps again (R78), and pieces of sectors of which the rest is still to come (R81). -/
structure Stage where
  ix : Nat
  w : List Nat
  step : Nat
  waited : Bool
  code : Nat
  reason : Nat
  flags : Nat
  result : Nat
  slag : Nat
  shadows : Nat
  skips : Nat
  firstSkip : Nat
  dl : Bool
  replayed : Bool
  fin : Bool
  wrote : Bool
  nums : List Nat
  blobs : List (List Byte)
  rank : List (List (Nat × Nat))
  pass : List (Nat × List Nat)
  ent : Nat
  again : Nat
  parts : List (Nat × List Byte)
  deriving DecidableEq, Repr

/-- What a logical tile does (R270): its heat, the descriptor groups still to come, the stages that run, the start of the group,
failed attempts of a stage's step (R273), whether the deadline has passed with the pages landed by then and those counted as missed
(R277), the pages read ahead that POISON has made misses (R281), the outcome of pages (1 shadow, 2 skipped, 3 hole), reads, writes
held for a release (R268), the frames that have landed at the present placement, newest first, the regions whose state the last
migration dropped (R72), and the first descriptors of groups whose deadline came before they began, with the pages missed (R277). -/
structure Run where
  fn : Nat
  ring : Nat
  no : Nat
  todo : List (List Nat)
  stages : List Stage
  since : Nat
  tries : List (Nat × Nat)
  deadlined : Bool
  inTime : List Nat
  missed : List Nat
  lost : List Nat
  outcomes : List (Nat × Nat)
  items : List Item
  held : List Put
  frames : List HeldFrame
  gone : List (Nat × Nat)
  overdue : List (Nat × List Nat)
  deriving DecidableEq, Repr

/-- A heat (R255 to R262): its key and its command, its descriptors as eight words each, its counters with their units, its status
array, its dependency with the stream generation it was admitted under, its watchdog, whether and since when it runs, the codes of
the status words written, its unacknowledged writes, REDUCE slots that hold a contribution (tile, descriptor, slot), and whether
its completion is discarded (R481). -/
structure Heat where
  fn : Nat
  ring : Nat
  no : Nat
  cmd : RingCmd
  descs : List (List Nat)
  ctrs : List (Nat × Nat)
  status : Nat
  dep : Option (Nat × Nat × Nat)
  wdog : Nat
  running : Bool
  start : Nat
  codes : List (Nat × Nat)
  acks : List Ack
  landed : List (Nat × Nat × Nat)
  mute : Bool
  deriving DecidableEq, Repr

/-- A migration under way (R71): since when, whether the old scratchpad can be read, and the frames held. -/
structure Frozen where
  since : Nat
  readable : Bool
  frames : List HeldFrame
  deriving DecidableEq, Repr

/-- A line of a missed page that is still on its way (R280): its TAG, and the tile, heat and descriptor that asked for it. -/
structure LateLine where
  tag : Nat
  tile : Nat
  no : Nat
  ix : Nat
  deriving DecidableEq, Repr

/-- The heat scheduler and the tiles (chapter 08): streams by ring with their generation, first number and last number plus one,
admitted heats in admission order, runs by logical tile, migrations by tile, placement generations by tile (R70), the next TAG, lines
of missed pages on their way, and the Crucibles of the tiles (R224, R242): Crucible i of logical tile t is t × 64 + i, and one that is
not listed holds zeros. -/
structure Heats where
  streams : List (Nat × (Nat × Nat × Nat))
  list : List Heat
  runs : List (Nat × Run)
  frozen : List (Nat × Frozen)
  gens : List (Nat × Nat)
  tag : Nat
  late : List LateLine
  cruc : List (Nat × Crucible)
  deriving DecidableEq, Repr


/-- A sequenced GRT packet of a sender (R385, R396): its message, opcode, FLAGS, STATUS, OFFSET, LENGTH, REG_OR_RPSN, REG_EPOCH,
counter and payload; `psn` counts once it has been sent. -/
structure GPacket where
  psn : Nat
  msg : Nat
  op : Nat
  flags : Nat
  status : Nat
  offset : Nat
  length : Nat
  reg : Nat
  repoch : Nat
  ctr : Nat
  ctrKind : Nat
  payload : List Byte
  deriving DecidableEq, Repr

/-- A message of an operator on a context (R389): its tile and TAG, its packets not yet acknowledged, and the first code its packets
met in the order of R19. -/
structure GMessage where
  id : Nat
  tile : Nat
  tag : Nat
  left : Nat
  code : Nat
  deriving DecidableEq, Repr

/-- A remote read outstanding (R403): the PSN of its READ_REQ once sent, its message, length, how many bytes have come back, whether it is
an acquire, and whether its last READ_RESP has landed. -/
structure GRead where
  msg : Nat
  psn : Option Nat
  len : Nat
  got : Nat
  acquire : Bool
  done : Bool
  deriving DecidableEq, Repr

/-- A packet accepted in sequence and not yet reported as committed (R397, R400): its fields, and how far it is: 0 to be processed,
1 at the homes with the lines outstanding, 2 done with its code. -/
structure GRx where
  pkt : GPacket
  port : Nat
  stage : Nat
  lines : List Nat
  code : Nat
  kind : Nat
  deriving DecidableEq, Repr

/-- A READ_REQ that a responder serves (R403): its PSN, domain, base DPA, length, the bytes read so far, the PMTU cuts sent, and the
line awaited. -/
structure GServe where
  psn : Nat
  dpa : Nat
  len : Nat
  bytes : List Byte
  sent : Nat
  tag : Option Nat
  deriving DecidableEq, Repr

/-- A GRT context (R390): its record; whether it is cached, since when its fetch runs and when it was last used (R392, R393); its
sender: next PSN, UNA, packets outstanding and waiting, the PSN to resend from, the last sending of each, retries, RNR count and wait
(R396 to R399); its receiver: EPSN, CPSN, the last NAK SEQ, the source MAC of the last packet (R382), accepted packets, commits not yet acknowledged, answers that wait, the
message in progress by the packets it still has to come and whether it failed (R397, R398, R405), with its number and its registration;
the message of which the last packet sent was not the last (R387); operators' messages, reads, reads served; and its draining. -/
structure GCtx where
  rec_ : List Byte
  state : Nat
  cached : Bool
  fetching : Option Nat
  used : Nat
  next : Nat
  una : Nat
  sent : List GPacket
  queue : List GPacket
  resend : Option Nat
  times : List (Nat × Nat)
  retries : Nat
  rnrs : Nat
  rnr : Option (Nat × Nat)
  epsn : Nat
  cpsn : Nat
  nakAt : Option Nat
  mac : Nat
  rx : List GRx
  since : Nat
  ackFrom : Option Nat
  answers : List GPacket
  cur : Option (Nat × Bool)
  curNo : Nat
  curReg : Nat
  open_ : Option (Nat × Nat)
  msgs : List GMessage
  reads : List GRead
  serves : List GServe
  drain : Option Nat
  cmd : Option RingCmd
  deriving DecidableEq, Repr

/-- A packet parked in the miss queue (R393). -/
structure Miss where
  ctx : Nat
  port : Nat
  frame : List Byte
  deriving DecidableEq, Repr

/-- What a registration holds beside its register (R404, R406): base DPA, length, NAK-REVOKED answers since its revoke, the uncommitted
packets of messages that passed, which INFLIGHT shows up to 65,535, and whether its word is lost in both copies (R449). -/
structure RegRange where
  base : Nat
  len : Nat
  naks : Nat
  flight : Nat
  lost : Bool
  deriving DecidableEq, Repr

/-- Glois Remote Transport (chapter 11): contexts, contexts reserved by CTX_ALLOC with their domain (R491), the miss queue and when
MISS_QUEUE_FULL was last posted, registrations, operators' remote accesses not yet cut into messages, received pauses as (since,
until) and storms by port × 8 + priority (R408, R409), XOFF sent with its time, and message and line numbers. -/
structure Grt where
  ctxs : List (Nat × GCtx)
  reserved : List (Nat × Nat)
  missq : List Miss
  fullAt : Option Nat
  regs : List (Nat × RegRange)
  asks : List RemoteAsk
  pauses : List (Nat × (Nat × Nat))
  storms : List Nat
  xoff : List (Nat × Nat)
  ids : Nat
  deriving DecidableEq, Repr
/-- One ring (R482): RING_CFG0 and RING_CFG1, its producer and consumer indexes, the PHASE of the next entry written, entries not
yet signalled with the time of the oldest (R496), its doorbell held until RUNNING (R489), entries not yet released and slots
reserved for started commands (R485), and how often it was enabled. -/
structure Ring where
  cfg0 : Nat
  cfg1 : Nat
  pi : Nat
  ci : Nat
  phase : Bool
  unsig : Nat
  oldest : Nat
  held : Bool
  used : Nat
  res : Nat
  gen : Nat
  avail : Nat
  deriving DecidableEq, Repr

/-- A ring that has not been configured. -/
def Ring.idle : Ring := ⟨0, 0, 0, 0, false, 0, 0, false, 0, 0, 0, 0⟩

/-- A HOST read the host controller has issued and that has not completed (R49, R477). -/
structure HostRead where
  tag : Nat
  fn : Nat
  addr : Nat
  len : Nat
  use : HostUse
  deriving DecidableEq, Repr

/-- What the host controller has sent to the host: posted writes (R56), MSI-X interrupts (R496), and the bytes
of a read or that they are poisoned (R450, R479). -/
inductive HostOut where
  | write (fn addr : Nat) (bytes : List Byte)
  | irq (fn vector : Nat)
  | reply (fn : Nat) (bytes : List Byte)
  | poisoned (fn : Nat)
  | retry (fn : Nat)
  | aer (fn : Nat)
  deriving DecidableEq, Repr

/-- How a ring command ended whose completion its core's restart has held up (R502): STATUS, ERR, INDEX and RESULT. -/
structure CmdEnd where
  status : Nat
  err : Nat
  index : Nat
  result : List Byte
  deriving DecidableEq, Repr

/-- A ring command taken from its ring and not yet completed (R485, R487): its opcode, when it was fetched, whether it has started,
the enabling of the completion ring in which its slot is reserved, and how it ended if its core's journal holds its completion. -/
structure Started where
  cmd : RingCmd
  op : Nat
  at_ : Nat
  begun : Bool
  gen : Nat
  ended : Option CmdEnd
  deriving DecidableEq, Repr

/-- The host interface (chapter 14): rings by function, kind and index; event SEQ and events lost by function (R489, R494);
log SEQ by core (R503);
commands started; HOST reads and what has been sent; functions in reset, VF Enable, the GRT backing (R491), and trace records
queued for the I3C pins (R505). -/
structure HostIf where
  rings : List (Nat × Ring)
  evtSeq : List (Nat × Nat)
  lost : List (Nat × Nat)
  lostFirst : List (Nat × Nat)
  logSeq : List (Nat × Nat)
  started : List Started
  reads : List HostRead
  readTag : Nat
  out : List HostOut
  flr : List Nat
  vfEnable : Bool
  backing : Option (Nat × Nat)
  pins : List (List Byte)
  deriving DecidableEq, Repr

/-- A write that a counter has counted (R72): the tile it landed in, or 256 for elsewhere, the tile and descriptor whose step sent it, and
its payload bytes. -/
structure Counted where
  dest : Nat
  src : Option (Nat × Nat)
  bytes : Nat
  deriving DecidableEq, Repr

/-- Who holds an arrival counter (R66): the domain and the heat, the N of each wait on it that has timed out (R269, R468), and the writes
it has counted, newest first (R72). -/
structure CtrHold where
  dom : Nat
  fn : Nat
  ring : Nat
  no : Nat
  late : List Nat
  counted : List Counted
  deriving DecidableEq, Repr


/-- One control-core restart under way (R501): the core, its cause, when it began and the CORE_RESTART command that asked for it. -/
structure Restart where
  core : Nat
  cause : Nat
  since : Nat
  cmd : Option RingCmd
  deriving DecidableEq, Repr

/-- What the boot ROM keeps of the applied image (R512, R535): slot (0 A, 1 B), SVN and the digest of its signed bytes. -/
structure ImageRecord where
  slot : Nat
  svn : Nat
  digest : List Byte
  deriving DecidableEq, Repr

/-- A core's image in the firmware store (R526): its core, offset, length, and the digest that core 0 keeps of it (R500). -/
structure CoreImage where
  core : Nat
  off : Nat
  len : Nat
  digest : List Byte
  deriving DecidableEq, Repr

/-- What is kept of the running bundle (R500, R526, R531): SVN, SIGNER_PK and the image of each core. -/
structure BundleRecord where
  svn : Nat
  pk : List Byte
  images : List CoreImage
  deriving DecidableEq, Repr

/-- A flash command under way on the bridge (R551): a sector erase or a program. -/
inductive FlashOp where
  | erase (addr : Nat)
  | program (addr : Nat) (bytes : List Byte)
  deriving DecidableEq, Repr

/-- The input power the limiter watches (R557): the last samples of 10 µs in mW, newest first; since when the input has been above
CAP_W, and since when below 0.95 of it; whether the limiter is engaged, and up to when THROTTLE_US has counted, in ns. -/
structure Limiter where
  samples : List Nat
  above : Option Nat
  below : Option Nat
  on : Bool
  counted : Nat
  deriving DecidableEq, Repr

/-- Resets, start-up, security, pins and power (chapters 15 and 16). Rails and pins: RAILS_OK, RESET_N and PERST_N low. A reset: whether
the part is held in reset, the cause and alarm source that step 1 records, whether its release has been asked for and which ERASE
sources hold it (R541), when it was released, whether the wipe has ended and whether the part is in HALT_IMAGE. The image applied,
the source MAC of analysis frames, the identity public key, the running bundle, how much of a bundle has been asked of the host;
fuse fields waiting to burn, the first of them burning, with the values; the values written to FUSE_DATA; whether a lifecycle
transition is under way; halted cores with their registers, the SRAM bytes known and the cores whose SRAM firmware has changed;
restarts under way. I3C: the reply the next private read takes, the flash command on the bridge, the 64 sensor readings. The core
rail's ramp: where it started and when, in mV and ns. Sources of tamper alarms that read active; domains whose key has been rotated since
reset (R538); the completion timeout that each function's Device Control 2 selects (R477). -/
structure Boot where
  rails : Bool
  resetLow : Bool
  perstLow : Bool
  held : Bool
  cause : Nat
  source : Nat
  want : Bool
  holds : List Nat
  released : Nat
  wiped : Bool
  halt : Bool
  image : Option ImageRecord
  analysisMac : Nat
  idKey : List Byte
  bundle : Option BundleRecord
  asked : Nat
  burns : List (Nat × Nat)
  fuseData : List (Nat × Nat)
  target : Option Nat
  halted : List (Nat × List Nat)
  sram : List (Nat × Byte)
  changed : List Nat
  restarts : List Restart
  reply : List Byte
  bridge : Option FlashOp
  temps : List Nat
  limiter : Limiter
  rampFrom : Nat
  rampAt : Nat
  active : List Nat
  rotated : List Nat
  config : List (Nat × Nat)
  deriving DecidableEq, Repr
/-- Everything but the fuses and the flash, which alone outlive a loss of power. `time` is the Hearth time base in ns (R189),
`free` counts the free values taken so far (assumption log 3), `regs` holds every BAR0 register that differs from its reset
value, `snap` the counters frozen by TEL_SNAP.HOLD (R508), `dmem` device memory (R46), `spa` the scratchpads (R45), tile by
tile of 2 MiB, `results` the OPS_RESULT messages not yet acknowledged, and `upset` the 32-byte words of device memory whose ECC does not
agree with what they hold, by address over 32, with whether one symbol alone is bad; the ECC of every other word agrees (R447). -/
structure Dev where
  time : Nat
  free : Nat
  regs : List (Nat × Nat)
  snap : Option (List (Nat × Nat))
  links : List (Nat × PortLink)
  sw : Switch
  ten : Tenancy
  home : Homes
  store : Store
  ras : Ras
  host : HostIf
  ctrs : List (Nat × CtrHold)
  dmem : List (Nat × Byte)
  upset : List (Nat × Bool)
  spa : List (Nat × Byte)
  results : List ResOut
  heats : Heats
  grt : Grt
  boot : Boot
  deriving DecidableEq, Repr

/-- The fuse array (R527): the value of each field, which fields are programmed, and a burn under way. -/
structure Fuses where
  fields : List (Nat × Nat)
  burnt : Nat
  deriving DecidableEq, Repr

/-- The machine: the commands waiting, the fuses, the flash and everything else. -/
structure State where
  pending : List Instr
  fuse : Fuses
  flash : List Host.Cell
  dev : Dev
  deriving DecidableEq, Repr

/-- The faults of a command: none. Every command of the table has an effect in every state, so nothing raises one. -/
inductive Fault where
  deriving DecidableEq, Repr

/-- Why a command has no meaning. -/
inductive Refusal where
  /-- Raised by the dispatch for a command that is not modelled yet: safe. -/
  | notModelled (mnemonic : String)
  deriving DecidableEq, Repr

/-- The switch core with nothing queued. -/
def Switch.empty : Switch :=
  { cells := [], nextStore := 0, arrived := [], grantPtr := [], acceptPtr := [], classPtr := [], shapers := [],
    policers := [], quenchers := [], polHold := [], groups := [], samples := [], draining := [], retired := [], sweptAt := 0,
    sampledAt := 0, waiting := [], dropped := [], failed := [], mcast := [] }

/-- A bank with no entry. -/
def Bank.empty : Bank := ⟨[], [], [], [], []⟩

/-- Composition with an empty map. -/
def Tenancy.empty : Tenancy :=
  { live := Bank.empty, old := none, oldAt := 0, staged := [], flight := [], admissions := 0, scrubs := [], leases := [], exts := [],
    unowned := [] }

/-- Homes with no line held outside the pool. -/
def Homes.empty : Homes :=
  { lines := [], made := 0, abuf := [], outs := [], invals := [], parked := [], park := [], mail := [], snoops := [],
    lateHolds := [], lateParks := [] }

/-- Tiers with no page promoted, no key loaded and no push running. -/
def Store.empty : Store :=
  { frames := [], cands := [], flush := [], spans := [], shadows := [], shadowMade := 0, quiet := [], builds := [], keys := [],
    sweeps := [], pushes := [], pushMade := 0, decayAt := 0, badLines := [], native := [] }

/-- No fault counted, no region degraded. -/
def Ras.empty : Ras := ⟨[], [], 0, [], [], [], [], [], [], []⟩

/-- No ring configured. -/
def HostIf.empty : HostIf :=
  { rings := [], evtSeq := [], lost := [], lostFirst := [], logSeq := [], started := [], reads := [], readTag := 0, out := [], flr := [],
    vfEnable := false, backing := none, pins := [] }

/-- No heat admitted. -/
def Heats.empty : Heats := ⟨[], [], [], [], [], 0, [], []⟩

/-- No context created. -/
def Grt.empty : Grt := ⟨[], [], [], none, [], [], [], [], [], 0⟩

/-- The limiter with nothing measured. -/
def Limiter.idle : Limiter := ⟨[], none, none, false, 0⟩

/-- Rails up, both pins high, and the power-on reset not yet released (R554): step 1 has not begun. -/
def Boot.start : Boot :=
  { rails := true, resetLow := false, perstLow := false, held := true, cause := 0, source := 0, want := false, holds := [],
    released := 0, wiped := false, halt := false, image := none, analysisMac := 0, idKey := [], bundle := none, asked := 0, burns := [],
    fuseData := [], target := none, halted := [], sram := [], changed := [], restarts := [], reply := [], bridge := none,
    temps := List.replicate 64 0, limiter := Limiter.idle, rampFrom := 750, rampAt := 0, active := [], rotated := [], config := [] }

/-- Everything but fuses and flash after a power-on reset. -/
def Dev.reset : Dev :=
  { time := 0, free := 0, regs := [], snap := none, links := [], sw := Switch.empty, ten := Tenancy.empty, home := Homes.empty,
    store := Store.empty, ras := Ras.empty, host := HostIf.empty, ctrs := [], dmem := [], upset := [], spa := [], results := [],
    heats := Heats.empty, grt := Grt.empty, boot := Boot.start }

/-- The machine right after a power-on reset: no command waits, no fuse is programmed, the flash is erased (assumption log 8). -/
def State.reset : State := { pending := [], fuse := ⟨[], 0⟩, flash := [], dev := Dev.reset }

end Sys2Proof.Machine
end

