-- ==== Sys2Proof/Machine/Ops.lean ====
section
/-! DEFINITION. The operations every block shares: time, free values, registers and counters, the link records, device memory
and the scratchpads, and the posting of events into the rings. -/
namespace Sys2Proof.Machine

/-- Time never runs back: a command that takes place at `t` moves the Hearth time base to `t` at least (R189). -/
def Dev.at (d : Dev) (t : Nat) : Dev := { d with time := max d.time t }

/-- Time passes with nothing to do: one ns of the Hearth time base (assumption log 1). -/
def Dev.tick (d : Dev) : Dev := { d with time := d.time + 1 }

/-- A free value of `w` bits that no earlier one constrains (assumption log 3). -/
def Dev.fresh (d : Dev) (w : Nat) : Nat × Dev := ((Config.freeBits w d.free).toNat, { d with free := d.free + 1 })

/-- The value of a register (R14). -/
def Dev.reg (d : Dev) (r : RegRef) : Nat := (Tab.find? d.regs r.addr).getD r.rst

/-- A register given a value; only registers that differ from their reset value are listed. -/
def Dev.setReg (d : Dev) (r : RegRef) (v : Nat) : Dev :=
  { d with regs := if v = r.rst then Tab.del d.regs r.addr else Tab.ins d.regs r.addr v }

/-- The value of a register field (R11). -/
def Dev.get (d : Dev) (f : Fld) : Nat := fieldOf (d.reg f.reg) f.lo f.w

/-- A register field given a value. -/
def Dev.set (d : Dev) (f : Fld) (v : Nat) : Dev := d.setReg f.reg (fieldPut (d.reg f.reg) f.lo f.w v)

/-- Whether a one-bit field is 1. -/
def Dev.flag (d : Dev) (f : Fld) : Bool := d.get f == 1

/-- A 48-bit counter raised by `n`, saturating (R129, R164, R202 and the other counter tables). -/
def Dev.bumpBy (d : Dev) (r : RegRef) (n : Nat) : Dev := d.setReg r (min (2 ^ 48 - 1) (d.reg r + n))

/-- A 48-bit counter raised by one, saturating. -/
def Dev.bump (d : Dev) (r : RegRef) : Dev := d.bumpBy r 1

/-- What a port keeps beside its registers. -/
def Dev.link (d : Dev) (p : Nat) : PortLink := Tab.get PortLink.idle d.links p

/-- A port's record replaced. -/
def Dev.setLink (d : Dev) (p : Nat) (l : PortLink) : Dev := { d with links := Tab.put PortLink.idle d.links p l }

/-- A port's record changed by `f`. -/
def Dev.onLink (d : Dev) (p : Nat) (f : PortLink → PortLink) : Dev := d.setLink p (f (d.link p))

/-- `f` applied for every element of a list, in order. -/
def Dev.each {α : Type} (d : Dev) (l : List α) (f : Dev → α → Dev) : Dev := l.foldl f d

/-- `f` applied if `c` holds. -/
def Dev.when (d : Dev) (c : Bool) (f : Dev → Dev) : Dev := if c then f d else d

/-- The pair at place `i` of a list by class, (0, 0) where it is not listed. -/
def pairAt (l : List (Nat × Nat)) (i : Nat) : Nat × Nat := l.getD i (0, 0)

/-- A list by class with the pair at place `i` replaced; six classes (R98). -/
def putPair (l : List (Nat × Nat)) (i : Nat) (v : Nat × Nat) : List (Nat × Nat) :=
  (rangeFrom 0 6).map (fun j => if j = i then v else pairAt l j)

/-- `n` bytes of device memory; memory that nothing has written since the reset wipe reads 0 (R511). -/
def Dev.readMem (d : Dev) (a n : Nat) : List Byte := Memory.readN 0#8 d.dmem a n

/-- The words whose ECC does not agree after `n` bytes from `a` have been written: a word written whole takes new check bits (R447). -/
def rewritten (upset : List (Nat × Bool)) (a n : Nat) : List (Nat × Bool) :=
  upset.filter (fun u => decide (u.1 * 32 < a) || decide (a + n < u.1 * 32 + 32))

/-- Bytes written to device memory. -/
def Dev.writeMem (d : Dev) (a : Nat) (bs : List Byte) : Dev :=
  { d with dmem := Memory.writeN 0#8 d.dmem a bs, upset := rewritten d.upset a bs.length }

/-- `n` bytes of device memory zeroed. -/
def Dev.zeroMem (d : Dev) (a n : Nat) : Dev := { d with dmem := Memory.clear d.dmem a n, upset := rewritten d.upset a n }

/-- The bytes of a scratchpad (R45): each Anvil holds 2 MiB. -/
def spaBytes : Nat := 0x20_0000

/-- `n` bytes of the scratchpad of a logical tile. -/
def Dev.readSpa (d : Dev) (tile a n : Nat) : List Byte := Memory.readN 0#8 d.spa (tile * spaBytes + a) n

/-- Bytes written to the scratchpad of a logical tile. -/
def Dev.writeSpa (d : Dev) (tile a : Nat) (bs : List Byte) : Dev :=
  { d with spa := Memory.writeN 0#8 d.spa (tile * spaBytes + a) bs }

/-- The base of an area of device memory, in bytes (R339). -/
def Dev.areaBase (d : Dev) (a : Nat) : Nat := d.get (Reg.FORGE_AREA_BASE_2M a) * 0x20_0000

/-- The size of an area of device memory, in bytes (R339). -/
def Dev.areaSize (d : Dev) (a : Nat) : Nat := d.get (Reg.FORGE_AREA_SIZE_2M a) * 0x20_0000

/-- The lanes that a width code names (R128): 1 x2, 2 x4, 3 x8, 4 x16. -/
def lanesOf (code : Nat) : Nat := if code = 0 then 0 else 2 ^ code

/-- The width code of a number of lanes. -/
def codeOf (lanes : Nat) : Nat := if lanes = 2 then 1 else if lanes = 4 then 2 else if lanes = 8 then 3 else if lanes = 16 then 4 else 0

/-- The port's lanes by the image (R128). -/
def Dev.width (d : Dev) (p : Nat) : Nat := lanesOf (d.get (Reg.PORT_CFG_WIDTH_CODE p))

/-- Whether the image places a port of this number: its width code is not 0 (assumption log 9). -/
def Dev.placed (d : Dev) (p : Nat) : Bool := d.get (Reg.PORT_CFG_WIDTH_CODE p) != 0

/-- Whether a port is a placed port of a role (R128): 0 requester, 1 target, 2 uplink, 3 analysis. -/
def Dev.isRole (d : Dev) (p role : Nat) : Bool := d.placed p && d.get (Reg.PORT_CFG_ROLE p) == role

/-- Whether a port runs Glois Link (R85). -/
def Dev.isGlois (d : Dev) (p : Nat) : Bool := d.isRole p 0 || d.isRole p 1

/-- The state of a port (R122): 0 DOWN, 1 EQUALIZE, 2 ALIGN, 3 HELLO, 4 ACTIVE, 5 REMAP, 6 RETRAIN. -/
def Dev.linkState (d : Dev) (p : Nat) : Nat := d.get (Reg.LINK_STAT_STATE p)

/-- Whether a port is fenced (R464). -/
def Dev.fenced (d : Dev) (p : Nat) : Bool := d.flag (Reg.PORT_FENCE_FENCED p)

/-- The core die of a port: the image names its I/O die; dies 0 to 3 attach to core die A (R25). -/
def Dev.portDie (d : Dev) (p : Nat) : Nat := if d.get (Reg.PORT_CFG_IO_DIE p) < 4 then 0 else 1

/-- The smallest number not in a list, searched from `n` with `fuel` tries. -/
def freshNumber (used : List Nat) : Nat → Nat → Nat
  | _, 0 => 0
  | n, k + 1 => if n ∈ used then freshNumber used (n + 1) k else n

/-- The key of a ring: function, kind (0 command, 1 completion, 2 event, 3 log) and index (R482). -/
def ringKey (fn kind index : Nat) : Nat := (fn * 4 + kind) * 16 + index

/-- A ring. -/
def Dev.ring (d : Dev) (fn kind index : Nat) : Ring := Tab.get Ring.idle d.host.rings (ringKey fn kind index)

/-- A ring replaced. -/
def Dev.setRing (d : Dev) (fn kind index : Nat) (r : Ring) : Dev :=
  { d with host := { d.host with rings := Tab.put Ring.idle d.host.rings (ringKey fn kind index) r } }

/-- EN of a ring (R506). -/
def Ring.en (r : Ring) : Bool := bitOf r.cfg0 0

/-- The entries of a ring (R506): values of SIZE_CODE above 10 act as 10. -/
def Ring.size (r : Ring) : Nat := 2 ^ (min 10 (fieldOf r.cfg0 21 4) + 6)

/-- The bytes of an entry of a ring (R482). -/
def ringEntry (kind : Nat) : Nat := if kind = 1 then 32 else 64

/-- The size of a VF's ring region (R480). -/
def Dev.vfRegion (d : Dev) : Nat := (d.areaSize 0 - 0x400_0000) / 4095 / 0x1_0000 * 0x1_0000

/-- The base of a function's ring region in device memory (R480). -/
def Dev.regionBase (d : Dev) (fn : Nat) : Nat :=
  if fn = 0 then d.areaBase 0 else d.areaBase 0 + 0x400_0000 + (fn - 1) * d.vfRegion

/-- The size of a function's ring region (R480). -/
def Dev.regionSize (d : Dev) (fn : Nat) : Nat := if fn = 0 then 0x400_0000 else d.vfRegion

/-- The address of a ring's entry in device memory (R482, R506). -/
def Dev.ringAddr (d : Dev) (fn kind : Nat) (r : Ring) (slot : Nat) : Nat :=
  d.regionBase fn + fieldOf r.cfg0 1 20 * 64 + slot * ringEntry kind

/-- Something sent to the host. -/
def Dev.toHost (d : Dev) (o : HostOut) : Dev := { d with host := { d.host with out := d.host.out ++ [o] } }

/-- The ring signals its vector when IRQ_COUNT entries are unsignalled; an IRQ_COUNT of 0 signals none (R496). -/
def Dev.signalRing (d : Dev) (fn kind index : Nat) : Dev :=
  let r := d.ring fn kind index
  let n := fieldOf r.cfg0 38 10
  if n != 0 && decide (n ≤ r.unsig) then
    (d.setRing fn kind index { r with unsig := 0 }).toHost (.irq fn (fieldOf r.cfg0 32 6))
  else d

/-- One entry written to a ring the T9 fills: in device memory, then in the host copy, then the interrupt (R483, R484, R496). -/
def Dev.putEntry (d : Dev) (fn kind index : Nat) (entry : List Byte) : Dev :=
  let r := d.ring fn kind index
  let d := d.writeMem (d.ringAddr fn kind r r.pi) entry
  let d := d.when (bitOf r.cfg0 25) (fun d => d.toHost (.write fn (r.cfg1 + r.pi * ringEntry kind) entry))
  let wrap := r.pi + 1 == r.size
  let d := d.setRing fn kind index
    { r with pi := (r.pi + 1) % r.size, phase := if wrap then !r.phase else r.phase, used := min r.size (r.used + 1),
             unsig := r.unsig + 1, oldest := if r.unsig = 0 then d.time else r.oldest }
  d.signalRing fn kind index

/-- One event entry (R494): the next SEQ of the function is taken; a full ring drops the entry (R489). -/
def Dev.postOne (d : Dev) (fn typ : Nat) (last : Bool) (detail : List Byte) : Dev :=
  let r := d.ring fn 2 0
  if !r.en then d else
  let seq := Tab.get 0 d.host.evtSeq fn
  let d := { d with host := { d.host with evtSeq := Tab.put 0 d.host.evtSeq fn ((seq + 1) % 65536) } }
  if r.size ≤ r.used then
    let n := Tab.get 0 d.host.lost fn
    let d := { d with host := { d.host with
      lost := Tab.put 0 d.host.lost fn (n + 1),
      lostFirst := if n = 0 then Tab.put 0 d.host.lostFirst fn seq else d.host.lostFirst } }
    (d.set (Reg.FN_STAT_EVT_LOST fn) 1).bump (Reg.EVT_DROP fn)
  else
    d.putEntry fn 2 0 (natBytes 1 typ ++ natBytes 1 ((if r.phase then 1 else 0) + (if last then 2 else 0)) ++
      natBytes 2 seq ++ natBytes 4 (d.time / 1000) ++ padBytes 56 detail)

/-- The entries of one event: 56 bytes of detail each, LAST on the last (R494). -/
def Dev.postMany (d : Dev) (fn typ : Nat) : Nat → List Byte → Dev
  | 0, _ => d
  | n + 1, detail =>
    let last := decide (detail.length ≤ 56)
    let d := d.postOne fn typ last (detail.take 56)
    if last then d else d.postMany fn typ n (detail.drop 56)

/-- An event posted on the event rings of functions: the detail fields stand 8 bytes each (R494). A function whose event ring is
not enabled receives none (assumption log 10). -/
def Dev.post (d : Dev) (fns : List Nat) (typ : Nat) (detail : List Nat) : Dev :=
  let bytes := detail.flatMap (natBytes 8)
  d.each (fns.foldl addOnce []) (fun d fn => d.postMany fn typ (bytes.length / 56 + 1) bytes)

/-- The base of the trace buffer (R480, R505): the 16 MiB below the firmware store at the top of PF0's ring region. -/
def Dev.traceBase (d : Dev) : Nat := d.areaBase 0 + 0x200_0000

/-- The base of the firmware store (R480, R498). -/
def Dev.storeBase (d : Dev) : Nat := d.areaBase 0 + 0x300_0000

/-- A trace point records (R504, R505, R508): into the buffer's next place, and to the queue of the I3C pins if asked. -/
def Dev.trace (d : Dev) (point core arg : Nat) : Dev :=
  if !(d.flag Reg.TRACE_CTL_EN && bitOf (d.reg (Reg.TRACE_EN (point / 64))) (point % 64)) then d else
  if d.flag Reg.TRACE_CTL_STOP_FULL && d.flag Reg.TRACE_STAT_WRAPPED then d else
  let n := d.get Reg.TRACE_STAT_NEXT
  let rec_ := natBytes 6 d.time ++ natBytes 1 point ++ natBytes 1 core ++ natBytes 8 arg
  let d := d.writeMem (d.traceBase + n * 16) rec_
  let d := d.set Reg.TRACE_STAT_NEXT ((n + 1) % 1048576)
  let d := d.when (n + 1 == 1048576) (fun d => d.set Reg.TRACE_STAT_WRAPPED 1)
  if !d.flag Reg.TRACE_CTL_PIN_OUT then d
  else if 4096 ≤ d.host.pins.length then d.bump Reg.TRACE_DROP
  else { d with host := { d.host with pins := d.host.pins ++ [rec_] } }

/-- Whether GSTAT.RUNNING is 1 (R498). -/
def Dev.running (d : Dev) : Bool := d.flag Reg.GSTAT_RUNNING

/-- Whether a control core runs (R507). -/
def Dev.coreUp (d : Dev) (c : Nat) : Bool := d.running && d.get (Reg.CORE_STAT_STATE c) == 1

/-- One entry of a core's log (R503), if its level is written. -/
def Dev.logLine (d : Dev) (core level code : Nat) (args : List Byte) : Dev :=
  if d.get (Reg.LOG_CFG_LEVEL core) < level then d else
  let seq := Tab.get 0 d.host.logSeq core
  let d := { d with host := { d.host with logSeq := Tab.put 0 d.host.logSeq core ((seq + 1) % 2 ^ 32) } }
  d.putEntry 0 3 core (natBytes 8 d.time ++ natBytes 1 core ++ natBytes 1 level ++ natBytes 2 code ++ natBytes 4 seq ++ padBytes 48 args)

/-- What the firmware of a core logs and traces at one of its doings (R503, R504): free values (assumption log 167). -/
def Dev.fwRecords (d : Dev) (core : Nat) : Dev :=
  let n := d.free
  let d := if (d.ring 0 3 core).en then
      ({ d with free := d.free + 1 }).each (Config.logLines core n) (fun d l =>
        d.logLine core l.1.toNat l.2.1.toNat (natBytes 48 l.2.2.toNat))
    else d
  if d.flag Reg.TRACE_CTL_EN then
    ({ d with free := d.free + 1 }).each (Config.tracePoints core n) (fun d x =>
      if x.1.toNat < 32 then d else d.trace x.1.toNat core x.2.toNat)
  else d

/-- The command's effect on everything but the queue, the fuses and the flash. -/
def onDev (s : State) (t : Nat) (f : Dev → Dev) : Host.Outcome State Fault Refusal :=
  .next { s with dev := f (s.dev.at t) }

/-- The status codes in the order of R19, the first that applies first. -/
def codeOrder : List Nat := [3, 2, 8, 4, 5, 7, 1, 6, 10, 9, 0]

/-- Of two codes the one that stands first in the order of R19. -/
def worse (a b : Nat) : Nat := if codeOrder.idxOf a ≤ codeOrder.idxOf b then a else b

end Sys2Proof.Machine
end

