-- ==== Sys2Proof/Machine/Counters.lean ====
section
/-! DEFINITION. Arrival counters (R62 to R74): where each stands, what an arriving write adds to it, and when a wait holds.
Tile counter c of tile t is counter t × 256 + c, device counter i is counter 65536 + i. -/
namespace Sys2Proof.Machine

/-- The number of the counter that CTR_KIND and CTR name (R102): 1 a tile counter, 2 a device counter. -/
def counterId (kind ctr : Nat) : Option Nat :=
  if kind = 1 then some (fieldOf ctr 8 8 * 256 + fieldOf ctr 0 8) else if kind = 2 then some (65536 + ctr % 65536) else none

/-- The current-generation register of a counter (R68). -/
def ctrCur (id : Nat) : RegRef := if id < 65536 then Reg.TCTR_CUR (id / 256) (id % 256) else Reg.DCTR_CUR (id - 65536)

/-- The previous-generation register of a counter (R68). -/
def ctrPrev (id : Nat) : RegRef := if id < 65536 then Reg.TCTR_PREV (id / 256) (id % 256) else Reg.DCTR_PREV (id - 65536)

/-- A counter register raised by `n` in its COUNT, saturating at 2^44 − 1 (R67). SAT is taken to be set when an arrival would pass that
value, not when COUNT reaches it (assumption log 178). -/
def Dev.addCount (d : Dev) (r : RegRef) (n : Nat) : Dev :=
  let v := d.reg r
  let c := fieldOf v 0 44 + n
  if c < 2 ^ 44 then d.setReg r (fieldPut v 0 44 c) else d.setReg r (fieldPut (fieldPut v 0 44 (2 ^ 44 - 1)) 45 1 1)

/-- The placement generation that a counter now has (R68, R70). -/
def Dev.ctrGen (d : Dev) (id : Nat) : Nat := fieldOf (d.reg (ctrCur id)) 48 16

/-- Who holds a counter. -/
def Dev.ctrHold (d : Dev) (id : Nat) : Option CtrHold := Tab.find? d.ctrs id

/-- Whether a result of generation `gen` may still be written for a counter (R72): the current one, or the previous one while it is
live. -/
def Dev.genLive (d : Dev) (id gen : Nat) : Bool :=
  gen == d.ctrGen id || (fieldOf (d.reg (ctrPrev id)) 46 1 == 1 && gen == fieldOf (d.reg (ctrPrev id)) 48 16)

/-- The count that a wait compares (R73): CUR alone, or with PREV while the waiting descriptor's FOLLOW is set and PREV is live. -/
def Dev.ctrCount (d : Dev) (follow : Bool) (id : Nat) : Nat :=
  let cur := d.reg (ctrCur id)
  let prev := d.reg (ctrPrev id)
  fieldOf cur 0 44 + (if follow && bitOf prev 46 then fieldOf prev 0 44 else 0)

/-- A write `x` of domain `dom` names a counter and has landed (R62 to R64, R66): counted under its generation, or orphaned. After a
wait has timed out, the arrival that would have satisfied it lost the race: it alone is written and not counted (R269, R468). -/
def Dev.countArrival (d : Dev) (id dom gen : Nat) (x : Counted) : Dev :=
  match d.ctrHold id with
  | none => d.bump Reg.SLAG_ORPHAN_ARRIVAL
  | some h =>
    if h.dom != dom then d.bump Reg.SLAG_ORPHAN_ARRIVAL
    else
      let n := if bitOf (d.reg (ctrCur id)) 44 then 1 else x.bytes
      let lost := fun (k : Nat) => decide (k ≤ d.ctrCount (bitOf (d.reg (ctrCur id)) 47) id + n)
      if h.late.any lost then
        (({ d with ctrs := Tab.ins d.ctrs id { h with late := h.late.filter (fun k => !lost k) } }).bump Reg.SLAG_LATE_ARRIVAL).bump
          Reg.LATE_ITEMS
      else
        let d := { d with ctrs := Tab.ins d.ctrs id { h with counted := x :: h.counted } }
        d.addCount (if gen = d.ctrGen id then ctrCur id else ctrPrev id) n

/-- A result that names a counter has landed outside the scratchpad that migrates with the counter (R72): one of a generation that is no
longer live is discarded, and where the counter's state was dropped its step sends it again under the current generation. -/
def Dev.countResult (d : Dev) (id dom gen : Nat) (x : Counted) : Dev :=
  if (d.ctrHold id).isNone || d.genLive id gen then d.countArrival id dom gen x
  else
    let d := d.bump Reg.SLAG_PLACEMENT
    if x.src.isSome && !bitOf (d.reg (ctrCur id)) 47 then d.countArrival id dom (d.ctrGen id) x else d

/-- A counter taken by a heat (R66): COUNT zero, the declared unit, held, with the placement generation current for it. -/
def Dev.takeCtr (d : Dev) (id unit follow gen : Nat) (h : CtrHold) : Dev :=
  let d := d.setReg (ctrCur id) (unit * 2 ^ 44 + 2 ^ 46 + follow * 2 ^ 47 + gen * 2 ^ 48)
  let d := d.setReg (ctrPrev id) (fieldPut (d.reg (ctrPrev id)) 46 1 0)
  { d with ctrs := Tab.ins d.ctrs id h }

/-- A counter given up by its heat: HELD clears, and with it PREV.LIVE (R74). -/
def Dev.dropCtr (d : Dev) (id : Nat) : Dev :=
  let d := d.setReg (ctrCur id) (fieldPut (d.reg (ctrCur id)) 46 1 0)
  let d := d.setReg (ctrPrev id) (fieldPut (d.reg (ctrPrev id)) 46 1 0)
  { d with ctrs := Tab.del d.ctrs id }

/-- Whether "counter ≥ N" holds; a saturated counter satisfies every wait (R65, R67). -/
def Dev.waitHolds (d : Dev) (follow : Bool) (id n : Nat) : Bool := decide (n ≤ d.ctrCount follow id) || bitOf (d.reg (ctrCur id)) 45

end Sys2Proof.Machine
end

