-- ==== Sys2Proof/Machine/Map.lean ====
section
/-! DEFINITION. The composition map as an access sees it: range-table entries (R420), regions and their attributes (R135, R341),
stripe sets (R353) and mirror copies (R456), port bindings, pools, windows and extents. -/
namespace Sys2Proof.Machine

/-- KIND (R420): 0 INVALID, 1 LOCAL, 2 REMOTE. -/
def RtEntry.kind (e : RtEntry) : Nat := fieldOf e.w0 0 3
/-- DOMAIN (R420). -/
def RtEntry.dom (e : RtEntry) : Nat := fieldOf e.w0 3 12
/-- DPA_PAGE (R420). -/
def RtEntry.dpaPage (e : RtEntry) : Nat := fieldOf e.w0 15 31
/-- PAGES (R420). -/
def RtEntry.pages (e : RtEntry) : Nat := fieldOf e.w1 0 32
/-- READ (R420). -/
def RtEntry.canRead (e : RtEntry) : Bool := bitOf e.w1 32
/-- WRITE (R420). -/
def RtEntry.canWrite (e : RtEntry) : Bool := bitOf e.w1 33
/-- PPA_PAGE of a LOCAL entry (R420). -/
def RtEntry.ppaPage (e : RtEntry) : Nat := fieldOf e.w2 0 31
/-- MODE (R135): true for OWNED-WB. -/
def RtEntry.ownedWb (e : RtEntry) : Bool := bitOf e.w2 31
/-- MEMSIDE (R135). -/
def RtEntry.memside (e : RtEntry) : Bool := bitOf e.w2 32
/-- MIRROR (R135). -/
def RtEntry.mirror (e : RtEntry) : Bool := bitOf e.w2 33
/-- TIER (R341): 0 NONE, 1 WB, 2 RO. -/
def RtEntry.tier (e : RtEntry) : Nat := fieldOf e.w2 34 2
/-- CMODE (R341): 0 OFF, 1 NATIVE, 2 FIXED. -/
def RtEntry.cmode (e : RtEntry) : Nat := fieldOf e.w2 36 2
/-- CFMT (R361). -/
def RtEntry.cfmt (e : RtEntry) : Nat := fieldOf e.w2 38 3
/-- PROTECT (R365). -/
def RtEntry.protect (e : RtEntry) : Bool := bitOf e.w2 41
/-- SHADOWED (R354). -/
def RtEntry.shadowed (e : RtEntry) : Bool := bitOf e.w2 42
/-- STRIPE (R353). -/
def RtEntry.stripe (e : RtEntry) : Nat := fieldOf e.w2 43 10
/-- MSTRIPE (R456). -/
def RtEntry.mstripe (e : RtEntry) : Nat := fieldOf e.w2 53 10
/-- CONTEXT of a REMOTE entry (R420). -/
def RtEntry.context (e : RtEntry) : Nat := fieldOf e.w2 0 20
/-- REG of a REMOTE entry (R420). -/
def RtEntry.handle (e : RtEntry) : Nat := fieldOf e.w2 20 16
/-- REG_EPOCH of a REMOTE entry (R420). -/
def RtEntry.regEpoch (e : RtEntry) : Nat := fieldOf e.w2 36 16
/-- OFFSET of a REMOTE entry (R420). -/
def RtEntry.offset (e : RtEntry) : Nat := fieldOf e.w3 0 52

/-- An entry that maps nothing. -/
def RtEntry.none : RtEntry := ⟨0, 0, 0, 0⟩

/-- The 2 MiB page of an address. -/
def pageOf (a : Nat) : Nat := a / 0x20_0000

/-- Whether an entry's DPA range holds a page. -/
def RtEntry.holdsDpa (e : RtEntry) (page : Nat) : Bool :=
  decide (e.dpaPage ≤ page) && decide (page < e.dpaPage + e.pages)

/-- Whether a LOCAL entry's PPA range holds a page. -/
def RtEntry.holdsPpa (e : RtEntry) (page : Nat) : Bool :=
  e.kind == 1 && decide (e.ppaPage ≤ page) && decide (page < e.ppaPage + e.pages)

/-- The entry of a domain that contains a DPA, with its index (R418 check 4). -/
def Bank.byDpa (b : Bank) (dom dpa : Nat) : Option (Nat × RtEntry) :=
  b.rt.find? (fun p => (p.2.kind == 1 || p.2.kind == 2) && p.2.dom == dom && p.2.holdsDpa (pageOf dpa))

/-- The LOCAL entry that maps a PPA, with its index (R419). -/
def Bank.byPpa (b : Bank) (ppa : Nat) : Option (Nat × RtEntry) := b.rt.find? (fun p => p.2.holdsPpa (pageOf ppa))

/-- A DPA translated by a LOCAL entry. -/
def RtEntry.toPpa (e : RtEntry) (dpa : Nat) : Nat := (e.ppaPage + (pageOf dpa - e.dpaPage)) * 0x20_0000 + dpa % 0x20_0000

/-- A PPA as the DPA of the entry that maps it. -/
def RtEntry.toDpa (e : RtEntry) (ppa : Nat) : Nat := (e.dpaPage + (pageOf ppa - e.ppaPage)) * 0x20_0000 + ppa % 0x20_0000

/-- The port of a stripe set that serves a line at offset `x` of its region (R353). -/
def stripePort (set : List Nat) (x : Nat) : Option Nat := set[(x / 4096) % set.length]?

/-- The ports of a stripe set (R379). -/
def Bank.set (b : Bank) (s : Nat) : List Nat := Tab.get [] b.stripes s

/-- The primary port of a PPA in its region (R353). -/
def Bank.primary (b : Bank) (e : RtEntry) (ppa : Nat) : Option Nat :=
  stripePort (b.set e.stripe) (ppa - e.ppaPage * 0x20_0000)

/-- The mirror port of a PPA in a mirrored region (R456). -/
def Bank.mirrorPort (b : Bank) (e : RtEntry) (ppa : Nat) : Option Nat :=
  if e.mirror then stripePort (b.set e.mstripe) (ppa - e.ppaPage * 0x20_0000) else none

/-- The copies of a line of a region with their ports: 0 the primary, 1 the mirror (R456). -/
def Bank.copies (b : Bank) (e : RtEntry) (ppa : Nat) : List (Nat × Nat) :=
  ((b.primary e ppa).toList.map (fun p => (0, p))) ++ ((b.mirrorPort e ppa).toList.map (fun p => (1, p)))

/-- The live epoch (R428, R444). -/
def Dev.epoch (d : Dev) : Nat := d.get Reg.COMP_STAT_LIVE_EPOCH

/-- The bank that serves requests stamped with an epoch (R428). -/
def Dev.bank (d : Dev) (epoch : Nat) : Bank := if epoch = d.epoch then d.ten.live else d.ten.old.getD d.ten.live

/-- The domain a port is bound to in the live map (R416). -/
def Dev.boundDom (d : Dev) (p : Nat) : Option Nat :=
  let v := Tab.get 0 d.ten.live.bind p
  if bitOf v 12 then some (fieldOf v 0 12) else none

/-- The extent whose pages hold a PPA: the image's extents by their base registers (R425, R446). -/
def Dev.extentOf (d : Dev) (ppa : Nat) : Option Nat :=
  d.ten.exts.find? (fun e =>
    decide (d.get (Reg.EXT_BASE_PPA_PAGE e) ≤ pageOf ppa) &&
    decide (pageOf ppa < d.get (Reg.EXT_BASE_PPA_PAGE e) + d.get (Reg.EXT_BASE_PAGES e)))

/-- The state of an extent (R425): 0 FREE, 1 ASSIGNED, 2 FENCED, 3 QUENCHING. -/
def Dev.extState (d : Dev) (e : Nat) : Nat := d.get (Reg.EXT_STATE_STATE e)

/-- The owner of an extent (R425): none for a FREE one, and none for one that the image declares FREE until it has been zero-filled (R426). -/
def Dev.extOwner (d : Dev) (e : Nat) : Option Nat :=
  if d.extState e = 0 || decide (e ∈ d.ten.unowned) then none else some (d.get (Reg.EXT_STATE_OWNER e))

/-- The partition of a port (R467). -/
def Dev.portPart (d : Dev) (p : Nat) : Nat := d.get (Reg.PORT_FENCE_PART p)

/-- The partition of a domain (R467, R471). -/
def Dev.domPart (d : Dev) (dom : Nat) : Nat := fieldOf (d.reg (Reg.DOM_PART (dom / 16))) (dom % 16 * 4) 4

/-- Whether an access of a source partition may not reach a port (R467). -/
def Dev.partBlocks (d : Dev) (src p : Nat) : Bool := src != 0 && d.portPart p != 0 && d.portPart p != src

/-- The windows of a domain, for writing if `w`: where each begins and ends (R424). -/
def Dev.windows (d : Dev) (dom : Nat) (w : Bool) : List (Nat × Nat) :=
  (d.regs.filter (fun p => decide (0x114_0000 ≤ p.1) && decide (p.1 < 0x114_0000 + 8 * 8192))).filterMap (fun p =>
    let base := d.areaBase 5 + fieldOf p.2 0 17 * 0x20_0000
    if fieldOf p.2 34 12 = dom && (!w || bitOf p.2 46) then
      some (base, min (base + fieldOf p.2 17 17 * 0x20_0000) (d.areaBase 5 + d.areaSize 5))
    else none)

/-- The forge-cache stack of a device memory address: 48 GiB each, in order (assumption log 16). -/
def stackOf (a : Nat) : Nat := min 3 (a / 0xC_0000_0000)

/-- How far from `a` on the ranges hold every byte; adjacent ranges are gone through one after the other. -/
def coverEnd (ranges : List (Nat × Nat)) : Nat → Nat → Nat
  | 0, a => a
  | n + 1, a => match ranges.find? (fun r => decide (r.1 ≤ a) && decide (a < r.2)) with
    | some r => coverEnd ranges n r.2
    | none => a

/-- Whether `n` bytes of device memory from `a` lie inside the windows of a domain, for writing if `w` (R54, R424). -/
def Dev.inWindow (d : Dev) (dom a n : Nat) (w : Bool) : Bool :=
  let ws := d.windows dom w
  decide (a + n ≤ coverEnd ws ws.length a)

/-- The live bank's index and entry for a PPA under the epoch of a request. -/
def Dev.region (d : Dev) (epoch ppa : Nat) : Option (Nat × RtEntry) := (d.bank epoch).byPpa ppa

end Sys2Proof.Machine
end

