-- ==== Sys2Proof/Machine/Crypto.lean ====
section
/-! DEFINITION. The check codes and ciphers the spec names: CRC-64 of R95, the Ethernet FCS of R382, AES-256-XTS of R369 (IEEE
1619), AES-256 Key Wrap of R536 (SP 800-38F), SHA-256, HMAC and HKDF-Expand of R534 and R536 (RFC 5869). The algorithms of
those standards are written out from the standards; the spec cites them by name (PRESUMED, assumption log 6). -/
namespace Sys2Proof.Machine

/-- One bit of a reflected CRC register with the reflected polynomial `p`. -/
def crcBit (p r : Nat) : Nat := if r % 2 = 1 then (r / 2) ^^^ p else r / 2

/-- One byte taken into a reflected CRC register, least significant bit first. -/
def crcByte (p r : Nat) (b : Byte) : Nat :=
  let r := r ^^^ b.toNat
  crcBit p (crcBit p (crcBit p (crcBit p (crcBit p (crcBit p (crcBit p (crcBit p r)))))))

/-- CRC-64 of R95: polynomial 0x42F0_E1EB_A9EA_3693 taken reflected, initial value all ones, complemented at the end. -/
def crc64 (bs : List Byte) : Nat :=
  (bs.foldl (crcByte 0xC96C5795D7870F42) 0xFFFFFFFFFFFFFFFF) ^^^ 0xFFFFFFFFFFFFFFFF

/-- The Ethernet frame check sequence (IEEE 802.3 CRC-32). -/
def crc32 (bs : List Byte) : Nat := (bs.foldl (crcByte 0xEDB88320) 0xFFFFFFFF) ^^^ 0xFFFFFFFF

/-- The AES S-box as one number, entry `i` in byte `i`. -/
def aesSboxWord : Nat := 0x16bb54b00f2d99416842e6bf0d89a18cdf2855cee9871e9b948ed9691198f8e19e1dc186b95735610ef6034866b53e708a8bbd4b1f74dde8c6b4a61c2e2578ba08ae7a65eaf4566ca94ed58d6d37c8e779e4959162acd3c25c2406490a3a32e0db0b5ede14b8ee4688902a22dc4f816073195d643d7ea7c41744975fec130ccdd2f3ff1021dab6bcf5389d928f40a351a89f3c507f02f94585334d43fbaaefd0cf584c4a39becb6a5bb1fc20ed00d153842fe329b3d63b52a05a6e1b1a2c830975b227ebe28012079a059618c323c7041531d871f1e5a534ccf73f362693fdb7c072a49cafa2d4adf04759fa7dc982ca76abd7fe2b670130c56f6bf27b777c63

/-- The inverse S-box as one number, entry `i` in byte `i`. -/
def aesInvSboxWord : Nat := 0x7d0c2155631469e126d677ba7e042b17619953833cbbebc8b0f52aae4d3be0a0ef9cc9939f7ae52d0d4ab519a97f51605fec8027591012b131c7078833a8dd1ff45acd78fec0db9a2079d2c64b3e56fc1bbe18aa0e62b76f89c5291d711af1476edf751ce837f9e28535ade72274ac9673e6b4f0cecff297eadc674f4111913a6b8a130103bdafc1020f3fca8f1e2cd00645b3b80558e4f70ad3bc8c00abd890849d8da75746155edab9edfd5048706c92b6655dcc5ca4d41698688664f6f87225d18b6d49a25b76b224d92866a12e084ec3fa420b954cee3d23c2a632947b54cbe9dec444438e3487ff2f9b8239e37cfbd7f3819ea340bf38a53630d56a0952

/-- AES SubBytes on one byte. -/
def aesSub (b : Nat) : Nat := fieldOf aesSboxWord (8 * b) 8

/-- AES inverse SubBytes on one byte. -/
def aesInvSub (b : Nat) : Nat := fieldOf aesInvSboxWord (8 * b) 8

/-- Multiplication by x in the AES field. -/
def aesX (a : Nat) : Nat := if a < 128 then 2 * a else (2 * a - 256) ^^^ 0x1B

/-- Multiplication by 9, 11, 13 or 14 in the AES field, by the bits of `k`. -/
def aesMul (k a : Nat) : Nat :=
  let a2 := aesX a
  let a4 := aesX a2
  let a8 := aesX a4
  (if k % 2 = 1 then a else 0) ^^^ (if k / 2 % 2 = 1 then a2 else 0) ^^^ (if k / 4 % 2 = 1 then a4 else 0) ^^^
    (if k / 8 % 2 = 1 then a8 else 0)

/-- Bytewise exclusive or of two lists. -/
def xorList : List Nat → List Nat → List Nat
  | a :: as, b :: bs => (a ^^^ b) :: xorList as bs
  | as, [] => as
  | [], _ => []

/-- Key expansion of AES-256 from the last eight words, `n` groups of eight words more. -/
def aesExpand : Nat → Nat → List (List Nat) → List (List Nat)
  | 0, _, _ => []
  | n + 1, rc, ws =>
    let w (i : Nat) : List Nat := ws.getD i []
    let l := w 7
    let t := [aesSub (l.getD 1 0) ^^^ rc, aesSub (l.getD 2 0), aesSub (l.getD 3 0), aesSub (l.getD 0 0)]
    let a0 := xorList (w 0) t
    let a1 := xorList (w 1) a0
    let a2 := xorList (w 2) a1
    let a3 := xorList (w 3) a2
    let a4 := xorList (w 4) (a3.map aesSub)
    let a5 := xorList (w 5) a4
    let a6 := xorList (w 6) a5
    let a7 := xorList (w 7) a6
    let g := [a0, a1, a2, a3, a4, a5, a6, a7]
    g ++ aesExpand n (aesX rc) g

/-- A list cut into pieces of `k` elements, at most `n` of them. -/
def pieces {α : Type} (k : Nat) : Nat → List α → List (List α)
  | 0, _ => []
  | n + 1, l => l.take k :: pieces k n (l.drop k)

/-- The 15 round keys of AES-256, 16 bytes each. -/
def aesRoundKeys (key : List Byte) : List (List Nat) :=
  let ws := pieces 4 8 (key.map BitVec.toNat)
  ((pieces 4 15 (ws ++ aesExpand 7 1 ws)).map List.flatten)

/-- AES ShiftRows as a permutation of the 16 state bytes. -/
def aesShift (s : List Nat) : List Nat :=
  [0, 5, 10, 15, 4, 9, 14, 3, 8, 13, 2, 7, 12, 1, 6, 11].map (fun i => s.getD i 0)

/-- AES inverse ShiftRows. -/
def aesInvShift (s : List Nat) : List Nat :=
  [0, 13, 10, 7, 4, 1, 14, 11, 8, 5, 2, 15, 12, 9, 6, 3].map (fun i => s.getD i 0)

/-- AES MixColumns. -/
def aesMix : List Nat → List Nat
  | a :: b :: c :: d :: t =>
    (aesX a ^^^ aesX b ^^^ b ^^^ c ^^^ d) :: (a ^^^ aesX b ^^^ aesX c ^^^ c ^^^ d) ::
      (a ^^^ b ^^^ aesX c ^^^ aesX d ^^^ d) :: (aesX a ^^^ a ^^^ b ^^^ c ^^^ aesX d) :: aesMix t
  | _ => []

/-- AES inverse MixColumns. -/
def aesInvMix : List Nat → List Nat
  | a :: b :: c :: d :: t =>
    (aesMul 14 a ^^^ aesMul 11 b ^^^ aesMul 13 c ^^^ aesMul 9 d) ::
      (aesMul 9 a ^^^ aesMul 14 b ^^^ aesMul 11 c ^^^ aesMul 13 d) ::
      (aesMul 13 a ^^^ aesMul 9 b ^^^ aesMul 14 c ^^^ aesMul 11 d) ::
      (aesMul 11 a ^^^ aesMul 13 b ^^^ aesMul 9 c ^^^ aesMul 14 d) :: aesInvMix t
  | _ => []

/-- The middle rounds of AES encryption and the last round, over the remaining round keys. -/
def aesEncRounds : List (List Nat) → List Nat → List Nat
  | [], s => s
  | [k], s => xorList (aesShift (s.map aesSub)) k
  | k :: ks, s => aesEncRounds ks (xorList (aesMix (aesShift (s.map aesSub))) k)

/-- AES-256 encryption of one 16-byte block. -/
def aesEncrypt (key blk : List Byte) : List Byte :=
  match aesRoundKeys key with
  | [] => []
  | k :: ks => (aesEncRounds ks (xorList (blk.map BitVec.toNat) k)).map (BitVec.ofNat 8)

/-- The rounds of AES decryption over the round keys taken from the last. -/
def aesDecRounds : List (List Nat) → List Nat → List Nat
  | [], s => s
  | [k], s => xorList ((aesInvShift s).map aesInvSub) k
  | k :: ks, s => aesDecRounds ks (aesInvMix (xorList ((aesInvShift s).map aesInvSub) k))

/-- AES-256 decryption of one 16-byte block. -/
def aesDecrypt (key blk : List Byte) : List Byte :=
  match (aesRoundKeys key).reverse with
  | [] => []
  | k :: ks => (aesDecRounds ks (xorList (blk.map BitVec.toNat) k)).map (BitVec.ofNat 8)

/-- Exclusive or of two byte lists. -/
def xorBytes (a b : List Byte) : List Byte := List.zipWith (fun x y => x ^^^ y) a b

/-- The tweak of XTS multiplied by x in GF(2^128), little-endian as IEEE 1619 takes it. -/
def xtsNext (t : Nat) : Nat := if t < 2 ^ 127 then 2 * t else (2 * t - 2 ^ 128) ^^^ 0x87

/-- XTS over whole 16-byte blocks with the block cipher `f` and the running tweak `t`. -/
def xtsBlocks (f : List Byte → List Byte) : Nat → Nat → List Byte → List Byte
  | 0, _, _ => []
  | n + 1, t, bs =>
    let tw := natBytes 16 t
    xorBytes (f (xorBytes (bs.take 16) tw)) tw ++ xtsBlocks f n (xtsNext t) (bs.drop 16)

/-- AES-256-XTS encryption of whole blocks (R369): a 64-byte key, the tweak number and the data. -/
def xtsEncrypt (key : List Byte) (tweak : Nat) (bs : List Byte) : List Byte :=
  let t := bytesNat (aesEncrypt (key.drop 32) (natBytes 16 tweak))
  xtsBlocks (aesEncrypt (key.take 32)) (bs.length / 16) t bs

/-- AES-256-XTS decryption of whole blocks (R369). -/
def xtsDecrypt (key : List Byte) (tweak : Nat) (bs : List Byte) : List Byte :=
  let t := bytesNat (aesEncrypt (key.drop 32) (natBytes 16 tweak))
  xtsBlocks (aesDecrypt (key.take 32)) (bs.length / 16) t bs

/-- The big-endian `n` bytes of a number. -/
def beBytes (n v : Nat) : List Byte := (natBytes n v).reverse

/-- The number a big-endian byte list spells. -/
def beNat (bs : List Byte) : Nat := bytesNat bs.reverse

/-- The steps of AES Key Wrap inverted: step counter `t` runs down to 1, `rs` holds the `n` semiblocks with the current one
last. -/
def kwUnwrapSteps (key : List Byte) : Nat → List Byte → List (List Byte) → List Byte × List (List Byte)
  | 0, a, rs => (a, rs)
  | t + 1, a, rs =>
    let r := rs.getLastD []
    let b := aesDecrypt key (xorBytes a (beBytes 8 (t + 1)) ++ r)
    kwUnwrapSteps key t (b.take 8) (b.drop 8 :: rs.dropLast)

/-- AES-256 Key Wrap unwrapping (SP 800-38F KW): the plain key, or none when the integrity check value fails. -/
def kwUnwrap (key wrapped : List Byte) : Option (List Byte) :=
  let n := wrapped.length / 8 - 1
  let (a, rs) := kwUnwrapSteps key (6 * n) (wrapped.take 8) (pieces 8 n (wrapped.drop 8))
  if a = List.replicate 8 0xA6#8 then some rs.flatten else none

/-- The largest number below `x + 2 ^ n` whose power `e` does not exceed `v`, found bit by bit from bit `n - 1` down. -/
def rootFrom (e v : Nat) : Nat → Nat → Nat
  | 0, x => x
  | n + 1, x => rootFrom e v n (if (x + 2 ^ n) ^ e ≤ v then x + 2 ^ n else x)

/-- The first 32 bits of the fraction of the root of order `e` of `p`: FIPS 180-4 takes its constants from these. -/
def rootFraction (e p : Nat) : Nat := rootFrom e (p * 2 ^ (32 * e)) 40 0 % 2 ^ 32

/-- The primes below 312: the first 64. -/
def shaPrimes : List Nat := (rangeFrom 2 310).filter (fun p => (rangeFrom 2 16).all (fun q => decide (p ≤ q) || p % q != 0))

/-- The round constants of SHA-256, from the cube roots of the first 64 primes. -/
def shaK : List Nat := shaPrimes.map (rootFraction 3)

/-- The initial state of SHA-256, from the square roots of the first eight primes. -/
def shaInit : List Nat := (shaPrimes.take 8).map (rootFraction 2)

/-- A 32-bit right rotation. -/
def rotr32 (n x : Nat) : Nat := x / 2 ^ n + x % 2 ^ n * 2 ^ (32 - n)

/-- A 32-bit sum. -/
def add32 (a b : Nat) : Nat := (a + b) % 4294967296

/-- The message schedule of SHA-256: `n` words more from the last 16, newest first. -/
def shaSchedule : Nat → List Nat → List Nat
  | 0, w => w
  | n + 1, w =>
    let g (i : Nat) := w.getD i 0
    let s0 := rotr32 7 (g 14) ^^^ rotr32 18 (g 14) ^^^ (g 14 / 8)
    let s1 := rotr32 17 (g 1) ^^^ rotr32 19 (g 1) ^^^ (g 1 / 1024)
    shaSchedule n (add32 (add32 (g 15) s0) (add32 (g 6) s1) :: w)

/-- One round of SHA-256. -/
def shaRound (s : List Nat) (kw : Nat) : List Nat :=
  match s with
  | [a, b, c, d, e, f, g, h] =>
    let s1 := rotr32 6 e ^^^ rotr32 11 e ^^^ rotr32 25 e
    let ch := (e &&& f) ^^^ ((4294967295 - e) &&& g)
    let t1 := add32 (add32 h s1) (add32 ch kw)
    let s0 := rotr32 2 a ^^^ rotr32 13 a ^^^ rotr32 22 a
    let mj := (a &&& b) ^^^ (a &&& c) ^^^ (b &&& c)
    [add32 t1 (add32 s0 mj), a, b, c, add32 d t1, e, f, g]
  | _ => s

/-- The SHA-256 compression of one 64-byte block. -/
def shaBlock (s : List Nat) (blk : List Byte) : List Nat :=
  let w := (shaSchedule 48 (((pieces 4 16 blk).map beNat).reverse)).reverse
  let r := (List.zipWith add32 shaK w).foldl shaRound s
  List.zipWith add32 s r

/-- SHA-256 of a byte list. -/
def sha256 (bs : List Byte) : List Byte :=
  let z := (119 - bs.length % 64) % 64
  let m := bs ++ 0x80#8 :: List.replicate z 0#8 ++ beBytes 8 (8 * bs.length)
  ((pieces 64 (m.length / 64) m).foldl shaBlock shaInit).flatMap (beBytes 4)

/-- HMAC with SHA-256 under a key of at most 64 bytes. -/
def hmac256 (key bs : List Byte) : List Byte :=
  let k := padBytes 64 key
  sha256 (k.map (fun b => b ^^^ 0x5C#8) ++ sha256 (k.map (fun b => b ^^^ 0x36#8) ++ bs))

/-- The blocks of HKDF-Expand from block number `i`. -/
def hkdfBlocks (prk info : List Byte) : Nat → Nat → List Byte → List Byte
  | 0, _, _ => []
  | n + 1, i, prev =>
    let t := hmac256 prk (prev ++ info ++ [BitVec.ofNat 8 i])
    t ++ hkdfBlocks prk info n (i + 1) t

/-- HKDF-Expand with SHA-256 (RFC 5869): `n` bytes. -/
def hkdfExpand (prk info : List Byte) (n : Nat) : List Byte := (hkdfBlocks prk info (ceilDiv n 32) 1 []).take n

/-- The ASCII bytes of a string. -/
def asciiBytes (s : String) : List Byte := s.toList.map (fun c => BitVec.ofNat 8 c.toNat)

end Sys2Proof.Machine
end

