-- ==== Sys2Proof/Machine/Message.lean ====
section
/-! DEFINITION. Glois messages and flits: header fields (R100, R102), the opcode table (R104), what is rejected (R108), the flit
layout with its link header and CRC-64 (R93 to R96). -/
namespace Sys2Proof.Machine

/-- A header field. -/
def Msg.field (m : Msg) (lo w : Nat) : Nat := fieldOf m.hdr.toNat lo w

/-- CLASS (R98): 0 RSP, 1 DAT, 2 SNP, 3 REQ, 4 OPS, 5 MGT. -/
def Msg.cls (m : Msg) : Nat := m.field 0 3
/-- OPCODE (R100). -/
def Msg.opcode (m : Msg) : Nat := m.field 3 5
/-- LEN (R100). -/
def Msg.len (m : Msg) : Nat := m.field 8 4
/-- TAG (R101). -/
def Msg.tag (m : Msg) : Nat := m.field 12 14
/-- TC (R100). -/
def Msg.tc (m : Msg) : Nat := m.field 26 3
/-- REPLAY (R119). -/
def Msg.replay (m : Msg) : Bool := m.field 29 1 == 1
/-- DOMAIN of REQ, OPS and SNP (R102). -/
def Msg.domain (m : Msg) : Nat := m.field 32 12
/-- ADDR of REQ, OPS and SNP (R102). -/
def Msg.addr (m : Msg) : Nat := m.field 44 52
/-- COUNT of REQ (R102). -/
def Msg.count (m : Msg) : Nat := m.field 96 2
/-- SPACE of OPS (R102). -/
def Msg.space (m : Msg) : Nat := m.field 96 4
/-- CTR of REQ and OPS (R102). -/
def Msg.ctr (m : Msg) : Nat := m.field 100 16
/-- CTR_KIND of REQ and OPS (R102). -/
def Msg.ctrKind (m : Msg) : Nat := m.field 116 2
/-- ORD: of REQ in [119:118], of OPS in [121:120] (R102). -/
def Msg.ord (m : Msg) : Nat := if m.cls = 4 then m.field 120 2 else m.field 118 2
/-- META: of REQ in [127:120], of OPS in [127:122], of DAT in [48:41] (R102). -/
def Msg.metaBits (m : Msg) : Nat := if m.cls = 3 then m.field 120 8 else if m.cls = 4 then m.field 122 6 else m.field 41 8
/-- STATUS of DAT and RSP (R102); a reserved value counts as POISON from its receipt (R18). -/
def Msg.status (m : Msg) : Nat := let s := m.field 32 5; if s ≤ 0x0A then s else 1
/-- A message as it goes on from its receipt: a reserved STATUS of a DAT or RSP has become POISON (R18). -/
def Msg.received (m : Msg) : Msg :=
  if m.cls = 0 || m.cls = 1 then { m with hdr := BitVec.ofNat 128 (fieldPut m.hdr.toNat 32 5 m.status) } else m
/-- LINE of DAT (R102). -/
def Msg.lineIx (m : Msg) : Nat := m.field 37 2
/-- FENCE_EPOCH of HEARTBEAT, FENCE and ADMIT (R107). -/
def Msg.fenceEpoch (m : Msg) : Nat := m.field 64 16

/-- The first 32 bits of a header (R100). -/
def headWord (cls opcode len tag tc : Nat) (replay : Bool) : Nat :=
  cls + opcode * 2 ^ 3 + len * 2 ^ 8 + tag % 2 ^ 14 * 2 ^ 12 + tc % 8 * 2 ^ 26 + (if replay then 2 ^ 29 else 0)

/-- The traffic class of a message of the T9's own of kind `k`, a free value (assumption log 14). -/
def ownTc (k : Nat) : Nat := (Config.engineTc k).toNat

/-- The data chunks of bytes, the last chunk filled with free bytes (assumption log 18). -/
def filledChunks (bs : List Byte) : List Chunk :=
  let n := ceilDiv bs.length 16
  bytesChunks n (bs ++ (rangeFrom 0 (16 * n - bs.length)).map Config.padByte)

/-- A message of a header number and its data. -/
def mkMsg (h : Nat) (data : List Chunk) : Msg := ⟨BitVec.ofNat 128 h, data⟩

/-- RSP without data (R104): opcode 0 CMP, 1 INV_DONE, 3 REPLAY. -/
def rspMsg (opcode tag tc status : Nat) : Msg := mkMsg (headWord 0 opcode 0 tag tc false + status * 2 ^ 32) []

/-- DAT DATA of one line (R104, R105): without data chunks when STATUS is not OK. -/
def dataMsg (tag tc status line grant metaV : Nat) (bytes : List Byte) : Msg :=
  if status = 0 then
    mkMsg (headWord 1 0 4 tag tc false + line * 2 ^ 37 + grant * 2 ^ 39 + metaV * 2 ^ 41) (bytesChunks 4 bytes)
  else mkMsg (headWord 1 0 0 tag tc false + status * 2 ^ 32 + line * 2 ^ 37) []

/-- DAT ATOMIC_RET (R104, R105). -/
def atomicRetMsg (tag tc status : Nat) (old : List Byte) : Msg :=
  if status = 0 then mkMsg (headWord 1 1 1 tag tc false) (bytesChunks 1 old)
  else mkMsg (headWord 1 1 0 tag tc false + status * 2 ^ 32) []

/-- SNP_INV (opcode 0) or SNP_RECALL (opcode 1) of a line (R104). -/
def snpMsg (opcode tag tc dom addr : Nat) : Msg :=
  mkMsg (headWord 2 opcode 0 tag tc false + dom * 2 ^ 32 + addr * 2 ^ 44) []

/-- A REQ (R102). -/
def reqMsg (opcode tag tc dom addr count metaV : Nat) (data : List Chunk) : Msg :=
  mkMsg (headWord 3 opcode data.length tag tc false + dom * 2 ^ 32 + addr * 2 ^ 44 + count * 2 ^ 96 + metaV * 2 ^ 120) data

/-- An OPS message of SPACE PPA toward a tray (R102, R104): opcode 0 OPS_WR, 1 OPS_RD. The T9 is taken to make every read of its own
by RD_MEM (assumption log 149), so that it sends no OPS_RD. -/
def opsMsg (opcode tag tc dom addr metaV : Nat) (data : List Chunk) : Msg :=
  mkMsg (headWord 4 opcode data.length tag tc false + dom * 2 ^ 32 + addr * 2 ^ 44 + 4 * 2 ^ 96 + metaV * 2 ^ 122) data

/-- OPS_RESULT toward a requester (R102): ADDR lies in its own memory, SPACE is zero. -/
def resultMsg (tag tc dom addr : Nat) (data : List Chunk) : Msg :=
  mkMsg (headWord 4 2 data.length tag tc false + dom * 2 ^ 32 + addr * 2 ^ 44) data

/-- MGT FENCE (2) or ADMIT (3) with the fence epoch (R107). -/
def mgtMsg (opcode epoch : Nat) : Msg := mkMsg (headWord 5 opcode 0 0 (ownTc 1) false + epoch * 2 ^ 64) []

/-- MGT HEARTBEAT: HB_COUNT and FENCE_EPOCH (R107). -/
def heartbeatMsg (count epoch : Nat) : Msg :=
  mkMsg (headWord 5 1 0 0 (ownTc 1) false + count % 2 ^ 32 * 2 ^ 32 + epoch * 2 ^ 64) []

/-- A NOP with the LEN of a stomped message (R118). -/
def nopLike (m : Msg) : Msg := mkMsg (headWord 5 0 m.len 0 0 false) (List.replicate m.len 0#128)

/-- The LEN values an arriving opcode may have on a requester port (`tgt` false) or a target port (R104, R105); none where the
opcode may not arrive there. -/
def lensIn (tgt : Bool) (m : Msg) : List Nat :=
  match tgt, m.cls, m.opcode with
  | false, 3, 0 => [0] | false, 3, 1 => [0] | false, 3, 2 => [0] | false, 3, 3 => [4] | false, 3, 4 => [5]
  | false, 3, 5 => [4] | false, 3, 6 => [0] | false, 3, 7 => [0]
  | false, 3, 9 => [1] | false, 3, 10 => [1] | false, 3, 11 => [1] | false, 3, 12 => [1]
  | false, 3, 13 => if m.count = 1 then [2] else [1]
  | false, 4, 0 => rangeFrom 1 14
  | false, 1, 2 => [4]
  | false, 0, 2 => [0] | false, 0, 4 => [0]
  | true, 1, 0 => if m.status = 0 then rangeFrom 1 5 else [0]
  | true, 1, 1 => if m.status = 0 then [1] else [0, 1]
  | true, 0, 0 => [0]
  | true, 5, 4 => [1]
  | _, 5, 0 => rangeFrom 0 15
  | _, 5, 1 => [0]
  | _, _, _ => []

/-- Whether every field that R102 requires to be zero is zero, and no field holds a reserved value other than a STATUS. The bits that
R102 leaves to an MGT opcode and R107 does not name are taken to be required zero (assumption log 149). -/
def fieldsOk (tgt : Bool) (m : Msg) : Bool :=
  m.field 30 2 == 0 &&
  (match m.cls with
   | 0 => m.field 37 91 == 0
   | 1 => m.field 49 79 == 0 && m.field 39 2 != 3 && (tgt || m.field 41 8 == 0)
   | 3 => m.ord != 3 && m.ctrKind != 3 && m.ctrKind != 1 && m.field 120 8 == 0 &&
     (m.opcode ≤ 2 || m.opcode == 6 || (9 ≤ m.opcode && m.opcode ≤ 13 && m.count ≤ 1) || m.count == 0)
   | 4 => m.ord != 3 && m.ctrKind != 3 && m.field 122 6 == 0 && (m.space == 0 || m.space == 1)
   | 5 => (match m.opcode with
     | 0 => m.field 116 12 == 0
     | 1 => m.field 80 48 == 0
     | 4 => m.field 40 4 == 0 && m.field 96 32 == 0 && (m.field 32 8 == 1 || m.field 32 8 == 2 || m.field 32 8 == 3)
     | _ => true)
   | _ => true)

/-- Whether addresses and masks are as R103 and R104 require; a WR_PART with anything in bytes 8 to 15 of chunk 0, which R104 has
zero, is taken to be malformed (assumption log 149). -/
def shapeOk (m : Msg) : Bool :=
  if m.cls = 3 then
    if 9 ≤ m.opcode then m.addr % (if m.count = 1 then 16 else 8) == 0
    else if m.opcode ≤ 2 || m.opcode == 6 then m.addr % 256 / 64 + m.count ≤ 3
    else if m.opcode = 4 then fieldOf (m.data.headD 0#128).toNat 64 64 == 0
    else true
  else true

/-- Whether an arriving message is accepted (R108). -/
def Msg.ok (tgt : Bool) (m : Msg) : Bool :=
  (lensIn tgt m).contains m.len && m.len == m.data.length && fieldsOk tgt m && shapeOk m

/-- The chunks of a message (R99). -/
def Msg.chunks (m : Msg) : List Chunk := m.hdr :: m.data

/-- The link header of a flit (R94). -/
structure LinkHeader where
  ftype : Nat
  seq : Nat
  ack : Nat
  ackv : Bool
  nak : Bool
  crClass : Nat
  crH : Nat
  crD : Nat
  nmsg : Nat
  deriving DecidableEq, Repr

/-- A link header as its 64-bit number (R94). -/
def LinkHeader.word (h : LinkHeader) : Nat :=
  h.ftype % 4 + h.seq % 4096 * 2 ^ 2 + h.ack % 4096 * 2 ^ 14 + (if h.ackv then 2 ^ 26 else 0) + (if h.nak then 2 ^ 27 else 0) +
    h.crClass % 8 * 2 ^ 28 + h.crH % 64 * 2 ^ 31 + h.crD % 512 * 2 ^ 37 + h.nmsg % 8 * 2 ^ 46

/-- A link header read from its number (R94). -/
def linkHeader (w : Nat) : LinkHeader :=
  ⟨fieldOf w 0 2, fieldOf w 2 12, fieldOf w 14 12, bitOf w 26, bitOf w 27, fieldOf w 28 3, fieldOf w 31 6, fieldOf w 37 9,
   fieldOf w 46 3⟩

/-- What the CRC field of a stomped flit is XORed with (R96). -/
def stompMask : Nat := 0x5A5A5A5A5A5A5A5A

/-- A flit of a header and a 240-byte payload, with its CRC or, stomped, the CRC XOR the mask (R93, R95, R96). -/
def flitBytes (h : LinkHeader) (payload : List Byte) (stomp : Bool) : List Byte :=
  let body := natBytes 8 h.word ++ padBytes 240 payload
  let c := crc64 body
  body ++ natBytes 8 (if stomp then Nat.xor c stompMask else c)

/-- The bits of a byte in the order in which a lane sends them (R89). -/
def byteBits (b : Byte) : List Bool := (rangeFrom 0 8).map (bitOf b.toNat)

/-- A flit as the bit streams of `w` logical lanes (R89): byte i travels on lane i mod w, least significant bit first. -/
def laneStreams (w : Nat) (flit : List Byte) : List (List Bool) :=
  (rangeFrom 0 w).map (fun l => ((rangeFrom 0 (256 / w)).map (fun j => flit.getD (j * w + l) 0#8)).flatMap byteBits)

/-- Eight bits of a lane as a byte. -/
def bitsByte (bits : List Bool) : Byte := BitVec.ofNat 8 (bits.foldr (fun b n => 2 * n + b.toNat) 0)

/-- The flit that lane streams carry (R89); none where they are not 256/w bytes on each of `w` lanes. -/
def lanesFlit (w : Nat) (lanes : List (List Bool)) : Option (List Byte) :=
  if lanes.length = w ∧ lanes.all (fun l => l.length == 2048 / w) then
    some ((rangeFrom 0 256).map (fun i => bitsByte (((lanes.getD (i % w) []).drop (8 * (i / w))).take 8)))
  else none

/-- The verdict that a flit's CRC gives (R95, R96). -/
inductive FlitVerdict where
  | good | stomped | bad
  deriving DecidableEq, Repr

/-- The verdict on an arriving flit: good or stomped by its CRC, bad otherwise and with any uncorrectable codeword (R117). -/
def flitVerdict (flit : List Byte) (uncorrectable : Bool) : FlitVerdict :=
  let c := crc64 (flit.take 248)
  let got := fieldBytes flit 248 8
  if uncorrectable || flit.length != 256 then .bad
  else if fieldOf (fieldBytes flit 0 8) 0 2 = 3 then .bad
  else if got = c then .good else if got = Nat.xor c stompMask then .stomped else .bad

/-- The messages packed in consecutive chunks (R99); none when they need more chunks than there are. -/
def unpackMsgs : Nat → List Chunk → Option (List Msg)
  | 0, _ => some []
  | _ + 1, [] => none
  | n + 1, h :: rest =>
    let m := mkMsg h.toNat []
    if rest.length < m.len then none
    else (unpackMsgs n (rest.drop m.len)).map (fun ms => ⟨h, rest.take m.len⟩ :: ms)

/-- The messages of a MSG flit's payload: as many as NMSG says, 5 to 7 among them where they fit (assumption log 149). -/
def flitMsgs (flit : List Byte) : Option (List Msg) :=
  unpackMsgs (linkHeader (fieldBytes flit 0 8)).nmsg (bytesChunks 15 ((flit.drop 8).take 240))

end Sys2Proof.Machine
end

