-- ==== Sys2Proof/Machine/Bellows.lean ====
section
/-! DEFINITION. Bellows: token buckets (R207 to R209), shapers, policers and Quench shapers, priorities (R205), and queue
telemetry (R212). A bucket counts in units of 1/8000 byte, so that one ns at 1 Mbit/s is one unit. -/
namespace Sys2Proof.Machine

/-- What the settings of a bucket say: rate, burst and overhead (R220, R221, R223). -/
structure Shape where
  rate : Nat
  burst : Nat
  overhead : Nat
  deriving DecidableEq, Repr

/-- The settings in a SHAPE_CFG or POL_CFG word; a BURST_64B of 0 acts as 1. -/
def shapeOf (w : Nat) : Shape := ⟨fieldOf w 0 22, max 1 (fieldOf w 22 20), fieldOf w 42 8⟩

/-- A full bucket of the reset burst: 65,536 bytes (R220, R221). -/
def Bucket.full : Bucket := ⟨65536 * 8000, 0⟩

/-- A full Quench bucket of the reset burst: 4,096 bytes (R223). -/
def Bucket.quenchFull : Bucket := ⟨4096 * 8000, 0⟩

/-- A bucket refilled to time `t`, never above its burst (R207). -/
def Bucket.refill (b : Bucket) (s : Shape) (t : Nat) : Bucket :=
  ⟨min ((s.burst * 64 * 8000 : Nat) : Int) (b.tok + ((s.rate * (t - b.at_) : Nat) : Int)), max b.at_ t⟩

/-- A bucket charged `n` bytes: never below its floor (R207). -/
def Bucket.charge (b : Bucket) (s : Shape) (n : Nat) : Bucket :=
  { b with tok := max (-(((s.burst * 64 + 16384) * 8000 : Nat) : Int)) (b.tok - ((n * 8000 : Nat) : Int)) }

/-- The tokens in whole bytes, as the 32-bit two's complement that TOKENS shows. -/
def Bucket.shown (b : Bucket) : Nat := unsignedOf 32 (b.tok / 8000)

/-- The shaper of an egress class queue (R204), refilled to now; a rate of 0 leaves it as it is. -/
def Dev.shaper (d : Dev) (p tc : Nat) : Bucket :=
  let s := shapeOf (d.reg (Reg.SHAPE_CFG p tc))
  let b := Tab.get Bucket.full d.sw.shapers (p * 8 + tc)
  if s.rate = 0 then b else b.refill s d.time

/-- Whether a shaper of a rate does not limit its port: off, or above the port rate, 200 Gbit/s for each lane (R88, R207, R210). -/
def Dev.noLimit (d : Dev) (p rate : Nat) : Bool := rate == 0 || decide (200000 * d.width p < rate)

/-- A shaper's bucket stored, and shown in SHAPE_STAT. -/
def Dev.setShaper (d : Dev) (p tc : Nat) (b : Bucket) : Dev :=
  let d := { d with sw := { d.sw with shapers := Tab.put Bucket.full d.sw.shapers (p * 8 + tc) b } }
  let cfg := d.reg (Reg.SHAPE_CFG p tc)
  (d.set (Reg.SHAPE_STAT_TOKENS p tc) b.shown).set (Reg.SHAPE_STAT_HELD p tc)
    (if !d.noLimit p (shapeOf cfg).rate && decide (b.tok < 0) && !bitOf cfg 52 then 1 else 0)

/-- Whether a shaper is in profile: off, of a rate that is no limit, or its count is 0 or more (R205). -/
def Dev.inProfile (d : Dev) (p tc : Nat) : Bool :=
  d.noLimit p (shapeOf (d.reg (Reg.SHAPE_CFG p tc))).rate || decide (0 ≤ (d.shaper p tc).tok)

/-- A shaper charged for `n` counted bytes without its overhead (R207, R208). -/
def Dev.chargeShaper (d : Dev) (p tc n : Nat) : Dev :=
  let s := shapeOf (d.reg (Reg.SHAPE_CFG p tc))
  if s.rate = 0 then d else d.setShaper p tc ((d.shaper p tc).charge s n)

/-- SHAPE_CFG written: the bucket is settled under the old rate, then a count above the new burst is cut to it (R213). -/
def Dev.writeShape (d : Dev) (p tc v : Nat) : Dev :=
  let b := d.shaper p tc
  let d := d.setReg (Reg.SHAPE_CFG p tc) v
  d.setShaper p tc ⟨min b.tok (((shapeOf v).burst * 64 * 8000 : Nat) : Int), max b.at_ d.time⟩

/-- The Quench shaper's settings (R223): no overhead; a BURST_64B of 0 is a burst of 0 bytes. -/
def Dev.quenchShape (d : Dev) (p : Nat) : Shape :=
  let w := d.reg (Reg.QSHAPE_CFG p)
  ⟨fieldOf w 0 22, fieldOf w 22 20, 0⟩

/-- The Quench shaper of a target port, refilled to now. -/
def Dev.quencher (d : Dev) (p : Nat) : Bucket :=
  (Tab.get Bucket.quenchFull d.sw.quenchers p).refill (d.quenchShape p) d.time

/-- Whether a Quench bucket stops the writes of its port: its budget is 0, or one that limits and its count below 0 (R206, R210, R223). -/
def Dev.quenchStops (d : Dev) (p : Nat) (b : Bucket) : Bool :=
  let rate := (d.quenchShape p).rate
  rate == 0 || (!d.noLimit p rate && decide (b.tok < 0))

/-- A Quench bucket stored, and shown in QSHAPE_STAT. -/
def Dev.setQuencher (d : Dev) (p : Nat) (b : Bucket) : Dev :=
  let d := { d with sw := { d.sw with quenchers := Tab.put Bucket.quenchFull d.sw.quenchers p b } }
  (d.set (Reg.QSHAPE_STAT_TOKENS p) b.shown).set (Reg.QSHAPE_STAT_HELD p)
    (if d.quenchStops p b then 1 else 0)

/-- Whether Quench writes toward a port are held: its count is below 0, or its budget is 0 (R206, R223). -/
def Dev.quenchHeld (d : Dev) (p : Nat) : Bool := d.quenchStops p (d.quencher p)

/-- The Quench shaper charged for `n` counted bytes. -/
def Dev.chargeQuench (d : Dev) (p n : Nat) : Dev := d.setQuencher p ((d.quencher p).charge (d.quenchShape p) n)

/-- QSHAPE_CFG written. -/
def Dev.writeQshape (d : Dev) (p v : Nat) : Dev :=
  let b := d.quencher p
  let d := d.setReg (Reg.QSHAPE_CFG p) v
  d.setQuencher p ⟨min b.tok (((d.quenchShape p).burst * 64 * 8000 : Nat) : Int), b.at_⟩

/-- The policer of an ingress port, refilled to now. -/
def Dev.policer (d : Dev) (p : Nat) : Bucket :=
  let s := shapeOf (d.reg (Reg.POL_CFG p))
  let b := Tab.get Bucket.full d.sw.policers p
  if s.rate = 0 then b else b.refill s d.time

/-- A policer's bucket stored, and shown in POL_STAT. -/
def Dev.setPolicer (d : Dev) (p : Nat) (b : Bucket) : Dev :=
  { d with sw := { d.sw with policers := Tab.put Bucket.full d.sw.policers p b } }.set (Reg.POL_STAT_TOKENS p) b.shown

/-- Whether an ingress port's policer holds its queues (R207, R211): an item was out of profile, and the count has not reached 0 since. -/
def Dev.policerHolds (d : Dev) (p : Nat) : Bool :=
  decide (p ∈ d.sw.polHold) && (shapeOf (d.reg (Reg.POL_CFG p))).rate != 0 && decide ((d.policer p).tok < 0)

/-- A hold whose policer's count has reached 0 ends (R211). -/
def Dev.endHold (d : Dev) (p : Nat) : Dev :=
  if decide (p ∈ d.sw.polHold) && !(d.policerHolds p) then { d with sw := { d.sw with polHold := d.sw.polHold.filter (fun q => q != p) } }
  else d

/-- POL_CFG written: as R213 says of a shaper. -/
def Dev.writePolicer (d : Dev) (p v : Nat) : Dev :=
  let b := d.policer p
  let d := d.setReg (Reg.POL_CFG p) v
  (d.setPolicer p ⟨min b.tok (((shapeOf v).burst * 64 * 8000 : Nat) : Int), max b.at_ d.time⟩).endHold p

/-- An item of `n` bytes meets the policer of its ingress port (R211): counted out of profile when the count is below 0, always
charged. The result says how it goes on: 0 unchanged, 1 held, 2 remarked, 3 dropped. -/
def Dev.police (d : Dev) (p n : Nat) : Nat × Dev :=
  let w := d.reg (Reg.POL_CFG p)
  let s := shapeOf w
  let d := d.endHold p
  if s.rate = 0 then (0, d) else
  let b := d.policer p
  let out := decide (b.tok < 0)
  let d := (d.setPolicer p (b.charge s (n + s.overhead))).when out (fun d => d.bump (Reg.POL_EXCEED p))
  let up := d.isRole p 2
  let act := if !out then 0 else
    match fieldOf w 50 2 with
    | 0 => 0
    | 1 => if up then 3 else 1
    | 2 => 2
    | _ => if up then 3 else 1
  (act, d)

/-- The kind of a queue at the matcher: 0 RSP, SNP or MGT; 1 Quench writes; 2 the rest (R176). -/
def kindRank (cls : Nat) (quench : Bool) : Nat := if cls = 0 || cls = 2 || cls = 5 then 0 else if quench then 1 else 2

/-- The priority Bellows gives a queue toward port `p` (R205). -/
def Dev.portPriority (d : Dev) (p cls tc : Nat) (quench : Bool) : Nat :=
  if kindRank cls quench = 0 then 3
  else if quench then 3
  else if d.inProfile p tc || !bitOf (d.reg (Reg.SHAPE_CFG p tc)) 52 then d.get (Reg.SHAPE_CFG_PRIO p tc) else 0

/-- Whether a priority of an uplink is paused by PFC (R408). -/
def Dev.paused (d : Dev) (p prio : Nat) : Bool :=
  d.isRole p 2 && ((Tab.find? d.grt.pauses (p * 8 + prio)).map (fun x => decide (d.time < x.2))).getD false

/-- Whether Bellows holds a queue toward port `p` (R206, R408): a paused priority of an uplink; DAT, RSP, SNP and MGT never, Quench writes only by the Quench shaper,
the rest while the count is below 0 in MODE HOLD. -/
def Dev.bellowsHolds (d : Dev) (p cls tc : Nat) (quench : Bool) : Bool :=
  if quench then d.quenchHeld p
  else if d.paused p tc then true
  else if cls = 0 || cls = 1 || cls = 2 || cls = 5 then false
  else !(d.inProfile p tc) && !bitOf (d.reg (Reg.SHAPE_CFG p tc)) 52

/-- The histogram bin of a delay in ns (R212). -/
def delayBin (ns : Nat) : Nat :=
  if ns < 500 then 0 else if ns < 1000 then 1 else if ns < 2000 then 2 else if ns < 5000 then 3 else if ns < 10000 then 4
  else if ns < 50000 then 5 else if ns < 100000 then 6 else 7

end Sys2Proof.Machine
end

