-- ==== Sys2Proof/Machine/Temper.lean ====
section
/-! DEFINITION. Temper windows (R451, R452), the repair log (R471) and the spare-exhausted report (R453). What a lasting fault
leads to is done by the block that owns the resource, when the command settles. -/
namespace Sys2Proof.Machine

/-- The resource key of a class (R451): 0 LANE, 1 TILE, 2 BANK, 3 PLANE, 4 HBM, 5 TRAY, 6 CORE. -/
def temperKey (cls res : Nat) : Nat := cls * 2 ^ 32 + res

/-- The core die whose RAS cores act on a fault (R497). -/
def Dev.faultDie (d : Dev) (cls res : Nat) : Nat :=
  match cls with
  | 0 => if res / 256 < 4 then 0 else 1
  | 1 => if res < 144 then 0 else 1
  | 2 => res / 64
  | 4 => stackOf (res * 0x20_0000) / 2
  | 5 => d.portDie res
  | _ => 0

/-- Whether a RAS core of a die runs (R497). -/
def Dev.rasServes (d : Dev) (die : Nat) : Bool := d.coreUp (7 + 2 * die) || d.coreUp (8 + 2 * die)

/-- One event of a resource counted (R451, R452). The times of the last 15 events are kept; once THRESHOLD of them fall within WINDOW_MS
the fault is lasting, and a RAS core is to declare it (R497). -/
def Dev.temperCount (d : Dev) (cls res t : Nat) : Dev :=
  let key := temperKey cls res
  let times := ((Tab.get [] d.ras.temper key) ++ [t]).reverse.take 15
  let n := max 1 (d.get (Reg.TEMPER_CFG_THRESHOLD cls))
  let window := max 1 (d.get (Reg.TEMPER_CFG_WINDOW_MS cls)) * 1000000
  let lasting := match times[n - 1]? with
    | some t0 => decide (t - t0 ≤ window)
    | none => false
  let keep := if lasting then [] else times.reverse
  let d := { d with ras := { d.ras with temper := Tab.put [] d.ras.temper key keep } }
  if lasting then { d with ras := { d.ras with due := d.ras.due ++ [(cls, res)] } } else d.bump (Reg.TRANSIENT cls)

/-- The events that wait for the RAS cores of a die (R502): 1,024 for each of its two. -/
def dieQueue : Nat := 2048

/-- One event of a resource (R451, R497, R502): a RAS core of its die counts it; while none runs it is queued, and lost past the queue. -/
def Dev.temperEvent (d : Dev) (cls res : Nat) : Dev :=
  let die := d.faultDie cls res
  if d.rasServes die then d.temperCount cls res d.time
  else if dieQueue ≤ (d.ras.waiting.filter (fun x => d.faultDie x.1 x.2.1 == die)).length then d.bump (Reg.EVT_DROP 0)
  else { d with ras := { d.ras with waiting := d.ras.waiting ++ [(cls, res, d.time)] } }

/-- The queued events whose die has a RAS core running again. -/
def Dev.temperNow (d : Dev) : List (Nat × Nat × Nat) := d.ras.waiting.filter (fun x => d.rasServes (d.faultDie x.1 x.2.1))

/-- Queued events counted, each at its own time (R502). -/
def Dev.temperOn (d : Dev) : Dev :=
  let now := d.temperNow
  ({ d with ras := { d.ras with waiting := d.ras.waiting.filter (fun x => decide (x ∉ now)) } }).each now
    (fun d x => d.temperCount x.1 x.2.1 x.2.2)

/-- A lasting fault is declared (R452). -/
def Dev.declareLasting (d : Dev) (cls res : Nat) : Dev :=
  (((d.set Reg.GSTAT_LASTING_FAULT 1).bump (Reg.LASTING cls)).post [0] 0x20 [cls, res]).fwRecords (7 + 2 * d.faultDie cls res)

/-- A swap recorded in the repair log, and posted (R453, R455, R471). -/
def Dev.logSwap (d : Dev) (cls res spare : Nat) : Dev :=
  let i := d.ras.swaps
  let word := cls + 8 + res % 65536 * 16 + d.time / 1000 % 2 ^ 44 * 2 ^ 20
  let d := d.when (decide (i < 256)) (fun d => d.setReg (Reg.REPAIR_LOG i) word)
  (({ d with ras := { d.ras with swaps := i + 1 } }).trace 5 0xF word).post [0] 0x21 [cls, res, spare]

/-- The last free spare of a class, tile group or lane die has been used (R453). -/
def Dev.sparesGone (d : Dev) (cls group : Nat) : Dev := (d.set Reg.GSTAT_SPARES_EXHAUSTED 1).post [0] 0x22 [cls, group]

/-- Whether `n` bytes of device memory can be read through the ECC of the controller (R447, R448, R451): a word with one bad symbol is
corrected in place, and a word with two gives no data. -/
def Dev.readable (d : Dev) (a n : Nat) : Dev × Bool :=
  let met := d.upset.filter (fun u => decide (u.1 * 32 < a + n) && decide (a < u.1 * 32 + 32))
  let d := d.each met (fun d u => (d.bump (if u.2 then Reg.HBM_CORRECTED else Reg.HBM_UNCORR)).temperEvent 4 (u.1 * 32 / 0x20_0000))
  ({ d with upset := d.upset.filter (fun u => decide (u ∉ met) || !u.2) }, met.all Prod.snd)

/-- `n` bytes of device memory through the ECC of the controller, or none. -/
def Dev.readEcc (d : Dev) (a n : Nat) : Dev × Option (List Byte) :=
  let r := d.readable a n
  (r.1, if r.2 then some (r.1.readMem a n) else none)

/-- Words of device memory whose ECC has come to disagree (R447). -/
def Dev.upsetWords (d : Dev) (ws : List (Nat × Bool)) : Dev := { d with upset := ws.foldl addOnce d.upset }

/-- A table entry read from its backing in device memory (R131, R422): where its word cannot be read the second copy, on another stack, serves,
and the word is rewritten (R449, R450). -/
def Dev.backRead (d : Dev) (a : Nat) : Dev :=
  match d.readEcc a 32 with
  | (d, some _) => d
  | (d, none) => ({ d with upset := d.upset.filter (fun u => decide (u.1 ≠ a / 32)) }).bump Reg.STATE_CORRECTED

end Sys2Proof.Machine
end

