-- ==== Sys2Proof/Machine/Hearth.lean ====
section
/-! DEFINITION. The Hearth: cells and queues (R167 to R171), enqueue with packing, push-out (R187, R188), multicast (R183 to
R186), mirror copies (R194 to R198), ageing (R190 to R192) and the cell epoch (R172 to R177). -/
namespace Sys2Proof.Machine

/-- The core die of an endpoint (R25, R27, R130, R254): 0 die A, 1 die B. The tier manager, the control cores and the host
controller are taken to lie at die A (assumption log 11). -/
def Dev.dieOf (d : Dev) : Endpoint → Nat
  | .port p => d.portDie p
  | .tile t => d.get (Reg.TILE_MAP_DIE t)
  | .slice s => s / 32
  | .forge k => k / 2
  | .grt die => die
  | .quench die => die
  | _ => 0

/-- The banks of a die's Hearth half that hold no new cell: being drained or retired (R453, R454). -/
def Dev.closedBanks (d : Dev) (die : Nat) : List Nat :=
  (d.sw.draining ++ d.sw.retired).filter (fun b => b / 64 == die)

/-- The cells of a die's shared region (R171). -/
def Dev.sharedSize (d : Dev) (die : Nat) : Nat :=
  524288 - (if die = 0 then d.get Reg.HEARTH_CFG_CREDIT_RES_A else d.get Reg.HEARTH_CFG_CREDIT_RES_B) -
    d.get Reg.HEARTH_CFG_COH_RES - 8192 * (d.closedBanks die).length

/-- The cells of a list, each store counted once (R184). -/
def storesOf (cs : List Cell) : List Nat := cs.foldl (fun acc c => addOnce acc c.store) []

/-- The cells in use in a region of a die. -/
def Dev.usedIn (d : Dev) (die region : Nat) : Nat :=
  (storesOf (d.sw.cells.filter (fun c => c.number / 524288 == die && c.region == region))).length

/-- The free shared cells of a die (R199). -/
def Dev.freeShared (d : Dev) (die : Nat) : Nat := d.sharedSize die - d.usedIn die 2

/-- A free cell number of a die outside its closed banks: the lowest (assumption log 11). -/
def freeCell (used closed : List Nat) : Nat → Nat → Nat
  | n, 0 => n
  | n, k + 1 =>
    if n / 8192 ∈ closed then freeCell used closed ((n / 8192 + 1) * 8192) k
    else if n ∈ used then freeCell used closed (n + 1) k else n

/-- The number of the next cell of a die. -/
def Dev.nextCell (d : Dev) (die : Nat) : Nat :=
  let used := d.sw.cells.map Cell.number
  freeCell used (d.closedBanks die) (die * 524288) (used.length + 130)

/-- The chunks a message takes in a cell (R169). -/
def bodyChunks : Body → Nat
  | .glois m => 1 + m.len
  | .home m _ => 1 + m.len
  | .opsIn m _ _ => 1 + m.len
  | .inner m _ => 1 + m.len
  | .eth bs => ceilDiv bs.length 16
  | .grtIn bs _ => ceilDiv bs.length 16
  | .copy _ _ bs _ => ceilDiv bs.length 16

/-- The message of a Glois frame. -/
def bodyMsg : Body → Option Msg
  | .glois m => some m
  | .home m _ => some m
  | .opsIn m _ _ => some m
  | .inner m _ => some m
  | _ => none

/-- The counted length of a frame without overhead (R208): a Glois message 16 bytes a chunk, an Ethernet frame its length with its
FCS. -/
def bodyLength : Body → Nat
  | .eth bs => bs.length + 4
  | .grtIn bs _ => bs.length + 4
  | .copy _ _ bs _ => bs.length
  | b => 16 * bodyChunks b

/-- The cells a frame needs (R170). -/
def bodyCells (b : Body) : Nat := max 1 (ceilDiv (bodyChunks b) 15)

/-- Whether an endpoint is a port. -/
def portOf : Endpoint → Option Nat
  | .port p => some p
  | _ => none

/-- The class code under which an analysis copy is queued: none of Glois (R98, R169). A GRT frame is queued under 6. -/
def copyCls : Nat := 7

/-- The region a frame draws on (R171): the credit reserve of its requester or target port, the coherence reserve or the shared region,
in which every analysis copy lies (R195). -/
def Dev.regionFor (d : Dev) (src : Endpoint) (cls : Nat) : Nat :=
  if cls = copyCls then 2 else
  match src with
  | .port p =>
    if d.isGlois p && decide ((d.sw.cells.filter (fun c => c.src == src && c.region == 0)).length < d.get (Reg.Q_CELLS_RES p)) then 0
    else 2
  | .slice _ => if cls ≤ 2 && decide (d.usedIn (d.dieOf src) 1 < d.get Reg.HEARTH_CFG_COH_RES) then 1 else 2
  | .tile _ => if cls ≤ 2 && decide (d.usedIn (d.dieOf src) 1 < d.get Reg.HEARTH_CFG_COH_RES) then 1 else 2
  | _ => 2

/-- Whether a cell, or an earlier cell of its frame, has begun to cross (R170, R191). -/
def Cell.moving (c : Cell) : Bool := c.begun || c.half

/-- Whether a queued cell's last frame may be pushed out for a frame of class `tc` (R187). -/
def Dev.evictable (d : Dev) (die tc : Nat) (c : Cell) : Bool :=
  c.number / 524288 == die && c.region == 2 && !c.moving && c.cls != 2 && c.cls != 5 && (portOf c.dst).isSome &&
    decide (c.tc < tc) && !bitOf (d.get Reg.PUSH_CTL_PROTECT) c.tc

/-- The victim among evictable cells: the lowest class, and in it the most recently queued frame (R187). -/
def worseVictim (a b : Cell) : Cell :=
  let last := fun c : Cell => (c.frames.map Frame.serial).foldl max 0
  if b.tc < a.tc || (b.tc == a.tc && decide (last a < last b)) then b else a

/-- The port counters shown for the queues toward a port (R202) and a die's free cells (R199) follow the queued cells. -/
def Dev.showCells (d : Dev) (dst : Endpoint) (die : Nat) : Dev :=
  let d := match dst with
    | .port p => d.set (Reg.Q_CELLS_NOW p) (d.sw.cells.filter (fun (c : Cell) => c.dst == dst)).length
    | _ => d
  let free := d.freeShared die
  if die = 0 then (d.set Reg.HEARTH_STAT_FREE_A free).set Reg.HEARTH_STAT_FULL_A (if free = 0 then 1 else 0)
  else (d.set Reg.HEARTH_STAT_FREE_B free).set Reg.HEARTH_STAT_FULL_B (if free = 0 then 1 else 0)

/-- The dynamic multicast group of a store is free again when no queued cell shares the store (R183, R184). -/
def Dev.freeGroups (d : Dev) : Dev :=
  let gone := d.sw.groups.filter (fun g => !(d.sw.cells.any (fun c => c.store == g.2)))
  let d := { d with sw := { d.sw with groups := d.sw.groups.filter (fun g => d.sw.cells.any (fun c => c.store == g.2)) } }
  d.each gone (fun d g => d.each (rangeFrom 0 8) (fun d k => d.setReg (Reg.MCAST_RO g.1 k) 0))

/-- The credits of a port's message return as its buffer frees (R112, R171); a NOP took none (R110). -/
def Dev.creditBack (d : Dev) (p : Nat) (m : Msg) : Dev :=
  if m.cls = 5 && m.opcode = 0 then d else
  d.onLink p (fun l => { l with back := putPair l.back m.cls ((pairAt l.back m.cls).1 + 1, (pairAt l.back m.cls).2 + m.len) })

/-- The credits of the frames of a cell that came from a Glois port return. -/
def Dev.creditsBack (d : Dev) (c : Cell) : Dev :=
  match c.src with
  | .port p => d.each c.frames (fun d f => match bodyMsg f.body with
    | some m => d.creditBack p m
    | none => d)
  | _ => d

/-- The cells that hold a frame: a GRT frame of several cells stands in each of them (R170). -/
def Dev.frameCells (d : Dev) (c : Cell) : List Cell :=
  match c.frames with
  | [f] => if bodyCells f.body = 1 then [c]
      else d.sw.cells.filter (fun x => x.src == c.src && x.dst == c.dst && x.cls == c.cls && x.tc == c.tc && x.frames.any (fun g => g.serial == f.serial))
  | _ => [c]

/-- A cell taken out of its queue. -/
def Dev.dropCell (d : Dev) (c : Cell) : Dev :=
  let d := { d with sw := { d.sw with cells := dropFirst (fun x => decide (x = c)) d.sw.cells } }
  ((d.creditsBack c).showCells c.dst (c.number / 524288)).freeGroups

/-- A frame discarded by ageing or push-out waits for its answer (R192); an analysis copy counts in MIR_DROP. -/
def Dev.discardFrame (d : Dev) (c : Cell) (f : Frame) : Dev :=
  match f.body with
  | .copy s _ _ _ => d.bump (Reg.MIR_DROP s)
  | _ => { d with sw := { d.sw with dropped := d.sw.dropped ++ [⟨c.dst, c.src, f⟩] } }

/-- One frame pushed out (R187): the last of its cell, or a GRT frame with every cell of it. -/
def Dev.pushOutOne (d : Dev) (c : Cell) : Dev :=
  let f := c.frames.getLast?
  let rest := c.frames.dropLast
  let d := if rest = [] then d.each (d.frameCells c) Dev.dropCell
    else { d with sw := { d.sw with cells := mapFirst (fun x => decide (x = c)) (fun x => { x with frames := rest }) d.sw.cells } }
  let d := match portOf c.dst with
    | some p => (d.bump (Reg.SLAG_PUSHED_OUT p)).bump Reg.SLAG_PUSHED_OUT_ALL
    | none => d
  match f with
  | some f => d.discardFrame c f
  | none => d

/-- Victims pushed out until `n` shared cells of a die are free or none is left (R187). -/
def Dev.pushOut (d : Dev) (die tc n : Nat) : Nat → Dev
  | 0 => d
  | k + 1 =>
    if n ≤ d.freeShared die || d.get Reg.PUSH_CTL_EN = 0 then d else
    match d.sw.cells.filter (d.evictable die tc) with
    | [] => d
    | v :: vs => (d.pushOutOne (vs.foldl worseVictim v)).pushOut die tc n k

/-- Whether a frame may join a cell (R170): the same queue, room for it, never granted, its oldest frame not older than 1 µs. -/
def Dev.fits (d : Dev) (src dst : Endpoint) (cls tc chunks : Nat) (c : Cell) : Bool :=
  c.src == src && c.dst == dst && c.cls == cls && c.tc == tc && !c.moving && cls ≤ 5 &&
    decide ((c.frames.map (fun f => bodyChunks f.body)).foldl (· + ·) 0 + chunks ≤ 15) &&
    c.frames.all (fun f => decide (d.time ≤ f.born + 1000)) && c.store == c.opened

/-- A frame placed in new cells of a region (R170): a GRT frame fills consecutive cells. -/
def Dev.openCells (d : Dev) (src dst : Endpoint) (cls tc region : Nat) (f : Frame) (store : Nat) : Nat → Dev
  | 0 => d
  | k + 1 =>
    let c : Cell := { src := src, dst := dst, cls := cls, tc := tc, region := region, number := d.nextCell (d.dieOf src), half := false,
                      store := store, opened := store, frames := [f], more := k, begun := false }
    ({ d with sw := { d.sw with cells := d.sw.cells ++ [c] } }).openCells src dst cls tc region f (store + 1) k

/-- Room for `n` cells in a region of a die: in the shared one victims make it (R187). -/
def Dev.makeRoom (d : Dev) (die region tc n : Nat) : Dev × Bool :=
  let d := if region = 2 then d.pushOut die tc n (d.sw.cells.length + 1) else d
  (d, region != 2 || decide (n ≤ d.freeShared die))

/-- New cells for a frame, or what R188 says when there is no room; whether the frame is in the Hearth. -/
def Dev.place (d : Dev) (src dst : Endpoint) (cls tc : Nat) (f : Frame) (serial need : Nat) : Dev × Bool :=
  let region := d.regionFor src cls
  let (d, room) := d.makeRoom (d.dieOf src) region tc need
  if room then ((d.openCells src dst cls tc region f serial need).showCells dst (d.dieOf src), true)
  else match f.body, src with
    | .copy s _ _ _, _ => (d.bump (Reg.MIR_DROP s), false)
    | .grtIn _ _, .port p => ((d.bump (Reg.SLAG_HEARTH_FULL p)).bump Reg.SLAG_HEARTH_FULL_ALL, false)
    | _, _ => ({ d with sw := { d.sw with waiting := d.sw.waiting ++ [⟨src, dst, cls, tc, f, [], false⟩] } }, false)

/-- Whether a frame of a queue waits for a cell: a later frame of the queue stays behind it (R179). -/
def Dev.queueWaits (d : Dev) (src dst : Endpoint) (cls tc : Nat) : Bool :=
  d.sw.waiting.any (fun w => w.src == src && w.cls == cls && w.tc == tc &&
    (w.dst == dst || w.copies.any (fun c => dst == .port c.1)))

/-- A frame that a fence or its place in the order keeps out of the Hearth is dealt with here (R179, R464); any other joins the tail
cell of its queue or opens cells (R169 to R171, R187, R188). The result says whether it is in the Hearth. -/
def Dev.enqueue (d : Dev) (src dst : Endpoint) (cls tc : Nat) (f : Frame) : Dev × Bool :=
  let blocked := match dst with
    | .port p => d.fenced p && cls != 0 && cls != 5
    | _ => false
  if blocked then
    ({ (d.bump Reg.SLAG_FENCED) with sw := { d.sw with dropped := d.sw.dropped ++ [⟨dst, src, f⟩] } }, false)
  else if d.queueWaits src dst cls tc then
    ({ d with sw := { d.sw with waiting := d.sw.waiting ++ [⟨src, dst, cls, tc, f, [], false⟩] } }, false)
  else
  let serial := d.sw.nextStore
  let f := { f with serial := serial }
  let need := bodyCells f.body
  let d := { d with sw := { d.sw with nextStore := serial + need + 1 } }
  let queue := d.sw.cells.filter (fun c => c.src == src && c.dst == dst && c.cls == cls && c.tc == tc)
  match queue.getLast? with
  | some tail =>
    if d.fits src dst cls tc (bodyChunks f.body) tail then
      let cells := mapFirst (fun x => decide (x = tail)) (fun x => { x with frames := x.frames ++ [f] }) d.sw.cells
      ({ d with sw := { d.sw with cells := cells } }, true)
    else d.place src dst cls tc f serial need
  | none => d.place src dst cls tc f serial need

end Sys2Proof.Machine
end

