-- ==== Sys2Proof/Machine/Crossbar.lean ====
section
/-! DEFINITION. Mirror sessions (R194 to R198), multicast (R183 to R186), sending a frame, the matcher (R172 to R177), the ageing sweep
(R190) and the telemetry sample (R212). -/
namespace Sys2Proof.Machine

/-- The bytes that a mirror copies of a frame (R197): a Glois message from its header chunk, a GRT frame without its FCS. -/
def bodyBytes : Body → List Byte
  | .eth bs => bs
  | .grtIn bs _ => bs
  | .copy _ _ bs _ => bs
  | .glois m => chunksBytes m.chunks
  | .home m _ => chunksBytes m.chunks
  | .opsIn m _ _ => chunksBytes m.chunks
  | .inner m _ => chunksBytes m.chunks

/-- The 9-bit port of an endpoint for a mirror header: 0xFFFF for an internal engine (R197). -/
def otherOf (e : Endpoint) : Nat := (portOf e).getD 0xFFFF

/-- Whether an analysis port's lanes are held by an uplink of the same place whose DISABLE is 0 (R470). -/
def Dev.lanesTaken (d : Dev) (p : Nat) : Bool :=
  (rangeFrom 0 512).any (fun u => u != p && d.isRole u 2 &&
    d.get (Reg.PORT_CFG_IO_DIE u) == d.get (Reg.PORT_CFG_IO_DIE p) &&
    d.get (Reg.PORT_CFG_FIRST_LANE u) == d.get (Reg.PORT_CFG_FIRST_LANE p) && d.get (Reg.LINK_CTL_DISABLE u) == 0)

/-- Whether a session's source matches a frame (R194, R201). A GRT frame has no Glois class, and matches any class alone. -/
def Dev.mirrorMatches (d : Dev) (s : Nat) (src dst : Endpoint) (cls tc : Nat) (f : Frame) : Bool :=
  d.flag (Reg.MIR_CFG_EN s) && d.isRole (d.get (Reg.MIR_CFG_DEST_PORT s)) 3 &&
  (match d.get (Reg.MIR_CFG_KIND s) with
   | 0 => decide (src = .port (d.get (Reg.MIR_CFG_SRC_PORT s)))
   | 1 => decide (dst = .port (d.get (Reg.MIR_CFG_SRC_PORT s)))
   | 2 =>
     (d.flag (Reg.MIR_FLOW_DOMAIN_ANY s) || d.get (Reg.MIR_FLOW_DOMAIN s) == f.dom) &&
     (d.flag (Reg.MIR_FLOW_MCLASS_ANY s) || (decide (cls ≤ 5) && d.get (Reg.MIR_FLOW_MCLASS s) == cls)) &&
     (d.flag (Reg.MIR_FLOW_TC_ANY s) || d.get (Reg.MIR_FLOW_TC s) == tc) &&
     (d.flag (Reg.MIR_FLOW_OPCODE_ANY s) || (bodyMsg f.body).map Msg.opcode == some (d.get (Reg.MIR_FLOW_OPCODE s))) &&
     (d.flag (Reg.MIR_FLOW_PORT_ANY s) || decide (src = .port (d.get (Reg.MIR_FLOW_PORT s))))
   | _ => false)

/-- The analysis frame of a copy (R197), with its FCS; stomped with the original (R198). -/
def Dev.mirrorFrame (d : Dev) (s : Nat) (src dst : Endpoint) (tc : Nat) (f : Frame) (seq : Nat) (stomp : Bool) : List Byte :=
  let kind := d.get (Reg.MIR_CFG_KIND s)
  let orig := bodyBytes f.body
  let cut := orig.take (clampTo 16 9216 (d.get (Reg.MIR_CFG_TRUNC_LEN s)))
  let port := if kind = 2 then otherOf src else d.get (Reg.MIR_CFG_SRC_PORT s)
  let other := if kind = 1 then otherOf src else otherOf dst
  let flags := (if kind = 1 then 1 else 0) + (if cut.length < orig.length then 2 else 0) +
    (if 1 < d.get (Reg.MIR_CFG_SAMPLE_N s) then 4 else 0)
  let body := natBytes 6 (d.get (Reg.MIR_DMAC_MAC s)) ++ natBytes 6 d.boot.analysisMac ++
    [0x88#8, 0xB5#8] ++ natBytes 1 1 ++ natBytes 1 s ++ natBytes 1 flags ++ natBytes 1 tc ++ natBytes 2 port ++
    natBytes 2 other ++ natBytes 8 f.born ++ natBytes 4 seq ++ natBytes 2 orig.length ++ natBytes 2 f.dom ++ natBytes 8 0 ++ cut
  let fcs := crc32 body
  body ++ natBytes 4 (if stomp then Nat.xor fcs 0x5A5A5A5A else fcs)

/-- One session looks at a frame when it is enqueued (R194, R195): every SAMPLE_Nth matching frame is copied, or with RANDOM set
each with a chance that a free value decides. -/
def Dev.mirrorOne (d : Dev) (src dst : Endpoint) (cls tc : Nat) (f : Frame) (stomp : Bool) (s : Nat) : Dev :=
  if !(d.mirrorMatches s src dst cls tc f) then d else
  let n := max 1 (d.get (Reg.MIR_CFG_SAMPLE_N s))
  let seen := Tab.get 0 d.sw.samples s + 1
  let (roll, d1) := d.fresh 32
  let take := if d.flag (Reg.MIR_CFG_RANDOM s) then roll % n == 0 else seen % n == 0
  let d := if d.flag (Reg.MIR_CFG_RANDOM s) then d1 else d
  let d := { d with sw := { d.sw with samples := Tab.put 0 d.sw.samples s (seen % n) } }
  if !take then d else
  let seq := d.get (Reg.MIR_STAT_SEQ s)
  let dest := d.get (Reg.MIR_CFG_DEST_PORT s)
  let bytes := d.mirrorFrame s src dst tc f seq stomp
  let d := d.set (Reg.MIR_STAT_SEQ s) (seq + 1)
  if d.lanesTaken dest then d.bump (Reg.MIR_DROP s)
  else (d.enqueue src (.port dest) copyCls 0 ⟨.copy s seq bytes (if stomp then 0 else f.serial + 1), f.born, f.dom, false, 0⟩).1

/-- The sessions that are enabled (R201). -/
def Dev.mirrorSessions (d : Dev) : List Nat := (rangeFrom 0 64).filter (fun s => d.flag (Reg.MIR_CFG_EN s))

/-- The mirror copies of a frame (R195). -/
def Dev.mirrorAll (d : Dev) (src dst : Endpoint) (cls tc : Nat) (f : Frame) (stomp : Bool) : Dev :=
  d.each d.mirrorSessions (fun d s => d.mirrorOne src dst cls tc f stomp s)

/-- An Ethernet frame whose FCS is spoilt (R182). -/
def spoilFcs (bs : List Byte) : List Byte :=
  bs.take (bs.length - 4) ++ natBytes 4 (Nat.xor (bytesNat (bs.drop (bs.length - 4))) 0x5A5A5A5A)

/-- A copy of the frame of a serial number is spoilt. -/
def Body.spoil (serial : Nat) : Body → Body
  | .copy s seq bs orig => if orig = serial + 1 then .copy s seq (spoilFcs bs) 0 else .copy s seq bs orig
  | b => b

/-- The copies of a frame that is stomped are stomped too, as far as they have not left (R198). -/
def Dev.spoilCopies (d : Dev) (serial : Nat) : Dev :=
  let spoil := fun (f : Frame) => { f with body := f.body.spoil serial }
  let cells := d.sw.cells.map (fun c : Cell => if c.cls = copyCls then { c with frames := c.frames.map spoil } else c)
  ({ d with sw := { d.sw with cells := cells } }).each ((d.mirrorSessions.map (fun s => d.get (Reg.MIR_CFG_DEST_PORT s))).foldl addOnce [])
    (fun d p => d.onLink p (fun l => { l with staged := l.staged.map (fun (s : Staged) => { s with body := s.body.spoil serial }) }))

/-- A frame handed to the switch by its source: its mirror copies are made as it is enqueued (R195). -/
def Dev.send (d : Dev) (src dst : Endpoint) (cls tc : Nat) (f : Frame) : Dev :=
  let f := { f with serial := d.sw.nextStore }
  match d.enqueue src dst cls tc f with
  | (d, true) => d.mirrorAll src dst cls tc f false
  | (d, false) => d

/-- A message formed now by an internal engine and sent to a port (R189). -/
def Dev.sendMsg (d : Dev) (src : Endpoint) (p : Nat) (m : Msg) (dom : Nat) : Dev :=
  d.send src (.port p) m.cls m.tc ⟨.glois m, d.time, dom, false, 0⟩

/-- A message that one internal engine sends to another (R165, R567), with what it stands for. -/
def Dev.sendInner (d : Dev) (src dst : Endpoint) (m : Msg) (dom : Nat) (w : Inner) : Dev :=
  d.send src dst m.cls m.tc ⟨.inner m w, d.time, dom, false, 0⟩

/-- Bytes that one internal engine sends to another in as many messages as they need, `unit` bytes each: the last stands for them all (R99,
R165), since those of one queue keep their order (R179). -/
def Dev.sendTrain (d : Dev) (src dst : Endpoint) (unit : Nat) (mk : List Byte → Msg) (dom : Nat) (bytes : List Byte) (w : Inner) : Dev :=
  let n := max 1 (ceilDiv bytes.length unit) - 1
  let d := d.each (rangeFrom 0 n) (fun d i => d.sendInner src dst (mk ((bytes.drop (unit * i)).take unit)) dom .piece)
  d.sendInner src dst (mk (bytes.drop (unit * n))) dom w

/-- Bytes that an engine of the T9 returns to another as lines (R172): DAT messages of 64 bytes, or one with a code. -/
def Dev.sendLines (d : Dev) (src dst : Endpoint) (tag tc dom code : Nat) (bytes : List Byte) (w : Inner) : Dev :=
  d.sendTrain src dst 64 (fun bs => dataMsg tag tc (if bs = [] then max 1 code else code) 0 0 0 bs) dom bytes w

/-- Where the host controller does an access for the engine that asks (R49, R56, R476): a read, or a write of bytes with the zero-length
read that confirms it. -/
def Dev.askHost (d : Dev) (src : Endpoint) (tag tc fn addr len : Nat) (bytes : List Byte) (use : HostUse) : Dev :=
  d.sendTrain src .host 224 (fun bs => opsMsg (if bs = [] then 1 else 0) tag tc fn addr 0 (filledChunks bs)) fn bytes (.host fn addr len bytes use)

/-- A Quench write toward a target port (R223). -/
def Dev.sendQuench (d : Dev) (src : Endpoint) (p : Nat) (m : Msg) : Dev :=
  d.send src (.port p) m.cls m.tc ⟨.glois m, d.time, 0, true, 0⟩

/-- One copy of a multicast frame, formed at `born`, takes its own place in its port's queue, with its own header (R184, R186, R464). -/
def Dev.queueCopy (d : Dev) (src : Endpoint) (dom born region number store p : Nat) (m : Msg) : Dev :=
  let f : Frame := ⟨.glois m, born, dom, false, store⟩
  if d.fenced p && m.cls != 0 && m.cls != 5 then
    { (d.bump Reg.SLAG_FENCED) with sw := { d.sw with dropped := d.sw.dropped ++ [⟨.port p, src, f⟩] } }
  else
    let cell : Cell := { src := src, dst := .port p, cls := m.cls, tc := m.tc, region := region, number := number, store := store, half := false,
                         opened := store + 1, frames := [f], more := 0, begun := false }
    (({ d with sw := { d.sw with cells := d.sw.cells ++ [cell] } }).showCells (.port p) (number / 524288)).mirrorAll src (.port p) m.cls
      m.tc f false

/-- The lowest dynamic group that no queued copy uses; none while all of groups 0 to 8,191 are in use (R183). -/
def Dev.freeGroup (d : Dev) : Option Nat :=
  let g := freshNumber (d.sw.groups.map Prod.fst) 0 8193
  if g < 8192 then some g else none

/-- A dynamic group holds the members while copies of its store are queued (R183). -/
def Dev.takeGroup (d : Dev) (g store : Nat) (copies : List (Nat × Msg)) : Dev :=
  let d := { d with sw := { d.sw with groups := d.sw.groups ++ [(g, store)] } }
  d.each copies (fun d c => d.setReg (Reg.MCAST_RO g (c.1 / 64)) (Nat.lor (d.reg (Reg.MCAST_RO g (c.1 / 64))) (2 ^ (c.1 % 64))))

/-- One block of copies sharing a cell (R184), which victims make room for or which waits (R187, R188, R179). With `dyn` it names a
dynamic group, else one that PF0 has written (R183). Its age runs from `born`, when its engine formed it (R189). -/
def Dev.sendShared (d : Dev) (src : Endpoint) (dom born : Nat) (dyn : Bool) (copies : List (Nat × Msg)) : Dev :=
  match copies with
  | [] => d
  | (p0, m0) :: _ =>
    let region := d.regionFor src m0.cls
    let behind := copies.any (fun c => d.queueWaits src (.port c.1) m0.cls m0.tc)
    let (d, room) := if behind then (d, false) else d.makeRoom (d.dieOf src) region m0.tc 1
    if !room then
      let w : Waiting := ⟨src, .port p0, m0.cls, m0.tc, ⟨.glois m0, born, dom, false, 0⟩, copies, dyn⟩
      { d with sw := { d.sw with waiting := d.sw.waiting ++ [w] } }
    else
      let store := d.sw.nextStore
      let number := d.nextCell (d.dieOf src)
      let d := { d with sw := { d.sw with nextStore := store + 2 } }
      let d := match dyn, d.freeGroup with
        | true, some g => d.takeGroup g store copies
        | _, _ => d
      d.each copies (fun d c => d.queueCopy src dom born region number store c.1 c.2)

/-- One block of copies that asks for a dynamic group; with none free, or one copy alone, each goes as a unicast frame (R183). -/
def Dev.sendGroup (d : Dev) (src : Endpoint) (dom born : Nat) (copies : List (Nat × Msg)) : Dev :=
  if d.freeGroup.isNone || copies.length ≤ 1 then
    d.each copies (fun d c => d.send src (.port c.1) c.2.cls c.2.tc ⟨.glois c.2, born, dom, false, 0⟩)
  else d.sendShared src dom born true copies

/-- Copies for many ports, a block of up to 64 at a time (R185), by dynamic groups or by one that PF0 has written. -/
def Dev.sendMulti (d : Dev) (src : Endpoint) (dom : Nat) (dyn : Bool) (copies : List (Nat × Msg)) : Dev :=
  d.each (rangeFrom 0 (ceilDiv copies.length 64)) (fun d i =>
    let block := (copies.drop (64 * i)).take 64
    if dyn then d.sendGroup src dom d.time block else d.sendShared src dom d.time false block)

/-- The first slot of a port: its place among the ports in port order (assumption log 12). -/
def Dev.portSlot (d : Dev) (p : Nat) : Nat := (rangeFrom 0 p).foldl (fun n q => n + d.width q / 2) 0

/-- The crossbar slots of an endpoint (R172), numbered in the order of its table (assumption log 12). -/
def Dev.slotsOf (d : Dev) : Endpoint → List Nat
  | .port p => rangeFrom (d.portSlot p) (d.width p / 2)
  | .tile t => [512 + 2 * t, 513 + 2 * t]
  | .slice s => [1024 + s]
  | .forge k => rangeFrom (1088 + 48 * k) 48
  | _ => rangeFrom 1280 64

/-- Whether a cell's age passes the limit of its class and it may age (R190, R191). -/
def Dev.aged (d : Dev) (c : Cell) : Bool :=
  let limit := clampTo 10 100000 (d.get (Reg.AGE_CTL_AGE_LIMIT c.tc)) * 100
  let born := (c.frames.map Frame.born).foldl (fun a b => min a b) d.time
  !c.moving && c.cls != 0 && c.cls != 2 && c.cls != 5 && (portOf c.dst).isSome && decide (limit < d.time - born)

/-- The partner credits of a class that no message already past the crossbar will take (R110, R177). -/
def Dev.freeCredits (d : Dev) (p cls : Nat) : Nat × Nat :=
  let past := (d.link p).staged.filterMap (fun s => (bodyMsg s.body).filter (fun m => m.cls == cls))
  (d.get (Reg.CREDIT_TX_H p cls) - past.length, d.get (Reg.CREDIT_TX_D p cls) - sumBy Msg.len past)

/-- Whether the head cell of a queue can cross (R177, R190): its port holds partner credits for its first message, and it is not aged. -/
def Dev.ready (d : Dev) (c : Cell) : Bool :=
  match c.dst with
  | .port p =>
    let credit := match (c.frames.head?).bind (fun f => bodyMsg f.body) with
      | some m =>
        let free := d.freeCredits p m.cls
        decide (1 ≤ free.1) && decide (m.len ≤ free.2) || m.cls == 5 && m.opcode == 0
      | none => true
    credit && !(d.aged c)
  | _ => true

/-- Whether Bellows holds a queue (R177): by the policer of its ingress port (R211) or by the shapers of its egress port (R206). -/
def Dev.heldBack (d : Dev) (c : Cell) : Bool :=
  (match c.src with
   | .port p => d.policerHolds p
   | _ => false) ||
  (match c.dst with
   | .port p => d.bellowsHolds p c.cls c.tc (c.frames.any Frame.quench)
   | _ => false)

/-- Whether the head cell of a queue makes the queue eligible (R177), and its age does not bar it (R190). -/
def Dev.eligible (d : Dev) (c : Cell) : Bool := d.ready c && !(d.heldBack c)

/-- The order of Quench writes under one port's budget (R470): 0 the mirror resync, 1 the extent scrub, 2 the key sweep. -/
def Dev.quenchOrder (d : Dev) (p : Nat) (f : Frame) : Nat :=
  match (bodyMsg f.body).bind (fun m => d.home.outs.find? (fun o => o.port == p && o.tag == m.tag)) with
  | none => 2
  | some o =>
    match o.use, ((Tab.get Line.idle d.home.lines o.line).busy).map (fun b => b.work.req.op) with
    | .fill _, _ => 1
    | _, some HomeOp.resync => 0
    | _, _ => 2

/-- The rank of a queue at the matcher, lower first: priority, kind, then Glois class code (R176), or among Quench writes the order of
R470. -/
def Dev.rankOf (d : Dev) (c : Cell) : Nat :=
  let quench := c.frames.any Frame.quench
  let prio := match c.dst with
    | .port p => d.portPriority p c.cls c.tc quench
    | _ => if kindRank c.cls quench = 0 then 3 else d.get Reg.BELLOWS_CTL_INT_PRIO
  let last := match quench, c.dst, c.frames with
    | true, .port p, f :: _ => d.quenchOrder p f
    | _, _, _ => c.cls
  ((3 - prio) * 3 + kindRank c.cls quench) * 8 + last

/-- Whether two cells stand in one queue (R169). -/
def sameQueue (a b : Cell) : Bool := a.src == b.src && a.dst == b.dst && a.cls == b.cls && a.tc == b.tc

/-- The head cells of the queues, in the order of their opening. -/
def heads (cells : List Cell) : List Cell :=
  cells.foldl (fun acc c => if acc.any (sameQueue c) then acc else acc ++ [c]) []

/-- A request of the matcher: input slot, output slot, rank. -/
structure Ask where
  i : Nat
  o : Nat
  rank : Nat
  deriving DecidableEq, Repr

/-- The better of two requests by rank, then by distance from a round-robin pointer. -/
def betterAsk (dist : Ask → Nat) (a b : Ask) : Ask := if b.rank < a.rank || (b.rank == a.rank && decide (dist b < dist a)) then b else a

/-- One best request for each slot that `slot` names, by `dist`. -/
def pickAsks (slot dist : Ask → Nat) (asks : List Ask) : List Ask :=
  asks.foldl (fun acc a =>
    if acc.any (fun b => slot b == slot a) then acc.map (fun b => if slot b = slot a then betterAsk dist b a else b)
    else acc ++ [a]) []

/-- One matching round among unmatched slots: request, grant, accept (R176). -/
def Dev.matchRound (d : Dev) (asks : List Ask) (done : List Ask) : List Ask :=
  let live := asks.filter (fun a => !(done.any (fun b => b.i == a.i || b.o == a.o)))
  let grants := pickAsks Ask.o (fun a => (a.i + 1344 - Tab.get 0 d.sw.grantPtr a.o % 1344) % 1344) live
  pickAsks Ask.i (fun a => (a.o + 1344 - Tab.get 0 d.sw.acceptPtr a.i % 1344) % 1344) grants

/-- The rounds of an epoch: pointers move one past the accepted partner on the accepts of the first round (R176). -/
def Dev.matchRounds (d : Dev) (asks : List Ask) : Nat → Bool → List Ask → Dev × List Ask
  | 0, _, done => (d, done)
  | n + 1, first, done =>
    let acc := d.matchRound asks done
    let d := if first then
        d.each acc (fun d a => { d with sw := { d.sw with
          grantPtr := Tab.put 0 d.sw.grantPtr a.o ((a.i + 1) % 1344),
          acceptPtr := Tab.put 0 d.sw.acceptPtr a.i ((a.o + 1) % 1344) } })
      else d
    d.matchRounds asks n false (done ++ acc)

/-- What has crossed whole ends its count of replays (R121): the TAGs of a port's answers. -/
def answeredTags (fs : List Frame) : List Nat :=
  fs.filterMap (fun f => ((bodyMsg f.body).filter (fun m => m.cls == 1 || (m.cls == 0 && m.opcode == 0))).map Msg.tag)

/-- The frames of a granted cell arrive: at the egress staging of a port, or at an internal endpoint; a GRT frame with its last cell. -/
def Dev.deliver (d : Dev) (c : Cell) : Dev :=
  if c.more != 0 then d else
  match c.dst with
  | .port p =>
    let news : List Staged := c.frames.map (fun f => ⟨f.body, c.tc, d.time, c.store != c.opened, false⟩)
    d.onLink p (fun l => { l with staged := l.staged ++ news, replays := l.replays.filter (fun x => decide (x.1 ∉ answeredTags c.frames)) })
  | _ =>
    let news : List Arrival := c.frames.map (fun f => ⟨c.dst, c.src, f⟩)
    { d with sw := { d.sw with arrived := d.sw.arrived ++ news } }

/-- The charge of a granted cell toward a port (R206, R208): RSP, SNP and MGT draw none, Quench writes draw from both shapers, and
a multi-cell frame is charged in full when its first cell is granted, a cell of two epochs (R453) in the first. -/
def Dev.chargeCell (d : Dev) (c : Cell) : Dev :=
  match c.dst with
  | .port p =>
    if c.cls = 0 || c.cls = 2 || c.cls = 5 || c.moving then d else
    let overhead := (shapeOf (d.reg (Reg.SHAPE_CFG p c.tc))).overhead
    let bytes := sumBy (fun f : Frame => bodyLength f.body + overhead) c.frames
    let plain := sumBy (fun f : Frame => if f.quench then bodyLength f.body else 0) c.frames
    (d.chargeShaper p c.tc bytes).when (decide (0 < plain)) (fun d => d.chargeQuench p plain)
  | _ => d

/-- The ageing sweep (R190): every frame of an aged cell is discarded and counted, a GRT frame with all its cells. -/
def Dev.ageSweep (d : Dev) : Dev :=
  let old := d.sw.cells.filter (fun c => d.aged c && c.more == 0)
  let d := { d with sw := { d.sw with sweptAt := d.time } }
  d.each old (fun d c =>
    let d := d.each (d.frameCells c) Dev.dropCell
    d.each c.frames (fun d f =>
      let d := match portOf c.dst with
        | some p => (d.bump (Reg.SLAG_AGED p c.tc)).bump Reg.SLAG_AGED_ALL
        | none => d
      d.discardFrame c f))

/-- One telemetry sample of an egress class queue (R212). -/
def Dev.sampleQueue (d : Dev) (p tc : Nat) : Dev :=
  let cs := d.sw.cells.filter (fun c => c.dst == .port p && c.tc == tc)
  let depth := cs.length
  let born := (cs.flatMap (fun c => c.frames.map Frame.born)).foldl (fun a b => min a b) d.time
  let delay := min (2 ^ 24 - 1) (d.time - born)
  let d := d.set (Reg.TEL_DEPTH_NOW p tc) depth
  let d := d.set (Reg.TEL_DEPTH_MAX p tc) (max depth (d.get (Reg.TEL_DEPTH_MAX p tc)))
  let d := d.set (Reg.TEL_DLY_DELAY_NOW_NS p tc) delay
  let d := d.set (Reg.TEL_DLY_DELAY_MAX_NS p tc) (max delay (d.get (Reg.TEL_DLY_DELAY_MAX_NS p tc)))
  d.bump (Reg.TEL_HIST p tc (delayBin (d.time - born)))

/-- The telemetry period in ns (R222). -/
def Dev.samplePeriod (d : Dev) : Nat := max 100 (d.get Reg.BELLOWS_CTL_SAMPLE_NS)

/-- A sample of every egress class queue of the placed ports, once a period has passed since the last (R212). -/
def Dev.sampleAll (d : Dev) : Dev :=
  if d.time < d.sw.sampledAt + d.samplePeriod then d else
  let d := { d with sw := { d.sw with sampledAt := d.time } }
  d.each ((rangeFrom 0 512).filter d.placed) (fun d p => d.each (rangeFrom 0 8) (fun d tc => d.sampleQueue p tc))

/-- TEL_CLR (R221): the highest samples and the histogram of a port. -/
def Dev.clearTelemetry (d : Dev) (p : Nat) : Dev :=
  d.each (rangeFrom 0 8) (fun d tc =>
    let d := (d.set (Reg.TEL_DEPTH_MAX p tc) 0).set (Reg.TEL_DLY_DELAY_MAX_NS p tc) 0
    d.each (rangeFrom 0 8) (fun d b => d.setReg (Reg.TEL_HIST p tc b) 0))

end Sys2Proof.Machine
end

