-- ==== Sys2Proof/Machine/Link.lean ====
section
/-! DEFINITION. The Glois port: its states (R122), HELLO (R123, R124), lane sparing (R126, R127), acknowledgement, replay and
credits (R110 to R118), and the flits it sends. -/
namespace Sys2Proof.Machine

/-- The LINK_STAT states (R128). -/
def stDown : Nat := 0
def stEqualize : Nat := 1
def stAlign : Nat := 2
def stHello : Nat := 3
def stActive : Nat := 4
def stRemap : Nat := 5
def stRetrain : Nat := 6

/-- The heartbeat timer stands still in REMAP and RETRAIN (R463): what a port has spent in such a state moves the timer's start on. -/
def Dev.heldTimer (d : Dev) (p : Nat) (l : PortLink) : Nat :=
  if d.linkState p = 5 || d.linkState p = 6 then l.hbSeen + (d.time - max l.since l.hbSeen) else l.hbSeen

/-- A port enters a state; WIDTH_NOW reads 0 when it is not ACTIVE (R128). -/
def Dev.enter (d : Dev) (p st : Nat) : Dev :=
  let held := d.heldTimer p (d.link p)
  let d := (d.set (Reg.LINK_STAT_STATE p) st).onLink p (fun l => { l with since := d.time, syncs := 0, hbSeen := held })
  d.set (Reg.LINK_STAT_WIDTH_NOW p) (if st = 4 then codeOf (d.link p).run else 0)

/-- A CTRL payload queued for a port (R123). -/
def Dev.ctrl (d : Dev) (p : Nat) (payload : List Byte) : Dev := d.onLink p (fun l => { l with ctrl := l.ctrl ++ [padBytes 240 payload] })

/-- The credits the T9 advertises on a port of width `w` (R111). -/
def ownCredits (w : Nat) : List (Nat × Nat) :=
  [(64, 0), (64, 320), (0, 0), (64, 256), (64, 320), (8, 8)].map (fun c => (c.1 * (w / 2), c.2 * (w / 2)))

/-- The T9's HELLO payload on a port (R101, R111, R115, R123). ENDPOINT_ID is a free value (assumption log 13). -/
def Dev.helloPayload (d : Dev) (p : Nat) : List Byte :=
  let w := d.width p
  natBytes 1 2 ++ natBytes 1 3 ++ natBytes 1 3 ++ natBytes 1 w ++ natBytes 1 (lanesOf (d.get (Reg.PORT_CFG_MIN_WIDTH_CODE p))) ++
    natBytes 1 (d.get (Reg.PORT_CFG_SPARES p)) ++ natBytes 2 16384 ++ natBytes 8 Config.endpointId.toNat ++ natBytes 2 (128 * w) ++
    natBytes 2 (d.get (Reg.LINK_CTL_HB_PERIOD_US p)) ++
    (ownCredits w).flatMap (fun c => natBytes 2 c.1 ++ natBytes 2 c.2) ++ natBytes 2 (d.get (Reg.PORT_FENCE_FENCE_EPOCH p))

/-- The further try that a port owes a swap (R126): the one it waits to make, or the one that a fall to DOWN breaks off. -/
def PortLink.owed (l : PortLink) : Option (Nat × Nat) :=
  match l.retry, l.remap with
  | some x, _ => some x
  | none, some r => if r.again then some (r.lane, r.spare) else none
  | none, none => none

/-- A port falls to DOWN (R122, R125): its replay buffers are discarded and HELLO_FAIL clears; with a HELLO accepted before, the
heartbeat detector declares it dead (R463). Its lanes stay as they are, and so does the further swap it owes (R126). CREDIT_c stand
until the next HELLO (assumption log 175). -/
def Dev.fallDown (d : Dev) (p : Nat) : Dev :=
  let was := (d.link p).helloOk
  let d := (d.enter p 0).set (Reg.LINK_STAT_HELLO_FAIL p) 0
  let d := d.onLink p (fun l => { l with
    retry := l.owed, helloOk := false, trained := false, replay := [], resend := [], nakSeq := none, nakRun := 0, nakAt := none, nakDue := false,
    ackDue := false, ackFrom := none, ackCount := 0, back := [], ctrl := [], remap := none, rxE := 0, txSeq := 0 })
  if was then { d with ras := { d.ras with dead := d.ras.dead ++ [(p, 2)] } } else d

/-- A port enters RETRAIN (R122, R125): replay buffers, sequence numbers, credits and tags stay. -/
def Dev.goRetrain (d : Dev) (p : Nat) : Dev :=
  let n := d.get (Reg.LINK_STAT_RETRAINS p)
  let d := (d.enter p 6).set (Reg.LINK_STAT_RETRAINS p) (min 65535 (n + 1))
  d.onLink p (fun l => { l with trained := false, remap := none, nakRun := 0, nakSeq := none })

/-- The common width of a HELLO (R124), if there is one; no port has a width other than 2, 4, 8 or 16 lanes (R40), and a HELLO whose
smaller WIDTH is another is refused (assumption log 175). -/
def commonWidth (w m pw pm : Nat) : Option Nat :=
  let c := min w pw
  if m ≤ c && pm ≤ c && codeOf c != 0 then some c else none

/-- Whether `n` lanes from `first` hold neither lane `bad` nor another that is faulty and runs on no spare (R127). -/
def Dev.halfGood (d : Dev) (p bad first n : Nat) : Bool :=
  (rangeFrom first n).all (fun l => l != bad && decide (l ∉ (d.link p).faulty))

/-- A faulty lane without a free spare (R127): half width on the good half of the lanes that run, reported as SPARES_EXHAUSTED of the
port (assumption log 150), or DOWN. -/
def Dev.halveWidth (d : Dev) (p bad : Nat) : Dev :=
  let l := d.link p
  let half := l.run / 2
  let low := d.halfGood p bad l.base half
  let high := d.halfGood p bad (l.base + half) half
  if (low || high) && 2 ≤ half && lanesOf (d.get (Reg.PORT_CFG_MIN_WIDTH_CODE p)) ≤ half && l.partnerMin ≤ half then
    let d := d.onLink p (fun l => { l with run := half, base := if low then l.base else l.base + half })
    ((d.set (Reg.LINK_STAT_DEGRADED p) 1).post [0] 0x22 [0, p]).goRetrain p
  else d.fallDown p

/-- A REMAP starts (R126): REMAP_REQ names the logical lane in byte 1 and the spare in byte 2 (assumption log 149), and both ends send
IDLE. -/
def Dev.startRemap (d : Dev) (p lane spare : Nat) (again : Bool) : Dev :=
  let d := (d.enter p 5).ctrl p (natBytes 1 3 ++ natBytes 1 lane ++ natBytes 1 spare)
  d.onLink p (fun l => { l with remap := some ⟨lane, spare, d.time, again⟩ })

/-- Whether assigned spare `i` of a port is free. -/
def Dev.spareFree (d : Dev) (p i : Nat) : Bool :=
  decide (i < d.get (Reg.PORT_CFG_SPARES p)) && decide (i ∉ (d.link p).spareUsed)

/-- The spare that a faulty lane of a port gets (R126): the first free assigned one, none for a lane treated as having none. -/
def Dev.spareFor (d : Dev) (p lane : Nat) : Option Nat :=
  if lane ∈ (d.link p).barred then none
  else if d.spareFree p 0 then some 0
  else if d.spareFree p 1 then some 1
  else none

/-- The next swap of a port that is ACTIVE (R126, R127): the one further try, else the first lane that runs with a lasting fault, which
gets a spare or halves the width. A faulty lane outside those that run needs neither (assumption log 150). -/
def Dev.swapNext (d : Dev) (p : Nat) : Dev :=
  match (d.link p).retry, (d.link p).faulty.find? (fun k => decide ((d.link p).base ≤ k) && decide (k < (d.link p).base + (d.link p).run)) with
  | some (lane, spare), _ => (d.onLink p (fun l => { l with retry := none })).startRemap p lane spare true
  | none, some lane => (match d.spareFor p lane with
    | some i => d.startRemap p lane i false
    | none => d.halveWidth p lane)
  | none, none => d

/-- A lasting fault of a logical lane (R126, R127, R453): a port that is not ACTIVE acts on it when it is. -/
def Dev.spareLane (d : Dev) (p lane : Nat) : Dev :=
  let d := d.onLink p (fun l => { l with faulty := addOnce l.faulty lane })
  if d.linkState p != 4 then d else d.swapNext p

/-- A port becomes ACTIVE from HELLO, REMAP or RETRAIN, and an ADMIT that waited is sent (R465). -/
def Dev.goActive (d : Dev) (p : Nat) : Dev :=
  let l := d.link p
  let d := (d.enter p 4).onLink p (fun l => { l with trained := false, admitSend := false })
  let d := if l.admitSend then d.sendMsg .core p (mgtMsg 3 (d.get (Reg.PORT_FENCE_FENCE_EPOCH p))) 0 else d
  d.swapNext p

/-- The partner's HELLO meets a port in HELLO (R124): accepted, with its credits (R111) and its heartbeat timer begun (R463), or
refused. -/
def Dev.takeHello (d : Dev) (p : Nat) (payload : List Byte) : Dev :=
  if d.linkState p != 3 then d else
  let byte := fun i n => fieldBytes payload i n
  let now := d.time
  let d := d.set (Reg.LINK_STAT_PARTNER_VERSION p) (byte 1 1)
  let kindOk := (d.isRole p 0 && byte 2 1 == 1) || (d.isRole p 1 && byte 2 1 == 2)
  match commonWidth (d.width p) (lanesOf (d.get (Reg.PORT_CFG_MIN_WIDTH_CODE p))) (byte 3 1) (byte 4 1) with
  | some w =>
    if byte 1 1 == 3 && kindOk then
      let credits := (rangeFrom 0 6).map (fun c => (byte (20 + 4 * c) 2, byte (22 + 4 * c) 2))
      let d := d.set (Reg.LINK_STAT_HELLO_FAIL p) 0
      let d := d.each (rangeFrom 0 6) (fun d c =>
        (d.set (Reg.CREDIT_TX_H p c) (pairAt credits c).1).set (Reg.CREDIT_TX_D p c) (pairAt credits c).2)
      let d := d.onLink p (fun l => { l with hbSeen := now, helloOk := true, run := w, partnerMin := byte 4 1, credits := credits, base := 0 })
      d.goActive p
    else d.set (Reg.LINK_STAT_HELLO_FAIL p) 1
  | none => d.set (Reg.LINK_STAT_HELLO_FAIL p) 1

/-- One good SYNC flit (R122): the 64th in a row leaves ALIGN for HELLO, or a trained RETRAIN for ACTIVE. -/
def Dev.takeSync (d : Dev) (p : Nat) : Dev :=
  let st := d.linkState p
  if st = 2 || (st = 6 && (d.link p).trained) then
    let n := (d.link p).syncs + 1
    let d := d.onLink p (fun l => { l with syncs := n })
    if n < 64 then d
    else if st = 2 then (d.enter p 3).ctrl p (d.helloPayload p)
    else d.goActive p
  else d

/-- One more spare lane of an I/O die in use (R42, R43, R453): the last one is reported. -/
def Dev.useLaneSpare (d : Dev) (die : Nat) : Dev :=
  let n := Tab.get 0 d.ras.laneSpares die + 1
  let d := { d with ras := { d.ras with laneSpares := Tab.put 0 d.ras.laneSpares die n } }
  (d.set Reg.CAPS_LANE_SPARES_FREE (d.get Reg.CAPS_LANE_SPARES_FREE - 1)).when (n == 8) (fun d => d.sparesGone 0 die)

/-- REMAP_ACK (R126): from the next flit the logical lane runs on the spare; the port is ACTIVE again. The swap that takes the last
spare of its I/O die is reported (R43, R453). -/
def Dev.takeRemapAck (d : Dev) (p : Nat) : Dev :=
  match d.linkState p == 5, (d.link p).remap with
  | true, some r =>
    let old := d.get (Reg.LANE_PHYS p r.lane)
    let phys := (d.link p).spares.getD r.spare (128 + r.spare)
    let d := (d.set (Reg.LANE_PHYS p r.lane) phys).set (Reg.LANE_ON_SPARE p r.lane) 1
    let d := (d.bump (Reg.LANE_REMAPS p)).onLink p (fun l => { l with
      remap := none, spareUsed := l.spareUsed ++ [r.spare], faulty := l.faulty.filter (fun k => k != r.lane) })
    let die := d.get (Reg.PORT_CFG_IO_DIE p)
    let d := (d.useLaneSpare die).logSwap 0 (die * 256 + old) phys
    d.goActive p
  | _, _ => d

/-- REMAP not answered within 2 µs (R126): RETRAIN on the lanes held, one further try, then R127 as with no spare. -/
def Dev.remapTimeout (d : Dev) (p : Nat) : Dev :=
  match (d.link p).remap with
  | some r =>
    if d.linkState p != 5 || d.time < r.since + 2000 then d
    else if r.again then (d.onLink p (fun l => { l with remap := none, barred := addOnce l.barred r.lane })).halveWidth p r.lane
    else (d.goRetrain p).onLink p (fun l => { l with retry := some (r.lane, r.spare) })
  | none => d

/-- Whether SEQ `s` is at or behind `a`, modulo 4096 (R117). -/
def seqLe (s a : Nat) : Bool := decide ((a + 4096 - s % 4096) % 4096 < 2048)

/-- Flits up to `a` are retired from the replay buffer (R115, R118). -/
def Dev.retireFlits (d : Dev) (p a : Nat) : Dev :=
  d.onLink p (fun l => { l with replay := l.replay.filter (fun f => !seqLe f.seq a), resend := l.resend.filter (fun s => !seqLe s a) })

/-- A NAK with ACK = a (R118): later flits are sent again; the REPLAY_LIMITth NAK in a row for one SEQ moves the port to RETRAIN. -/
def Dev.takeNak (d : Dev) (p a : Nat) : Dev :=
  let d := (d.bump (Reg.NAK_RX p)).retireFlits p a
  let next := (a + 1) % 4096
  let l := d.link p
  let run := if l.nakSeq = some next then l.nakRun + 1 else 1
  let d := d.onLink p (fun l => { l with resend := l.replay.map ReplayFlit.seq, nakSeq := some next, nakRun := run })
  if max 1 (d.get (Reg.LINK_CTL_REPLAY_LIMIT p)) ≤ run && d.linkState p == 4 then d.goRetrain p else d

/-- Credits returned by the partner (R112): an excess over the initial value is ignored and counted. -/
def Dev.takeCredits (d : Dev) (p c h n : Nat) : Dev :=
  if 5 < c then d else
  let init := pairAt (d.link p).credits c
  let th := d.get (Reg.CREDIT_TX_H p c) + h
  let td := d.get (Reg.CREDIT_TX_D p c) + n
  let past := decide (init.1 < th) || decide (init.2 < td)
  let d := (d.set (Reg.CREDIT_TX_H p c) (min init.1 th)).set (Reg.CREDIT_TX_D p c) (min init.2 td)
  d.when past (fun d => d.bump (Reg.CREDIT_OVF p))

/-- The acknowledgement, NAK and credit fields of a good flit (R94, R112, R116, R118). -/
def Dev.takeHeader (d : Dev) (p : Nat) (h : LinkHeader) : Dev :=
  let d := if h.nak then d.takeNak p h.ack else if h.ackv then d.retireFlits p h.ack else d
  d.takeCredits p h.crClass h.crH h.crD

/-- The receiver asks for replay from E (R117): a NAK already outstanding is not repeated. -/
def Dev.sendNak (d : Dev) (p : Nat) : Dev :=
  if (d.link p).nakAt.isSome then d
  else (d.bump (Reg.NAK_TX p)).onLink p (fun l => { l with nakAt := some d.time, nakDue := true })

/-- The credits that a message takes when it is first sent (R110). -/
def Dev.takeTx (d : Dev) (p : Nat) (m : Msg) : Dev :=
  if m.cls = 5 && m.opcode = 0 then d
  else (d.set (Reg.CREDIT_TX_H p m.cls) (d.get (Reg.CREDIT_TX_H p m.cls) - 1)).set (Reg.CREDIT_TX_D p m.cls)
    (d.get (Reg.CREDIT_TX_D p m.cls) - m.len)

/-- The credits that a stomped message took return to the sender (R118). -/
def Dev.giveTx (d : Dev) (p : Nat) (m : Msg) : Dev :=
  if m.cls = 5 && m.opcode = 0 then d
  else (d.set (Reg.CREDIT_TX_H p m.cls) (d.get (Reg.CREDIT_TX_H p m.cls) + 1)).set (Reg.CREDIT_TX_D p m.cls)
    (d.get (Reg.CREDIT_TX_D p m.cls) + m.len)

/-- Whether a message may join a flit: chunks, places and credits (R99, R110). -/
def Dev.canSend (d : Dev) (p used n : Nat) (m : Msg) : Bool :=
  decide (n < 4) && decide (used + 1 + m.len ≤ 15) &&
    (m.cls == 5 && m.opcode == 0 ||
      decide (1 ≤ d.get (Reg.CREDIT_TX_H p m.cls)) && decide (m.len ≤ d.get (Reg.CREDIT_TX_D p m.cls)))

/-- The order in which staged messages are taken (R113): an overdue MGT first, then ascending class code; within REQ and OPS the
order of their class queues' priorities. -/
def Dev.stagedKey (d : Dev) (p : Nat) (s : Staged) : Nat :=
  match bodyMsg s.body with
  | some m =>
    let prio := if m.cls = 3 || m.cls = 4 then 3 - d.portPriority p m.cls s.tc false else 0
    if m.cls = 5 && decide ((d.link p).mgtAt + 1000 ≤ d.time) then 0 else (m.cls + 1) * 4 + prio
  | none => 100

/-- Whether two staged messages are of one class and traffic class: neither may overtake the other. -/
def Staged.sameLine (s x : Staged) : Bool :=
  x.tc == s.tc && (bodyMsg x.body).map Msg.cls == (bodyMsg s.body).map Msg.cls

/-- Messages taken from the staged list into one flit; a message that must wait holds those of its class and traffic class behind
it. -/
def Dev.fillFlit (d : Dev) (p : Nat) : Nat → List Staged → List Msg → Nat → Dev × List Msg
  | 0, _, acc, _ => (d, acc)
  | _ + 1, [], acc, _ => (d, acc)
  | k + 1, s :: rest, acc, used =>
    match bodyMsg s.body with
    | some m =>
      if d.canSend p used acc.length m then
        let d := (d.takeTx p m).onLink p (fun l => { l with staged := dropFirst (fun x => decide (x = s)) l.staged })
        let d := d.bump (Reg.FRAMES_OUT p)
        let d := d.when s.copyOf (fun d => d.bump (Reg.MCAST_COPIES p))
        let d := d.when (m.cls == 5) (fun d => d.onLink p (fun l => { l with mgtAt := d.time }))
        d.fillFlit p k rest (acc ++ [m]) (used + 1 + m.len)
      else d.fillFlit p k (rest.filter (fun x => !s.sameLine x)) acc used
    | none => d.fillFlit p k rest acc used

/-- The link header of a flit the T9 sends now: ACK of E − 1, a NAK owed, the credits of the lowest class with returns (R112,
R116). -/
def Dev.outHeader (d : Dev) (p ftype seq nmsg : Nat) : LinkHeader :=
  let l := d.link p
  let c := (rangeFrom 0 6).find? (fun c => pairAt l.back c != (0, 0))
  let cr := pairAt l.back (c.getD 7)
  ⟨ftype, seq, (l.rxE + 4095) % 4096, true, l.nakDue, c.getD 7, min 63 cr.1, min 511 cr.2, nmsg⟩

/-- The lanes that a port's flits run on (R89): those of the HELLO accepted, or all of them before one. -/
def Dev.lanesNow (d : Dev) (p : Nat) : Nat := if (d.link p).helloOk then (d.link p).run else d.width p

/-- The bit streams of the unused assigned spares while a flit leaves (R126): IDLE data, whose bits the spec leaves open (assumption
log 176). -/
def Dev.idleStreams (d : Dev) (p : Nat) : List (Nat × List Bool) :=
  ((rangeFrom 0 2).filter (d.spareFree p)).map (fun i =>
    (i, (rangeFrom 0 (2048 / d.lanesNow p)).map (Config.spareIdle d.time p i)))

/-- A flit leaves on the lanes: what its header acknowledged and returned is no longer owed. -/
def Dev.emit (d : Dev) (p : Nat) (h : LinkHeader) (payload : List Byte) (stomp : Bool) : Dev :=
  d.onLink p (fun l =>
    let cr := pairAt l.back h.crClass
    let flit := flitBytes h payload stomp
    { l with sent := flit, wires := laneStreams (d.lanesNow p) flit, idles := d.idleStreams p, nakDue := false, ackDue := false, ackFrom := none, ackCount := 0,
             back := if h.crClass < 6 then putPair l.back h.crClass (cr.1 - h.crH, cr.2 - h.crD) else l.back })

/-- A new MSG flit of messages that have taken their credits: numbered, kept for replay, sent (R115). -/
def Dev.sendMsgs (d : Dev) (p : Nat) (ms : List Msg) (stomped : List Bool) : Dev :=
  let seq := (d.link p).txSeq
  let h := d.outHeader p 1 seq ms.length
  let d := d.emit p h (chunksBytes (ms.flatMap Msg.chunks)) (stomped.any id)
  d.onLink p (fun l => { l with txSeq := (seq + 1) % 4096, replay := l.replay ++ [⟨seq, ms, stomped⟩] })

/-- A flit sent again from the replay buffer: stomped messages go as NOPs of the same LEN and their credits return (R118). -/
def Dev.sendReplay (d : Dev) (p seq : Nat) : Dev :=
  match (d.link p).replay.find? (fun f => f.seq == seq) with
  | none => d.onLink p (fun l => { l with resend := l.resend.filter (fun s => s != seq) })
  | some f =>
    let pairs := f.msgs.zip f.stomped
    let d := d.each (pairs.filter (fun x => x.2)) (fun d x => d.giveTx p x.1)
    let ms := pairs.map (fun x => if x.2 then nopLike x.1 else x.1)
    let d := (d.emit p (d.outHeader p 1 seq ms.length) (chunksBytes (ms.flatMap Msg.chunks)) false).bump (Reg.REPLAY_FLITS p)
    let fixed : ReplayFlit := ⟨seq, ms, ms.map (fun _ => false)⟩
    d.onLink p (fun l => { l with
      resend := l.resend.filter (fun s => s != seq),
      replay := l.replay.map (fun g => if g.seq = seq then fixed else g) })

/-- Whether port `e` can have begun a flit with message `m` in it (R97, R110, R115). -/
def Dev.flitBegun (d : Dev) (e : Nat) (m : Msg) : Bool :=
  let l := d.link e
  d.isGlois e && d.linkState e == 4 && l.ctrl == [] && l.resend == [] && decide (l.replay.length < 128 * d.width e) && d.canSend e 0 0 m

/-- The outgoing flit that carries a message found bad is stomped (R96, R182): it holds the message and those packed after it. -/
def Dev.stompFlit (d : Dev) (e : Nat) (m : Msg) : Dev :=
  let d := (d.bump (Reg.STOMP_TX e)).takeTx e m
  let order := sortBy (d.stagedKey e) (d.link e).staged
  let (d, ms) := d.fillFlit e order.length order [m] (1 + m.len)
  d.sendMsgs e ms (true :: (ms.drop 1).map (fun _ => false))

/-- The SYNC payload (R123). -/
def syncPayload : List Byte := 0x01#8 :: List.replicate 239 0xA5#8

/-- Whether an uplink or analysis port can send (R122, R128, R381): DISABLE holds it in DOWN, and an uplink sends while its PCS is
aligned. An analysis port needs no more: the spec does not say when its STATE leaves DOWN, and the model leaves it 0 (assumption log
175). -/
def Dev.etherUp (d : Dev) (p : Nat) : Bool := !d.flag (Reg.LINK_CTL_DISABLE p) && (!d.isRole p 2 || d.linkState p == 4)

/-- The next Ethernet frame of an uplink or analysis port (R196, R382): a GRT frame gets its FCS here, a spoilt one if it is stomped
(R182). A copy with odd SEQ leaves an x16 analysis port on the interface of its upper eight lanes. -/
def Dev.sendEther (d : Dev) (p : Nat) : Dev :=
  match (d.link p).staged with
  | [] => d
  | s :: rest =>
    let bytes := match s.body with
      | .eth bs => bs ++ natBytes 4 (if s.stomp then Nat.xor (crc32 bs) 0x5A5A5A5A else crc32 bs)
      | b => bodyBytes b
    let upper := match s.body with
      | .copy _ seq _ _ => d.width p == 16 && seq % 2 == 1
      | _ => false
    (d.onLink p (fun l => { l with
      staged := rest, sent := if upper then l.sent else bytes, sentUpper := if upper then bytes else l.sentUpper })).bump (Reg.FRAMES_OUT p)

/-- A CTRL flit leaves (R123): with a HELLO the T9 has advertised its credits (R111, R129). -/
def Dev.sendCtrl (d : Dev) (p : Nat) (payload : List Byte) : Dev :=
  let d := d.emit p (d.outHeader p 2 0 0) payload false
  let own := ownCredits (d.width p)
  d.when (fieldBytes payload 0 1 == 2) (fun d => d.each (rangeFrom 0 6) (fun d c =>
    (d.set (Reg.CREDIT_RX_H p c) (pairAt own c).1).set (Reg.CREDIT_RX_D p c) (pairAt own c).2))

/-- The T9 sends the next flit of a port (R97, R113, R115, R118, R122): CTRL, then replayed flits, then a new MSG flit while the
replay buffer of the width of PORT_CFG (assumption log 149) has room, else IDLE. -/
def Dev.transmit (d : Dev) (p : Nat) : Dev :=
  if !(d.isGlois p) then (if d.etherUp p then d.sendEther p else d) else
  let st := d.linkState p
  let l := d.link p
  if st = 0 || st = 1 || (st = 6 && !l.trained) then d
  else match l.ctrl with
  | c :: rest => (d.sendCtrl p c).onLink p (fun l => { l with ctrl := rest })
  | [] =>
    if st = 2 || st = 6 then d.emit p (d.outHeader p 2 0 0) syncPayload false
    else if st != 4 then d.emit p (d.outHeader p 0 0 0) [] false
    else match l.resend with
    | s :: _ => d.sendReplay p s
    | [] =>
      let room := decide (l.replay.length < 128 * d.width p)
      let order := sortBy (d.stagedKey p) l.staged
      let (d1, ms) := if room then d.fillFlit p order.length order [] 0 else (d, [])
      match ms with
      | [] => d.emit p (d.outHeader p 0 0 0) [] false
      | _ => d1.sendMsgs p ms (ms.map (fun _ => false))

end Sys2Proof.Machine
end

