-- ==== Sys2Proof/Machine/Epoch.lean ====
section
/-! DEFINITION. The cell epoch (R173, R176): what every matched pair moves, and what a parity failure on the way makes of it (R121, R182,
R448). -/
namespace Sys2Proof.Machine

/-- The other cells of a GRT frame, once its first has begun to cross: it neither ages nor is pushed out any more (R187, R191). -/
def Dev.beginFrame (d : Dev) (c : Cell) : Dev :=
  let rest := d.frameCells c
  { d with sw := { d.sw with cells := d.sw.cells.map (fun x => if x ∈ rest then { x with begun := true } else x) } }

/-- Whether a failed cell is asked for again at its origin (R121): a request of a port, or a tray's data. -/
def Dev.askedAgain (d : Dev) (c : Cell) : Bool :=
  match c.src with
  | .port p => c.cls == 3 || c.cls == 4 || (c.cls == 1 && d.isRole p 1)
  | _ => false

/-- How often the transaction of a message toward a port has been replayed (R121): a request of a home by its record, a result by its, what
answers a requester by its TAG since it was answered (assumption log 179). A message of no transaction is formed again without end. -/
def Dev.reforms (d : Dev) (p : Nat) (m : Msg) : Option Nat :=
  if d.isRole p 1 then (d.home.outs.find? (fun o => o.port == p && o.tag == m.tag && decide (3 ≤ m.cls ∧ m.cls ≤ 4))).map Out.tries
  else if m.cls = 4 then (d.results.find? (fun r => r.port == p && r.tag == m.tag)).map ResOut.tries
  else if m.cls = 1 || (m.cls = 0 && m.opcode = 0) then some (Tab.get 0 (d.link p).replays m.tag)
  else none

/-- One more replay of the transaction of a message toward a port. -/
def Dev.countReform (d : Dev) (p : Nat) (m : Msg) : Dev :=
  if d.isRole p 1 then { d with home := { d.home with
    outs := mapFirst (fun o => o.port == p && o.tag == m.tag) (fun o => { o with tries := o.tries + 1 }) d.home.outs } }
  else if m.cls = 4 then { d with
    results := mapFirst (fun r => r.port == p && r.tag == m.tag) (fun r => { r with tries := r.tries + 1 }) d.results }
  else d.onLink p (fun l => { l with replays := Tab.put 0 l.replays m.tag (Tab.get 0 l.replays m.tag + 1) })

/-- The frames of a queued cell changed; a cell that holds none any more leaves its queue. -/
def Dev.onFrames (d : Dev) (c : Cell) (go : List Frame → List Frame) : Dev :=
  match d.sw.cells.find? (fun x => x.number == c.number && x.dst == c.dst) with
  | none => d
  | some x =>
    if go x.frames = [] then d.dropCell x
    else { d with sw := { d.sw with cells := mapFirst (fun y => decide (y = x)) (fun y => { y with frames := go y.frames }) d.sw.cells } }

/-- The fourth parity failure of a transaction (R121): a CMP goes on with POISON; the transaction of any other message ends with POISON as
that of a discarded one does. -/
def Dev.endReform (d : Dev) (c : Cell) (p : Nat) (m : Msg) (f : Frame) : Dev :=
  if m.cls = 0 then
    d.onFrames c (fun fs => fs.map (fun g => if g.serial = f.serial then { g with body := .glois (rspMsg 0 m.tag m.tc 1) } else g))
  else
    let d := d.onFrames c (fun fs => fs.filter (fun g => g.serial != f.serial))
    { d with sw := { d.sw with dropped := d.sw.dropped ++ [⟨.port p, c.src, f⟩] } }

/-- A message that the part formed toward a port fails parity (R121): it is formed again, and counted. -/
def Dev.reform (d : Dev) (c : Cell) (p : Nat) (f : Frame) : Dev :=
  let d := d.bump (Reg.E2E_REPLAY p)
  match bodyMsg f.body with
  | none => d
  | some m => match d.reforms p m with
    | none => d
    | some n => if n < 3 then d.countReform p m else d.endReform c p m f

/-- One frame of a cell that failed parity (R121, R182, R448). A GRT frame that the part forms is formed again, unless its first cell has
left: then it ends with a spoilt FCS, and so do its copies (R198). -/
def Dev.failFrame (d : Dev) (c : Cell) (again : Bool) (f : Frame) : Dev :=
  match f.body, c.src, c.dst with
  | .copy s _ _ _, _, _ => (d.each (d.frameCells c) Dev.dropCell).bump (Reg.MIR_DROP s)
  | .grtIn _ _, .port _, _ => (d.each (d.frameCells c) Dev.dropCell).bump Reg.SLAG_GRT_BAD
  | .eth _, _, .port p =>
    if c.begun then
      let d := (d.each (d.frameCells c) Dev.dropCell).bump (Reg.STOMP_TX p)
      let s : Staged := ⟨f.body, c.tc, d.time, false, true⟩
      (d.onLink p (fun l => { l with staged := l.staged ++ [s] })).spoilCopies f.serial
    else d.bump Reg.GRT_RETX_PKTS
  | _, .port p, _ =>
    if again then { d with sw := { d.sw with failed := d.sw.failed ++ [⟨c.dst, .port p, f⟩] } } else d.bump (Reg.E2E_REPLAY p)
  | _, _, .port p => d.reform c p f
  | _, _, _ => d

/-- What a parity failure does to the cell that crosses (R121, R182, R448): a request of a port, and a tray's data, are to be asked
for again; what the part formed itself it forms again, so that it stays queued. An egress flit that already carries a Glois cell is
stomped, and so are its copies (R198). A cell of two epochs (R453) crosses anew. -/
def Dev.failCell (d : Dev) (c : Cell) (hit : ParityHit) : Dev :=
  let d := match hit.plane with
    | some k => d.temperEvent 3 k
    | none => d.temperEvent 2 (c.number / 8192)
  let again := d.askedAgain c
  let d := if again then d.dropCell c else d
  let d := d.each c.frames (fun d f => d.failFrame c again f)
  let d := { d with sw := { d.sw with
    cells := d.sw.cells.map (fun x => if x.number = c.number && x.dst == c.dst then { x with half := false } else x) } }
  match hit.begun, c.dst, c.frames with
  | true, .port p, f :: _ => (match bodyMsg f.body with
    | some m => if d.flitBegun p m then (d.stompFlit p m).spoilCopies f.serial else d
    | none => d)
  | _, _, _ => d

/-- The cell that an input slot moves toward its matched output (R176): of the queues eligible for the epoch the best, by the ranks that stood
when its requests were made (R209), equals in round-robin order of traffic class by the pair's pointer. Two copies of one multicast frame
never cross in one epoch (R184). -/
def Dev.chooseCell (d : Dev) (rank : Cell → Nat) (live : List Cell) (moved : List Nat) (a : Ask) : Option Cell :=
  let mine := (heads d.sw.cells).filter (fun c => decide (a.i ∈ d.slotsOf c.src) && decide (a.o ∈ d.slotsOf c.dst) &&
    live.any (sameQueue c) && d.ready c && !(c.store != c.opened && decide (c.store ∈ moved)))
  let ptr := Tab.get 0 d.sw.classPtr (a.i * 1344 + a.o)
  let key := fun c : Cell => rank c * 8 + (c.tc + 8 - ptr % 8) % 8
  match mine with
  | [] => none
  | m :: ms => some (ms.foldl (fun b c => if key c < key b then c else b) m)

/-- Whether fewer than eight crossbar planes carry traffic (R453): each cell then crosses in two epochs. -/
def Dev.planesShort (d : Dev) : Bool :=
  decide (((rangeFrom 0 9).filter (fun k => bitOf (d.get Reg.XBAR_STAT_PLANES_ACTIVE) k)).length < 8)

/-- Half of a cell has crossed (R453). -/
def Dev.halfCross (d : Dev) (c : Cell) : Dev :=
  { d with sw := { d.sw with cells := d.sw.cells.map (fun x => if x = c then { x with half := true } else x) } }

/-- One matched pair moves its cell, charged to its shapers even when a grant of the same epoch has driven their counts below 0 (R208,
R209), unless parity fails on it. `live` holds the heads of the queues that were eligible when the epoch began, `moved` the stores that
have crossed in it. With too few planes a cell needs a second epoch (R453). -/
def Dev.movePair (d : Dev) (rank : Cell → Nat) (live : List Cell) (hits : List ParityHit) (moved : List Nat) (a : Ask) : Dev × List Nat :=
  match d.chooseCell rank live moved a with
  | none => (d, moved)
  | some c =>
    let d := { d with sw := { d.sw with classPtr := Tab.put 0 d.sw.classPtr (a.i * 1344 + a.o) ((c.tc + 1) % 8) } }
    let d := d.chargeCell c
    match hits.find? (fun h => h.slot.val == a.i) with
    | some h => (d.failCell c h, moved ++ [c.store])
    | none =>
      if d.planesShort && !c.half then (d.halfCross c, moved ++ [c.store]) else
      let d := (d.deliver c).dropCell c
      (if c.more = 0 then d else d.beginFrame c, moved ++ [c.store])

/-- Frames that waited for a free cell try again, in order (R179, R188). -/
def Dev.retryWaiting (d : Dev) : Dev :=
  let w := d.sw.waiting
  ({ d with sw := { d.sw with waiting := [] } }).each w (fun d x =>
    if x.copies = [] then d.send x.src x.dst x.cls x.tc x.frame
    else if x.dyn then d.sendGroup x.src x.frame.dom x.frame.born x.copies
    else d.sendShared x.src x.frame.dom x.frame.born false x.copies)

/-- The pairs of an epoch move their cells one after the other. -/
def Dev.movePairs (d : Dev) (rank : Cell → Nat) (live : List Cell) (hits : List ParityHit) (pairs : List Ask) : Dev :=
  (pairs.foldl (fun (acc : Dev × List Nat) a => acc.1.movePair rank live hits acc.2 a) (d, [])).1

/-- One cell epoch (R173, R176): the matcher's rounds, then every matched pair moves one cell; the duration is shown (R199). -/
def Dev.cellEpoch (d : Dev) (ps : Nat) (hits : List ParityHit) : Dev :=
  let d := d.set Reg.MATCH_STAT_EPOCH_PS (min 65535 ps)
  let d := d.set Reg.MATCH_STAT_EPOCH_PS_MAX (max (d.get Reg.MATCH_STAT_EPOCH_PS_MAX) (min 65535 ps))
  let d := d.retryWaiting
  let hs := (heads d.sw.cells).filter d.eligible
  let asks := hs.flatMap (fun c => (d.slotsOf c.src).flatMap (fun i => (d.slotsOf c.dst).map (fun o => ⟨i, o, d.rankOf c⟩)))
  let rounds := clampTo 1 4 (d.get Reg.MATCH_CTL_ROUNDS)
  let rank := d.rankOf
  let (d, pairs) := d.matchRounds asks rounds true []
  d.movePairs rank hs hits pairs

end Sys2Proof.Machine
end

