-- ==== Sys2Proof/Machine/StoreEngine.lean ====
section
/-! DEFINITION. The store engine (R359 to R371): the line coder, AES-256-XTS under the domain's key, the check chunk, and the
tests a returned line must pass. -/
namespace Sys2Proof.Machine

/-- A compression format (R361): element width, exponent bits, mantissa bits. -/
structure CodeFmt where
  w : Nat
  e : Nat
  m : Nat
  deriving DecidableEq, Repr

/-- The compression formats (R361). -/
def codeFmt : Nat → Option CodeFmt
  | 1 => some ⟨16, 8, 7⟩
  | 2 => some ⟨16, 5, 10⟩
  | 3 => some ⟨8, 5, 2⟩
  | 4 => some ⟨8, 4, 3⟩
  | 5 => some ⟨4, 2, 1⟩
  | _ => none

/-- The D of FIXED (R363). -/
def fixedWidth : Nat → Nat
  | 1 => 3
  | 3 => 2
  | 4 => 1
  | _ => 0

/-- The elements of a line, element 0 first (R361). -/
def lineElements (f : CodeFmt) (line : List Byte) : List Nat :=
  let v := bytesNat line
  (rangeFrom 0 (512 / f.w)).map (fun i => fieldOf v (f.w * i) f.w)

/-- The exponent field of an element. -/
def CodeFmt.exp (f : CodeFmt) (x : Nat) : Nat := fieldOf x f.m f.e

/-- The smallest exponent field of a line (R362). -/
def codeBase (f : CodeFmt) (xs : List Nat) : Nat := xs.foldl (fun a x => min a (f.exp x)) (2 ^ f.e - 1)

/-- The largest difference of an exponent field from the base. -/
def codeSpread (f : CodeFmt) (xs : List Nat) : Nat := xs.foldl (fun a x => max a (f.exp x - codeBase f xs)) 0

/-- The smallest delta width that holds a spread (R363). -/
def deltaWidth (spread : Nat) : Nat := ((rangeFrom 0 9).find? (fun w => decide (spread < 2 ^ w))).getD 8

/-- The coded length in bits (R362). -/
def codedBits (f : CodeFmt) (dw : Nat) : Nat := 16 + 512 / f.w * (1 + f.m + dw)

/-- One element's code (R362). -/
def codeElement (f : CodeFmt) (base dw x : Nat) : Nat :=
  fieldOf x (f.w - 1) 1 * 2 ^ (f.m + dw) + (f.exp x - base) * 2 ^ f.m + x % 2 ^ f.m

/-- The code stream of elements, the first in the lowest bits. -/
def codeStream (f : CodeFmt) (base dw : Nat) : List Nat → Nat
  | [] => 0
  | x :: xs => codeElement f base dw x + 2 ^ (1 + f.m + dw) * codeStream f base dw xs

/-- A line coded with delta width `dw` (R362), padded with zeros to whole chunks. -/
def codeLine (f : CodeFmt) (dw : Nat) (line : List Byte) : List Byte :=
  let xs := lineElements f line
  let base := codeBase f xs
  natBytes (ceilDiv (codedBits f dw) 128 * 16) (dw + base * 16 + 2 ^ 16 * codeStream f base dw xs)

/-- One element read back from its code (R362). -/
def decodeElement (f : CodeFmt) (base dw c : Nat) : Nat :=
  fieldOf c (f.m + dw) 1 * 2 ^ (f.w - 1) + (base + fieldOf c f.m dw) * 2 ^ f.m + c % 2 ^ f.m

/-- The elements of a code stream. -/
def decodeStream (f : CodeFmt) (base dw : Nat) : Nat → Nat → List Nat
  | 0, _ => []
  | n + 1, v => decodeElement f base dw (v % 2 ^ (1 + f.m + dw)) :: decodeStream f base dw n (v / 2 ^ (1 + f.m + dw))

/-- Elements packed into a line's number. -/
def packElements (w : Nat) : List Nat → Nat
  | [] => 0
  | x :: xs => x % 2 ^ w + 2 ^ w * packElements w xs

/-- A coded line decoded (R362); none when it cannot be (R368). -/
def decodeCoded (f : CodeFmt) (bytes : List Byte) : Option (List Byte) :=
  let v := bytesNat bytes
  let dw := v % 16
  let base := fieldOf v 4 8
  if fieldOf v 12 4 != 0 || 8 < dw || ceilDiv (codedBits f dw) 128 * 16 != bytes.length then none else
  let xs := decodeStream f base dw (512 / f.w) (v / 2 ^ 16)
  let deltas := (rangeFrom 0 (512 / f.w)).map (fun i => fieldOf v (16 + i * (1 + f.m + dw) + f.m) dw)
  if deltas.any (fun x => decide (2 ^ f.e ≤ base + x)) then none else some (natBytes 64 (packElements f.w xs))

/-- A line in stored form: META and chunks (R360), or why it cannot be stored. -/
inductive Stored where
  | ok (metaV : Nat) (chunks : List Chunk)
  | noKey
  | refused
  deriving DecidableEq, Repr

/-- The check chunk (R367). -/
def checkChunk (ppa gen metaV : Nat) (bytes : List Byte) : Chunk :=
  let tail := natBytes 2 gen ++ natBytes 1 metaV ++ natBytes 5 0
  BitVec.ofNat 128 (bytesNat (natBytes 8 (crc64 (bytes ++ natBytes 8 ppa ++ tail)) ++ tail))

/-- The key pair of a domain (R370). -/
def Dev.keyPair (d : Dev) (dom : Nat) : KeyPair := Tab.get ⟨[], []⟩ d.store.keys dom

/-- A line's coded bytes with its META and whether the native queue was bypassed (R360, R363 to R365); none where FIXED refuses. -/
def Dev.codeForm (d : Dev) (e : RtEntry) (line : List Byte) (full : Bool) : Option (Nat × List Byte × Bool) :=
  let raw := some (1, line, false)
  if e.protect && d.get Reg.TIER_CTL_SVC_MODE != 1 then raw else
  match e.cmode, codeFmt e.cfmt with
  | 1, some f =>
    if full then some (1, line, true) else
    let xs := lineElements f line
    let dw := deltaWidth (codeSpread f xs)
    if 4 ≤ ceilDiv (codedBits f dw) 128 || 2 ^ dw ≤ codeSpread f xs then raw else some (2 + 4 * e.cfmt, codeLine f dw line, false)
  | 2, some f =>
    let dw := fixedWidth e.cfmt
    if codeSpread f (lineElements f line) < 2 ^ dw then some (3 + 4 * e.cfmt, codeLine f dw line, false) else none
  | _, _ => raw

/-- A line put into its stored form for a region (R359). -/
def Dev.storeLine (d : Dev) (e : RtEntry) (ppa : Nat) (line : List Byte) (full : Bool) : Stored :=
  if e.memside then .ok 0 (bytesChunks 4 line) else
  let gen := d.get (Reg.KEYGEN_CUR_GEN e.dom)
  if gen = 0 then .noKey else
  match d.codeForm e line full with
  | none => .refused
  | some (metaV, bytes, _) =>
    let enc := xtsEncrypt (d.keyPair e.dom).cur (ppa / 64) bytes
    .ok metaV (bytesChunks (enc.length / 16) enc ++ [checkChunk ppa gen metaV enc])

/-- The native queue of a target port (R364). -/
def Dev.nativeQueue (d : Dev) (p : Nat) : NativeQueue := Tab.get NativeQueue.idle d.store.native p

/-- Whether a port's native queue is full: 1,024 lines await coding (R364). -/
def Dev.nativeFull (d : Dev) (p : Nat) : Bool :=
  decide (1024 ≤ ((d.nativeQueue p).starts.filter (fun s => decide (d.time * 1000 < s))).length)

/-- The time of one coding pass over a line at a port's line rate, in ps (R40, R364; assumption log 25). -/
def Dev.codePass (d : Dev) (p : Nat) : Nat := 2560 / max 1 (d.width p)

/-- A line of region `ix` joins a port's native queue (R364): one pass at the D of the last line of the region, and a second where it needs
another. -/
def Dev.queueNative (d : Dev) (p ix dw : Nat) : Dev :=
  let q := d.nativeQueue p
  let now := d.time * 1000
  let start := max now q.free
  let passes := match Tab.find? q.last ix with
    | some w => if w = dw then 1 else 2
    | none => 1
  let q' : NativeQueue := ⟨q.starts.filter (fun s => decide (now < s)) ++ [start], start + passes * d.codePass p, Tab.ins q.last ix dw⟩
  { d with store := { d.store with native := Tab.put NativeQueue.idle d.store.native p q' } }

/-- What a store engine notes of a line that it puts into its stored form (R364): in NATIVE a line that finds the native queue full has
bypassed the coder, and any other has taken its place there. -/
def Dev.noteCoded (d : Dev) (p ix : Nat) (e : RtEntry) (line : List Byte) : Dev :=
  if e.memside then d else
  match d.codeForm e line true, codeFmt e.cfmt with
  | some (_, _, true), some f =>
    if d.nativeFull p then d.bump Reg.NATIVE_BYPASS else d.queueNative p ix (deltaWidth (codeSpread f (lineElements f line)))
  | _, _ => d

/-- What reading a stored line gives (R368, R371): the line, a failed check, or a generation that no key decrypts. -/
inductive Loaded where
  | ok (line : List Byte) (gen : Nat)
  | failed
  | unknown
  deriving DecidableEq, Repr

/-- The key of a domain's generation (R371). -/
def Dev.keyOf (d : Dev) (dom gen : Nat) : Option (List Byte) :=
  if gen = d.get (Reg.KEYGEN_CUR_GEN dom) then some (d.keyPair dom).cur
  else if gen = d.get (Reg.KEYGEN_PREV_GEN dom) && d.flag (Reg.KEYGEN_PREV_LIVE dom) then some (d.keyPair dom).prev
  else none

/-- A line returned by a tray, checked, decrypted and decoded (R359, R368, R371). -/
def Dev.loadLine (d : Dev) (dom ppa metaV : Nat) (chunks : List Chunk) : Loaded :=
  let form := metaV % 4
  let cfmt := fieldOf metaV 2 3
  if metaV = 0 then (if chunks.length = 4 then .ok (chunksBytes chunks) 0 else .failed)
  else if chunks.length < 2 then .failed else
  let data := chunksBytes chunks.dropLast
  let check := chunkBytes (chunks.getLastD 0#128)
  let tail := check.drop 8
  if fieldBytes check 0 8 != crc64 (data ++ natBytes 8 ppa ++ tail) then .failed
  else if fieldBytes check 10 6 != metaV then .failed
  else
  let agree := fieldOf metaV 5 3 == 0 &&
    (form == 1 && cfmt == 0 && chunks.length == 5 ||
     form == 2 && (codeFmt cfmt).isSome && (chunks.length == 3 || chunks.length == 4) ||
     form == 3 && (codeFmt cfmt).isSome && chunks.length == 4)
  if !agree then .failed else
  let gen := fieldBytes check 8 2
  match d.keyOf dom gen with
  | none => .unknown
  | some key =>
    let plain := xtsDecrypt key (ppa / 64) data
    match form, codeFmt cfmt with
    | 1, _ => .ok plain gen
    | _, some f => match decodeCoded f plain with
      | some line => .ok line gen
      | none => .failed
    | _, none => .failed

/-- A stored line moved from PREV to CUR with the same form and META (R373). -/
def Dev.rekeyLine (d : Dev) (dom ppa metaV : Nat) (chunks : List Chunk) : List Chunk :=
  let data := chunksBytes chunks.dropLast
  let plain := xtsDecrypt (d.keyPair dom).prev (ppa / 64) data
  let enc := xtsEncrypt (d.keyPair dom).cur (ppa / 64) plain
  bytesChunks (enc.length / 16) enc ++ [checkChunk ppa (d.get (Reg.KEYGEN_CUR_GEN dom)) metaV enc]

end Sys2Proof.Machine
end

