-- ==== Sys2Proof/Machine/Flight.lean ====
section
/-! DEFINITION. Requests in flight (R418 check 9, R428 to R431), their final answers, and the messages between the homes, the
requesters and the trays. -/
namespace Sys2Proof.Machine

/-- Whether an agent's requests are stamped with an epoch and counted in flight (R418, R419). -/
def Agent.counted : Agent → Bool
  | .port _ => true
  | .tile _ => true
  | .grt _ => true
  | _ => false

/-- Whether a flight record is that of an agent's TAG. -/
def Flight.isOf (f : Flight) (who : Agent) (tag : Nat) : Bool := decide (f.who = who) && f.tag == tag

/-- Whether a record is stamped with the old epoch. An epoch of 65536 stands for none: parked (R161); 65537 for a request
that its requester is to issue again after RSP REPLAY (R119, R121), which stays only for the releases behind it (R146). -/
def Dev.oldFlight (d : Dev) (f : Flight) : Bool := f.epoch != d.epoch && decide (f.epoch < 65536)

/-- The in-flight counts that the registers show (R444, R446). -/
def Dev.showFlight (d : Dev) (ext : Nat) : Dev :=
  let old := (d.ten.flight.filter d.oldFlight).length
  let d := d.set Reg.COMP_STAT_OLD_INFLIGHT (min (2 ^ 24 - 1) old)
  if ext < 65536 then
    d.set (Reg.EXT_STATE_INFLIGHT ext) (min (2 ^ 24 - 1) (d.ten.flight.filter (fun f => f.ext == ext)).length)
  else d

/-- Whether a request of an agent's TAG has been admitted and not yet finally answered. -/
def Dev.admitted (d : Dev) (who : Agent) (tag : Nat) : Bool := d.ten.flight.any (fun f => f.isOf who tag && f.epoch != 65537)

/-- A flight record added under the next number; that of the request whose re-issue it is goes. -/
def Dev.addFlight (d : Dev) (who : Agent) (tag ext : Nat) (write : Bool) : Dev :=
  let rest := d.ten.flight.filter (fun g => !(g.isOf who tag && g.epoch == 65537))
  let n := d.ten.admissions + 1
  { d with ten := { d.ten with flight := rest ++ [⟨who, tag, d.epoch, ext, write, d.time, n⟩], admissions := n } }

/-- A request admitted: stamped with the live epoch and counted in the in-flight counts of that epoch and of its extent. -/
def Dev.admitFlight (d : Dev) (who : Agent) (tag ppa : Nat) (write : Bool) : Dev :=
  if !who.counted || d.admitted who tag then d else
  let ext := (d.extentOf ppa).getD 65536
  (d.addFlight who tag ext write).showFlight ext

/-- The number under which an agent's TAG is in flight; 0 for none. -/
def Dev.flightNo (d : Dev) (who : Agent) (tag : Nat) : Nat := ((d.ten.flight.find? (fun f => f.isOf who tag)).map Flight.no).getD 0

/-- A request under the number of its admission. -/
def Dev.numbered (d : Dev) (r : HomeReq) : HomeReq := { r with no := d.flightNo r.who r.tag }

/-- A request that its requester will issue again (R121): it is in flight no longer, while a release of its port still waits for its
final answer (R146). -/
def Dev.waitReissue (d : Dev) (who : Agent) (tag : Nat) : Dev :=
  match d.ten.flight.find? (fun f => f.isOf who tag) with
  | none => d
  | some f =>
    let fl := mapFirst (fun g => g.isOf who tag) (fun g => { g with epoch := 65537, ext := 65536 }) d.ten.flight
    ({ d with ten := { d.ten with flight := fl } }).showFlight f.ext

/-- A request parked leaves the in-flight count of its epoch (R161); epoch 65536 stands for none. -/
def Dev.parkFlight (d : Dev) (who : Agent) (tag : Nat) : Dev :=
  let fl := mapFirst (fun f => f.isOf who tag) (fun f => { f with epoch := 65536 }) d.ten.flight
  ({ d with ten := { d.ten with flight := fl } }).showFlight 65536

/-- A parked request re-issued takes the live epoch (R161). -/
def Dev.unparkFlight (d : Dev) (who : Agent) (tag : Nat) : Dev :=
  let fl := mapFirst (fun f => f.isOf who tag) (fun f => { f with epoch := d.epoch }) d.ten.flight
  ({ d with ten := { d.ten with flight := fl } }).showFlight 65536

/-- Whether a counted request is still in flight; one that is not was completed with STALE-EPOCH or FENCED before (R430). A later request
under the same TAG has another number. -/
def Dev.inFlight (d : Dev) (r : HomeReq) : Bool := !r.who.counted || d.ten.flight.any (fun f => f.isOf r.who r.tag && f.no == r.no)

/-- The final answer of a request: it leaves the in-flight counts, and a release of its port waits for it no longer (R146). -/
def Dev.endFlight (d : Dev) (who : Agent) (tag : Nat) : Dev :=
  match d.ten.flight.find? (fun f => f.isOf who tag) with
  | none => d
  | some f =>
    let fl := dropFirst (fun g => g.isOf who tag) d.ten.flight
    let d := ({ d with ten := { d.ten with flight := fl } }).showFlight f.ext
    match who with
    | .port p => d.onLink p (fun l => { l with
        holds := l.holds.map (fun h => { h with after := h.after.filter (fun x => x != tag) }),
        replays := l.replays.filter (fun x => x.1 != tag) })
    | _ => d

/-- The slice that is home to a PPA (R130). -/
def homeSlice (ppa : Nat) : Nat :=
  [8, 14, 20, 26, 32, 38, 44].foldl (fun a lo => Nat.xor a (fieldOf ppa lo 6)) (fieldOf ppa 50 2)

/-- The TAGs of a port's space (R100, R101): 14 bits. A transaction numbered past them waits for a TAG. -/
def tagSpace : Nat := 16384

/-- A message from a home to a requester port. -/
def Dev.reply (d : Dev) (ppa p : Nat) (m : Msg) (dom : Nat) : Dev := d.sendMsg (.slice (homeSlice ppa)) p m dom

/-- The endpoint of who asks a home (R172): the key sweep is a work of Quench and the mirror resync one of the RAS cores (assumption log
49). -/
def Dev.agentAt (d : Dev) (r : HomeReq) : Endpoint :=
  match r.who with
  | .port p => .port p
  | .tile t => .tile t
  | .grt c => .grt (match Tab.find? d.grt.ctxs c with
    | some x => d.portDie (fieldBytes x.rec_ 2 2 % 512)
    | none => 0)
  | .sweep _ => .quench (homeSlice r.ppa / 32)
  | .resync _ => .core
  | .tier _ => .tier
  | .shadow _ => .tier
  | .takeBack _ => .slice (homeSlice r.ppa)

/-- What an engine is told of its request at a home, in a frame of the home's slice (R165); a home's own recalls cross nothing. -/
def Dev.mailTo (d : Dev) (r : HomeReq) (status : Nat) (line : List Byte) : Dev :=
  let m : Mail := ⟨r.who, r.tag, r.ppa, r.op, status, line⟩
  match r.who with
  | .takeBack _ => { d with home := { d.home with mail := d.home.mail ++ [m] } }
  | _ =>
    let tag := r.tag % tagSpace
    d.sendInner (.slice (homeSlice r.ppa)) (d.agentAt r) (if line = [] then rspMsg 0 tag r.tc status else dataMsg tag r.tc 0 0 0 0 line)
      r.dom (.answer m)

/-- The answer to a request completed before is discarded (R430, R468). -/
def Dev.staleAnswer (d : Dev) : Dev := (d.bump Reg.SLAG_STALE).bump Reg.LATE_ITEMS

/-- The final answer of a request that ends without data (R105): RSP CMP to a port, a completion to an engine. The answer to a
request no longer in flight is discarded (R430). -/
def Dev.endReq (d : Dev) (r : HomeReq) (status : Nat) : Dev :=
  if !(d.inFlight r) then d.staleAnswer else
  match r.who with
  | .port p => (d.reply r.ppa p (rspMsg 0 r.tag r.tc status) r.dom).endFlight r.who r.tag
  | _ => (d.endFlight r.who r.tag).mailTo r status []

/-- A requester's OPS_WR has been written: OK to its port; one no longer in flight was completed before (R430). -/
def Dev.opsAnswer (d : Dev) (src : Endpoint) (p tag tc dom no : Nat) : Dev :=
  if !(d.ten.flight.any (fun f => f.isOf (.port p) tag && f.no == no)) then d.staleAnswer
  else (d.sendMsg src p (rspMsg 0 tag tc 0) dom).endFlight (.port p) tag

/-- Whose request it is: its agent, its TAG and the number of its admission. -/
def HomeReq.key (r : HomeReq) : Agent × Nat × Nat := (r.who, r.tag, r.no)

/-- The requests of a work: its first and the members that have joined. -/
def Work.all (w : Work) : List HomeReq := w.req :: w.members

/-- The lines of a read not yet returned, by its flight, parked ones among them: a read of several lines ends with its last line. -/
def Dev.linesLeft (d : Dev) (r : HomeReq) : Nat :=
  sumBy (fun x : Nat × Line =>
    let works := (match x.2.busy with
      | some b => [b.work]
      | none => []) ++ x.2.queue
    sumBy (fun w : Work => (w.all.filter (fun q => decide (q.key = r.key))).length) works) d.home.lines +
  (d.home.park.filter (fun q => decide (q.req.key = r.key))).length

/-- TAGs of T9 requests in use on a target port (R101). -/
def Dev.outTags (d : Dev) (p : Nat) : List Nat := (d.home.outs.filter (fun o => o.port == p)).map Out.tag

/-- A message under another TAG (R100). -/
def Msg.withTag (m : Msg) (tag : Nat) : Msg := { m with hdr := BitVec.ofNat 128 (fieldPut m.hdr.toNat 12 14 tag) }

/-- The engine that sends a request to a tray: the Quench of the die of the line's home its fills (assumption log 11), the home of the
line the rest. -/
def Out.src (o : Out) : Endpoint :=
  match o.use with
  | .fill _ => .quench (homeSlice (o.line * 64) / 32)
  | _ => .slice (homeSlice (o.line * 64))

/-- The engine that sends an OPS_RESULT: its tile, or the forge for a weight push. -/
def ResOut.src (r : ResOut) : Endpoint :=
  match r.use with
  | .anvil t _ => .tile t
  | .push _ stack => .forge stack

/-- A request of the T9 goes to its tray: an OPS message is a Quench write (R206, R423). -/
def Dev.sendOut (d : Dev) (o : Out) : Dev :=
  if o.msg.cls = 4 then d.sendQuench o.src o.port o.msg else d.sendMsg o.src o.port o.msg o.msg.domain

/-- A request of the T9 to a tray takes a free TAG, and is remembered until its answer (R101, R423); with none free it waits for one.
`make` forms the message of the TAG. -/
def Dev.toTray (d : Dev) (p line : Nat) (use : OutUse) (make : Nat → Msg) : Dev :=
  let used := d.outTags p
  let tag := freshNumber used 0 (used.length + 1)
  let o : Out := ⟨p, tag, line, use, make tag, 0, d.time⟩
  let d := { d with home := { d.home with outs := d.home.outs ++ [o] } }
  if tag < tagSpace then d.sendOut o else d

/-- The request that a tray's TAG answers. -/
def Dev.outOf (d : Dev) (p tag : Nat) : Option Out := d.home.outs.find? (fun o => o.port == p && o.tag == tag)

/-- A tray has answered: the request is no longer outstanding, and the first that waits for a TAG of the port takes its own (R101). -/
def Dev.dropOut (d : Dev) (o : Out) : Dev :=
  let d := { d with home := { d.home with outs := dropFirst (fun x => decide (x = o)) d.home.outs } }
  match d.home.outs.find? (fun x => x.port == o.port && decide (tagSpace ≤ x.tag)), decide (o.tag < tagSpace) with
  | some w, true =>
    let w' : Out := { w with tag := o.tag, msg := w.msg.withTag o.tag, at_ := d.time }
    ({ d with home := { d.home with outs := mapFirst (fun x => decide (x = w)) (fun _ => w') d.home.outs } }).sendOut w'
  | _, _ => d

/-- The access counter of the 2 MiB page at a PPA in the COUNTERS area (R345); one that cannot be read reads 0 (R450). -/
def Dev.accessCounter (d : Dev) (page : Nat) : Nat :=
  let a := d.areaBase 4 + page * 2
  if d.upset.any (fun u => decide (u.1 = a / 32) && !u.2) then 0 else bytesNat (d.readMem a 2)

/-- Whether the COUNTERS area holds a counter for a page (R339). -/
def Dev.counted (d : Dev) (page : Nat) : Bool := decide (page * 2 + 2 ≤ d.areaSize 4)

/-- The page's TIER frame, if it is resident (R343). -/
def Dev.frameOf (d : Dev) (page : Nat) : Option TierFrame := d.store.frames.find? (fun f => f.page == page)

/-- A TIER frame changed. -/
def Dev.onFrame (d : Dev) (page : Nat) (f : TierFrame → TierFrame) : Dev :=
  { d with store := { d.store with frames := mapFirst (fun x => x.page == page) f d.store.frames } }

/-- The address in device memory of a line of a frame (R343). -/
def Dev.frameAddr (d : Dev) (f : TierFrame) (ppa : Nat) : Nat := d.areaBase 7 + f.slot * 0x20_0000 + ppa % 0x20_0000

/-- TIER_STAT follows the frames and the candidate queue (R376). -/
def Dev.showTier (d : Dev) : Dev :=
  let d := d.set Reg.TIER_STAT_FRAMES_USED d.store.frames.length
  let d := d.set Reg.TIER_STAT_FRAMES_DIRTY (d.store.frames.filter (fun f => f.dirty != [])).length
  let d := d.set Reg.TIER_STAT_FLUSH_BUSY (if d.store.flush = [] then 0 else 1)
  d.set Reg.TIER_STAT_CAND_NOW (min 4095 d.store.cands.length)

/-- One access of a page by its home (R345, R346): the counter rises by one, saturating; reaching PROMOTE_THR posts the page of a
promotable region to the candidate queue, or drops it when the queue is full. The counters of a word that cannot be read are 0 from then
on (R450). -/
def Dev.touchPage (d : Dev) (e : RtEntry) (page : Nat) : Dev :=
  if !(d.counted page) then d else
  let a := d.areaBase 4 + page * 2
  let d := match d.readEcc a 2 with
    | (d, some _) => d
    | (d, none) => d.zeroMem (a / 32 * 32) 32
  let c := d.accessCounter page
  if c = 65535 then d else
  let d := d.writeMem a (natBytes 2 (c + 1))
  let thr := max (d.get Reg.TIER_THR_PROMOTE_THR) (d.get Reg.TIER_THR_DEMOTE_THR + 1)
  if c + 1 = thr && (e.tier == 1 || e.tier == 2) && (d.frameOf page).isNone then
    if d.store.cands.length < 4096 then { d with store := { d.store with cands := d.store.cands ++ [page] } }.showTier
    else d.bump Reg.CAND_DROPPED
  else d

/-- A write to a line of a page with a shadow clears VALID before it completes, and restarts the page's quiet time (R356). -/
def Dev.spoilShadow (d : Dev) (e : RtEntry) (ppa : Nat) : Dev :=
  if !e.shadowed then d else
  let hit := fun (s : Shadow) => decide (s.ppa ≤ ppa) && decide (ppa < s.ppa + s.len)
  { d with store := { d.store with
    shadows := d.store.shadows.map (fun s => if hit s then { s with valid := false } else s),
    builds := d.store.builds.map (fun b => if decide (b.ppa ≤ ppa) && decide (ppa < b.ppa + b.len) then { b with spoiled := true } else b),
    quiet := Tab.ins d.store.quiet (ppa / 4096) d.time } }

/-- The key of a degraded record: a region has one for each port it is out of sync with, and one if it is copied whole. -/
def Degraded.key (g : Degraded) : Nat := g.index * 1024 + (if g.whole then 1023 else g.port)

/-- The degraded record of a key (R459). -/
def Dev.degradedOf (d : Dev) (key : Nat) : Option Degraded := d.ras.degraded.find? (fun g => g.key == key)

/-- Where a read goes (R353, R458 to R460): the copy (0 primary, 1 mirror) and its port, or the dead port at which it parks. -/
inductive Route where
  | to (copy port : Nat)
  | park (port : Nat)
  | nowhere
  deriving DecidableEq, Repr

/-- Whether the copy of a line on a port may be older than the other (R459, R460, R462): a record of the region has its page marked and
names that copy. -/
def Dev.staleCopy (d : Dev) (index ppa copy port : Nat) : Bool :=
  d.ras.degraded.any (fun g =>
    g.index == index && g.survivor != copy && (g.whole || g.port == port) && decide (pageOf ppa ∈ g.marks))

/-- The route of a read of a line: the primary copy if it is live and not out of date, else the mirror copy if that is, else a dead port. -/
def Dev.readRoute (d : Dev) (b : Bank) (index : Nat) (e : RtEntry) (ppa : Nat) : Route :=
  match b.primary e ppa with
  | none => .nowhere
  | some p0 =>
    match b.mirrorPort e ppa with
    | none => if d.fenced p0 then .park p0 else .to 0 p0
    | some p1 =>
      if !d.fenced p0 && !d.staleCopy index ppa 0 p0 then .to 0 p0
      else if !d.fenced p1 && !d.staleCopy index ppa 1 p1 then .to 1 p1
      else if d.fenced p0 then .park p0 else if d.fenced p1 then .park p1 else .to 0 p0

/-- The live copies that a write goes to (R457, R459), or the dead port at which it parks: while the copy that survives lies on a dead port
the other, out of date, takes no write either (R461). -/
def Dev.writeRoute (d : Dev) (b : Bank) (index : Nat) (e : RtEntry) (ppa : Nat) : List (Nat × Nat) × Option Nat :=
  match d.readRoute b index e ppa with
  | .nowhere => ([], none)
  | .park p => ([], some p)
  | .to _ _ => ((b.copies e ppa).filter (fun c => !d.fenced c.2), none)

/-- The dead port at which a request for a line parks under an epoch's bank (R159, R352, R459): every copy of the line lies on a dead
port. -/
def Dev.deadTray (d : Dev) (epoch ppa : Nat) : Option Nat :=
  match (d.bank epoch).byPpa ppa with
  | some (ix, e) => (d.writeRoute (d.bank epoch) ix e ppa).2
  | none => none

/-- A write that reaches one copy only marks its page in the resync map of the region for the port that it does not reach (R459, R461). -/
def Dev.markDegraded (d : Dev) (b : Bank) (index : Nat) (e : RtEntry) (ppa : Nat) (copies : List (Nat × Nat)) : Dev :=
  if e.mirror && copies.length == 1 then
    let missed := ((b.copies e ppa).filter (fun c => decide (c ∉ copies))).map Prod.snd
    let d := d.bump Reg.MIRROR_DEGRADED_WRITES
    { d with ras := { d.ras with degraded := d.ras.degraded.map (fun g =>
      if g.index = index && (g.whole || decide (g.port ∈ missed)) then { g with marks := addOnce g.marks (pageOf ppa) } else g) } }
  else d

end Sys2Proof.Machine
end

