-- ==== Sys2Proof/Machine/Rings.lean ====
section
/-! DEFINITION. Ring commands from their start to their completion (R485 to R487, R490 to R493, R502), and the OPS_RESULT messages that await their RESULT_ACK (R56, R101, R192). -/
namespace Sys2Proof.Machine

/-- The core that serves a function's command rings (R497). -/
def fabricCore (fn : Nat) : Nat := 1 + fn % 6

/-- A completion entry (R492). -/
def completionEntry (c : RingCmd) (op : Nat) (phase : Bool) (status err index us : Nat) (result : List Byte) : List Byte :=
  natBytes 4 c.id.toNat ++ natBytes 1 op ++ natBytes 1 (if phase then 1 else 0) ++ natBytes 1 status ++ natBytes 1 err ++
    natBytes 4 index ++ natBytes 4 (min (2 ^ 32 - 1) us) ++ padBytes 16 result

/-- The record of a started command, if it has one. -/
def Dev.startedOf (d : Dev) (c : RingCmd) : Option Started := d.host.started.find? (fun s => decide (s.cmd = c))

/-- The completion of a started command written (R485, R486, R492): its entry goes into the next slot of its completion ring, which the
fetch reserved; if that ring has been disabled since, the completion is discarded. -/
def Dev.writeEnd (d : Dev) (s : Started) (e : CmdEnd) : Dev :=
  let c := s.cmd
  let d := { d with host := { d.host with started := dropFirst (fun x => decide (x = s)) d.host.started } }
  let r := d.ring c.fn.val 1 c.ring.val
  if !r.en || r.gen != s.gen then d else
  let d := d.setRing c.fn.val 1 c.ring.val { r with res := r.res - 1 }
  d.putEntry c.fn.val 1 c.ring.val (completionEntry c s.op r.phase e.status e.err e.index ((d.time - s.at_) / 1000) e.result)

/-- Whether the completion of a command has to wait for its core (R502): the heat scheduler writes those of heats (R497). -/
def Dev.endWaits (d : Dev) (s : Started) : Bool := s.op != 1 && !d.coreUp (fabricCore s.cmd.fn.val)

/-- A command completes (R492): while its core restarts the core's journal holds the completion (R502). -/
def Dev.complete (d : Dev) (c : RingCmd) (status err index : Nat) (result : List Byte) : Dev :=
  match d.startedOf c with
  | none => d
  | some s =>
    if d.endWaits s then
      let hold := fun (s : Started) => { s with begun := true, ended := some (s.ended.getD ⟨status, err, index, result⟩) }
      { d with host := { d.host with started := mapFirst (fun x => decide (x = s)) hold d.host.started } }
    else (d.writeEnd s ⟨status, err, index, result⟩).when (s.op != 1) (fun d => d.fwRecords (fabricCore c.fn.val))

/-- Completions that journals have held are written once their cores run (R502). -/
def Dev.journalOut (d : Dev) : Dev :=
  d.each d.host.started (fun d s => match s.ended with
    | some e => if d.endWaits s then d else d.writeEnd s e
    | none => d)

/-- A command completes with OK. -/
def Dev.completeOk (d : Dev) (c : RingCmd) (result : List Byte) : Dev := d.complete c 0 0 0 result

/-- A command completes with POISON and an ERR of R493. -/
def Dev.completeErr (d : Dev) (c : RingCmd) (err : Nat) : Dev := d.complete c 1 err 0 []

/-- A command has started and completes later. -/
def Dev.beginCmd (d : Dev) (c : RingCmd) : Dev :=
  { d with host := { d.host with started := mapFirst (fun s => decide (s.cmd = c)) (fun s => { s with begun := true }) d.host.started } }

/-- A command that has not reached its commit point is to run again (R502). -/
def Dev.againCmd (d : Dev) (c : RingCmd) : Dev :=
  { d with host := { d.host with started := mapFirst (fun s => decide (s.cmd = c)) (fun s => { s with begun := false }) d.host.started } }

/-- A command taken from its ring: its completion slot is reserved (R485). -/
def Dev.takeCmd (d : Dev) (c : RingCmd) (op : Nat) : Dev :=
  let r := d.ring c.fn.val 1 c.ring.val
  let d := d.setRing c.fn.val 1 c.ring.val { r with res := r.res + 1 }
  let s : Started := ⟨c, op, d.time, false, r.gen, none⟩
  { d with host := { d.host with started := d.host.started ++ [s] } }

/-- Whether completion ring r of a function has a free slot to reserve (R485): it is enabled and not full. -/
def Dev.slotFree (d : Dev) (fn ring : Nat) : Bool :=
  let r := d.ring fn 1 ring
  r.en && decide (r.used + r.res < r.size)

/-- Whether a started command waits for an earlier one of its ring (R487): a non-heat command for every earlier non-heat one, and with
AFTER_HEATS for every earlier heat as well. -/
def Dev.mustWait (d : Dev) (c : RingCmd) (op : Nat) : Bool :=
  let earlier := (d.host.started.takeWhile (fun s => !decide (s.cmd = c))).filter (fun s => s.cmd.fn == c.fn && s.cmd.ring == c.ring)
  op != 1 && earlier.any (fun s => s.op != 1 || bitOf c.flags.toNat 0)

/-- A ring command comes to its start: one that COMMAND_FETCH has not taken is taken now. It starts while its function's core
runs, and at its turn; an undefined FLAGS bit makes it complete with ERR 2 (R487, R490, R491, R502). -/
def Dev.ringOp (d : Dev) (c : RingCmd) (op : Nat) (f : Dev → Dev) : Dev :=
  if !(d.coreUp (fabricCore c.fn.val)) then d else
  match d.startedOf c with
  | some s => if s.begun || d.mustWait c op then d
      else if 2 ≤ c.flags.toNat then d.completeErr c 2 else f d
  | none =>
    if !d.slotFree c.fn.val c.ring.val then d else
    let d := d.takeCmd c op
    if d.mustWait c op then d else if 2 ≤ c.flags.toNat then d.completeErr c 2 else f d

/-- Bytes `[off, off + n)` of a command entry as a number; ARGS begin at byte 8 (R490). -/
def RingCmd.arg (c : RingCmd) (off n : Nat) : Nat := fieldBytes c.args (off - 8) n

/-- TAGs of the T9 in use on a port: its requests to a tray, and its results (R101). -/
def Dev.usedTags (d : Dev) (p : Nat) : List Nat := d.outTags p ++ (d.results.filter (fun r => r.port == p)).map ResOut.tag

/-- A free TAG of the T9 on a port (R101); a result numbered past the TAGs waits for one. -/
def Dev.freeTag (d : Dev) (p : Nat) : Nat := freshNumber (d.usedTags p) 0 ((d.usedTags p).length + 1)

/-- An OPS_RESULT remembered until its RESULT_ACK. -/
def Dev.noteResult (d : Dev) (r : ResOut) : Dev := { d with results := d.results ++ [r] }

/-- The OPS_RESULT that a port's TAG names. -/
def Dev.resultOf (d : Dev) (p tag : Nat) : Option ResOut := d.results.find? (fun r => r.port == p && r.tag == tag)

/-- An OPS_RESULT no longer outstanding; the first that waits for a TAG of the port takes its own (R101). -/
def Dev.dropResult (d : Dev) (r : ResOut) : Dev :=
  let d := { d with results := dropFirst (fun x => decide (x = r)) d.results }
  match d.results.find? (fun x => x.port == r.port && decide (tagSpace ≤ x.tag)), decide (r.tag < tagSpace) with
  | some w, true =>
    let w' : ResOut := { w with tag := r.tag, msg := w.msg.withTag r.tag }
    ({ d with results := mapFirst (fun x => decide (x = w)) (fun _ => w') d.results }).sendMsg w'.src w'.port w'.msg w'.msg.domain
  | _, _ => d

end Sys2Proof.Machine
end

