-- ==== Sys2Proof/Machine/Home.lean ====
section
/-! DEFINITION. The homes: directory states and exchanges (R137 to R144), atomics (R147 to R150), combining (R151, R152),
LOST-DIRTY lines (R154 to R157) and parking (R159 to R161). -/
namespace Sys2Proof.Machine

/-- The directory entry and queue of a line. -/
def Dev.lineAt (d : Dev) (k : Nat) : Line := Tab.get Line.idle d.home.lines k

/-- A line in I with nothing waiting is no entry (R131). -/
def Line.norm (l : Line) : Line := if l.st = .inv ∧ l.busy = none ∧ l.queue = [] then Line.idle else l

/-- A line's record replaced. -/
def Dev.setLine (d : Dev) (k : Nat) (l : Line) : Dev :=
  { d with home := { d.home with lines := Tab.put Line.idle d.home.lines k l.norm } }

/-- A line's record changed. -/
def Dev.onLine (d : Dev) (k : Nat) (f : Line → Line) : Dev := d.setLine k (f (d.lineAt k))

/-- A line enters a state; leaving I allocates its entry, the youngest of its slice (R132). -/
def Dev.setState (d : Dev) (k : Nat) (st : LineState) : Dev :=
  let l := d.lineAt k
  let fresh := decide (l.st = .inv) && decide (st ≠ .inv)
  let d := d.setLine k { l with st := st, made := if fresh then d.home.made + 1 else l.made }
  if fresh then { d with home := { d.home with made := d.home.made + 1 } } else d

/-- The atomic buffer's copy of a line (R150). -/
def Dev.buffered (d : Dev) (k : Nat) : Option AtomicLine := d.home.abuf.find? (fun a => a.line == k)

/-- The atomic buffer's copy of a line replaced, or removed. -/
def Dev.setBuffer (d : Dev) (k : Nat) (data : Option (List Byte)) : Dev :=
  let rest := d.home.abuf.filter (fun a => a.line != k)
  { d with home := { d.home with abuf := match data with
    | some b => rest ++ [⟨k, b, d.time⟩]
    | none => rest } }

/-- An atomic's new value (R147) on operands of `n` bytes: integers are two's complement. -/
def atomicValue (a : AtomicOp) (n old operand swap : Nat) : Nat :=
  match a with
  | .fadd => (old + operand) % 2 ^ (8 * n)
  | .min => if signedOf (8 * n) old ≤ signedOf (8 * n) operand then old else operand
  | .max => if signedOf (8 * n) old ≤ signedOf (8 * n) operand then operand else old
  | .swap => operand
  | .cas => if old = operand then swap else old

/-- The bytes an atomic acts on (R102): 16 with COUNT 1, else 8. -/
def HomeReq.width (r : HomeReq) : Nat := if r.count = 1 then 16 else 8

/-- An atomic applied to a line: the old value and the new line (R147). -/
def applyAtomic (a : AtomicOp) (r : HomeReq) (line : List Byte) : List Byte × List Byte :=
  let n := r.width
  let off := r.ppa % 64
  let old := (line.drop off).take n
  let v := atomicValue a n (bytesNat old) (fieldBytes r.data 0 n) (fieldBytes r.data n n)
  (old, line.take off ++ natBytes n v ++ line.drop (off + n))

/-- The enabled bytes of a partial write merged into a line (R106). -/
def mergeBytes (mask : Nat) : Nat → List Byte → List Byte → List Byte
  | _, [], _ => []
  | i, b :: bs, ws => (if bitOf mask i then ws.headD 0#8 else b) :: mergeBytes mask (i + 1) bs (ws.drop 1)

/-- Whether a request writes the line (R418 check 8). -/
def HomeOp.writes : HomeOp → Bool
  | .wrLine | .wrPart | .wbDirty => true
  | .atomic _ => true
  | _ => false

/-- Whether a request reads the line. -/
def HomeOp.reads : HomeOp → Bool
  | .rdShared | .rdNoalloc | .rdOwn => true
  | _ => false

/-- The line's request, if it is being served. -/
def Dev.busyOf (d : Dev) (k : Nat) : Option Busy := (d.lineAt k).busy

/-- The request being served changed. -/
def Dev.onBusy (d : Dev) (k : Nat) (f : Busy → Busy) : Dev := d.onLine k (fun l => { l with busy := l.busy.map f })

/-- The line waits for something anew. -/
def Dev.waitFor (d : Dev) (k : Nat) (w : Wait) : Dev := d.onBusy k (fun b => { b with wait := w, since := d.time })

/-- One more sharer recorded (R133): up to four exactly, then the coarse vector. -/
def addSharer (s : Sharers) (p : Nat) : Sharers :=
  match s with
  | .exact ps => if p ∈ ps then .exact ps else if ps.length < 4 then .exact (ps ++ [p])
    else .coarse ((p :: ps).foldl (fun v q => Nat.lor v (2 ^ (q / 8))) 0)
  | .coarse v => .coarse (Nat.lor v (2 ^ (p / 8)))

/-- The ports a snoop goes to (R133). -/
def Dev.sharerPorts (d : Dev) : Sharers → List Nat
  | .exact ps => ps
  | .coarse v => (rangeFrom 0 512).filter (fun p => bitOf v (p / 8) && d.isRole p 0)

/-- A granted read records its sharer (R140). -/
def Dev.recordSharer (d : Dev) (k p : Nat) : Dev :=
  match (d.lineAt k).st with
  | .shared s => d.setState k (.shared (addSharer s p))
  | _ => d.setState k (.shared (.exact [p]))

/-- The DAT of one line for a requester (R105), and the end of its flight with the last line of its read. -/
def Dev.answerLine (d : Dev) (r : HomeReq) (status grant : Nat) (line : List Byte) : Dev × List (Nat × Msg) :=
  if !(d.inFlight r) then (d.staleAnswer, []) else
  match r.who with
  | .port p =>
    let m := dataMsg r.tag r.tc status ((r.ppa - r.first) / 64) grant 0 line
    (if d.linesLeft r ≤ 1 then d.endFlight r.who r.tag else d, [(p, m)])
  | _ => ((d.endFlight r.who r.tag).mailTo r status line, [])

/-- The line's request is done: it leaves the line, which is then free for the next. -/
def Dev.clearBusy (d : Dev) (k : Nat) : Dev := d.onLine k (fun l => { l with busy := none })

/-- The members after the first of a read group whose last line is answered now count (R151, R164). -/
def Dev.countCombined (d : Dev) (w : Work) : Dev :=
  d.bumpBy Reg.COMBINED_READS (w.members.filter (fun r => r.op.reads && d.inFlight r && decide (d.linesLeft r ≤ 1))).length

/-- Every member of a read group is answered from one fetch, by multicast when there are several (R151). A port that is FENCED by then
becomes neither sharer nor owner (R154): its copy will not reach it. -/
def Dev.answerReads (d : Dev) (k : Nat) (w : Work) (status grant : Nat) (line : List Byte) : Dev :=
  let d := d.countCombined w
  let (d, copies) := w.all.foldl (fun (acc : Dev × List (Nat × Msg)) r =>
    let ok := acc.1.inFlight r
    let (d, ms) := acc.1.answerLine r status grant line
    let d := match r.who, status, grant, ok with
      | .port p, 0, 1, true => if d.fenced p then d else d.recordSharer k p
      | .port p, 0, 2, true => if d.fenced p then d else d.setState k (.owned p)
      | _, _, _, _ => d
    (d, acc.2 ++ ms)) (d, [])
  let d := d.clearBusy k
  if copies.length ≤ 1 then d.each copies (fun d c => d.reply (k * 64) c.1 c.2 w.req.dom)
  else d.sendMulti (.slice (homeSlice (k * 64))) w.req.dom true copies

/-- The members of an atomic group in the order of their application: ascending port, arrival order within one port (R152). -/
def Work.ordered (w : Work) : List HomeReq :=
  sortBy (fun (r : HomeReq) => match r.who with
    | .port p => p
    | _ => 512) w.all

/-- The return of one atomic (R105). -/
def Dev.answerAtomic (d : Dev) (r : HomeReq) (status : Nat) (old : List Byte) : Dev :=
  if !(d.inFlight r) then d.staleAnswer else
  match r.who with
  | .port p => (d.reply r.ppa p (atomicRetMsg r.tag r.tc status old) r.dom).endFlight r.who r.tag
  | _ => (d.endFlight r.who r.tag).mailTo r status old

/-- A write of a line, before it completes, clears VALID of its page's shadow (R356). -/
def Dev.spoilLine (d : Dev) (epoch k : Nat) : Dev :=
  match d.region epoch (k * 64) with
  | some (_, e) => d.spoilShadow e (k * 64)
  | none => d

/-- A group applied in the atomic buffer (R150, R152): each member's return carries the old value its own application saw. -/
def Dev.applyGroup (d : Dev) (k : Nat) (w : Work) (line : List Byte) : Dev :=
  let d := d.spoilLine w.req.epoch k
  let (d, line) := w.ordered.foldl (fun (acc : Dev × List Byte) r =>
    match r.op with
    | .atomic a =>
      let (old, new) := applyAtomic a r acc.2
      (acc.1.answerAtomic r 0 old, new)
    | _ => acc) (d, line)
  let d := d.bumpBy Reg.COMBINED_ATOMICS w.members.length
  (((d.setBuffer k (some line)).clearBusy k).setState k .atomic)

/-- The payload bytes a write carries (R63). -/
def HomeReq.payload (r : HomeReq) : Nat :=
  if r.op = .wrPart then ((rangeFrom 0 64).filter (fun i => bitOf r.mask i)).length else 64

/-- Whether a request holds a line's INVAL hold (R141). -/
def isHolder (p : Nat) (r : HomeReq) : Bool :=
  decide (r.who = .port p) && (match r.op with
    | .wrLine | .wrPart | .evict => true
    | _ => false)

/-- The holder's write or EVICT of a line ends its hold, also where it fails (R141). -/
def Dev.endHoldBy (d : Dev) (k : Nat) (r : HomeReq) : Dev :=
  match (d.lineAt k).st with
  | .held p _ => if isHolder p r then d.setState k .inv else d
  | _ => d

/-- One line of an INVAL is done with a status (R19, R103, R141): with the last comes the answer. The holds run from an INV_DONE; another
answer leaves none. -/
def Dev.invalDone (d : Dev) (k : Nat) (r : HomeReq) (status : Nat) : Dev :=
  match r.who with
  | .port p =>
    match d.home.invals.find? (fun i => i.port == p && i.tag == r.tag) with
    | none => d
    | some i =>
      let left := i.left.filter (fun x => x != k)
      let code := worse i.code status
      if left != [] then
        { d with home := { d.home with
          invals := d.home.invals.map (fun x => if x = i then { x with left := left, code := code } else x) } }
      else
        let d := { d with home := { d.home with invals := d.home.invals.filter (fun x => decide (x ≠ i)) } }
        let isHeld := fun (d : Dev) (l : Nat) => decide ((d.lineAt l).st = .held p none)
        if code != 0 || !(d.inFlight r) then
          (d.each i.lines (fun d l => if isHeld d l then d.setState l .inv else d)).endReq r code
        else
          let d := d.each i.lines (fun d l => if isHeld d l then d.setState l (.held p (some d.time)) else d)
          (d.reply r.ppa p (rspMsg 1 r.tag r.tc 0) r.dom).endFlight r.who r.tag
  | _ => d.endReq r status

/-- One line of a request ends with a status and no data. -/
def Dev.failReq (d : Dev) (k : Nat) (r : HomeReq) (status : Nat) : Dev :=
  match r.op with
  | .atomic _ => d.answerAtomic r status []
  | .rdShared | .rdNoalloc | .rdOwn =>
    let (d, ms) := d.answerLine r status 0 []
    d.each ms (fun d c => d.reply r.ppa c.1 c.2 r.dom)
  | .inval => d.invalDone k r status
  | _ => (d.endHoldBy k r).endReq r status

/-- A request ends whole, before any line of it has been served: one RSP CMP ends a read (R105). -/
def Dev.failWhole (d : Dev) (r : HomeReq) (status : Nat) : Dev :=
  match r.op with
  | .atomic _ => d.answerAtomic r status []
  | _ => (d.endHoldBy (r.ppa / 64) r).endReq r status

/-- A line's request ends with a status and no data; every member shares it. -/
def Dev.failWork (d : Dev) (k : Nat) (w : Work) (status : Nat) : Dev :=
  ((d.countCombined w).each w.all (fun d r => d.failReq k r status)).clearBusy k

/-- The clean write-back of a frame's line is in the pool: its dirty mark clears (R348, R350). -/
def Dev.cleaned (d : Dev) (k : Nat) : Dev :=
  let ix := k * 64 % 0x20_0000 / 64
  ((d.bump Reg.DIRTY_WRITEBACKS).onFrame (pageOf (k * 64)) (fun g => { g with dirty := g.dirty.filter (fun x => x.1 != ix) })).showTier

/-- A line that was HELD, or that its sharers have been invalidated for, leaves for I with its write (R140). -/
def HomeOp.endsHold : HomeOp → Bool
  | .wrLine | .wrPart | .wbDirty | .evict | .takeBack => true
  | _ => false

/-- The tile and the descriptor whose write carries a TAG. -/
def Dev.stepOf (d : Dev) (who : Agent) (tag : Nat) : Option (Nat × Nat) :=
  match who with
  | .tile t => some (t, (d.heats.list.findSome? (fun h => (h.acks.find? (fun a => a.tag == tag)).map Ack.ix)).getD 0)
  | _ => none

/-- The counter that a write names counts it (R62), unless its generation is no longer live (R72). -/
def Dev.countWrite (d : Dev) (r : HomeReq) : Dev :=
  match counterId r.ctrKind r.ctr, r.op.writes with
  | some id, true => d.countResult id r.dom (r.gen.getD (d.ctrGen id)) ⟨256, d.stepOf r.who r.tag, r.payload⟩
  | _, _ => d

/-- A write is in the pool: CMP, the counter it names, and the line's next state (R62, R140). A move of the T9's own that reaches
a line in LOST-DIRTY leaves it there (R373). -/
def Dev.wrote (d : Dev) (k : Nat) (w : Work) : Dev :=
  let r := w.req
  let d := d.clearBusy k
  let d := if r.op.endsHold then d.setState k .inv else d
  let d := if r.op = .clean then d.cleaned k else d
  (d.countWrite r).endReq r 0

/-- The DOMAIN a message of a request carries toward a tray (R423): the owner of the line's extent for tenant accesses and the
homes' own write-backs, 0 for the sweep, the resync, the tier manager and domain 0. -/
def HomeReq.trayDom (r : HomeReq) (e : RtEntry) : Nat :=
  match r.who with
  | .sweep _ | .resync _ | .tier _ | .shadow _ => 0
  | .takeBack _ => e.dom
  | _ => if r.dom = 0 then 0 else e.dom

/-- A line has been written: what an uncorrectable word had lost of it is over (R450). -/
def Dev.lineWritten (d : Dev) (k : Nat) : Dev :=
  { d with store := { d.store with badLines := d.store.badLines.filter (fun x => x != k) } }

/-- A dirty line of a frame is lost to an uncorrectable word (R450): reads of it fail until it is written, and the frame is to be retired. -/
def Dev.lineLost (d : Dev) (f : TierFrame) (k : Nat) : Dev :=
  { d with store := { d.store with badLines := addOnce d.store.badLines k } }.onFrame f.page (fun g => { g with hurt := true })

/-- Whether the tier map's entry of a page is lost (R449): accesses of the page that need it fail. -/
def Dev.tierLost (d : Dev) (page : Nat) (op : HomeOp) : Bool :=
  op != HomeOp.sweep && op != HomeOp.resync && (d.frameOf page).any (fun f => f.mode == 3)

/-- The request by which a page's line is moved at its home (R347): tag and line are its line number. -/
def Dev.tierReq (d : Dev) (page k : Nat) (op : HomeOp) : HomeReq :=
  { who := .tier page, tag := k, op := op, dom := 0, ppa := k * 64, count := 0, first := k * 64, data := [], mask := 0,
    tc := d.get Reg.TIER_CTL_TIER_TC, ctrKind := 0, ctr := 0, epoch := d.epoch, no := 0, parity := 0, gen := none }

/-- A clean line of a frame cannot be read (R450): its tray serves the access, after which the line is read into the frame anew. -/
def Dev.refill (d : Dev) (f : TierFrame) (k : Nat) : Dev :=
  let ix := k % 32768
  let d := d.onFrame f.page (fun g => { g with moved := g.moved.filter (fun i => i != ix), out := g.out ++ [ix] })
  d.onLine k (fun l => { l with queue := l.queue ++ [⟨d.tierReq f.page k .promote, d.time, [], true⟩] })

/-- A frame's line written, and dirty in a TIER WB region (R348). -/
def Dev.frameWrite (d : Dev) (f : TierFrame) (ppa : Nat) (line : List Byte) (dirty : Bool) : Dev :=
  let ix := ppa % 0x20_0000 / 64
  let d := (d.writeMem (d.frameAddr f ppa) line).lineWritten (ppa / 64)
  (d.onFrame f.page (fun g => { g with
    dirty := if dirty && !(g.dirty.any (fun x => x.1 == ix)) then g.dirty ++ [(ix, d.time)] else g.dirty })).showTier

/-- Whether a frame serves a line now: its move has taken place (R347). -/
def TierFrame.serves (f : TierFrame) (ppa : Nat) : Bool := decide (ppa % 0x20_0000 / 64 ∈ f.moved)

/-- The WR_LINE of a stored line toward a tray; engine writes of Quench, the sweep and the resync are class OPS of domain 0. -/
def storeMsg (ops : Bool) (dom ppa metaV : Nat) (chunks : List Chunk) (tc tag : Nat) : Msg :=
  if ops then opsMsg 0 tag tc 0 ppa metaV chunks else reqMsg 3 tag tc dom ppa 0 metaV chunks

/-- The dead port and the time of parking of a line whose request is parked at its turn. -/
def Line.parkedAt (l : Line) : Option (Nat × Nat) :=
  match l.busy.map Busy.wait with
  | some (.parked p since) => some (p, since)
  | _ => none

/-- The requests of a line that are parked at their turn. -/
def Line.parkedReqs (l : Line) : List HomeReq :=
  match l.busy, l.parkedAt with
  | some b, some _ => b.work.all
  | _, _ => []

/-- The requests in the park store but Quench's (R159, R160): each takes one place, however many lines of it are parked. -/
def Dev.parkKeys (d : Dev) : List (Agent × Nat × Nat) :=
  ((d.home.lines.flatMap (fun l => l.2.parkedReqs)).map HomeReq.key ++ d.home.park.map (fun q => q.req.key)).foldl addOnce []

/-- The places taken in the park store (R160). -/
def Dev.parkedNow (d : Dev) : Nat := d.parkKeys.length + d.home.parked.length

/-- The places of the park store (R160). -/
def parkPlaces : Nat := 262144

/-- DIR_STAT.PARKED_NOW follows the park store (R163). -/
def Dev.showParked (d : Dev) : Dev := d.set Reg.DIR_STAT_PARKED_NOW (min parkPlaces d.parkedNow)

/-- Whether a PPA lies in an extent that has been fenced: a request for it that would park ends with REVOKED (R432, R433). -/
def Dev.revoked (d : Dev) (ppa : Nat) : Bool := (d.extentOf ppa).any (fun e => d.extState e == 2 || d.extState e == 3)

/-- What the atomic buffer or a recall had for a line is given up with the write-back that fails. -/
def Dev.giveUp (d : Dev) (k stage : Nat) : Dev := d.when (stage == 2) (fun d => (d.setBuffer k none).setState k .inv)

/-- A line's request parks at its turn (R159): each of its requests takes its place and leaves its epoch's count (R161); one that finds
the store full ends with POISON (R160), and one of a fenced extent with REVOKED (R433). -/
def Dev.parkLine (d : Dev) (k p stage : Nat) : Dev :=
  match d.busyOf k with
  | none => d
  | some b =>
    if d.revoked (k * 64) then ((d.bumpBy Reg.REVOKED_REQ b.work.all.length).giveUp k stage).failWork k b.work 2 else
    let taken := d.parkKeys
    let fresh := b.work.all.filter (fun r => decide (r.key ∉ taken))
    let turned := fresh.drop (parkPlaces - d.parkedNow)
    let d := (d.bumpBy Reg.PARK_OVERFLOW turned.length).bumpBy Reg.PARKED_TOTAL (fresh.length - turned.length)
    match b.work.all.filter (fun r => decide (r ∉ turned)) with
    | [] => d.failWork k b.work 1
    | q :: qs =>
      let d := d.each turned (fun d r => d.failReq k r 1)
      let d := d.onBusy k (fun b => { b with
        work := { b.work with req := q, members := qs }, wait := .parked p d.time, stage := stage })
      (d.each (q :: qs) (fun d r => d.parkFlight r.who r.tag)).showParked

/-- A parked request, or one line of it, ends with a status. -/
def Dev.failParked (d : Dev) (q : ParkedReq) (status : Nat) : Dev :=
  let d := match q.line with
    | some k => d.failReq k q.req status
    | none => d.failWhole q.req status
  { d with home := { d.home with park := dropFirst (fun x => decide (x = q)) d.home.park } }

/-- A request parks before its turn (R159, R160): whole as it arrives, or one line of it taken from that line's queue. -/
def Dev.parkReq (d : Dev) (line : Option Nat) (p : Nat) (r : HomeReq) : Dev :=
  if d.revoked r.ppa then
    let d := d.bump Reg.REVOKED_REQ
    match line with
    | some k => d.failReq k r 2
    | none => d.failWhole r 2
  else
  let fresh := decide (r.key ∉ d.parkKeys)
  let full := fresh && decide (parkPlaces ≤ d.parkedNow)
  let q : ParkedReq := ⟨r, line, p, d.time⟩
  let d := { d with home := { d.home with park := d.home.park ++ [q] } }
  if full then (d.bump Reg.PARK_OVERFLOW).failParked q 1
  else ((d.when fresh (fun d => d.bump Reg.PARKED_TOTAL)).parkFlight r.who r.tag).showParked

/-- A line sent to the copies of a write; `use` says what the answers mean. -/
def Dev.sendCopies (d : Dev) (k : Nat) (copies : List (Nat × Nat)) (use : Nat → OutUse) (make : Nat → Msg) : Dev :=
  d.each copies (fun d c => d.toTray c.2 k (use c.1) make)

/-- The dead port at which a request parks (R159): also where a frame of the fast tier could serve it (R352). -/
def Dev.parksAt (d : Dev) (r : HomeReq) : Option Nat := if r.who.counted then d.deadTray r.epoch r.ppa else none

/-- Why a write of a line to a region cannot stand (R363, R370): the counter that says so. It holds for a write that a frame would
absorb too (assumption log 161). -/
def Dev.unstorable (d : Dev) (e : RtEntry) (line : List Byte) : Option RegRef :=
  if e.memside then none
  else if d.get (Reg.KEYGEN_CUR_GEN e.dom) = 0 then some Reg.NO_KEY
  else if (d.codeForm e line false).isNone then some Reg.FR_REFUSED
  else none

/-- A line on its way to one copy of it, in the form that the store engine of that copy's port gives it (R359, R364, R457). A WR_PART of a
CLEAR line goes on with its mask (R366). -/
def Dev.storeCopy (d : Dev) (k stage ix : Nat) (e : RtEntry) (r : HomeReq) (line : List Byte) (c : Nat × Nat) : Dev :=
  let ppa := k * 64
  let dom := r.trayDom e
  let use : OutUse := if stage = 2 then .flush c.1 else .write c.1
  match d.storeLine e ppa line (d.nativeFull c.2) with
  | .ok metaV chunks => (d.noteCoded c.2 ix e line).toTray c.2 k use (fun tag =>
      if r.op = .wrPart && stage == 1 && e.memside then
        reqMsg 4 tag r.tc dom ppa 0 0 (BitVec.ofNat 128 r.mask :: bytesChunks 4 line)
      else storeMsg false dom ppa metaV chunks r.tc tag)
  | _ => d

/-- A line written to the pool (R140, R343, R348, R349, R457): absorbed by its frame, or sent to its trays in stored form.
`stage` is 1 for the request's own write and 2 for a write-back that comes before the service. The result says whether the write is in the pool at once. -/
def Dev.poolWrite (d : Dev) (k stage : Nat) (line : List Byte) : Dev × Bool :=
  match d.busyOf k with
  | none => (d, false)
  | some b =>
    let r := b.work.req
    let ppa := k * 64
    let bank := d.bank r.epoch
    let d := d.onBusy k (fun b => { b with line := line, stage := stage })
    match bank.byPpa ppa, d.parksAt r with
    | none, _ => ((d.bump Reg.UNMAPPED).failWork k b.work 1, false)
    | some _, some p => (d.parkLine k p stage, false)
    | some (ix, e), none =>
      if d.tierLost (pageOf ppa) r.op then (d.failWork k b.work 1, false) else
      match d.unstorable e line with
      | some why => ((d.bump why).failWork k b.work 1, false)
      | none =>
      let same := r.op == HomeOp.clean || (stage == 2 && decide ((d.lineAt k).st = .atomic))
      let d := (d.when (!same) (fun d => d.spoilShadow e ppa)).touchPage e (pageOf ppa)
      let frame := (d.frameOf (pageOf ppa)).filter (fun f => f.serves ppa)
      let absorbed := match frame with
        | some _ => e.tier == 1 && r.op != HomeOp.clean && r.op != HomeOp.sweep && r.op != HomeOp.resync
        | none => false
      match frame, absorbed with
      | some f, true => ((d.frameWrite f ppa line true).bump Reg.FORGE_HITS, true)
      | _, _ =>
        let d := match frame with
          | some f => if r.op != HomeOp.clean && r.op != HomeOp.sweep && r.op != HomeOp.resync then d.frameWrite f ppa line false else d
          | none => d
        let (copies, dead) := d.writeRoute bank ix e ppa
        match dead with
        | some p => (d.parkLine k p stage, false)
        | none =>
          if copies = [] then ((d.bump Reg.UNMAPPED).failWork k b.work 1, false) else
          let d := (d.lineWritten k).markDegraded bank ix e ppa copies
          let left := copies.map Prod.snd
          let d := d.waitFor k (if stage = 2 then .flush left else .write left)
          (d.each copies (fun d c => d.storeCopy k stage ix e r line c), false)

/-- The memory-side atomic of a group's next member goes to the tray (R148, R150). -/
def Dev.sendMemside (d : Dev) (k p : Nat) (r : HomeReq) : Dev :=
  match r.op with
  | .atomic a =>
    let code := match a with
      | .fadd => 9 | .min => 10 | .max => 11 | .swap => 12 | .cas => 13
    let n := if r.count = 1 && a = .cas then 2 else 1
    let dom := r.dom
    ((d.spoilLine r.epoch k).waitFor k .memside).toTray p k .memside
      (fun tag => reqMsg code tag r.tc dom r.ppa r.count 0 (bytesChunks n r.data))
  | _ => d

/-- A memory-side atomic goes to its tray (R148, R150): the primary applies it (R457), or the survivor of a degraded region (R459, R460),
from which the other copy then takes the new value; with both dead it parks. -/
def Dev.memsideTo (d : Dev) (k : Nat) (r : HomeReq) : Dev :=
  match d.busyOf k, d.region r.epoch (k * 64) with
  | some b, some (ix, e) =>
    (match d.readRoute (d.bank r.epoch) ix e (k * 64) with
     | .nowhere => (d.bump Reg.UNMAPPED).failWork k b.work 1
     | .park p => d.parkLine k p 3
     | .to _ p => d.sendMemside k p r)
  | some b, none => (d.bump Reg.UNMAPPED).failWork k b.work 1
  | none, _ => d

/-- A line of the pool has been read for the request being served (R140): it is granted, merged and written back, put into the
atomic buffer, or moved. -/
def Dev.gotLine (d : Dev) (k : Nat) (line : List Byte) : Dev :=
  match d.busyOf k with
  | none => d
  | some b =>
    let r := b.work.req
    match r.op with
    | .rdShared => d.answerReads k b.work 0 1 line
    | .rdNoalloc => d.answerReads k b.work 0 0 line
    | .rdOwn =>
      let e := ((d.region r.epoch r.ppa).map Prod.snd).getD RtEntry.none
      if e.ownedWb && e.tier != 2 then d.answerReads k b.work 0 2 line
      else (d.when (!e.ownedWb || e.tier == 2) (fun d => d.bump Reg.OWN_DOWNGRADE)).answerReads k b.work 0 1 line
    | .wrPart =>
      let (d, now) := d.poolWrite k 1 (mergeBytes r.mask 0 line r.data)
      if now then d.wrote k b.work else d
    | .atomic _ => d.applyGroup k b.work line
    | .promote =>
      match d.frameOf (pageOf (k * 64)) with
      | some f =>
        let d := d.frameWrite f (k * 64) line false
        let d := d.onFrame f.page (fun g => { g with moved := addOnce g.moved (k * 64 % 0x20_0000 / 64) })
        d.wrote k b.work
      | none => d.wrote k b.work
    | _ => d.wrote k b.work

/-- RD_MEM for the line at its route, or a park at a dead tray (R105, R159). -/
def Dev.askTray (d : Dev) (k : Nat) (bank : Bank) (ix : Nat) (e : RtEntry) : Dev :=
  match d.busyOf k with
  | none => d
  | some b =>
    let ppa := k * 64
    match d.readRoute bank ix e ppa with
    | .nowhere => (d.bump Reg.UNMAPPED).failWork k b.work 1
    | .park p => d.parkLine k p 0
    | .to copy p =>
      let d := d.when (copy == 1 && d.fenced ((bank.primary e ppa).getD p)) (fun d => d.bump Reg.MIRROR_FAILOVER)
      let dom := b.work.req.trayDom e
      let tc := b.work.req.tc
      (d.waitFor k (.read (copy == 1) 0)).toTray p k (.read (copy == 1))
        (fun tag => reqMsg 8 tag tc dom ppa 0 0 [])

/-- A line read from the pool for the request being served (R140, R343, R353, R458): from its frame at once, or by RD_MEM. -/
def Dev.poolRead (d : Dev) (k : Nat) : Dev :=
  match d.busyOf k with
  | none => d
  | some b =>
    let r := b.work.req
    let ppa := k * 64
    let bank := d.bank r.epoch
    match bank.byPpa ppa with
    | none => (d.bump Reg.UNMAPPED).failWork k b.work 1
    | some (ix, e) =>
      match d.parksAt r with
      | some p => d.parkLine k p 0
      | none =>
      if !e.memside && d.get (Reg.KEYGEN_CUR_GEN e.dom) = 0 then (d.bump Reg.NO_KEY).failWork k b.work 1 else
      let d := d.touchPage e (pageOf ppa)
      let frame := (d.frameOf (pageOf ppa)).filter (fun f => f.serves ppa)
      let lineIx := ppa % 0x20_0000 / 64
      let lost := d.tierLost (pageOf ppa) r.op || (r.op != HomeOp.sweep && r.op != HomeOp.resync && decide (k ∈ d.store.badLines))
      if lost then d.failWork k b.work 1 else
      match frame, r.op with
      | _, .sweep => d.askTray k bank ix e
      | _, .resync => d.askTray k bank ix e
      | some f, .promote => (d.onFrame f.page (fun g => g)).wrote k b.work
      | some f, _ =>
        let d := d.bump Reg.FORGE_HITS
        let a := d.frameAddr f ppa
        let d := d.when (r.parity == 3 || r.parity == 4) (fun d => d.upsetWords [(a / 32, r.parity == 3)])
        (match d.readEcc a 64 with
         | (d, some line) => d.gotLine k line
         | (d, none) =>
           if f.dirty.any (fun x => x.1 == lineIx) then (d.lineLost f k).failWork k b.work 1
           else (d.refill f k).askTray k bank ix e)
      | none, _ => d.askTray k bank ix e

end Sys2Proof.Machine
end

