-- ==== Sys2Proof/Machine/HomeServe.lean ====
section
/-! DEFINITION. How a home serves a line: snoops (R133, R140, R143, R155), the table of R140, the write-back that comes before a
service, the room a new entry or an atomic needs (R132, R150), and the line's queue (R138). -/
namespace Sys2Proof.Machine

/-- The partition an access comes from (R467). -/
def Dev.srcPart (d : Dev) (r : HomeReq) : Nat :=
  match r.who with
  | .port p => d.portPart p
  | .tile _ => d.domPart r.dom
  | .grt _ => d.domPart r.dom
  | _ => 0

/-- The DOMAIN and DPA under which a requester knows a line (R102): those of the entry that maps it, live or old. -/
def Dev.lineName (d : Dev) (ppa : Nat) : Nat × Nat :=
  match d.ten.live.byPpa ppa, (d.ten.old.getD Bank.empty).byPpa ppa with
  | some (_, e), _ => (e.dom, e.toDpa ppa)
  | none, some (_, e) => (e.dom, e.toDpa ppa)
  | none, none => (0, ppa)

/-- The message of a snoop for a line, counted as sent: SNP_INV (0) or SNP_RECALL (1). -/
def Dev.snoopMsg (d : Dev) (k opcode tag : Nat) : Dev × Msg :=
  let name := d.lineName (k * 64)
  (d.bump (if opcode = 0 then Reg.SNP_INV_TX else Reg.SNP_RECALL_TX), snpMsg opcode tag (ownTc 0) name.1 name.2)

/-- One snoop for a line, under a free TAG of the T9's own space on that port (R101): it is remembered, and its message is formed; with no
TAG free it waits for one. -/
def Dev.formSnoop (d : Dev) (k opcode p : Nat) : Dev × Option Msg :=
  let used := (d.home.snoops.filter (fun s => s.1 == p)).map (fun s => s.2.1)
  let tag := freshNumber used 0 (used.length + 1)
  let d := { d with home := { d.home with snoops := d.home.snoops ++ [(p, tag, k)] } }
  if tag < tagSpace then
    let (d, m) := d.snoopMsg k opcode tag
    (d, some m)
  else (d, none)

/-- A snoop is over: the first that waits for a TAG of the port takes its own and goes out (R101). A line that is being taken back sends
recalls, any other invalidations. -/
def Dev.dropSnoop (d : Dev) (s : Nat × Nat × Nat) : Dev :=
  let d := { d with home := { d.home with snoops := dropFirst (fun x => decide (x = s)) d.home.snoops } }
  match d.home.snoops.find? (fun x => x.1 == s.1 && decide (tagSpace ≤ x.2.1)), decide (s.2.1 < tagSpace) with
  | some w, true =>
    let d := { d with home := { d.home with snoops := mapFirst (fun x => decide (x = w)) (fun x => (x.1, s.2.1, x.2.2)) d.home.snoops } }
    let opcode := match (d.busyOf w.2.2).map Busy.wait with
      | some (.acks _) => 0
      | _ => 1
    let (d, m) := d.snoopMsg w.2.2 opcode s.2.1
    d.reply (w.2.2 * 64) s.1 m (d.lineName (w.2.2 * 64)).1
  | _, _ => d

/-- Snoops for a line: of a coarse vector as one multicast (R133, R183), else one by one. -/
def Dev.sendSnoops (d : Dev) (k opcode : Nat) (ports : List Nat) : Dev :=
  let coarse := match (d.lineAt k).st with
    | .shared (.coarse _) => true
    | _ => false
  let dom := (d.lineName (k * 64)).1
  let (d, copies) := ports.foldl (fun (acc : Dev × List (Nat × Msg)) p =>
    let (d, m) := acc.1.formSnoop k opcode p
    (d, acc.2 ++ m.toList.map (fun m => (p, m)))) (d, [])
  if coarse && decide (1 < copies.length) then d.sendMulti (.slice (homeSlice (k * 64))) dom true copies
  else d.each copies (fun d c => d.reply (k * 64) c.1 c.2 dom)

/-- Of the accesses of a line's work, those whose snoops would reach a port across a partition boundary end with FENCED (R467). -/
def Dev.blockMembers (d : Dev) (k : Nat) (w : Work) (ports : List Nat) : Dev :=
  let shut := fun r => ports.any (d.partBlocks (d.srcPart r))
  let out := w.all.filter shut
  if out = [] then d else
  let d := (d.bumpBy Reg.PART_BLOCKED out.length).each out (fun d r => d.failReq k r 3)
  match w.all.filter (fun r => !shut r) with
  | [] => d.clearBusy k
  | q :: qs => d.onBusy k (fun b => { b with work := { b.work with req := q, members := qs } })

/-- Snoops for a line to every live port of a list (R154: one to a FENCED port counts as acknowledged at once), for the accesses that no
partition boundary stops (R467). The result says whether any of them still runs. -/
def Dev.snoopPorts (d : Dev) (k opcode : Nat) (ports : List Nat) (takeBack : Bool) : Dev × Bool :=
  match d.busyOf k with
  | none => (d, false)
  | some b =>
    let live := ports.filter (fun p => !d.fenced p)
    let d := d.blockMembers k b.work live
    if (d.busyOf k).isNone then (d, false) else
    let d := d.waitFor k (if takeBack then .takeBack live else .acks live)
    ((d.onBusy k (fun b => { b with told := false })).sendSnoops k opcode live, true)

/-- Whether a request, served from I, allocates an entry (R131). -/
def Dev.allocates (d : Dev) (r : HomeReq) : Bool :=
  match r.op, r.who with
  | .rdShared, .port _ => true
  | .rdOwn, .port _ => true
  | .inval, .port _ => true
  | .atomic _, _ => !((d.region r.epoch r.ppa).map (fun x => x.2.memside)).getD false
  | _, _ => false

/-- Whether a line in I is about to take an entry: a request that allocates one has found room and waits for its tray. -/
def Dev.taking (d : Dev) (l : Line) : Bool :=
  match l.st, l.busy with
  | .inv, some b => d.allocates b.work.req && (match b.wait with
    | .room _ => false
    | _ => true)
  | _, _ => false

/-- The lines other than `k` that have an entry or are about to take one (R131). -/
def Dev.entries (d : Dev) (k : Nat) : List (Nat × Line) :=
  d.home.lines.filter (fun l => l.1 != k && (decide (l.2.st ≠ .inv) || d.taking l.2))

/-- The on-die entries of a slice and its share of the backing are full for line `k` (R131, R132). -/
def Dev.dirFull (d : Dev) (slice k : Nat) : Bool :=
  let entries := d.entries k
  let here := (entries.filter (fun l => homeSlice (l.1 * 64) == slice)).length
  let spilled := sumBy (fun s => (entries.filter (fun l => homeSlice (l.1 * 64) == s)).length - 65536) (rangeFrom 0 64)
  decide (65536 ≤ here) && decide (d.get Reg.DIR_CAP_BACKING_GIB * 0x4000_0000 / 32 ≤ spilled)

/-- The least recently allocated entry of a slice (R132); with none to free, the first that is about to be taken. A line in LOST-DIRTY
has no sharer and no owner to be called back (R156): its entry stays (assumption log 151). -/
def Dev.oldestEntry (d : Dev) (slice k : Nat) : Option Nat :=
  let here := (d.entries k).filter (fun l => homeSlice (l.1 * 64) == slice && decide (l.2.st ≠ .lost))
  match here.filter (fun l => decide (l.2.st ≠ .inv)) with
  | [] => here.head?.map Prod.fst
  | e :: es => some (es.foldl (fun a b => if b.2.made < a.2.made then b else a) e).1

/-- Whether a line is being fetched into the atomic buffer (R150), or is parked on the way. -/
def Line.fetching (l : Line) : Bool :=
  match l.busy with
  | some b => (match b.work.req.op, b.wait with
    | .atomic _, .read _ _ => true
    | .atomic _, .parked _ _ => b.stage == 0
    | _, _ => false)
  | none => false

/-- The lines other than `k` that are being fetched into a slice's atomic buffer (R150). -/
def Dev.fetchesOf (d : Dev) (slice k : Nat) : List Nat :=
  (d.home.lines.filter (fun l => l.1 != k && homeSlice (l.1 * 64) == slice && l.2.fetching && (d.buffered l.1).isNone)).map Prod.fst

/-- The line that gives up its place in a slice's atomic buffer (R150): the least recently used; with none held yet, the first that is
being fetched, once its atomics have been applied. -/
def Dev.oldestAtomic (d : Dev) (slice k : Nat) : Option Nat :=
  match d.home.abuf.filter (fun a => homeSlice (a.line * 64) == slice) with
  | [] => (d.fetchesOf slice k).head?
  | a :: as => some (as.foldl (fun x y => if y.used < x.used then y else x) a).line

/-- Whether a slice's 64 buffer entries are in use for other lines than `k`, held or being fetched (R150). -/
def Dev.atomicFull (d : Dev) (slice k : Nat) : Bool :=
  decide (64 ≤ (d.home.abuf.filter (fun a => homeSlice (a.line * 64) == slice)).length + (d.fetchesOf slice k).length)

/-- A recall of a line by the home itself: `id` says why (1 mode change, 2 room in the directory, 3 room in the atomic buffer, 4 an
idle atomic, 5 a revocation, 6 a REVERT that waits its turn, 7 a directory entry lost in both copies) and `tag` what it serves. -/
def recallReq (d : Dev) (k id tag : Nat) : HomeReq :=
  { who := .takeBack id, tag := tag, op := .takeBack, dom := 0, ppa := k * 64, count := 0, first := k * 64, data := [], mask := 0,
    tc := ownTc 5, ctrKind := 0, ctr := 0, epoch := d.epoch, no := 0, parity := 0, gen := none }

/-- A request put at the end of a line's queue. -/
def Dev.queueWork (d : Dev) (k : Nat) (r : HomeReq) : Dev :=
  d.onLine k (fun l => { l with queue := l.queue ++ [⟨r, d.time, [], false⟩] })

/-- A line waits for another to be given up: the victim is recalled first of all its waiting requests. -/
def Dev.waitRoom (d : Dev) (k victim id : Nat) : Dev :=
  let d := (d.waitFor k (.room victim)).onLine victim (fun l => { l with queue := ⟨recallReq d victim id k, d.time, [], true⟩ :: l.queue })
  if id = 2 then d.set Reg.DIR_STAT_BACKING_FULL 1 else d

/-- Whether TIER RO refuses a request (R349). -/
def Dev.roRefuses (d : Dev) (r : HomeReq) : Bool :=
  r.op.writes && (((d.region r.epoch r.ppa).map (fun x => x.2.tier)).getD 0 == 2) &&
    (match r.who with
     | .port _ => true
     | .tile _ => r.dom != 0
     | .grt _ => r.dom != 0
     | _ => false)

/-- An atomic at its turn (R148, R150): applied in the buffer, fetched into it, or sent to the tray. -/
def Dev.serveAtomic (d : Dev) (k : Nat) (b : Busy) : Dev :=
  let r := b.work.req
  match d.region r.epoch (k * 64) with
  | none => (d.bump Reg.UNMAPPED).failWork k b.work 1
  | some (_, e) =>
    if e.memside then
      match b.work.ordered with
      | [] => d.clearBusy k
      | q :: qs =>
        let d := d.touchPage e (pageOf (k * 64))
        let d := d.onBusy k (fun b => { b with work := { b.work with req := q, members := qs, closed := true }, stage := 3 })
        d.memsideTo k q
    else match d.buffered k with
      | some a => d.applyGroup k b.work a.data
      | none =>
        let slice := homeSlice (k * 64)
        match d.atomicFull slice k, d.oldestAtomic slice k with
        | true, some v => d.waitRoom k v 3
        | _, _ => d.poolRead k

/-- A request served from I (R140). -/
def Dev.serveIdle (d : Dev) (k : Nat) : Dev :=
  match d.busyOf k with
  | none => d
  | some b =>
    let r := b.work.req
    let slice := homeSlice (k * 64)
    let full := d.allocates r && decide ((d.lineAt k).st = .inv) && d.dirFull slice k
    match full, d.oldestEntry slice k with
    | true, some v => d.waitRoom k v 2
    | _, _ =>
      match r.op with
      | .rdShared | .rdNoalloc | .rdOwn => d.poolRead k
      | .wrLine =>
        let (d, now) := d.poolWrite k 1 r.data
        if now then d.wrote k b.work else d
      | .wrPart =>
        if ((d.region r.epoch r.ppa).map (fun x => x.2.memside)).getD false then
          let (d, now) := d.poolWrite k 1 r.data
          if now then d.wrote k b.work else d
        else d.poolRead k
      | .wbDirty => ((d.bump Reg.SLAG_WB_NOT_OWNER).clearBusy k).endReq r 1
      | .inval =>
        let st : LineState := match r.who with
          | .port p => .held p none
          | _ => .inv
        ((d.setState k st).clearBusy k).invalDone k r 0
      | .evict => d.wrote k b.work
      | .atomic _ => d.serveAtomic k b
      | .sweep | .resync | .promote => d.poolRead k
      | .clean =>
        match d.frameOf (pageOf (k * 64)) with
        | some f =>
          let ix := k * 64 % 0x20_0000 / 64
          let gone := fun (d : Dev) =>
            (((d.onFrame f.page (fun g => { g with dirty := g.dirty.filter (fun x => x.1 != ix) })).showTier).clearBusy k).endReq r 0
          if k ∈ d.store.badLines then gone d
          else if !f.dirty.any (fun x => x.1 == ix) then (d.clearBusy k).endReq r 0 else
          let d := match d.region r.epoch r.ppa with
            | some (_, e) => d.touchPage e (pageOf r.ppa)
            | none => d
          (match d.readEcc (d.frameAddr f (k * 64)) 64 with
           | (d, none) => gone (d.lineLost f k)
           | (d, some line) =>
             let (d, now) := d.poolWrite k 1 line
             if now then d.wrote k b.work else d)
        | none => (d.clearBusy k).endReq r 0
      | .takeBack => (d.when (decide (r.who = .takeBack 2) && r.count == 1) (fun d => d.bump Reg.BACK_INVAL)).wrote k b.work

/-- A request on a line in LOST-DIRTY (R156): reads, atomics and partial writes get POISON, a WR_LINE writes, an INVAL grants no
hold. The T9's own moves act on the pool copy (R373). -/
def Dev.serveLost (d : Dev) (k : Nat) (b : Busy) : Dev :=
  let r := b.work.req
  match r.op with
  | .rdShared | .rdNoalloc | .rdOwn | .wrPart | .atomic _ =>
    (d.bumpBy Reg.LOST_DIRTY_POISON (1 + b.work.members.length)).failWork k b.work 1
  | .inval => (d.clearBusy k).invalDone k r 0
  | .evict => (d.clearBusy k).endReq r 0
  | .takeBack => (d.clearBusy k).endReq r 0
  | .wrLine => d.serveIdle k
  | .wbDirty => ((d.bump Reg.SLAG_WB_NOT_OWNER).clearBusy k).endReq r 1
  | .sweep | .resync | .promote | .clean => d.serveIdle k

/-- The home's buffer or a recalled line is in the pool: the line is in I, and the request is served from there (R140). -/
def Dev.flushed (d : Dev) (k : Nat) : Dev :=
  let d := ((d.setBuffer k none).setState k .inv).onBusy k (fun b => { b with stage := 0, line := [] })
  d.serveIdle k

/-- The line is written to the pool before its request is served (R140). -/
def Dev.flushFirst (d : Dev) (k : Nat) (line : List Byte) : Dev :=
  let (d, now) := d.poolWrite k 2 line
  if now then d.flushed k else d

/-- A WB_DIRTY that crosses the recall of its line (R143): the data is written at once and CMP sent, with the line BUSY. The request that
recalled the line goes on when the snoop has been answered and the data is in the pool. -/
def Dev.sinkBack (d : Dev) (k : Nat) (ports : List Nat) (r : HomeReq) : Dev :=
  match d.busyOf k with
  | none => d
  | some b =>
    let (d, now) := (d.setState k .inv).poolWrite k 2 r.data
    let d := d.onBusy k (fun x => { x with since := b.since })
    match now, (d.busyOf k).map Busy.wait with
    | true, _ => ((d.onBusy k (fun b => { b with wait := .takeBack ports, stage := 0, line := [] })).countWrite r).endReq r 0
    | false, some (.flush left) => ((d.onBusy k (fun b => { b with wait := .crossed ports left })).countWrite r).endReq r 0
    | false, some (.parked _ _) => (d.countWrite r).endReq r 0
    | _, _ => d.endReq r 1

/-- Whether a request is the WB_DIRTY of a port from which its line is being recalled (R143): the owner's, or, where the entry was lost
(R449), that of any port the recall went to. -/
def crosses (st : LineState) (ports : List Nat) (r : HomeReq) : Bool :=
  match r.op, r.who with
  | .wbDirty, .port p => decide (p ∈ ports) && (decide (st = .owned p) || decide (st = .inv))
  | _, _ => false

/-- The crossing WB_DIRTY of a recalled line that has arrived before the recall went out, and waits behind what the line does (R143) or in
the park store. -/
def Dev.pullCrossing (d : Dev) (k : Nat) (ports : List Nat) : Dev :=
  let l := d.lineAt k
  match l.queue.find? (fun w => crosses l.st ports w.req),
      d.home.park.find? (fun q => q.req.ppa / 64 == k && crosses l.st ports q.req) with
  | some w, _ => (d.onLine k (fun l => { l with queue := dropFirst (fun x => decide (x = w)) l.queue })).sinkBack k ports w.req
  | none, some q =>
    let d := { d with home := { d.home with park := dropFirst (fun x => decide (x = q)) d.home.park } }
    ((d.unparkFlight q.req.who q.req.tag).sinkBack k ports q.req).showParked
  | none, none => d

/-- Every snoop of a line has been answered (R140): a line that came back dirty is written first. -/
def Dev.snooped (d : Dev) (k : Nat) : Dev :=
  match d.busyOf k with
  | none => d
  | some b =>
    if b.stage = 2 then d.flushFirst k b.line
    else if (d.lineAt k).st = .lost then d.serveLost k b
    else (d.setState k .inv).serveIdle k

/-- Snoops sent, or the service at once when none is needed. -/
def Dev.snoopThen (d : Dev) (k opcode : Nat) (ports : List Nat) (takeBack : Bool) : Dev :=
  let (d, on) := d.snoopPorts k opcode ports takeBack
  match on, d.busyOf k with
  | true, some b =>
    if b.wait = .acks [] || b.wait = .takeBack [] then d.snooped k
    else if takeBack then d.pullCrossing k ports else d
  | _, _ => d

/-- A request on a line in S (R140). -/
def Dev.serveShared (d : Dev) (k : Nat) (b : Busy) (s : Sharers) : Dev :=
  let r := b.work.req
  let issuer := fun p => decide (r.who = .port p)
  let others := (d.sharerPorts s).filter (fun p => !issuer p)
  match r.op with
  | .rdShared | .rdNoalloc => d.poolRead k
  | .rdOwn =>
    let e := ((d.region r.epoch (k * 64)).map Prod.snd).getD RtEntry.none
    if e.ownedWb && e.tier != 2 then d.snoopThen k 0 others false else d.poolRead k
  | .inval => d.snoopThen k 0 others false
  | .wrLine | .wrPart => (d.bump Reg.UNHELD_WRITE).snoopThen k 0 others false
  | .atomic _ => d.snoopThen k 0 (d.sharerPorts s) false
  | .takeBack => d.snoopThen k 0 (d.sharerPorts s) false
  | .wbDirty => ((d.bump Reg.SLAG_WB_NOT_OWNER).clearBusy k).endReq r 1
  | .evict =>
    let d := match s, r.who with
      | .exact ps, .port p =>
        let left := ps.filter (fun q => q != p)
        if decide (p ∈ ps) then d.setState k (if left = [] then .inv else .shared (.exact left)) else d
      | _, _ => d
    (d.clearBusy k).endReq r 0
  | .sweep | .resync | .promote | .clean => d.serveIdle k

/-- A request on a line in ATOMIC (R140, R144, R373); the buffered line of a domain without a key is not read (R370). -/
def Dev.serveBuffered (d : Dev) (k : Nat) (b : Busy) : Dev :=
  let r := b.work.req
  let line := ((d.buffered k).map AtomicLine.data).getD []
  let noKey := match d.region r.epoch r.ppa with
    | some (_, e) => !e.memside && d.get (Reg.KEYGEN_CUR_GEN e.dom) == 0
    | none => false
  match r.op with
  | .rdNoalloc => if noKey then (d.bump Reg.NO_KEY).failWork k b.work 1 else d.answerReads k b.work 0 0 line
  | .atomic _ => if noKey then (d.bump Reg.NO_KEY).failWork k b.work 1 else d.serveAtomic k b
  | .rdShared | .rdOwn | .wrLine | .wrPart | .inval | .takeBack => d.flushFirst k line
  | .wbDirty => ((d.bump Reg.SLAG_WB_NOT_OWNER).clearBusy k).endReq r 1
  | .evict | .sweep => (d.clearBusy k).endReq r 0
  | .resync | .promote | .clean => d.serveIdle k

/-- A request on a line in O (R140, R143, R373). -/
def Dev.serveOwned (d : Dev) (k : Nat) (b : Busy) (p : Nat) : Dev :=
  let r := b.work.req
  match r.op, decide (r.who = .port p) with
  | .wbDirty, true =>
    let (d, now) := d.poolWrite k 1 r.data
    if now then d.wrote k b.work else d
  | .wbDirty, false => ((d.bump Reg.SLAG_WB_NOT_OWNER).clearBusy k).endReq r 1
  | .evict, true => d.wrote k b.work
  | .evict, false => (d.clearBusy k).endReq r 0
  | .sweep, _ => (d.clearBusy k).endReq r 0
  | .resync, _ | .clean, _ => d.serveIdle k
  | _, _ => d.snoopThen k 1 [p] true

/-- A line's request comes to its turn (R138, R140); the recall that frees an entry to make room notes that there is one, and counts when it
is freed (R132); a REVERT that waited its turn takes the
line out of LOST-DIRTY (R157). A directory entry lost in both copies is recalled from every requester port
first (R449). -/
def Dev.serve (d : Dev) (k : Nat) : Dev :=
  match d.busyOf k with
  | none => d
  | some b =>
    let r := b.work.req
    if d.roRefuses r then (d.bumpBy Reg.RO_WRITE_REFUSED (1 + b.work.members.length)).failWork k b.work 1
    else if r.parity = 2 then
      let d := (d.bump Reg.STATE_UNCORR).post [0] 0x27 [(Config.areaCode 0).toNat, k * 64]
      let d := d.onBusy k (fun b => { b with work := { b.work with req := { r with parity := 0 } } })
      (d.setState k .inv).snoopThen k 1 ((rangeFrom 0 512).filter (fun p => d.isRole p 0)) true
    else if r.who = .takeBack 6 then
      ((if (d.lineAt k).st = .lost then d.setState k .inv else d).clearBusy k).endReq r 0
    else
      let st := (d.lineAt k).st
      let frees := r.who = .takeBack 2 && st ≠ .inv && st ≠ .lost
      let d := d.when frees (fun d => d.onBusy k (fun b => { b with work := { b.work with req := { r with count := 1 } } }))
      let b := (d.busyOf k).getD b
      match st with
      | .inv => d.serveIdle k
      | .shared s => d.serveShared k b s
      | .held p _ => if isHolder p r then d.serveIdle k else
          (match r.op with
           | .sweep | .resync | .promote | .clean => d.serveIdle k
           | _ => d)
      | .owned p => if d.fenced p then ((d.bump Reg.LOST_DIRTY_LINES).setState k .lost).serveLost k b else d.serveOwned k b p
      | .atomic => d.serveBuffered k b
      | .lost => d.serveLost k b

/-- The next request of a line: its queue's first, or, on a HELD line, the holder's write or EVICT (R138, R140). -/
def Dev.nextWork (d : Dev) (k : Nat) : Option (Work × List Work) :=
  let l := d.lineAt k
  match l.st with
  | .held p _ => takeFirst (fun w => isHolder p w.req) l.queue
  | _ => match l.queue with
    | [] => none
    | w :: ws => some (w, ws)

/-- Whether a state is HELD. -/
def isHold : LineState → Bool
  | .held _ _ => true
  | _ => false

/-- Whether recalls of a kind are still under way. -/
def Dev.recalling (d : Dev) (id : Nat) (tag : Option Nat) : Bool :=
  let mine := fun (w : Work) => decide (w.req.who = .takeBack id) && (tag.isNone || tag == some w.req.tag)
  d.home.lines.any (fun l => (match l.2.busy with
    | some b => mine b.work
    | none => false) || l.2.queue.any mine)

/-- Whether a request waits at its home because its region's mode is being changed (R136): every request but the recalls, and but the
writes that end a hold. -/
def Dev.modeHolds (d : Dev) (k : Nat) (w : Work) : Bool :=
  d.flag Reg.DIR_STAT_MODE_CHANGE_BUSY && w.req.op != .takeBack && !(isHold (d.lineAt k).st) &&
  (match d.ten.live.byPpa (k * 64) with
    | some x => d.recalling 1 (some x.1)
    | none => false)

/-- Requests of a line served until one has to wait; one that waits for a victim's room sets the victim's recall going (R132, R150). -/
def Dev.pump (d : Dev) (k : Nat) : Nat → Dev
  | 0 => d
  | n + 1 =>
    match d.busyOf k, d.nextWork k with
    | none, some (w, rest) =>
      if d.modeHolds k w then d else
      let d := d.onLine k (fun l => { l with queue := rest, busy := some ⟨w, .acks [], d.time, [], false, 0, 0⟩ })
      (d.serve k).pump k n
    | some b, _ => (match b.wait with
      | .room v => if (d.busyOf v).isNone then d.pump v n else d
      | _ => d)
    | none, none => d

/-- A line whose request has gone serves the next ones. -/
def Dev.pumpLine (d : Dev) (k : Nat) : Dev := d.pump k ((d.lineAt k).queue.length + 3)

/-- The requests that waited for region `ix` to change its mode go on once the last copy has been recalled (R136). -/
def Dev.modeChanged (d : Dev) (ix : Nat) : Dev :=
  if d.recalling 1 (some ix) then d else
  let waiting := d.home.lines.filter (fun l => l.2.queue != [] && ((d.ten.live.byPpa (l.1 * 64)).map Prod.fst) == some ix)
  d.each (waiting.map Prod.fst) Dev.pumpLine

/-- A line that waits for a victim's room tries again, once the victim has been given up. BACKING_FULL is 1 while a recall makes room in the
directory (R132, R163). -/
def Dev.roomMade (d : Dev) (k : Nat) : Dev :=
  let d := match d.busyOf k with
    | some b => (match b.wait with
      | .room _ => (d.waitFor k (.acks [])).serve k
      | _ => d)
    | none => d
  let d := d.pumpLine k
  d.set Reg.DIR_STAT_BACKING_FULL (if d.recalling 2 none then 1 else 0)

end Sys2Proof.Machine
end

