-- ==== Sys2Proof/Machine/HomeAnswer.lean ====
section
/-! DEFINITION. What reaches a home: requests (R138, R151, R152), the answers of requesters (R140, R142, R143) and of trays (R105,
R121, R368, R457, R458), its timers (R141, R142, R150, R161), REVERT (R157), and the loss of a port (R154, R155, R159, R459). -/
namespace Sys2Proof.Machine

/-- The combining window in ns (R163); 0 turns combining off. -/
def Dev.combineWin (d : Dev) : Nat := min 10000 (d.get Reg.DIR_CTL_COMBINE_WIN_NS)

/-- Whether an open group of a line takes a request as a further member (R151, R152). -/
def Dev.joins (d : Dev) (r : HomeReq) (w : Work) : Bool :=
  let open_ := !w.closed && d.combineWin != 0 && decide (d.time < w.opened + d.combineWin)
  open_ && (match r.op, w.req.op with
    | .rdShared, .rdShared => r.first == w.req.first && r.count == w.req.count
    | .rdNoalloc, .rdNoalloc => r.first == w.req.first && r.count == w.req.count
    | .atomic _, .atomic _ => r.ppa == w.req.ppa && r.count == w.req.count
    | _, _ => false)

/-- Whether a line has an open group for a request. -/
def Dev.groupOpen (d : Dev) (k : Nat) (r : HomeReq) : Bool :=
  let l := d.lineAt k
  (match l.busy with
   | some b => d.joins r b.work
   | none => false) || l.queue.any (d.joins r)

/-- A request joins the open group of a line. -/
def Dev.joinGroup (d : Dev) (k : Nat) (r : HomeReq) : Dev :=
  let add := fun (w : Work) => { w with members := w.members ++ [r] }
  d.onLine k (fun l => match l.busy with
    | some b => if d.joins r b.work then { l with busy := some { b with work := add b.work } }
        else { l with queue := mapFirst (d.joins r) add l.queue }
    | none => { l with queue := mapFirst (d.joins r) add l.queue })

/-- The ports of the recall that a WB_DIRTY crosses on its line (R143). -/
def Dev.crossedPorts (d : Dev) (k : Nat) (r : HomeReq) : Option (List Nat) :=
  match (d.busyOf k).map Busy.wait with
  | some (.takeBack ports) => if crosses (d.lineAt k).st ports r then some ports else none
  | _ => none

/-- The holder's write of a line whose hold has reached its limit comes late (R141, R468); its next INVAL or EVICT begins anew. -/
def Dev.lateHold (d : Dev) (k : Nat) (r : HomeReq) : Dev :=
  match r.who, r.op with
  | .port p, .wrLine | .port p, .wrPart | .port p, .evict | .port p, .inval =>
    if (k, p) ∈ d.home.lateHolds then
      let d := d.when (r.op == .wrLine || r.op == .wrPart) (fun d => d.bump Reg.LATE_ITEMS)
      { d with home := { d.home with lateHolds := d.home.lateHolds.filter (fun x => x != (k, p)) } }
    else d
  | _, _ => d

/-- One line of a request joins its group or its line's queue, and is served when its turn has come (R138). -/
def Dev.arriveLine (d : Dev) (k : Nat) (join : Bool) (r : HomeReq) : Dev :=
  let d := d.lateHold k r
  match d.crossedPorts k r with
  | some ports => (d.sinkBack k ports r).pumpLine k
  | none => if join then d.joinGroup k r else (d.queueWork k r).pumpLine k

/-- The lines of a request, each as a request of its own (R103). -/
def HomeReq.lines (r : HomeReq) : List (Nat × HomeReq) :=
  match r.op with
  | .rdShared | .rdNoalloc | .rdOwn | .inval =>
    let base := r.ppa / 64
    (rangeFrom 0 (r.count + 1)).map (fun i => (base + i, { r with ppa := (base + i) * 64, first := base * 64 }))
  | _ => [(r.ppa / 64, r)]

/-- A request's lines go to their queues (R103, R138, R151, R152). -/
def Dev.lineUp (d : Dev) (r : HomeReq) : Dev :=
  let lines := r.lines
  let join := lines.all (fun x => d.groupOpen x.1 x.2)
  let d := match r.op, r.who with
    | .inval, .port p =>
      let ks := lines.map Prod.fst
      let wait : InvalWait := ⟨p, r.tag, ks, ks, r, 0⟩
      { d with home := { d.home with invals := d.home.invals ++ [wait] } }
    | _, _ => d
  d.each lines (fun d x => d.arriveLine x.1 join x.2)

/-- Whether the entry of a line lies in the backing (R131): its slice has filled its 65,536 on die with older ones. -/
def Dev.spilled (d : Dev) (k : Nat) : Bool :=
  let slice := homeSlice (k * 64)
  let mine := d.home.lines.filter (fun l => decide (l.2.st ≠ .inv) && homeSlice (l.1 * 64) == slice)
  decide (65536 < mine.length) && decide (65536 ≤ (mine.filter (fun l => decide (l.2.made < (d.lineAt k).made))).length)

/-- The lookup of a line's entry reads the backing where the entry has spilled there (R131, R450). Its place is a free value (assumption
log 183). -/
def Dev.dirLook (d : Dev) (k : Nat) : Dev :=
  if (d.lineAt k).st = .inv || !(d.spilled k) then d
  else d.backRead (d.areaBase 1 + 32 * ((Config.dirPlace k).toNat % max 1 (d.areaSize 1 / 32)))

/-- A request reaches its home (R130, R138), or parks there when the tray of its lines is dead (R159); a WB_DIRTY that crosses the recall
of its line is sunk all the same (R143). A state-table word that fails parity in one copy is taken from the second (R449); a
range-table entry lost in both copies reads as INVALID. -/
def Dev.homeArrive (d : Dev) (r : HomeReq) : Dev :=
  let epoch := match d.ten.flight.find? (fun f => f.isOf r.who r.tag && f.no == r.no) with
    | some f => if 65536 ≤ f.epoch then d.epoch else f.epoch
    | none => d.epoch
  let d := d.when (r.parity == 1) (fun d => d.bump Reg.STATE_CORRECTED)
  let d := if r.parity = 5 then
      let d := (d.bump Reg.STATE_UNCORR).post [0] 0x27 [(Config.areaCode 1).toNat, r.ppa]
      { d with ten := { d.ten with live := { d.ten.live with rt := d.ten.live.rt.filter (fun e => !e.2.holdsPpa (pageOf r.ppa)) } } }
    else d
  let r := { r with epoch := epoch }
  let d := d.each (r.lines.map Prod.fst) Dev.dirLook
  match d.parksAt r with
  | some p => if (d.crossedPorts (r.ppa / 64) r).isSome then d.lineUp r else d.parkReq none p r
  | none => d.lineUp r

/-- A request of an engine as the REQ that its frame carries (R102, R104). -/
def askMsg (r : HomeReq) : Msg :=
  let send := fun (op : Nat) (data : List Chunk) => reqMsg op (r.tag % tagSpace) r.tc r.dom r.ppa 0 0 data
  match r.op with
  | .wrLine => send 3 (bytesChunks 4 r.data)
  | .wrPart => send 4 (BitVec.ofNat 128 r.mask :: bytesChunks 4 r.data)
  | .clean => send 3 (bytesChunks 4 r.data)
  | _ => send 1 []

/-- A request of an engine of the T9, admitted if it counts (R418, R419), crosses to its home (R165, R567). -/
def Dev.askHome (d : Dev) (r : HomeReq) : Dev :=
  let d := d.admitFlight r.who r.tag r.ppa r.op.writes
  d.sendInner (d.agentAt r) (.slice (homeSlice r.ppa)) (askMsg r) r.dom (.ask (d.numbered r))

/-- The snoop that an answer names. -/
def Dev.snoopOf (d : Dev) (p tag : Nat) : Option (Nat × Nat × Nat) := d.home.snoops.find? (fun s => s.1 == p && s.2.1 == tag)

/-- A T9 request to a tray sent again under its TAG (R121). -/
def Dev.resend (d : Dev) (o : Out) (m : Msg) : Dev :=
  let o' : Out := { o with msg := m, tries := o.tries + 1 }
  let d := { d with home := { d.home with outs := d.home.outs.map (fun x => if x = o then o' else x) } }
  d.sendMsg (.slice (homeSlice (o.line * 64))) o.port m m.domain

/-- The read of a line fails for its request; the T9's own moves end with the status. -/
def Dev.readFailed (d : Dev) (k status : Nat) : Dev :=
  match d.busyOf k with
  | none => d
  | some b => (d.failWork k b.work status).pumpLine k

/-- A read sent to one copy of a line (R458, R368). -/
def Dev.readCopy (d : Dev) (k p : Nat) (mirror : Bool) (tries : Nat) : Dev :=
  match d.busyOf k with
  | none => d
  | some b =>
    let r := b.work.req
    let dom := match d.region r.epoch (k * 64) with
      | some (_, e) => r.trayDom e
      | none => 0
    (d.waitFor k (.read mirror tries)).toTray p k (.read mirror)
      (fun tag => reqMsg 8 tag r.tc dom (k * 64) 0 0 [])

/-- Failover of a failed read of the primary to the mirror copy of its line (R458), where that copy is live and not out of date; none
otherwise. -/
def Dev.failover (d : Dev) (k ix : Nat) (e : RtEntry) (mirror : Bool) : Option Dev :=
  match d.busyOf k with
  | none => none
  | some b =>
    match (d.bank b.work.req.epoch).mirrorPort e (k * 64) with
    | some p1 => if mirror || d.fenced p1 || d.staleCopy ix (k * 64) 1 p1 then none
        else some ((d.bump Reg.MIRROR_FAILOVER).readCopy k p1 true 0)
    | none => none

/-- A Quench write of a moved line to copies of it (R373, R460), one more access of its page (R345): class OPS, domain 0, stored form
unchanged. -/
def Dev.moveLine (d : Dev) (k : Nat) (e : RtEntry) (metaV : Nat) (chunks : List Chunk) (copies : List (Nat × Nat)) : Dev :=
  let tc := d.get Reg.BELLOWS_CTL_QUENCH_TC
  let d := (d.touchPage e (pageOf (k * 64))).onBusy k (fun b => { b with stage := 1 })
  (d.waitFor k (.write (copies.map Prod.snd))).sendCopies k copies .write
    (fun tag => storeMsg true 0 (k * 64) metaV chunks tc tag)

/-- A line read by the key sweep (R373): rewritten under CUR if it stands under PREV. -/
def Dev.sweepRead (d : Dev) (k : Nat) (e : RtEntry) (ix metaV gen : Nat) (chunks : List Chunk) : Dev :=
  match d.busyOf k with
  | none => d
  | some b =>
    if metaV != 0 && gen == d.get (Reg.KEYGEN_PREV_GEN e.dom) && d.flag (Reg.KEYGEN_PREV_LIVE e.dom) then
      let bank := d.bank b.work.req.epoch
      let (copies, dead) := d.writeRoute bank ix e (k * 64)
      match dead with
      | some p => d.parkLine k p 0
      | none => (d.markDegraded bank ix e (k * 64) copies).moveLine k e metaV (d.rekeyLine e.dom (k * 64) metaV chunks) copies
    else d.wrote k b.work

/-- A line read by the resync (R460): written as it is stored to the copy that comes back. -/
def Dev.resyncRead (d : Dev) (k : Nat) (e : RtEntry) (metaV : Nat) (chunks : List Chunk) : Dev :=
  match d.busyOf k with
  | none => d
  | some b => d.moveLine k e metaV chunks [(b.work.req.count, b.work.req.mask)]

/-- DATA from a tray for a line (R105, R368, R371, R458). -/
def Dev.trayLine (d : Dev) (o : Out) (mirror : Bool) (m : Msg) : Dev :=
  let k := o.line
  match d.busyOf k with
  | none => d
  | some b =>
    match b.wait with
    | .read _ tries =>
      (match d.region b.work.req.epoch (k * 64) with
       | none => (d.bump Reg.UNMAPPED).readFailed k 1
       | some (ix, e) =>
         if m.status != 0 then
           let d := d.when (m.status == 1) (fun d => d.bump Reg.TRAY_REFUSED)
           (match if m.status = 1 then d.failover k ix e mirror else none with
            | some d => d
            | none => d.readFailed k m.status)
         else if b.work.req.op = .resync then d.resyncRead k e m.metaBits m.data
         else match d.loadLine e.dom (k * 64) m.metaBits m.data with
          | .ok line gen =>
            if b.work.req.op = .sweep then (d.sweepRead k e ix m.metaBits gen m.data).pumpLine k
            else (d.gotLine k line).pumpLine k
          | .unknown => (d.bump Reg.GEN_UNKNOWN).readFailed k 1
          | .failed =>
            let d := (d.bump Reg.CHECK_FAIL).temperEvent 5 o.port
            if tries = 0 then d.readCopy k o.port mirror 1
            else match d.failover k ix e mirror with
              | some d => d
              | none => (d.bump Reg.CHECK_POISON).readFailed k 1)
    | _ => d

/-- DAT DATA arrives from a tray (R105). A parity failure in the core has it read again, and the fourth ends in POISON (R121). -/
def Dev.trayData (d : Dev) (p : Nat) (m : Msg) (par : Bool) : Dev :=
  match d.outOf p m.tag with
  | none => d
  | some o =>
    match o.use with
    | .read mirror =>
      if par then
        let d := d.bump (Reg.E2E_REPLAY p)
        if o.tries < 3 then d.resend o o.msg else (d.dropOut o).readFailed o.line 1
      else (d.dropOut o).trayLine o mirror m
    | _ => d

/-- A memory-side atomic's member is answered, and the next goes to the tray (R150, R152). -/
def Dev.memsideNext (d : Dev) (k status : Nat) (old : List Byte) : Dev :=
  match d.busyOf k with
  | none => d
  | some b =>
    let d := d.answerAtomic b.work.req status old
    match b.work.members with
    | [] => ((d.clearBusy k).setState k .inv).pumpLine k
    | q :: qs =>
      let d := (d.bump Reg.COMBINED_ATOMICS).onBusy k (fun b => { b with
        work := { b.work with req := q, members := qs }, line := [], stage := 3, code := 0 })
      (d.memsideTo k q).pumpLine k

/-- A memory-side atomic's old value is back from port `p` (R150); on a mirrored line its new value is written to the other copy first
(R457), or the page is marked while that copy is dead (R459). -/
def Dev.memsideDone (d : Dev) (k p : Nat) (old : List Byte) : Dev :=
  match d.busyOf k with
  | none => d
  | some b =>
    let r := b.work.req
    match d.region r.epoch (k * 64), r.op with
    | some (ix, e), .atomic a =>
      let bank := d.bank r.epoch
      match if e.mirror then ([(0, bank.primary e (k * 64)), (1, bank.mirrorPort e (k * 64))].find? (fun x => decide (x.2 ≠ some p))) else none with
      | none | some (_, none) => d.memsideNext k 0 old
      | some (c, some p1) =>
      if d.fenced p1 then (d.markDegraded bank ix e (k * 64) [(1 - c, p)]).memsideNext k 0 old else
      let n := r.width
      let v := atomicValue a n (fieldBytes old 0 n) (fieldBytes r.data 0 n) (fieldBytes r.data n n)
      let off := r.ppa % 64
      let mask := (2 ^ n - 1) * 2 ^ off
      let line := List.replicate off 0#8 ++ natBytes n v ++ List.replicate (64 - off - n) 0#8
      let dom := r.trayDom e
      let d := (d.touchPage e (pageOf (k * 64))).onBusy k (fun b => { b with line := old, stage := 4 })
      (d.waitFor k (.write [p1])).toTray p1 k (.write c)
        (fun tag => reqMsg 4 tag r.tc dom (k * 64) 0 0 (BitVec.ofNat 128 mask :: bytesChunks 4 line))
    | _, _ => d.memsideNext k 0 old

/-- DAT ATOMIC_RET arrives from a tray (R120, R121, R150). -/
def Dev.trayAtomic (d : Dev) (p : Nat) (m : Msg) (par : Bool) : Dev :=
  match d.outOf p m.tag with
  | none => d
  | some o =>
    match o.use with
    | .memside =>
      if par then
        let d := d.bump (Reg.E2E_REPLAY p)
        if o.tries < 3 then d.resend o { o.msg with hdr := o.msg.hdr ||| (1#128 <<< 29) } else (d.dropOut o).memsideNext o.line 1 []
      else if m.status != 0 then
        ((d.dropOut o).when (m.status == 1) (fun d => d.bump Reg.TRAY_REFUSED)).memsideNext o.line m.status []
      else (d.dropOut o).memsideDone o.line p (chunksBytes (m.data.take 1))
    | _ => d

/-- A line's request ends with a status where it stands; what was to be written back before its service is lost. -/
def Dev.dropLine (d : Dev) (k status : Nat) : Dev := (d.giveUp k (((d.busyOf k).map Busy.stage).getD 0)).readFailed k status

/-- Every copy of a write is answered (R140, R457): with the codes of the copies combined (R19). -/
def Dev.copiesDone (d : Dev) (k : Nat) : Dev :=
  match d.busyOf k with
  | none => d
  | some b =>
    if b.stage = 4 then d.memsideNext k b.code (if b.code = 0 then b.line else [])
    else if b.code != 0 then d.dropLine k b.code
    else if b.stage = 2 then (d.flushed k).pumpLine k
    else (d.wrote k b.work).pumpLine k

/-- One copy of a write is answered, or its port is dead; `status` is the tray's. -/
def Dev.copyDone (d : Dev) (k p status : Nat) : Dev :=
  match d.busyOf k with
  | none => d
  | some b =>
    let (wait, over_) : Wait × Bool := match b.wait with
      | .write left => (.write (left.filter (fun q => q != p)), left.filter (fun q => q != p) == [])
      | .flush left => (.flush (left.filter (fun q => q != p)), left.filter (fun q => q != p) == [])
      | .crossed ports left => (.crossed ports (left.filter (fun q => q != p)), ports == [] && left.filter (fun q => q != p) == [])
      | w => (w, false)
    let d := d.onBusy k (fun b => { b with wait := wait, code := worse b.code status })
    if over_ then d.copiesDone k else d

/-- A port's answer leaves a line's wait; with the last, the service goes on. -/
def Dev.portAnswered (d : Dev) (k p : Nat) : Dev :=
  match d.busyOf k with
  | none => d
  | some b =>
    match b.wait with
    | .acks ps =>
      let left := ps.filter (fun q => q != p)
      let d := d.onBusy k (fun b => { b with wait := .acks left })
      if left = [] && decide (p ∈ ps) then (d.snooped k).pumpLine k else d
    | .takeBack ps =>
      let left := ps.filter (fun q => q != p)
      let d := d.onBusy k (fun b => { b with wait := .takeBack left })
      if left = [] && decide (p ∈ ps) then (d.snooped k).pumpLine k else d
    | .crossed ps copies =>
      let left := ps.filter (fun q => q != p)
      let d := d.onBusy k (fun b => { b with wait := .crossed left copies })
      if left = [] && copies = [] then d.copiesDone k else d
    | _ => d

/-- SNP_ACK (R134, R140). -/
def Dev.snpAck (d : Dev) (p tag : Nat) : Dev :=
  match d.snoopOf p tag with
  | none => d
  | some s =>
    (d.dropSnoop s).portAnswered s.2.2 p

/-- SNP_DATA (R140): the modified line is written to the pool before the request is served. The spec does not say what the home does with
the data of one whose STATUS is not OK; the model writes it all the same (assumption log 177). -/
def Dev.snpData (d : Dev) (p : Nat) (m : Msg) : Dev :=
  match d.snoopOf p m.tag with
  | none => d
  | some s =>
    let d := d.dropSnoop s
    let take := fun (b : Busy) => match b.wait with
      | .acks _ | .takeBack _ => { b with line := chunksBytes m.data, stage := 2 }
      | _ => b
    (d.onBusy s.2.2 take).portAnswered s.2.2 p

/-- RSP CMP arrives from a tray for a home's message (R105, R140): a write's answer, or the end of a read or an atomic. -/
def Dev.trayCmp (d : Dev) (o : Out) (m : Msg) : Dev :=
  let d := (d.dropOut o).when (m.status == 1) (fun d => d.bump Reg.TRAY_REFUSED)
  match o.use with
  | .write _ | .flush _ => d.copyDone o.line o.port m.status
  | .read mirror =>
    if m.status = 0 then d.readFailed o.line 1 else
    match (d.busyOf o.line).bind (fun b => d.region b.work.req.epoch (o.line * 64)) with
    | some (ix, e) => (match if m.status = 1 then d.failover o.line ix e mirror else none with
      | some d => d
      | none => d.readFailed o.line m.status)
    | none => d.readFailed o.line m.status
  | .memside => d.memsideNext o.line (if m.status = 0 then 1 else m.status) []
  | .fill _ => d

/-- The INVAL hold of a line has reached its limit (R141); the holder's write, should it still come, is late (R468). -/
def Dev.holdExpired (d : Dev) (k : Nat) : Dev :=
  match (d.lineAt k).st with
  | .held p (some since) =>
    if (d.busyOf k).isNone && decide (since + max 100 (d.get Reg.DIR_CTL_HOLD_LIMIT_NS) ≤ d.time) then
      let d := { d with home := { d.home with lateHolds := addOnce d.home.lateHolds (k, p) } }
      ((d.bump Reg.HOLD_EXPIRED).setState k .inv).pumpLine k
    else d
  | _ => d

/-- A snoop answer is overdue (R142): counted and reported once; the home keeps waiting. -/
def Dev.snoopLate (d : Dev) (k : Nat) : Dev :=
  match d.busyOf k with
  | none => d
  | some b =>
    let ports := match b.wait with
      | .acks ps => ps
      | .takeBack ps => ps
      | .crossed ps _ => ps
      | _ => []
    if ports = [] || b.told || decide (d.time < b.since + max 1 (d.get Reg.DIR_CTL_SNP_TIMEOUT_US) * 1000) then d
    else (d.onBusy k (fun b => { b with told := true })).each ports (fun d p => (d.bump Reg.SNP_TIMEOUTS).post [0] 0x2A [p, k * 64])

/-- No atomic has touched a buffered line for ATOMIC_IDLE_NS: it is written back (R150). -/
def Dev.atomicIdle (d : Dev) (k : Nat) : Dev :=
  match d.buffered k with
  | some a =>
    if (d.busyOf k).isNone && decide (a.used + d.get Reg.DIR_CTL_ATOMIC_IDLE_NS ≤ d.time) then
      (d.queueWork k (recallReq d k 4 k)).pumpLine k
    else d
  | none => d

/-- The combining window of a line's groups closes (R151, R152). -/
def Dev.closeGroups (d : Dev) (k : Nat) : Dev :=
  let shut := fun (w : Work) => if d.combineWin = 0 || decide (w.opened + d.combineWin ≤ d.time) then { w with closed := true } else w
  d.onLine k (fun l => { l with queue := l.queue.map shut, busy := l.busy.map (fun b => { b with work := shut b.work }) })

/-- The parked requests that `hit` names, by line and time of parking, end with a status, each counted once. -/
def Dev.endParked (d : Dev) (count : RegRef) (status : Nat) (hit : Nat → Nat → Bool) : Dev :=
  let at_ := d.home.lines.filter (fun l => (l.2.parkedAt).any (fun x => hit l.1 x.2))
  let whole := d.home.park.filter (fun q => hit (q.req.ppa / 64) q.since)
  let before := d.parkKeys
  let gone := (at_.flatMap (fun l => l.2.parkedReqs)).map HomeReq.key ++ whole.map (fun q => q.req.key)
  let stays := ((d.home.lines.filter (fun l => !(l.2.parkedAt).any (fun x => hit l.1 x.2))).flatMap (fun l => l.2.parkedReqs)).map HomeReq.key ++
    (d.home.park.filter (fun q => !hit (q.req.ppa / 64) q.since)).map (fun q => q.req.key)
  let d := d.bumpBy count (before.filter (fun x => decide (x ∈ gone) && decide (x ∉ stays))).length
  let d := d.each whole (fun d q => d.failParked q status)
  (d.each (at_.map Prod.fst) (fun d k => d.dropLine k status)).showParked

/-- The park limit reached (R161): POISON for every request parked that long; a reassignment or re-admission that would have released it is
late (R468). Zero-fill writes have no limit (R436). -/
def Dev.parkExpired (d : Dev) : Dev :=
  let limit := d.get Reg.PARK_CTL_PARK_LIMIT_US * 1000
  if limit = 0 then d else
  let over_ := fun since => decide (since + limit ≤ d.time)
  let turn := d.home.lines.flatMap (fun l => match l.2.parkedAt with
    | some (p, since) => if over_ since then l.2.parkedReqs.map (fun r => (r.key, p, l.1)) else []
    | none => [])
  let early := (d.home.park.filter (fun q => over_ q.since)).map (fun q => (q.req.key, q.port, q.req.ppa / 64))
  let late := (turn ++ early).foldl (fun (acc : List ((Agent × Nat × Nat) × Nat × Nat)) x =>
    if acc.any (fun y => decide (y.1 = x.1)) then acc else acc ++ [x]) []
  let d := { d with home := { d.home with lateParks := d.home.lateParks ++ late.map (fun (x : (Agent × Nat × Nat) × Nat × Nat) => x.2) } }
  d.endParked Reg.PARK_POISON 1 (fun _ since => over_ since)

/-- A line's parked request is issued again under the live epoch (R161). A move of the T9's own begins anew with its read, so that its write
goes out as the Quench write it is (R223). -/
def Dev.reissue (d : Dev) (k : Nat) : Dev :=
  match d.busyOf k with
  | none => d
  | some b =>
    let d := d.each b.work.all (fun d r => d.unparkFlight r.who r.tag)
    let live := fun (r : HomeReq) => { r with epoch := d.epoch }
    let d := d.onBusy k (fun b => { b with
      wait := .acks [], work := { b.work with req := live b.work.req, members := b.work.members.map live } })
    let own := match b.work.req.op with
      | .sweep | .resync => true
      | _ => false
    let d := if b.stage = 0 || own then d.poolRead k
      else if b.stage = 3 then d.serveAtomic k { b with work := { b.work with req := live b.work.req, members := b.work.members.map live } }
      else
        let (d, now) := d.poolWrite k b.stage b.line
        if !now then d else if b.stage = 2 then d.flushed k else d.wrote k (((d.busyOf k).map Busy.work).getD b.work)
    d.pumpLine k

/-- DIR_STAT.REVERT_BUSY follows the REVERTs that wait for their turn at a line (R163). -/
def Dev.showReverts (d : Dev) : Dev := d.set Reg.DIR_STAT_REVERT_BUSY (if d.recalling 6 none then 1 else 0)

/-- REVERT over `n` pages from `page` (R157): LOST-DIRTY lines enter I; `ok` says which pages the issuer may reach. Requests that reached a
line before the REVERT are answered first (R158). -/
def Dev.revert (d : Dev) (page n : Nat) (ok : Nat → Bool) : Dev :=
  let hit := d.home.lines.filter (fun l => decide (l.2.st = .lost) && decide (page ≤ pageOf (l.1 * 64)) &&
    decide (pageOf (l.1 * 64) < page + n) && ok (pageOf (l.1 * 64)))
  let d := d.each hit (fun d l =>
    if l.2.busy.isNone && l.2.queue == [] then d.setState l.1 .inv else d.queueWork l.1 (recallReq d l.1 6 0))
  d.showReverts

/-- What remains of a line's sharers when a port is lost (R154): a coarse bit stays. -/
def dropSharer (p : Nat) : LineState → LineState
  | .shared (.exact ps) => if p ∈ ps then (let left := ps.filter (fun q => q != p); if left = [] then .inv else .shared (.exact left)) else .shared (.exact ps)
  | st => st

/-- The lines a dead requester held in O enter LOST-DIRTY, its exact sharer records go, and snoops to it count as acknowledged
(R154, R155). Answers the lines that became LOST-DIRTY. -/
def Dev.loseRequester (d : Dev) (p : Nat) : Dev × List Nat :=
  let owned := (d.home.lines.filter (fun l => decide (l.2.st = .owned p))).map Prod.fst
  let dirty := owned.filter (fun k => match d.busyOf k with
    | some b => b.stage != 2
    | none => true)
  let d := d.each dirty (fun d k => (d.bump Reg.LOST_DIRTY_LINES).setState k .lost)
  let d := d.each (d.home.lines.map Prod.fst) (fun d k => d.setState k (dropSharer p (d.lineAt k).st))
  let mine := d.home.snoops.filter (fun s => s.1 == p)
  let d := { d with home := { d.home with snoops := d.home.snoops.filter (fun s => s.1 != p) } }
  (d.each mine (fun d s => d.portAnswered s.2.2 p), dirty)

end Sys2Proof.Machine
end

