-- ==== Sys2Proof/Machine/Quench.lean ====
section
/-! DEFINITION. The zero-fill of Quench (R436, R437), parked requests issued again (R161), and the requests a home or Quench had at a tray
that is lost (R159, R459, R461). -/
namespace Sys2Proof.Machine

/-- The pages of an extent. -/
def Dev.extPages (d : Dev) (e : Nat) : Nat := d.get (Reg.EXT_BASE_PAGES e)

/-- Whether an address of a page lies in an extent. -/
def Dev.extHas (d : Dev) (e page : Nat) : Bool :=
  decide (d.get (Reg.EXT_BASE_PPA_PAGE e) ≤ page) && decide (page < d.get (Reg.EXT_BASE_PPA_PAGE e) + d.extPages e)

/-- The lines of an extent in QUENCHING still to be zero-filled (R444): all of them before its fill begins; one whose copies are both on
their way is one line. -/
def Dev.linesToFill (d : Dev) (e : Nat) : Nat :=
  match d.ten.scrubs.find? (fun s => s.ext == e) with
  | some s => d.extPages e * 32768 - s.next + ((s.out.map Prod.fst).foldl addOnce []).length
  | none => d.extPages e * 32768

/-- QUENCH_STAT follows the extents in QUENCHING (R444). -/
def Dev.showQuench (d : Dev) : Dev :=
  let on := d.ten.exts.filter (fun e => d.extState e == 3)
  let left := sumBy d.linesToFill on
  (d.set Reg.QUENCH_STAT_ACTIVE on.length).set Reg.QUENCH_STAT_LINES_LEFT (min (2 ^ 48 - 1) left)

/-- An extent under scrub changed. -/
def Dev.onScrub (d : Dev) (e : Nat) (f : Scrub → Scrub) : Dev :=
  { d with ten := { d.ten with scrubs := d.ten.scrubs.map (fun s => if s.ext = e then f s else s) } }

/-- The scrub record of an extent. -/
def Dev.scrubOf (d : Dev) (e : Nat) : Option Scrub := d.ten.scrubs.find? (fun s => s.ext == e)

/-- An extent's state changes, and trace point 6 records it (R425, R504). -/
def Dev.setExtState (d : Dev) (e st : Nat) : Dev := (d.set (Reg.EXT_STATE_STATE e) st).trace 6 0xF (e + st * 65536)

/-- The ports that the zero-fill writes a line through (R436): the recorded sets of the entry that mapped it, or the fill sets. -/
def Dev.fillPorts (d : Dev) (s : Scrub) (ppa : Nat) : List Nat :=
  let at_ := fun (set : List Nat) (base : Nat) => match stripePort set (ppa - base * 0x20_0000) with
    | some p => [p]
    | none => []
  match s.ranges.find? (fun r => decide (r.page ≤ pageOf ppa) && decide (pageOf ppa < r.page + r.pages)) with
  | some r => at_ r.stripe r.page ++ at_ r.mirror r.page
  | none =>
    let base := d.get (Reg.EXT_BASE_PPA_PAGE s.ext)
    at_ (d.ten.live.set (d.get (Reg.EXT_ZFILL_ZSTRIPE s.ext))) base ++
      (if d.flag (Reg.EXT_ZFILL_ZMIRROR s.ext) then at_ (d.ten.live.set (d.get (Reg.EXT_ZFILL_ZMSTRIPE s.ext))) base else [])

/-- The zero line as Quench writes it (R436). -/
def zeroWrite (ppa tc tag : Nat) : Msg := opsMsg 0 tag tc 0 ppa 0 (List.replicate 4 0#128)

/-- The extents that Quench zero-fills now: the first 16 that became ready (R436). -/
def Dev.filling (d : Dev) : List Nat := ((d.ten.scrubs.filter Scrub.ready).take 16).map Scrub.ext

/-- The zero-fill of an extent has ended: it is FREE (R436, R437). -/
def Dev.endFill (d : Dev) (e : Nat) : Dev :=
  match d.scrubOf e with
  | none => d
  | some s =>
    if !s.ready || decide (s.next < d.extPages e * 32768) || s.out != [] then d else
    let d := { d with ten := { d.ten with scrubs := d.ten.scrubs.filter (fun x => x.ext != e), unowned := d.ten.unowned.filter (fun x => x != e) } }
    let d := ((d.setExtState e 0).set (Reg.EXT_STATE_OWNER e) 0).set (Reg.EXT_STATE_ERASE e) 0
    (d.post [0, s.owner] 0x32 [e, s.failed]).showQuench

/-- A zero-fill write that has failed for good is left and counted (R436). -/
def Dev.fillFailed (d : Dev) (e line port : Nat) : Dev :=
  let d := d.onScrub e (fun s => { s with out := dropFirst (fun o => o.1 == line && o.2.1 == port) s.out, failed := s.failed + 1 })
  ((d.bump Reg.QUENCH_LINE_FAILED).showQuench).endFill e

/-- A zero-fill write to a dead port parks (R159, R436); one that finds the park store full has failed (R160). -/
def Dev.parkFill (d : Dev) (e line port : Nat) : Dev :=
  if parkPlaces ≤ d.parkedNow then (d.bump Reg.PARK_OVERFLOW).fillFailed e line port else
  let q : Parked := ⟨port, zeroWrite (line * 64) (d.get Reg.BELLOWS_CTL_QUENCH_TC) 0, .fill e, line, d.time⟩
  (({ d with home := { d.home with parked := d.home.parked ++ [q] } }).bump Reg.PARKED_TOTAL).showParked

/-- A zero line that only one of its copies takes marks its page in the resync map of its region, if the live map has one (R436, R459). -/
def Dev.markFill (d : Dev) (ppa : Nat) (ports live : List Nat) : Dev :=
  match d.ten.live.byPpa ppa with
  | some (ix, e) =>
    if live.length < ports.length then
      d.markDegraded d.ten.live ix e ppa ((d.ten.live.copies e ppa).filter (fun c => decide (c.2 ∈ live)))
    else d
  | none => d

/-- Whether Quench may send through a port now: its link is ACTIVE (R426) and its budget is not 0 (R223). -/
def Dev.quenchGoes (d : Dev) (p : Nat) : Bool := d.linkState p == 4 && d.get (Reg.QSHAPE_CFG_RATE_MBPS p) != 0

/-- One zero line goes to its port (R436): it parks where the port is dead, and stays with Quench while the port cannot take it. -/
def Dev.sendFill (d : Dev) (e line port : Nat) : Dev :=
  if d.fenced port then d.parkFill e line port
  else if !d.quenchGoes port then d
  else d.toTray port line (.fill e) (zeroWrite (line * 64) (d.get Reg.BELLOWS_CTL_QUENCH_TC))

/-- The zero lines of an extent that stay with Quench: neither on their way nor parked. -/
def Dev.fillsKept (d : Dev) (e : Nat) (s : Scrub) : List (Nat × Nat × Nat) :=
  s.out.filter (fun o => !(d.home.outs.any (fun x => x.line == o.1 && x.port == o.2.1 && decide (x.use = .fill e))) &&
    !(d.home.parked.any (fun q => q.line == o.1 && q.port == o.2.1)))

/-- One zero line of an extent goes out (R436): one that was kept until its port takes it, or the next, so that each port's share begins
once that port is ACTIVE (R426); through the dead port of a line whose other copy lives nothing is written. -/
def Dev.zeroFill (d : Dev) (e : Nat) : Dev :=
  match d.scrubOf e with
  | none => d
  | some s =>
    if decide (e ∉ d.filling) then d else
    match (d.fillsKept e s).find? (fun o => d.quenchGoes o.2.1) with
    | some o => d.sendFill e o.1 o.2.1
    | none =>
      if d.extPages e * 32768 ≤ s.next then d else
      let ppa := d.get (Reg.EXT_BASE_PPA_PAGE e) * 0x20_0000 + s.next * 64
      let ports := d.fillPorts s ppa
      let live := ports.filter (fun p => !d.fenced p)
      let d := (d.onScrub e (fun s => { s with next := s.next + 1 })).markFill ppa ports live
      let d := d.each (if live = [] then ports.take 1 else live) (fun d p =>
        (d.onScrub e (fun s => { s with out := s.out ++ [(ppa / 64, p, 0)] })).sendFill e (ppa / 64) p)
      (d.showQuench).endFill e

/-- A zero-fill write is answered (R436): other statuses than OK are sent again up to three times, then left. -/
def Dev.fillAnswered (d : Dev) (e line port status : Nat) : Dev :=
  match (d.scrubOf e).bind (fun s => s.out.find? (fun o => o.1 == line && o.2.1 == port)) with
  | none => d
  | some (_, _, tries) =>
    let mine := fun (o : Nat × Nat × Nat) => o.1 == line && o.2.1 == port
    if status = 0 then ((d.onScrub e (fun s => { s with out := dropFirst mine s.out })).showQuench).endFill e
    else if tries < 3 then
      (d.onScrub e (fun s => { s with out := mapFirst mine (fun o => (o.1, o.2.1, o.2.2 + 1)) s.out })).sendFill e line port
    else d.fillFailed e line port

/-- Whether a request parked for a dead port finds a live tray (R161): its line's copies under the live map, or, with no entry for the
line, the port itself re-admitted. -/
def Dev.parkOver (d : Dev) (port k : Nat) : Bool :=
  match d.ten.live.byPpa (k * 64) with
  | some (ix, e) => (d.writeRoute d.ten.live ix e (k * 64)).1 != []
  | none => !d.fenced port

/-- The live port to which a parked zero line goes (R161, R436): its own re-admitted, or another that holds the line under the live map or
the fill sets. -/
def Dev.fillPort (d : Dev) (q : Parked) (e : Nat) : Option Nat :=
  let ppa := q.line * 64
  let mapped := match d.ten.live.byPpa ppa with
    | some (ix, x) => (d.writeRoute d.ten.live ix x ppa).1.map Prod.snd
    | none => []
  let filled := match d.scrubOf e with
    | some s => d.fillPorts s ppa
    | none => []
  (q.port :: mapped ++ filled).find? (fun p => !d.fenced p)

/-- A parked zero line is issued again, if a live tray takes it. -/
def Dev.reissueFill (d : Dev) (q : Parked) : Dev :=
  match q.use with
  | .fill e =>
    (match d.fillPort q e with
     | some p =>
       let d := { d with home := { d.home with parked := dropFirst (fun x => decide (x = q)) d.home.parked } }
       let d := d.onScrub e (fun s => { s with
         out := mapFirst (fun o => o.1 == q.line && o.2.1 == q.port) (fun o => (o.1, p, o.2.2)) s.out })
       d.sendFill e q.line p
     | none => d)
  | _ => d

/-- A request parked before its turn is issued again under the live epoch (R161). -/
def Dev.reissueReq (d : Dev) (q : ParkedReq) : Dev :=
  let d := { d with home := { d.home with park := dropFirst (fun x => decide (x = q)) d.home.park } }
  let d := d.unparkFlight q.req.who q.req.tag
  let r := { q.req with epoch := d.epoch }
  match q.line with
  | some k => d.arriveLine k (d.groupOpen k r) r
  | none => d.lineUp r

/-- Parked requests whose tray is live again, or whose region has a live tray (R161), are issued again: at each line first the one at its
turn, then the others as they arrived. For those that the park limit has ended the release is late (R162, R468). -/
def Dev.reissueParked (d : Dev) : Dev :=
  let late := d.home.lateParks.filter (fun x => d.parkOver x.1 x.2)
  let d := (d.bumpBy Reg.LATE_ITEMS late.length)
  let d := { d with home := { d.home with lateParks := d.home.lateParks.filter (fun x => decide (x ∉ late)) } }
  let lines := d.home.lines.filter (fun l => (l.2.parkedAt).any (fun x => d.parkOver x.1 l.1))
  let d := d.each (lines.map Prod.fst) (fun d k => d.reissue k)
  let d := d.each (d.home.park.filter (fun q => d.parkOver q.port (q.req.ppa / 64))) (fun d q => d.reissueReq q)
  (d.each d.home.parked (fun d q => d.reissueFill q)).showParked

/-- The requests of agents that wait in a line's queue park one by one when their tray is dead (R159); the T9's own stay. -/
def Dev.parkQueue (d : Dev) (k : Nat) : Dev :=
  let hit := fun (r : HomeReq) => (d.parksAt r).isSome && (d.crossedPorts k r).isNone
  let mine := ((d.lineAt k).queue.flatMap Work.all).filter hit
  if mine = [] then d else
  let keep := (d.lineAt k).queue.filterMap (fun w => match w.all.filter (fun r => !hit r) with
    | [] => none
    | q :: qs => some { w with req := q, members := qs })
  (d.onLine k (fun l => { l with queue := keep })).each mine (fun d r => d.parkReq (some k) ((d.parksAt r).getD 0) r)

/-- A request that a home had at a tray that is lost (R159, R459, R461): a read, or a memory-side atomic, goes to the surviving copy or
parks; a write is answered by the copies that live, or parks; a resync line has failed, and its page stays marked; a zero line parks
unless its other copy lives (R436). -/
def Dev.loseOut (d : Dev) (p : Nat) (o : Out) : Dev :=
  let k := o.line
  match o.use, d.busyOf k with
  | .fill e, _ =>
    let twin := (d.scrubOf e).any (fun s => (d.fillPorts s (k * 64)).any (fun q => !d.fenced q))
    if twin then
      let ports := ((d.scrubOf e).map (fun s => d.fillPorts s (k * 64))).getD []
      let d := d.markFill (k * 64) ports (ports.filter (fun q => !d.fenced q))
      (d.onScrub e (fun s => { s with out := dropFirst (fun x => x.1 == k && x.2.1 == p) s.out })).endFill e
    else d.parkFill e k p
  | _, none => d
  | use, some b =>
    match d.region b.work.req.epoch (k * 64), use with
    | none, _ => d.parkLine k p (if use = .memside then 3 else b.stage)
    | some (ix, e), .read _ => (d.askTray k (d.bank b.work.req.epoch) ix e).pumpLine k
    | some _, .memside => ((d.onBusy k (fun b => { b with stage := 3 })).memsideTo k b.work.req).pumpLine k
    | some (ix, e), _ =>
      let bank := d.bank b.work.req.epoch
      let (live, dead) := d.writeRoute bank ix e (k * 64)
      let others := match b.wait with
        | .write left | .flush left | .crossed _ left => left.filter (fun q => q != p)
        | _ => []
      if b.work.req.op = .resync then d.copyDone k p 1
      else if b.stage != 4 && others = [] && dead.isSome then d.parkLine k p b.stage
      else (d.markDegraded bank ix e (k * 64) (live.take 1)).copyDone k p 0

/-- The requests at a dead tray, and those that wait for it in the queues of its lines (R159). -/
def Dev.loseTarget (d : Dev) (p : Nat) : Dev :=
  let mine := d.home.outs.filter (fun o => o.port == p)
  let d := { d with home := { d.home with outs := d.home.outs.filter (fun o => o.port != p) } }
  let d := d.each mine (fun d o => d.loseOut p o)
  d.each ((d.home.lines.filter (fun l => l.2.queue != [])).map Prod.fst) Dev.parkQueue

end Sys2Proof.Machine
end

