-- ==== Sys2Proof/Machine/Ingress.lean ====
section
/-! DEFINITION. The checks an access passes where it enters the switch (R417 to R419, R422, R441, R467), the route lookup (R166),
release holds (R146), policing (R211) and the receipt of flits (R89, R108, R116, R117, R180, R182). -/
namespace Sys2Proof.Machine

/-- What the ingress checks say of a pool access. -/
inductive Checked where
  | pass (ppa : Nat)
  | remote (e : RtEntry)
  | fail (status : Nat)
  deriving DecidableEq, Repr

/-- The partition an access comes from (R467): its requester port's, or its domain's. -/
def Dev.agentPart (d : Dev) (who : Agent) (dom : Nat) : Nat :=
  match who with
  | .port p => d.portPart p
  | .tile _ => d.domPart dom
  | .grt _ => d.domPart dom
  | _ => 0

/-- The ports that a translation names (R467): the target port and the mirror port of a line. -/
def Dev.namedPorts (d : Dev) (e : RtEntry) (ppa : Nat) : List Nat :=
  (match d.ten.live.primary e ppa with
   | some p => [p]
   | none => []) ++ (match d.ten.live.mirrorPort e ppa with
   | some p => [p]
   | none => [])

/-- Whether a port is a member of a pool of the live map (R438). -/
def Dev.inPool (d : Dev) (k p : Nat) : Bool := bitOf (Tab.get 0 d.ten.live.pools (k * 8 + p / 64)) (p % 64)

/-- Whether a lease is held over a DPA of a domain with a guard (R441). -/
def Lease.covers (l : Lease) (dom dpa : Nat) : Bool :=
  l.held && l.dom == dom && decide (l.page ≤ pageOf dpa) && decide (pageOf dpa < l.page + l.pages)

/-- Check 7 of R418 on an access of a requester port: OWNERSHIP-DENIED where a held lease guards the DPA for another pool (R441), POISON
where the ownership entry that would say so is lost (R449). -/
def Dev.guardCode (d : Dev) (who : Agent) (dom dpa : Nat) (op : HomeOp) : Option Nat :=
  match who with
  | .port p =>
    let mine := (d.ten.leases.map Prod.snd).filter (fun l => l.covers dom dpa)
    if !op.writes then none
    else if mine.any (fun l => !l.lost && !(d.inPool l.pool p)) then some 7
    else if mine.any Lease.lost then some 1
    else none
  | _ => none

/-- An access that passes check 7, or ends with its code. -/
def Dev.checkGuard (d : Dev) (who : Agent) (dom dpa : Nat) (op : HomeOp) (go : Dev → Dev × Checked) : Dev × Checked :=
  match d.guardCode who dom dpa op with
  | some c => (d.when (c == 7) (fun d => d.bump Reg.OWN_DENIED_REQ), .fail c)
  | none => go d

/-- Whether KIND and ACCESS of an entry allow an operation (check 8 of R418). -/
def allowed (e : RtEntry) : HomeOp → Bool
  | .rdShared | .rdNoalloc => e.canRead
  | .rdOwn => e.canRead && (e.canWrite || !e.ownedWb)
  | .wrLine | .wrPart | .wbDirty | .inval => e.canWrite
  | .atomic _ => e.canWrite
  | .evict => e.canRead || e.canWrite
  | _ => true

/-- Checks 5 and 6 to 8 of R418 on a translated access; an extent whose state is lost reads as INVALID (R449). -/
def Dev.checkExtent (d : Dev) (who : Agent) (dom addr ppa : Nat) (e : RtEntry) (isPpa : Bool) (op : HomeOp) : Dev × Checked :=
  let state := match d.extentOf ppa with
    | some x => d.extState x
    | none => 0
  if (d.extentOf ppa).any (fun x => decide (x ∈ d.ras.lostExts)) then (d, .fail 1)
  else if state = 2 then (d.bump Reg.REVOKED_REQ, .fail 2)
  else if state = 3 then (d.bump Reg.QUENCHED_REQ, .fail 4)
  else if isPpa then (d, .pass ppa)
  else if (d.extentOf ppa).bind d.extOwner != some dom then (d.bump Reg.UNMAPPED, .fail 1)
  else d.checkGuard who dom addr op (fun d => if !allowed e op then (d.bump Reg.ACCESS_DENIED, .fail 1) else (d, .pass ppa))

/-- Checks 4 to 8 of R418 for one pool access; a domain 0 access in PPA space skips 4, the partition rule with it (R467), and 6 to 8,
and still needs a LOCAL entry (R419). A lookup beyond the 65,536 entries on die counts in RT_MISS and reads its entry from RT_BACK (R422,
assumption log 183). -/
def Dev.checkPool (d : Dev) (who : Agent) (dom addr : Nat) (isPpa : Bool) (op : HomeOp) : Dev × Checked :=
  let hit := if isPpa then d.ten.live.byPpa addr else d.ten.live.byDpa dom addr
  match hit with
  | none => (d.bump Reg.UNMAPPED, .fail 1)
  | some (ix, e) =>
    let d := d.when (decide (65536 ≤ ix)) (fun d => (d.bump Reg.RT_MISS).backRead (d.areaBase 2 + 32 * (ix - 65536)))
    if e.kind = 2 then d.checkGuard who dom addr op (fun d => (d, .remote e)) else
    let ppa := if isPpa then addr else e.toPpa addr
    if !isPpa && (d.namedPorts e ppa).any (d.partBlocks (d.agentPart who dom)) then (d.bump Reg.PART_BLOCKED, .fail 3)
    else d.checkExtent who dom addr ppa e isPpa op

/-- The checks of R418 on a request that reaches its home without having come through the switch, by the entry of the live map that holds
its PPA: an operator of domain 0 may name it where that entry is another domain's (R419). The T9's own works pass every check. -/
def Dev.homeChecks (d : Dev) (r : HomeReq) : Dev × Checked :=
  let mapped := fun (ppaOk : Bool) => match d.ten.live.byPpa r.ppa with
    | none => (d.bump Reg.UNMAPPED, .fail 1)
    | some (_, e) =>
      if e.dom = r.dom then d.checkPool r.who r.dom (e.toDpa r.ppa) false r.op
      else if ppaOk && r.dom == 0 then d.checkPool r.who 0 r.ppa true r.op
      else (d.bump Reg.UNMAPPED, .fail 1)
  match r.who with
  | .port p =>
    if d.fenced p then (d.bump Reg.FENCED_RX, .fail 3)
    else if d.boundDom p != some r.dom then (d.bump Reg.DOMAIN_MISMATCH, .fail 1)
    else mapped false
  | .tile _ => mapped true
  | .grt _ => mapped false
  | _ => (d, .pass r.ppa)

/-- The operation a requester's REQ asks for (R104). -/
def reqOp (m : Msg) : HomeOp :=
  match m.opcode with
  | 0 => .rdShared | 1 => .rdNoalloc | 2 => .rdOwn | 3 => .wrLine | 4 => .wrPart | 5 => .wbDirty | 6 => .inval | 7 => .evict
  | 9 => .atomic .fadd | 10 => .atomic .min | 11 => .atomic .max | 12 => .atomic .swap | _ => .atomic .cas

/-- The request that a REQ of a port puts to its home. -/
def portReq (p : Nat) (m : Msg) (ppa epoch : Nat) : HomeReq :=
  let bytes := chunksBytes m.data
  { who := .port p, tag := m.tag, op := reqOp m, dom := m.domain, ppa := ppa, count := m.count, first := ppa / 64 * 64,
    data := if m.opcode = 4 then bytes.drop 16 else bytes, mask := fieldBytes bytes 0 8, tc := m.tc, ctrKind := m.ctrKind,
    ctr := m.ctr, epoch := epoch, no := 0, parity := 0, gen := none }

/-- RSP CMP from the ingress to a requester port (R108, R418): a final answer, for which a release waits no longer (R146). -/
def Dev.cmpTo (d : Dev) (p : Nat) (m : Msg) (status : Nat) : Dev :=
  ((d.sendMsg .core p (rspMsg 0 m.tag m.tc status) m.domain).endFlight (.port p) m.tag).onLink p (fun l => { l with
    holds := l.holds.map (fun h => { h with after := h.after.filter (fun x => x != m.tag) }),
    replays := l.replays.filter (fun x => x.1 != m.tag) })

/-- A REQ or OPS refused at the ingress: its answer goes out, and its buffer frees, so that its credits return (R112, R171, R418). -/
def Dev.refuse (d : Dev) (p : Nat) (m : Msg) (status : Nat) : Dev := (d.creditBack p m).cmpTo p m status

/-- The bytes an OPS_WR carries. -/
def opsLen (m : Msg) : Nat := 16 * m.len

/-- Check 3 of R418: the tile is held by a running heat of the domain, or the address lies in a window of the domain. -/
def Dev.opsAllowed (d : Dev) (dom : Nat) (m : Msg) : Bool :=
  let a := m.addr
  if m.space = 0 then
    let t := fieldOf a 21 8
    a / 2 ^ 29 == 0 && d.flag (Reg.TILE_RES_HELD t) && d.get (Reg.TILE_RES_LAST_DOMAIN t) == dom &&
      decide (a % 2 ^ 21 + opsLen m ≤ spaBytes)
  else a / 2 ^ 38 == 0 && d.inWindow dom a (opsLen m) true

/-- The traffic class at which an item of a port goes on after its policer (R211). -/
def Dev.policed (d : Dev) (p tc n : Nat) : Nat × Dev :=
  let (act, d) := d.police p n
  if act = 1 then (tc, { d with sw := { d.sw with polHold := addOnce d.sw.polHold p } })
  else if act = 2 then (d.get (Reg.POL_CFG_REMARK_TC p), d)
  else (tc, d)

/-- An OPS_WR admitted (check 9 of R418): stamped with the live epoch and counted in its in-flight count; it lies in no extent. -/
def Dev.admitOps (d : Dev) (p tag : Nat) : Dev :=
  if d.admitted (.port p) tag then d else d.addFlight (.port p) tag 65536 true

/-- The placement generation that the frame of a requester's OPS_WR carries (R70), fixed at the ingress (assumption log 178): that of the
tile it goes to; in device memory that of the counter it names. -/
def Dev.opsGen (d : Dev) (m : Msg) : Nat :=
  if m.space = 0 then Tab.get 0 d.heats.gens (fieldOf m.addr 21 8) else ((counterId m.ctrKind m.ctr).map d.ctrGen).getD 0

/-- A REQ or OPS_WR of a bound port passes checks 3 to 9 and goes to its destination (R166, R418), and its home works for it in the traffic
class that the policer left it (R213, assumption log 179). -/
def Dev.admitReq (d : Dev) (p : Nat) (m : Msg) (tc born : Nat) : Dev :=
  if m.cls = 4 then
    if !(d.opsAllowed m.domain m) then (d.bump Reg.FOREIGN_OPS).refuse p m 1 else
    let dst : Endpoint := if m.space = 0 then .tile (fieldOf m.addr 21 8) else .forge (stackOf m.addr)
    let d := d.admitOps p m.tag
    d.send (.port p) dst 4 tc ⟨.opsIn m (d.opsGen m) (d.flightNo (.port p) m.tag), born, m.domain, false, 0⟩
  else
    let (d, c) := d.checkPool (.port p) m.domain m.addr false (reqOp m)
    match c with
    | .fail s => d.refuse p m s
    | .remote _ => (d.bump Reg.REMOTE_REQ_REFUSED).refuse p m 1
    | .pass ppa =>
      let r := { portReq p m ppa d.epoch with tc := tc }
      let d := d.admitFlight (.port p) m.tag ppa r.op.writes
      d.send (.port p) (.slice (homeSlice ppa)) 3 tc ⟨.home m (d.numbered r), born, m.domain, false, 0⟩

/-- Whether a requester's message is a write whose final response a release waits for (R146). -/
def isWrite (m : Msg) : Bool := (m.cls == 3 && (reqOp m).writes) || (m.cls == 4 && m.opcode == 0)

/-- The TAGs of a port's writes not yet finally answered (R146): in flight, or themselves held. -/
def Dev.openWrites (d : Dev) (p : Nat) : List Nat :=
  (d.ten.flight.filter (fun f => decide (f.who = .port p) && f.write)).map Flight.tag ++
    ((d.link p).holds.filter (fun h => isWrite h.msg)).map (fun h => h.msg.tag)

/-- A release waits for the writes that its port sent before it (R146). -/
def Dev.holdRelease (d : Dev) (p : Nat) (m : Msg) (tc born : Nat) : Dev :=
  let h : ReleaseHold := ⟨m, tc, d.openWrites p, born⟩
  d.onLink p (fun l => { l with holds := l.holds ++ [h] })

/-- Whether a release waits (R146): the port has earlier writes without a final answer. One that is issued again after RSP REPLAY has
passed that wait before. -/
def Dev.mustHold (d : Dev) (p : Nat) (m : Msg) : Bool :=
  m.ord = 1 && d.openWrites p != [] && !(d.ten.flight.any (fun f => f.isOf (.port p) m.tag && f.epoch == 65537))

/-- A REQ or OPS of a requester port passes checks 1 and 2, then waits behind the port's earlier writes if it carries ORD release
(R146), or goes on. -/
def Dev.takeReq (d : Dev) (p : Nat) (m : Msg) (tc born : Nat) : Dev :=
  if d.boundDom p != some m.domain then (d.bump Reg.DOMAIN_MISMATCH).refuse p m 1
  else if d.mustHold p m then d.holdRelease p m tc born
  else d.admitReq p m tc born

/-- Release holds whose writes have all been answered pass on (R146). -/
def Dev.passHolds (d : Dev) (p : Nat) : Dev :=
  let ready := (d.link p).holds.filter (fun h => h.after == [])
  (d.onLink p (fun l => { l with holds := l.holds.filter (fun h => h.after != []) })).each ready (fun d h => d.admitReq p h.msg h.tc h.at_)

/-- The engine an answer of a partner belongs to (R101, R166): the home or engine whose TAG it carries; a RESULT_ACK goes to the tile
or the push that sent the result. -/
def Dev.ownerOf (d : Dev) (p : Nat) (m : Msg) : Endpoint :=
  if d.isRole p 1 then ((d.outOf p m.tag).map Out.src).getD .core
  else if m.cls = 0 && m.opcode = 4 then
    ((d.results.find? (fun r => r.port == p && r.tag == m.tag)).map ResOut.src).getD .core
  else if (m.cls = 0 && m.opcode = 2) || m.cls = 1 then
    match d.snoopOf p m.tag with
    | some s => .slice (homeSlice (s.2.2 * 64))
    | none => .core
  else .core

/-- A message that has passed its link enters the switch (R166, R418, R464): a TRAY_EVENT goes to the engine that its TAG names, other MGT to
the control cores. A NOP is padding (R104). -/
def Dev.ingressMsg (d : Dev) (p : Nat) (m : Msg) (tc born : Nat) : Dev :=
  if m.cls = 5 then
    if m.opcode = 0 then d
    else d.send (.port p) (if m.opcode = 4 && d.isRole p 1 then d.ownerOf p m else .core) 5 m.tc ⟨.glois m, born, 0, false, 0⟩
  else if d.fenced p then
    let d := d.bump Reg.FENCED_RX
    if m.cls = 3 || m.cls = 4 then d.refuse p m 3 else d.creditBack p m
  else if d.isRole p 1 then
    d.send (.port p) (d.ownerOf p m) m.cls tc ⟨.glois m, born, 0, false, 0⟩
  else if m.cls = 3 || m.cls = 4 then d.takeReq p m tc born
  else d.send (.port p) (d.ownerOf p m) m.cls m.tc ⟨.glois m, born, 0, false, 0⟩

/-- One message of a good flit: a REQ or OPS meets the policer at its header lookup (R208, R211); it is rejected (R108), or taken in. A
rejected REQ or OPS is answered CMP POISON. -/
def Dev.takeMsg (d : Dev) (p : Nat) (raw : Msg) (born : Nat) : Dev :=
  let m := raw.received
  let d := d.bump (Reg.FRAMES_IN p)
  let (tc, d) := if m.cls = 3 || m.cls = 4 then d.policed p m.tc (16 * (1 + m.len)) else (m.tc, d)
  if m.ok (d.isRole p 1) then d.ingressMsg p m tc born
  else
    let d := d.bump (Reg.SLAG_REJECT p)
    if m.cls = 3 || m.cls = 4 then d.refuse p m 1 else d.creditBack p m

/-- A message of a flit that proves bad, still queued or at its engine, is discarded (R182); its buffer frees (assumption log 146). -/
def Dev.discardCut (d : Dev) (p : Nat) (m : Msg) : Dev :=
  ((d.bump (Reg.CUT_DISCARD p)).bump Reg.CUT_DISCARD_ALL).creditBack p m

/-- The message of a fate. -/
def cutOf : CutFate → Msg
  | .queued m | .atEngine m | .onFlit _ m => m

/-- A message of a flit that proves bad (R180, R182): its header had been looked up (R202), the policer had charged it (R208), and it had been
enqueued with its mirror copies (R195). Still queued or at its engine it is discarded; in an outgoing flit it is stomped, and its copies
with it (R198). -/
def Dev.cutMsg (d : Dev) (p : Nat) (fate : CutFate) : Dev :=
  let m := cutOf fate
  let d := d.bump (Reg.FRAMES_IN p)
  let item := m.cls = 3 || m.cls = 4
  let (tc, d) := if item then d.policed p m.tc (16 * (1 + m.len)) else (m.tc, d)
  let f : Frame := ⟨.glois m, d.time, if item then m.domain else 0, false, 0⟩
  match fate with
  | .onFlit e m =>
    if d.flitBegun e.val m then ((d.creditBack p m).stompFlit e.val m).mirrorAll (.port p) (.port e.val) m.cls tc f true
    else (d.mirrorAll (.port p) .core m.cls tc f false).discardCut p m
  | _ => (d.mirrorAll (.port p) .core m.cls tc f false).discardCut p m

/-- The lane events of a flit (R129, R451): each corrected symbol and each uncorrectable codeword, by lane. -/
def Dev.laneEvents (d : Dev) (p : Nat) (corrected uncorrectable : List Nat) : Dev :=
  let d := d.bumpBy (Reg.FEC_CORR p) corrected.length
  d.each uncorrectable (fun d l => (d.bump (Reg.FEC_UNCORR p)).temperEvent 0 (d.get (Reg.PORT_CFG_IO_DIE p) * 256 + d.get (Reg.LANE_PHYS p l)))

/-- A CTRL flit's payload (R123). The bytes of a SYNC after CTYPE are not looked at, and REMAP_REQ and REMAP_ACK are taken to carry the
lane in byte 1 and the spare in byte 2 (assumption log 149). An undefined CTYPE is ignored, and a REMAP_REQ of the partner is answered
without a swap at the T9 (assumption log 175). -/
def Dev.takeCtrl (d : Dev) (p : Nat) (payload : List Byte) : Dev :=
  match fieldBytes payload 0 1 with
  | 1 => d.takeSync p
  | 2 => d.takeHello p payload
  | 3 =>
    let lane := fieldBytes payload 1 1
    if d.linkState p = 4 || d.linkState p = 5 then
      d.ctrl p (natBytes 1 4 ++ natBytes 1 lane ++ natBytes 1 (fieldBytes payload 2 1)) else d
  | 4 => d.takeRemapAck p
  | 5 => if d.linkState p = 4 then d.goRetrain p else d
  | _ => d

/-- A MSG flit with a good CRC (R117): delivered in sequence, a duplicate is acknowledged, one ahead asks for replay. What was
forwarded of one not accepted in sequence proves bad (R180). No credit returns for a flit whose messages cannot be told apart
(assumption log 149). -/
def Dev.takeMsgFlit (d : Dev) (p : Nat) (flit : List Byte) (h : LinkHeader) (cuts : List CutFate) (born : Nat) : Dev :=
  let e := (d.link p).rxE
  if h.seq = e then
    let d := d.onLink p (fun l => { l with
      rxE := (e + 1) % 4096, nakAt := none, nakDue := false, ackDue := decide (63 ≤ l.ackCount) || l.ackDue, ackCount := l.ackCount + 1,
      ackFrom := some (l.ackFrom.getD d.time) })
    match flitMsgs flit with
    | some ms => d.each ms (fun d m => d.takeMsg p m born)
    | none => d.bumpBy (Reg.SLAG_REJECT p) h.nmsg
  else
    let d := d.each cuts (fun d c => d.cutMsg p c)
    if (d.link p).nakAt.isSome then d
    else if (e + 4096 - h.seq) % 4096 ≤ 2048 then d.onLink p (fun l => { l with ackDue := true })
    else d.sendNak p

/-- A flit whose CRC is good (R117): its header counts, its payload by FTYPE. Anything but a SYNC ends a row of SYNC flits (R122). MSG
flits are taken in ACTIVE, and in REMAP, where the partner may still have had some on the way (R126); what was forwarded of one not taken
proves bad (R180). -/
def Dev.takeGood (d : Dev) (p : Nat) (flit : List Byte) (cuts : List CutFate) : Dev :=
  let h := linkHeader (fieldBytes flit 0 8)
  let payload := (flit.drop 8).take 240
  let d := d.takeHeader p h
  let d := if h.ftype = 2 && fieldBytes payload 0 1 = 1 then d else d.onLink p (fun l => { l with syncs := 0 })
  if h.ftype = 2 then d.takeCtrl p payload
  else if h.ftype = 1 && (d.linkState p == 4 || d.linkState p == 5) then d.takeMsgFlit p flit h cuts d.time
  else d.each cuts (fun d c => d.cutMsg p c)

/-- A flit that is not good (R117): the messages forwarded of it prove bad (R180), and replay is asked for. -/
def Dev.dropFlit (d : Dev) (p : Nat) (cuts : List CutFate) : Dev :=
  ((d.onLink p (fun l => { l with syncs := 0 })).each cuts (fun d c => d.cutMsg p c)).sendNak p

/-- A flit arrives on a Glois port (R117), read from the bit streams of its running lanes (R89); streams that hold no flit for them
are one that fails. A port in DOWN or EQUALIZE takes none. -/
def Dev.flitReceive (d : Dev) (p : Nat) (lanes : List (List Bool)) (corrected uncorrectable : List Nat) (cuts : List CutFate) : Dev :=
  if !(d.isGlois p) || d.linkState p = 0 || d.linkState p = 1 then d else
  let d := d.laneEvents p corrected uncorrectable
  match lanesFlit (d.lanesNow p) lanes with
  | none => (d.bump (Reg.CRC_ERR p)).dropFlit p cuts
  | some flit =>
    match flitVerdict flit (uncorrectable != []) with
    | .bad => (d.bump (Reg.CRC_ERR p)).dropFlit p cuts
    | .stomped => (d.bump (Reg.STOMP_RX p)).dropFlit p cuts
    | .good => d.takeGood p flit cuts

/-- The arrival of a row's message at its engine is consumed, if the switch delivered it. -/
def Dev.consume (d : Dev) (hit : Arrival → Bool) : Dev := { d with sw := { d.sw with arrived := dropFirst hit d.sw.arrived } }

/-- The arrival of a message at its engine. -/
def arrivedMsg (p : Nat) (m : Msg) (a : Arrival) : Bool :=
  decide (a.src = .port p) && (match bodyMsg a.frame.body with
    | some x => decide (x = m.received)
    | none => false)

/-- The generation and the number with which the OPS_WR of a port has come through the switch. -/
def arrivedOps (p : Nat) (m : Msg) (a : Arrival) : Option (Nat × Nat) :=
  match a.frame.body with
  | .opsIn x gen no => if a.src = .port p ∧ x = m.received then some (gen, no) else none
  | _ => none

/-- The number under which a request has come to its home through the switch. -/
def arrivedNo (r : HomeReq) (a : Arrival) : Option Nat :=
  match a.frame.body with
  | .home _ q => if q.who = r.who ∧ q.tag = r.tag then some q.no else none
  | _ => none

/-- The arrival of a request at its home. -/
def arrivedReq (r : HomeReq) (a : Arrival) : Bool :=
  match a.frame.body with
  | .home _ q => decide (q.who = r.who) && q.tag == r.tag
  | _ => false

end Sys2Proof.Machine
end

