-- ==== Sys2Proof/Machine/Ras.lean ====
section
/-! DEFINITION. Faults, sparing and fencing (chapter 13): declarations and admission (R463 to R469, R569), LOST_DIRTY_PAGES (R158),
partitions (R467), mirrored regions out of sync (R459 to R462), and the spares that lasting faults swap in (R453, R454). -/
namespace Sys2Proof.Machine

/-- The functions a port's events go to (R473): PF0, and the bound domain of a requester port. -/
def Dev.portFns (d : Dev) (p : Nat) : List Nat :=
  0 :: (match d.boundDom p with
    | some x => if d.isRole p 0 then [x] else []
    | none => [])

/-- The entries of a LOST_DIRTY_PAGES event (R494): up to 12 pages an entry, 4 bytes each, unused slots all ones. -/
def lostEntries (port : Nat) (ppa : Bool) (total : Nat) : Nat → List Nat → List (List Byte)
  | 0, _ => []
  | n + 1, pages =>
    let here := pages.take 12
    let head := natBytes 2 port ++ natBytes 1 (if ppa then 1 else 0) ++ natBytes 1 0 ++ natBytes 4 total
    let body := (here ++ List.replicate (12 - here.length) 0xFFFF_FFFF).flatMap (natBytes 4)
    (head ++ body) :: (if pages.length ≤ 12 then [] else lostEntries port ppa total n (pages.drop 12))

/-- The entries of a list of event details, LAST on the last. -/
def Dev.postList (d : Dev) (fn typ : Nat) : List (List Byte) → Dev
  | [] => d
  | e :: es => (d.postOne fn typ (es == []) e).postList fn typ es

/-- LOST_DIRTY_PAGES for one function (R158): the pages, each named once. -/
def Dev.postLost (d : Dev) (fn port : Nat) (ppa : Bool) (pages : List Nat) : Dev :=
  let once := pages.foldl addOnce []
  if once = [] then d else d.postList fn 0x28 (lostEntries port ppa once.length (once.length + 1) once)

/-- The LOST_DIRTY_PAGES events of lines that became LOST-DIRTY (R158): to the owner of each region, with a copy to PF0; lines in no
LOCAL entry to PF0 alone, by PPA. -/
def Dev.reportLost (d : Dev) (port : Nat) (lines : List Nat) : Dev :=
  let named := lines.filterMap (fun k => (d.ten.live.byPpa (k * 64)).map (fun x => (x.2.dom, pageOf (x.2.toDpa (k * 64)))))
  let bare := (lines.filter (fun k => (d.ten.live.byPpa (k * 64)).isNone)).map (fun k => pageOf (k * 64))
  let doms := (named.map Prod.fst).foldl addOnce []
  let d := d.each doms (fun d dom =>
    let pages := (named.filter (fun x => x.1 == dom)).map Prod.snd
    (if dom = 0 then d else d.postLost dom port false pages).postLost 0 port false pages)
  d.postLost 0 port true bare

/-- Frames of every class but RSP and MGT toward a fenced port are discarded, those queued before the fence among them (R464). -/
def Dev.clearToward (d : Dev) (p : Nat) : Dev :=
  let gone := d.sw.cells.filter (fun c => c.dst == .port p && c.cls != 0 && c.cls != 5)
  let d := d.each gone (fun d c => (d.dropCell c).each c.frames (fun d f => (d.bump Reg.SLAG_FENCED).discardFrame c f))
  let keep := fun (s : Staged) => match bodyMsg s.body with
    | some m => m.cls == 0 || m.cls == 5
    | none => true
  let d := d.bumpBy Reg.SLAG_FENCED ((d.link p).staged.filter (fun s => !keep s)).length
  d.onLink p (fun l => { l with staged := l.staged.filter keep })

/-- RAS_STAT follows the degraded regions (R471). -/
def Dev.showRas (d : Dev) : Dev :=
  let d := d.set Reg.RAS_STAT_DEGRADED_ANY (if d.ras.degraded = [] then 0 else 1)
  d.set Reg.RAS_STAT_RESYNC_BUSY (if d.ras.degraded.any Degraded.resync then 1 else 0)

/-- The mirrored regions of the live map with a copy on a port: index, entry and whether that copy is the mirror. -/
def Dev.mirroredOn (d : Dev) (p : Nat) : List (Nat × RtEntry × Bool) :=
  d.ten.live.rt.filterMap (fun x =>
    if x.2.kind == 1 && x.2.mirror then
      if decide (p ∈ d.ten.live.set x.2.stripe) then some (x.1, x.2, false)
      else if decide (p ∈ d.ten.live.set x.2.mstripe) then some (x.1, x.2, true) else none
    else none)

/-- The degraded records changed. -/
def Dev.onDegraded (d : Dev) (f : Degraded → Degraded) : Dev :=
  { d with ras := { d.ras with degraded := d.ras.degraded.map f } }

/-- One degraded record changed. -/
def Dev.onDegradedAt (d : Dev) (key : Nat) (f : Degraded → Degraded) : Dev :=
  d.onDegraded (fun g => if g.key = key then f g else g)

/-- Mirrored regions with a copy on a dead port become DEGRADED (R459), with a record of that port; a resync onto that port stops, its pages
staying marked. -/
def Dev.degrade (d : Dev) (p : Nat) : Dev :=
  let hit := d.mirroredOn p
  let fresh := hit.filter (fun x => (d.degradedOf (x.1 * 1024 + p)).isNone)
  let d := d.onDegraded (fun g => if !g.whole && g.port == p then { g with resync := false, out := [], done := [] } else g)
  let news : List Degraded := fresh.map (fun x => ⟨x.1, if x.2.2 then 0 else 1, p, [], [], [], false, false, 0⟩)
  let d := { d with ras := { d.ras with degraded := d.ras.degraded ++ news } }
  let d := if fresh = [] then d
    else d.post (0 :: fresh.map (fun x => x.2.1.dom)) 0x25 (p :: fresh.map Prod.fst)
  d.showRas

/-- A weight push drops a fenced port as a failed member (R464). -/
def Dev.dropMember (d : Dev) (p : Nat) : Dev :=
  { d with store := { d.store with pushes := d.store.pushes.map (fun w =>
    if decide (p ∈ w.members) then
      { w with failed := w.failed ++ [p], members := w.members.filter (fun q => q != p), wait := w.wait.filter (fun q => q != p) }
    else w) } }

/-- MGT FENCE with the port's epoch while the link can carry it (R464). -/
def Dev.sendFence (d : Dev) (p : Nat) : Dev :=
  if d.linkState p = 0 then d else d.sendMsg .core p (mgtMsg 2 (d.get (Reg.PORT_FENCE_FENCE_EPOCH p))) 0

/-- A declaration counted, and posted with the new epoch (R464, R569). -/
def Dev.announceDead (d : Dev) (p cause : Nat) : Dev :=
  let epoch := (d.get (Reg.PORT_FENCE_FENCE_EPOCH p) + 1) % 65536
  let d := (d.set (Reg.PORT_FENCE_FENCE_EPOCH p) epoch).set (Reg.PORT_FENCE_CAUSE p) cause
  let d := ((d.bump Reg.PORTS_DEAD).set Reg.RAS_STAT_LAST_DEAD p).post (d.portFns p) 0x23 [p, cause, epoch]
  (d.trace 4 0xF (p + epoch * 65536)).sendFence p

/-- What a fence settles beside the port itself (R154, R155, R159, R459, R464). -/
def Dev.settleFence (d : Dev) (p : Nat) : Dev :=
  let d := (d.clearToward p).dropMember p
  if d.isRole p 0 then
    let (d, dirty) := d.loseRequester p
    d.reportLost p dirty
  else (d.degrade p).loseTarget p

/-- A declaration under R463 (R464, R569): causes 1 heartbeat, 2 DOWN, 3 FENCE_CTL, 4 partition. -/
def Dev.declareDead (d : Dev) (p cause : Nat) : Dev :=
  if !(d.isGlois p) then d
  else if d.fenced p then
    if d.flag (Reg.PORT_FENCE_ADMIT_PENDING p) then
      ((d.set (Reg.PORT_FENCE_ADMIT_PENDING p) 0).onLink p (fun l => { l with admitSend := false })).announceDead p cause
    else d
  else ((d.set (Reg.PORT_FENCE_FENCED p) 1).announceDead p cause).settleFence p

/-- ADMIT (R465): FENCE_EPOCH rises, the timer restarts, and MGT ADMIT goes out as soon as the port is ACTIVE. -/
def Dev.admitPort (d : Dev) (p : Nat) : Dev :=
  if !(d.isGlois p) || !(d.fenced p) then d else
  let epoch := (d.get (Reg.PORT_FENCE_FENCE_EPOCH p) + 1) % 65536
  let d := (d.set (Reg.PORT_FENCE_FENCE_EPOCH p) epoch).set (Reg.PORT_FENCE_ADMIT_PENDING p) 1
  let d := d.onLink p (fun l => { l with hbSeen := d.time })
  if d.linkState p = 4 then d.sendMsg .core p (mgtMsg 3 epoch) 0 else d.onLink p (fun l => { l with admitSend := true })

/-- The resync of the regions whose copy lies on a re-admitted port starts (R460). -/
def Dev.startResync (d : Dev) (p : Nat) : Dev :=
  (d.onDegraded (fun g => if !g.whole && g.port == p then { g with resync := true } else g)).showRas

/-- A record with no marked page left goes; with the last one of its region the region leaves DEGRADED (R460). -/
def Dev.endResync (d : Dev) (g : Degraded) : Dev :=
  let owner := ((Tab.find? d.ten.live.rt g.index).map RtEntry.dom).getD 0
  let d := { d with ras := { d.ras with degraded := d.ras.degraded.filter (fun x => x.key != g.key) } }
  match d.ras.degraded.find? (fun x => x.index == g.index) with
  | some h => (d.onDegradedAt h.key (fun x => { x with copied := x.copied + g.copied })).showRas
  | none => (d.post [0, owner] 0x26 [g.index, g.copied]).showRas

/-- Regions whose resync has nothing left to copy leave DEGRADED. -/
def Dev.endResyncs (d : Dev) : Dev :=
  d.each (d.ras.degraded.filter (fun g => g.resync && g.marks == [] && g.out == [])) Dev.endResync

/-- The heartbeat that answers an ADMIT (R465): the port is admitted, and its parked requests are issued again (R161). -/
def Dev.portAdmitted (d : Dev) (p : Nat) : Dev :=
  let d := ((d.set (Reg.PORT_FENCE_FENCED p) 0).set (Reg.PORT_FENCE_ADMIT_PENDING p) 0).set (Reg.PORT_FENCE_CAUSE p) 0
  let d := d.post (d.portFns p) 0x24 [p, d.get (Reg.PORT_FENCE_FENCE_EPOCH p)]
  if d.isRole p 1 then ((d.startResync p).endResyncs).reissueParked else d

/-- A HEARTBEAT arrives (R463, R465, R466); the first after its timeout has won is late (R468). -/
def Dev.takeHeartbeat (d : Dev) (p : Nat) (m : Msg) : Dev :=
  if !(d.isGlois p) then d else
  let late := (d.link p).hbLate
  let d := (d.when late (fun d => d.bump Reg.LATE_ITEMS)).onLink p (fun l => { l with hbLate := false })
  if m.fenceEpoch != d.get (Reg.PORT_FENCE_FENCE_EPOCH p) then d.bump Reg.HB_STALE
  else
    let d := d.onLink p (fun l => { l with hbSeen := d.time })
    if d.fenced p && d.flag (Reg.PORT_FENCE_ADMIT_PENDING p) then d.portAdmitted p else d

/-- No HEARTBEAT within HB_TIMEOUT_US on an ACTIVE port (R463). -/
def Dev.heartbeatTimeout (d : Dev) (p : Nat) : Dev :=
  if d.linkState p = 4 && decide ((d.link p).hbSeen + max 1 (d.get Reg.RAS_CTL_HB_TIMEOUT_US) * 1000 ≤ d.time) then
    (d.declareDead p 1).onLink p (fun l => { l with hbLate := true })
  else d

/-- The ports of a partition. -/
def Dev.partPorts (d : Dev) (k : Nat) : List Nat := (rangeFrom 0 512).filter (fun p => d.isGlois p && d.portPart p == k)

/-- The domains of a partition (R473). -/
def Dev.partDoms (d : Dev) (k : Nat) : List Nat := (rangeFrom 0 4096).filter (fun x => d.domPart x == k)

/-- A partition fence (R467): every port of the partition is declared dead, its lanes held in electrical idle if asked. -/
def Dev.fencePart (d : Dev) (k : Nat) (electrical : Bool) : Dev :=
  if k = 0 then d else
  let d := d.each (d.partPorts k) (fun d p =>
    let d := d.declareDead p 4
    if electrical then
      let d := if d.linkState p = 0 then d else d.fallDown p
      d.onLink p (fun l => { l with electrical := true })
    else d)
  d.post (0 :: d.partDoms k) 0x29 [k, if electrical then 1 else 0]

/-- The end of a partition's electrical hold (R467). -/
def Dev.releasePart (d : Dev) (k : Nat) : Dev :=
  if k = 0 then d else d.each (d.partPorts k) (fun d p => d.onLink p (fun l => { l with electrical := false }))

/-- The 2 MiB pages of a region, by PPA. -/
def RtEntry.ppaPages (e : RtEntry) : List Nat := rangeFrom e.ppaPage e.pages

/-- MIRROR_MARK (R462): the region enters DEGRADED with every page marked; its resync runs once the RAS cores run. -/
def Dev.markMirror (d : Dev) (index survivor : Nat) : Dev :=
  match Tab.find? d.ten.live.rt index with
  | none => d
  | some e =>
    if e.kind != 1 || !e.mirror then d else
    let back := (if survivor = 0 then d.ten.live.mirrorPort e (e.ppaPage * 0x20_0000)
      else d.ten.live.primary e (e.ppaPage * 0x20_0000)).getD 512
    let g : Degraded := ⟨index, survivor, back, e.ppaPages, [], [], true, true, 0⟩
    let rest := d.ras.degraded.filter (fun (x : Degraded) => x.index != index)
    ({ d with ras := { d.ras with degraded := rest ++ [g] } }).showRas

/-- The port that a line of a degraded region is copied to: the one that holds its other copy. -/
def Dev.copyTarget (d : Dev) (g : Degraded) (e : RtEntry) (k : Nat) : Option Nat :=
  if g.survivor = 0 then d.ten.live.mirrorPort e (k * 64) else d.ten.live.primary e (k * 64)

/-- Whether a line of a page is still to be copied: its copy lies on the returning port, or the region is copied whole (R460). -/
def Dev.needsCopy (d : Dev) (g : Degraded) (e : RtEntry) (k : Nat) : Bool :=
  !(decide (k ∈ g.done)) && (match d.copyTarget g e k with
    | some p => g.whole || p == g.port
    | none => false)

/-- The request that copies one line to the copy that comes back: the copy's number stands in COUNT, its port in the mask. -/
def resyncReq (g : Degraded) (k port epoch tc : Nat) : HomeReq :=
  { who := .resync g.key, tag := k, op := .resync, dom := 0, ppa := k * 64, count := if g.survivor = 0 then 1 else 0, first := k * 64,
    data := [], mask := port, tc := tc, ctrKind := 0, ctr := 0, epoch := epoch, no := 0, parity := 0, gen := none }

/-- Whether a RAS core runs (R462, R497). -/
def Dev.rasUp (d : Dev) : Bool := d.rasServes 0 || d.rasServes 1

/-- The next line of a record's resync (R460): one request at the line's home, once a RAS core runs (R462); a page without further lines is
unmarked. -/
def Dev.resyncRecord (d : Dev) (key : Nat) : Dev :=
  if !d.rasUp then d else
  match d.degradedOf key, Tab.find? d.ten.live.rt (key / 1024) with
  | some g, some e =>
    if !g.resync then d else
    match g.marks with
    | [] => d.endResyncs
    | page :: rest =>
      let left := (rangeFrom (page * 32768) 32768).filter (d.needsCopy g e)
      if left = [] then (d.onDegradedAt key (fun g => { g with marks := rest, done := [] })).endResyncs else
      match left.find? (fun k => !(decide (k ∈ g.out)) && !d.fenced ((d.copyTarget g e k).getD 0)) with
      | some k =>
        (d.onDegradedAt key (fun g => { g with out := g.out ++ [k] })).askHome
          (resyncReq g k ((d.copyTarget g e k).getD 0) d.epoch (d.get Reg.BELLOWS_CTL_QUENCH_TC))
      | none => d
  | _, _ => d

/-- The next line of the resync of region `index` (R460): of its first record whose resync runs. -/
def Dev.resyncStep (d : Dev) (index : Nat) : Dev :=
  match d.ras.degraded.find? (fun g => g.index == index && g.resync) with
  | some g => d.resyncRecord g.key
  | none => d

/-- A line of a resync has been copied, and counts, or has failed and stays to be copied again. The answer for a line of a resync that has
stopped meanwhile says nothing (R461). -/
def Dev.resyncDone (d : Dev) (key k status : Nat) : Dev :=
  if !((d.degradedOf key).any (fun g => decide (k ∈ g.out))) then d else
  let d := d.when (status == 0) (fun d => d.bump Reg.RESYNC_LINES)
  d.onDegradedAt key (fun g => { g with
    out := g.out.filter (fun x => x != k), done := if status = 0 then addOnce g.done k else g.done,
    copied := if status = 0 then g.copied + 1 else g.copied })

/-- A lane with a lasting fault (R126, R451): the port and logical lane that run on the physical lane. -/
def Dev.laneUser (d : Dev) (res : Nat) : Option (Nat × Nat) :=
  ((rangeFrom 0 512).filter (fun p => d.placed p && d.get (Reg.PORT_CFG_IO_DIE p) == res / 256)).findSome? (fun p =>
    ((rangeFrom 0 (d.width p)).find? (fun l => d.get (Reg.LANE_PHYS p l) == res % 256)).map (fun l => (p, l)))

/-- A Hearth bank with a lasting fault is drained (R454). -/
def Dev.drainBank (d : Dev) (bank : Nat) : Dev :=
  if decide (bank ∈ d.sw.draining) || decide (bank ∈ d.sw.retired) then d
  else { d with sw := { d.sw with draining := d.sw.draining ++ [bank] } }

/-- Whether a bank still holds a cell. -/
def Dev.bankBusy (d : Dev) (bank : Nat) : Bool := d.sw.cells.any (fun c => c.number / 8192 == bank)

/-- An emptied bank (R453, R454): a spare of its die takes over its cell numbers, or it is retired. -/
def Dev.bankDrained (d : Dev) (bank : Nat) : Dev :=
  if decide (bank ∉ d.sw.draining) || d.bankBusy bank then d else
  let d := { d with sw := { d.sw with draining := d.sw.draining.filter (fun b => b != bank) } }
  let f := if bank < 64 then Reg.HEARTH_STAT_BANK_SPARES_A else Reg.HEARTH_STAT_BANK_SPARES_B
  let free := d.get f
  let d := if free = 0 then { d with sw := { d.sw with retired := d.sw.retired ++ [bank] } }
    else ((d.set f (free - 1)).logSwap 2 bank (bank / 64 * 4 + (4 - free))).when (free == 1) (fun d => d.sparesGone 2 (bank / 64))
  d.showCells .core (bank / 64)

/-- A crossbar plane with a lasting fault (R453): the ninth plane takes its place. -/
def Dev.sparePlane (d : Dev) (k : Nat) : Dev :=
  let spare := d.get Reg.XBAR_STAT_SPARE_PLANE
  let on := d.get Reg.XBAR_STAT_PLANES_ACTIVE
  if !bitOf on k then d
  else if 8 < spare then d.set Reg.XBAR_STAT_PLANES_ACTIVE (on - 2 ^ k)
  else
    let d := (d.set Reg.XBAR_STAT_PLANES_ACTIVE (Nat.lor (on - 2 ^ k) (2 ^ spare))).set Reg.XBAR_STAT_SPARE_PLANE 0xF
    (((d.set Reg.CAPS_XBAR_SPARES_FREE 0).logSwap 3 k spare)).sparesGone 3 0

/-- A lasting fault of device memory (R451 class 4): its TIER or SHADOW frame is retired. -/
def Dev.retireFrame (d : Dev) (unit_ : Nat) : Dev :=
  let a := unit_ * 0x20_0000
  let inArea := fun x => decide (d.areaBase x ≤ a) && decide (a < d.areaBase x + d.areaSize x)
  if inArea 7 || inArea 6 then
    let slot := (a - d.areaBase 7) / 0x20_0000
    let frames := d.store.frames.map (fun (f : TierFrame) => if inArea 7 && f.slot = slot then { f with mode := 2 } else f)
    let shadows := d.store.shadows.filter (fun (s : Shadow) => !(inArea 6 && decide (a ≤ s.addr) && decide (s.addr < a + 0x20_0000)))
    let d := { d with store := { d.store with frames := frames, shadows := shadows } }
    ({ d with ras := { d.ras with badUnits := addOnce d.ras.badUnits unit_ } }).bump Reg.FRAMES_RETIRED
  else d

/-- One millisecond interval of a lane with more corrected symbols than LANE_SER_16 × 16 is a LANE event (R451). -/
def Dev.laneInterval (d : Dev) (p lane symbols : Nat) : Dev :=
  if d.isGlois p && decide (d.get Reg.RAS_CTL_LANE_SER_16 * 16 < symbols) then
    d.temperEvent 0 (d.get (Reg.PORT_CFG_IO_DIE p) * 256 + d.get (Reg.LANE_PHYS p lane))
  else d

/-- TRAY_EVENT (R107, R451, R473): event 0x01 counts in the tray's Temper window. -/
def Dev.trayEvent (d : Dev) (p : Nat) (m : Msg) : Dev :=
  let ev := m.field 32 8
  (d.when (ev == 1) (fun d => d.temperEvent 5 p)).post [0] 0x2B [p, ev, m.field 44 52]

end Sys2Proof.Machine
end

