-- ==== Sys2Proof/Machine/Tenancy.lean ====
section
/-! DEFINITION. Domains, extents and composition (chapter 12): staged changes, commits and epochs (R421, R428 to R431), extents and
Quench (R425 to R427, R432 to R437), ownership leases (R438 to R442), and what the registers of the live map show (R444, R446). -/
namespace Sys2Proof.Machine

/-- A change staged by a function (R428). -/
def Dev.stage (d : Dev) (fn : Nat) (c : Change) : Dev :=
  let l := Tab.get [] d.ten.staged fn ++ [c]
  let d := { d with ten := { d.ten with staged := Tab.ins d.ten.staged fn l } }
  if fn = 0 then d.set Reg.COMP_STAT_STAGED 1 else d

/-- A function's staged changes discarded. -/
def Dev.unstage (d : Dev) (fn : Nat) : Dev :=
  let d := { d with ten := { d.ten with staged := Tab.del d.ten.staged fn } }
  if fn = 0 then d.set Reg.COMP_STAT_STAGED 0 else d

/-- One staged change applied to a bank. -/
def Bank.apply (b : Bank) : Change → Bank
  | .entry i e => { b with rt := if e.kind = 0 then Tab.del b.rt i else Tab.ins b.rt i e }
  | .stripe s ports => { b with stripes := Tab.put [] b.stripes s ports }
  | .bind p v => { b with bind := Tab.put 0 b.bind p v }
  | .pool k v => { b with pools := Tab.put 0 b.pools k v }
  | .poolDom k v => { b with poolDom := Tab.put 0 b.poolDom k v }

/-- Whether two ranges of pages meet. -/
def meets (a n b m : Nat) : Bool := decide (a < b + m) && decide (b < a + n)

/-- Cause 1 of R421 between two entries of one domain. -/
def dpaClash (x y : RtEntry) : Bool := x.dom == y.dom && meets x.dpaPage x.pages y.dpaPage y.pages

/-- Cause 2 of R421 between two LOCAL entries. -/
def ppaClash (x y : RtEntry) : Bool := x.kind == 1 && y.kind == 1 && meets x.ppaPage x.pages y.ppaPage y.pages

/-- Cause 3 of R421: a LOCAL entry outside one extent of its domain. -/
def Dev.badExtent (d : Dev) (e : RtEntry) : Bool :=
  e.kind == 1 && !(d.ten.exts.any (fun x =>
    let base := d.get (Reg.EXT_BASE_PPA_PAGE x)
    decide (base ≤ e.ppaPage) && decide (e.ppaPage + e.pages ≤ base + d.get (Reg.EXT_BASE_PAGES x)) &&
    decide (d.extOwner x = some e.dom)))

/-- Cause 4 of R421 for an entry (R341, R342, R420, R456): a field out of range, a MEMSIDE region with a tier or a code, a stripe set
not in use, or sets of a mirrored entry that share a port. -/
def Bank.badFields (b : Bank) (e : RtEntry) : Bool :=
  2 < e.kind || fieldOf e.w0 46 18 != 0 || fieldOf e.w1 34 30 != 0 || e.pages == 0 || decide (2 ^ 31 < e.pages) ||
  decide (2 ^ 31 < e.dpaPage + e.pages) ||
  (if e.kind = 1 then
    bitOf e.w2 63 || e.w3 != 0 || e.tier == 3 || e.cmode == 3 || 5 < e.cfmt || (e.cmode == 0 && e.cfmt != 0) ||
    (e.cmode != 0 && e.cfmt == 0) || (e.memside && (e.tier != 0 || e.cmode != 0)) || decide (2 ^ 31 < e.ppaPage + e.pages) ||
    b.set e.stripe == [] || (if e.mirror then b.set e.mstripe == [] || (b.set e.stripe).any (fun p => decide (p ∈ b.set e.mstripe))
      else e.mstripe != 0)
  else fieldOf e.w2 52 12 != 0 || fieldOf e.w3 52 12 != 0)

/-- The first cause of R421 that an entry of a bank breaks; 0 none. -/
def Dev.entryCause (d : Dev) (b : Bank) (ix : Nat) (e : RtEntry) : Nat :=
  if b.rt.any (fun x => x.1 != ix && dpaClash x.2 e) then 1
  else if b.rt.any (fun x => x.1 != ix && ppaClash x.2 e) then 2
  else if d.badExtent e then 3
  else if b.badFields e then 4 else 0

/-- Whether a pool of a bank has a member that is no requester port bound to the pool's domain (R421 cause 4). -/
def Dev.badPool (d : Dev) (b : Bank) (k : Nat) : Bool :=
  let v := Tab.get 0 b.poolDom k
  bitOf v 12 && (rangeFrom 0 512).any (fun p => bitOf (Tab.get 0 b.pools (k * 8 + p / 64)) (p % 64) &&
    !(d.isRole p 0 && Tab.get 0 b.bind p == 4096 + fieldOf v 0 12))

/-- Whether a staged stripe set is one the part can use (R353): up to 128 target ports. -/
def Dev.badStripe (d : Dev) (ports : List Nat) : Bool := 128 < ports.length || ports.any (fun p => decide (512 ≤ p) || !(d.isRole p 1))

/-- The map entry that a bank's stripe set leaves out of range (R421 cause 4): the first that names the set. -/
def Bank.stripeHurts (b : Bank) (s : Nat) : Option Nat :=
  (b.rt.find? (fun x => x.2.kind == 1 && (x.2.stripe == s || (x.2.mirror && x.2.mstripe == s)) && b.badFields x.2)).map Prod.fst

/-- The pool that a bank's binding of a port leaves with a foreign member (R421 cause 4). -/
def Dev.bindHurts (d : Dev) (b : Bank) (p : Nat) : Option Nat :=
  (rangeFrom 0 256).find? (fun k => bitOf (Tab.get 0 b.pools (k * 8 + p / 64)) (p % 64) && d.badPool b k)

/-- The cause for which a staged change is refused, with its index; none when it may stand (R421). A change of a set or a binding that
breaks an entry or a pool names that entry or pool. -/
def Dev.changeCause (d : Dev) (b : Bank) : Change → Option (Nat × Nat)
  | .entry i _ => (match Tab.find? b.rt i with
    | some e => if d.entryCause b i e = 0 then none else some (i, d.entryCause b i e)
    | none => none)
  | .stripe s ports => if d.badStripe ports then some (s, 4) else (b.stripeHurts s).map (fun i => (i, 4))
  | .bind p _ => (d.bindHurts b p).map (fun k => (k, 4))
  | .pool k _ => if d.badPool b (k / 8) then some (k / 8, 4) else none
  | .poolDom k _ => if d.badPool b k then some (k, 4) else none

/-- Every line of a range of pages that some agent outside the pool holds, or the atomic buffer does, or a request under way may yet
grant. -/
def Dev.heldLines (d : Dev) (page n : Nat) : List Nat :=
  (d.home.lines.filter (fun l => (decide (l.2.st ≠ .inv) || l.2.busy.isSome) && decide (page ≤ pageOf (l.1 * 64)) &&
    decide (pageOf (l.1 * 64) < page + n))).map Prod.fst

/-- The copies of a line recalled and invalidated by its home, ahead of the requests that wait (R136, R432). -/
def Dev.recallLine (d : Dev) (id tag k : Nat) : Dev :=
  (d.onLine k (fun l => { l with queue := ⟨recallReq d k id tag, d.time, [], true⟩ :: l.queue })).pumpLine k

/-- The copies of a range of pages recalled. -/
def Dev.recallPages (d : Dev) (page n id tag : Nat) : Dev := d.each (d.heldLines page n) (fun d k => d.recallLine id tag k)

/-- The entry of the live map whose new MODE a held line meets (R136), if a commit changes it: whichever entries map the line before and
after. A line that nothing mapped before is recalled as well. -/
def Dev.modeMet (d : Dev) (before : Bank) (k : Nat) : Option Nat :=
  match before.byPpa (k * 64), d.ten.live.byPpa (k * 64) with
  | some (_, x), some (ix, y) => if x.ownedWb != y.ownedWb then some ix else none
  | none, some (ix, _) => some ix
  | _, none => none

/-- The recalls of a commit (R136): every copy of a line whose region's MODE it changes. -/
def Dev.modeRecalls (d : Dev) (before : Bank) : Dev :=
  d.each (d.heldLines 0 (2 ^ 31)) (fun d k => match d.modeMet before k with
    | some ix => d.recallLine 1 ix k
    | none => d)

/-- What a commit does to a region that was there before (R460): a copy moved to another set while the region is DEGRADED is copied
whole, and the records of the ports it leaves go. -/
def Dev.regionChanged (d : Dev) (ix : Nat) (old new : RtEntry) : Dev :=
  let mine := d.ras.degraded.filter (fun g => g.index == ix)
  let others := d.ras.degraded.filter (fun g => g.index != ix)
  let moved := (old.stripe != new.stripe) || (old.mstripe != new.mstripe)
  if mine = [] then d
  else if !(new.kind == 1 && new.mirror) then ({ d with ras := { d.ras with degraded := others } }).showRas
  else if moved then
    let survivor := if old.stripe != new.stripe then 1 else 0
    let stays := mine.filter (fun g => !g.whole && g.survivor != survivor)
    let g : Degraded := ⟨ix, survivor, 0, new.ppaPages, [], [], true, true, sumBy Degraded.copied (mine.filter (fun g => decide (g ∉ stays)))⟩
    ({ d with ras := { d.ras with degraded := others ++ stays ++ [g] } }).showRas
  else d

/-- The bank a function's commit would make live (R428). -/
def Dev.nextBank (d : Dev) (fn : Nat) : Bank := (Tab.get [] d.ten.staged fn).foldl Bank.apply d.ten.live

/-- The old epoch retires when nothing is in flight under it (R429); `atLimit` is 1 at the transition limit. -/
def Dev.retireEpoch (d : Dev) (atLimit : Nat) : Dev :=
  if d.ten.old.isSome && !(d.ten.flight.any d.oldFlight) then
    ((({ d with ten := { d.ten with old := none } }).set Reg.COMP_STAT_OLD_LIVE 0).set Reg.COMP_STAT_OLD_INFLIGHT 0).trace 3 0xF
      ((d.epoch + 65535) % 65536 + atLimit * 65536)
  else d

/-- The map entries that staged changes name. -/
def touchedBy (staged : List Change) : List Nat :=
  (staged.filterMap (fun c => match c with
    | .entry i _ => some i
    | _ => none)).foldl addOnce []

/-- What a commit from one bank to another does to the region of entry `i`, if it was there before. -/
def Dev.entryChanged (d : Dev) (before after : Bank) (i : Nat) : Dev :=
  match Tab.find? before.rt i with
  | some o => d.regionChanged i o ((Tab.find? after.rt i).getD RtEntry.none)
  | none => d

/-- A commit by a function (R421, R428): refused whole, or live under the next epoch. The result says which. -/
def Dev.commit (d : Dev) (fn : Nat) : Dev × Bool :=
  let staged := Tab.get [] d.ten.staged fn
  let b := d.nextBank fn
  match staged.findSome? (d.changeCause b) with
  | some (ix, cause) =>
    let d := ((d.set Reg.COMP_ERR_INDEX ix).set Reg.COMP_ERR_CAUSE cause).set Reg.COMP_ERR_VALID 1
    (d.bump Reg.COMMIT_REFUSED, false)
  | none =>
    let before := d.ten.live
    let d := { d with ten := { d.ten with old := some before, live := b, oldAt := d.time } }
    let d := ((d.set Reg.COMP_STAT_LIVE_EPOCH ((d.epoch + 1) % 65536)).set Reg.COMP_STAT_OLD_LIVE 1).set Reg.COMP_ERR_VALID 0
    let d := (d.unstage fn).showFlight 65536
    let d := (d.each (touchedBy staged) (fun d i => d.entryChanged before b i)).modeRecalls before
    let d := d.set Reg.DIR_STAT_MODE_CHANGE_BUSY (if d.recalling 1 none then 1 else 0)
    (((d.trace 2 0xF d.epoch).retireEpoch 0).reissueParked, true)

/-- COMP_CTL.COMMIT (R429): refused while the previous epoch is live. -/
def Dev.registerCommit (d : Dev) : Dev := if d.ten.old.isSome then d.bump Reg.COMMIT_REFUSED else (d.commit 0).1

/-- A request still stamped with the old epoch at the limit completes with STALE-EPOCH (R429, R430). -/
def Dev.staleOne (d : Dev) (f : Flight) : Dev :=
  let d := (d.bump Reg.STALE_EPOCH_REQ).endFlight f.who f.tag
  match f.who with
  | .port p => d.sendMsg .core p (rspMsg 0 f.tag (ownTc 6) 5) 0
  | _ => { d with home := { d.home with mail := d.home.mail ++ [⟨f.who, f.tag, 0, .takeBack, 5, []⟩] } }

/-- The transition limit (R429). -/
def Dev.transitionLimit (d : Dev) : Dev :=
  if d.ten.old.isNone || decide (d.time < d.ten.oldAt + max 10 (d.get Reg.COMP_CTL_TRANS_LIMIT_US) * 1000) then d
  else (d.each (d.ten.flight.filter d.oldFlight) Dev.staleOne).retireEpoch 1

/-- RT_GO.WRITE (R444): RT_DATA staged as PF0's change to entry INDEX. -/
def Dev.rtGoWrite (d : Dev) : Dev :=
  let w := fun k => d.reg (Reg.RT_DATA k)
  if d.get Reg.RT_CAP_TOTAL ≤ d.get Reg.RT_SEL_INDEX then d else
  d.stage 0 (.entry (d.get Reg.RT_SEL_INDEX) ⟨w 0, w 1, w 2, w 3⟩)

/-- RT_GO.READ (R444): the live entry INDEX into RT_DATA. -/
def Dev.rtGoRead (d : Dev) : Dev :=
  let e := (Tab.find? d.ten.live.rt (d.get Reg.RT_SEL_INDEX)).getD RtEntry.none
  (((d.setReg (Reg.RT_DATA 0) e.w0).setReg (Reg.RT_DATA 1) e.w1).setReg (Reg.RT_DATA 2) e.w2).setReg (Reg.RT_DATA 3) e.w3

/-- A bank of the composition map with an entry lost in both copies, which reads as INVALID (R449): by the table numbers of `Upset`, of
which 2, 7, 8 and 10 to 12 are stripe sets, bindings and pools. -/
def Bank.lose (b : Bank) (table key : Nat) : Bank :=
  match table with
  | 2 | 10 => { b with stripes := Tab.del b.stripes key }
  | 7 | 11 => { b with bind := Tab.del b.bind key }
  | 8 | 12 => { b with poolDom := Tab.del b.poolDom key }
  | _ => { b with rt := Tab.del b.rt key }

/-- A word of a state table has been found wrong (R449): the second copy serves and it is rewritten, or with `second` false the entry reads
as INVALID. Tables as in `Upset`; the assignment of an extent whose state is lost rewrites it (assumption log 163). -/
def Dev.upsetTable (d : Dev) (table key : Nat) (second : Bool) : Dev :=
  if second then d.bump Reg.STATE_CORRECTED
  else if table = 0 then
    let r := { recallReq d key 7 0 with parity := 2 }
    (d.onLine key (fun l => { l with queue := ⟨r, d.time, [], true⟩ :: l.queue })).pumpLine key
  else
    let d := (d.bump Reg.STATE_UNCORR).post [0] 0x27 [(Config.areaCode table).toNat, key]
    match table with
    | 3 => d.onFrame key (fun f => { f with mode := 3 })
    | 4 => { d with ten := { d.ten with leases := d.ten.leases.map (fun x => if x.1 = key then (x.1, { x.2 with lost := true }) else x) } }
    | 5 => { d with grt := { d.grt with regs := d.grt.regs.map (fun x => if x.1 = key then (x.1, { x.2 with lost := true }) else x) } }
    | 6 => { d with ras := { d.ras with lostExts := addOnce d.ras.lostExts key } }
    | n =>
      if n < 9 then { d with ten := { d.ten with live := d.ten.live.lose n key } }
      else { d with ten := { d.ten with old := d.ten.old.map (fun b => b.lose n key) } }

/-- EXT_CMD ASSIGN (R426): a FREE extent of the image to its new owner; the result says whether it was done. -/
def Dev.extAssign (d : Dev) (e dom : Nat) : Dev × Bool :=
  if decide (e ∉ d.ten.exts) || (d.extState e != 0 && decide (e ∉ d.ras.lostExts)) then (d.bump Reg.EXT_CMD_REFUSED, false)
  else (({ d with ras := { d.ras with lostExts := d.ras.lostExts.filter (fun x => x != e) } }.setExtState e 1).set (Reg.EXT_STATE_OWNER e) dom, true)

/-- Parked requests of a fenced extent complete with REVOKED (R432). -/
def Dev.revokeParked (d : Dev) (e : Nat) : Dev := d.endParked Reg.REVOKED_REQ 2 (fun k _ => d.extHas e (pageOf (k * 64)))

/-- The key sweep leaves out a fenced extent, whose pages not yet swept leave PREV_PAGES (R375, R433); it waits for no request of it. -/
def Dev.sweepSkips (d : Dev) (e : Nat) : Dev :=
  let owner := d.get (Reg.EXT_STATE_OWNER e)
  let lost := sumBy (fun s : Sweep => if s.dom = owner then (s.pages.filter (d.extHas e)).length else 0) d.store.sweeps
  let sweeps := d.store.sweeps.map (fun (s : Sweep) => if s.dom = owner then
    { s with pages := s.pages.filter (fun p => !d.extHas e p), out := s.out.filter (fun k => !d.extHas e (pageOf (k * 64))), next := if (s.pages.head?.map (d.extHas e)).getD false then 0 else s.next } else s)
  ({ d with store := { d.store with sweeps := sweeps } }).set (Reg.KEYPAGES_PREV_PAGES owner)
    (d.get (Reg.KEYPAGES_PREV_PAGES owner) - lost)

/-- What the fence records of every LOCAL entry that maps part of the extent (R436). -/
def Dev.fillRanges (d : Dev) (e : Nat) : List FillRange :=
  let base := d.get (Reg.EXT_BASE_PPA_PAGE e)
  (d.ten.live.rt.filter (fun x => x.2.kind == 1 && meets x.2.ppaPage x.2.pages base (d.extPages e))).map (fun x =>
    ⟨x.2.ppaPage, x.2.pages, d.ten.live.set x.2.stripe, if x.2.mirror then d.ten.live.set x.2.mstripe else []⟩)

/-- Whether a shadow span lies in an extent (R354, R434): a LOCAL entry of its domain, live or old, maps its base there. -/
def Dev.spanIn (d : Dev) (e : Nat) (x : Nat × Span) : Bool :=
  (d.ten.live :: d.ten.old.toList).any (fun b => match b.byDpa x.2.dom x.2.base with
    | some (_, r) => r.kind == 1 && d.extHas e (pageOf (r.toPpa x.2.base))
    | none => false)

/-- EXT_CMD REVOKE (R432): an ASSIGNED extent is fenced, its parked requests end, its copies are recalled. -/
def Dev.extRevoke (d : Dev) (e : Nat) (erase : Bool) : Dev × Bool :=
  if decide (e ∉ d.ten.exts) || decide (e ∈ d.ras.lostExts) || d.extState e != 1 then (d.bump Reg.EXT_CMD_REFUSED, false) else
  let owner := d.get (Reg.EXT_STATE_OWNER e)
  let cur := d.get (Reg.KEYGEN_CUR_GEN owner)
  let prev := if d.flag (Reg.KEYGEN_PREV_LIVE owner) then [d.get (Reg.KEYGEN_PREV_GEN owner)] else []
  let s : Scrub := ⟨e, false, 0, 0, [], d.fillRanges e, if erase then cur :: prev else [], owner,
    (d.store.spans.filter (d.spanIn e)).map Prod.fst⟩
  let d := (d.setExtState e 2).set (Reg.EXT_STATE_ERASE e) (if erase then 1 else 0)
  let d := { d with ten := { d.ten with scrubs := d.ten.scrubs ++ [s] } }
  let d := (d.revokeParked e).sweepSkips e
  (d.recallPages (d.get (Reg.EXT_BASE_PPA_PAGE e)) (d.extPages e) 5 e, true)

/-- EXT_CMD as a register or a ring command gives it (R444): OP 1 ASSIGN, 2 REVOKE. -/
def Dev.extCmd (d : Dev) (v : Nat) : Dev × Bool :=
  match fieldOf v 16 2 with
  | 1 => d.extAssign (fieldOf v 0 16) (fieldOf v 18 12)
  | 2 => d.extRevoke (fieldOf v 0 16) (bitOf v 30)
  | _ => (d, false)

/-- Every trace of an extent removed from the device (R434). -/
def Dev.removeTraces (d : Dev) (e : Nat) : Dev :=
  let inside := fun k => d.extHas e (pageOf (k * 64))
  let noted := ((d.scrubOf e).map Scrub.spans).getD []
  let d := { d with
    home := { d.home with lines := d.home.lines.filter (fun l => !inside l.1), abuf := d.home.abuf.filter (fun a => !inside a.line) },
    store := { d.store with
      frames := d.store.frames.filter (fun f => !d.extHas e f.page),
      cands := d.store.cands.filter (fun p => !d.extHas e p),
      shadows := d.store.shadows.filter (fun s => !d.extHas e (pageOf s.ppa)),
      builds := d.store.builds.filter (fun b => !d.extHas e (pageOf b.ppa)),
      flush := d.store.flush.filter (fun x => !d.extHas e x.1),
      spans := d.store.spans.filter (fun x => !d.spanIn e x && decide (x.1 ∉ noted)),
      quiet := d.store.quiet.filter (fun x => !d.extHas e (x.1 / 512)) } }
  let base := d.get (Reg.EXT_BASE_PPA_PAGE e)
  (d.zeroMem (d.areaBase 4 + base * 2) (d.extPages e * 2)).showTier

/-- Both key slots of a domain zeroized (R435). -/
def Dev.zeroizeKeys (d : Dev) (dom : Nat) : Dev :=
  let d := { d with store := { d.store with keys := Tab.del d.store.keys dom, sweeps := d.store.sweeps.filter (fun s => s.dom != dom) } }
  (d.setReg (Reg.KEYGEN dom) 0).setReg (Reg.KEYPAGES dom) 0

/-- An extent is ready to zero-fill: it takes its place in the order of readiness (R436). -/
def Dev.scrubReady (d : Dev) (e : Nat) : Dev :=
  let d := d.set (Reg.EXT_STATE_WAIT_KEY e) 0
  let mine := (d.ten.scrubs.filter (fun s => s.ext == e)).map (fun s => { s with ready := true })
  { d with ten := { d.ten with scrubs := d.ten.scrubs.filter (fun s => s.ext != e) ++ mine } }

/-- Whether a generation of a domain is live. -/
def Dev.genInUse (d : Dev) (dom g : Nat) : Bool :=
  g != 0 && (g == d.get (Reg.KEYGEN_CUR_GEN dom) || (g == d.get (Reg.KEYGEN_PREV_GEN dom) && d.flag (Reg.KEYGEN_PREV_LIVE dom)))

/-- Extents that waited for generations that have now retired become ready (R435). -/
def Dev.keyWaitsOver (d : Dev) : Dev :=
  d.each (d.ten.scrubs.filter (fun s => d.flag (Reg.EXT_STATE_WAIT_KEY s.ext))) (fun d s =>
    if s.waitGens.any (d.genInUse s.owner) then d else d.scrubReady s.ext)

/-- The lines of a fenced extent that some agent outside the pool, or the atomic buffer, still holds: a copy granted after the fence to a
request admitted before it is among them (R433). -/
def Dev.linesHeld (d : Dev) (e : Nat) : List Nat :=
  (d.home.lines.filter (fun l => decide (l.2.st ≠ .inv) && decide (l.2.st ≠ .lost) && d.extHas e (pageOf (l.1 * 64)))).map Prod.fst

/-- The fenced extents with nothing in flight and no recall under way recall what is still held of them (R432, R433). -/
def Dev.recallsGoOn (d : Dev) : Dev :=
  d.each (d.ten.scrubs.filter (fun s => d.extState s.ext == 2)) (fun d s =>
    if d.ten.flight.any (fun f => f.ext == s.ext) || d.recalling 5 (some s.ext) then d
    else d.each (d.linesHeld s.ext) (fun d k => d.recallLine 5 s.ext k))

/-- A fenced extent whose in-flight count is zero and whose recall is done enters QUENCHING (R432, R434, R435). -/
def Dev.extentDrained (d : Dev) (e : Nat) : Dev :=
  match d.scrubOf e with
  | none => d
  | some s =>
    if d.extState e != 2 || d.ten.flight.any (fun f => f.ext == e) || d.recalling 5 (some e) || d.linesHeld e != [] then d else
    let d := (d.setExtState e 3).post [0, s.owner] 0x31 [e]
    let d := d.removeTraces e
    let erase := d.flag (Reg.EXT_STATE_ERASE e)
    let others := d.ten.exts.any (fun x => x != e && (d.extState x == 1 || d.extState x == 2) && d.get (Reg.EXT_STATE_OWNER x) == s.owner)
    let d := if !erase then d.scrubReady e
      else if !others then ((d.zeroizeKeys s.owner).scrubReady e).keyWaitsOver
      else if s.waitGens.any (d.genInUse s.owner) then d.set (Reg.EXT_STATE_WAIT_KEY e) 1
      else d.scrubReady e
    d.showQuench

/-- A defined pool's domain (R438). -/
def Dev.poolDom (d : Dev) (k : Nat) : Option Nat :=
  let v := Tab.get 0 d.ten.live.poolDom k
  if bitOf v 12 then some (fieldOf v 0 12) else none

/-- The ownership entry of a domain's STATE_ID (R439). -/
def Dev.leaseOf (d : Dev) (dom state : Nat) : Option (Nat × Lease) :=
  d.ten.leases.find? (fun x => x.2.dom == dom && x.2.state == state && !x.2.lost)

/-- An ownership entry written. -/
def Dev.putLease (d : Dev) (i : Nat) (l : Lease) : Dev := { d with ten := { d.ten with leases := Tab.ins d.ten.leases i l } }

/-- A place for a new ownership entry (R440): that of the entry of the same domain and STATE_ID whose word is lost (R449), a free one, or the
oldest entry that is not held. -/
def Dev.leaseSlot (d : Dev) (dom state : Nat) : Option Nat :=
  match d.ten.leases.find? (fun x => x.2.dom == dom && x.2.state == state) with
  | some x => some x.1
  | none =>
  let i := freshNumber (d.ten.leases.map Prod.fst) 0 16385
  if i < 16384 then some i else
  match d.ten.leases.filter (fun x => !x.2.held) with
  | [] => none
  | x :: xs => some (xs.foldl (fun a b => if b.2.made < a.2.made then b else a) x).1

/-- Whether a claim's guard overlaps another held guard of its domain (R440 step 4). -/
def Dev.guardClash (d : Dev) (dom state page pages : Nat) : Bool :=
  pages != 0 && d.ten.leases.any (fun x => x.2.held && !x.2.lost && x.2.dom == dom && x.2.state != state && x.2.pages != 0 &&
    meets x.2.page x.2.pages page pages)

/-- What a claim meets in the table of R440: denied, or granted with whether it displaces a holder. -/
def claimWins (l : Option Lease) (epoch pool : Nat) : Bool :=
  match l with
  | none => true
  | some x => if x.held then decide (x.epoch < epoch) || (x.epoch == epoch && decide (pool ≤ x.pool)) else decide (x.epoch ≤ epoch)

/-- A claim by a function (R440): STATUS, ERR and the LEASE_EPOCH held. A renewal that comes after the expiry is late, and taken as a claim
(R442, R468). -/
def Dev.claim (d : Dev) (fn : Nat) (rec_ : List Byte) : Dev × Nat × Nat × Nat :=
  let f := fun o n => fieldBytes rec_ o n
  let state := f 0 8
  let epoch := f 8 4
  let pool := f 12 1
  let dom := f 14 2 % 4096
  let page := f 16 4 % 2 ^ 31
  let pages := f 20 4
  let ms := f 24 4
  if fn != 0 && dom != fn then (d, 1, 1, 0)
  else if d.poolDom pool != some dom || ms = 0 || f 13 1 % 256 / 2 != 0 || f 14 2 / 4096 != 0 then (d, 1, 2, 0) else
  let old := d.leaseOf dom state
  let held := ((old.map Prod.snd).map Lease.epoch).getD 0
  if !(claimWins (old.map Prod.snd) epoch pool) then (d.bump Reg.CLAIMS_DENIED, 7, 0, held) else
  match (old.map Prod.fst).orElse (fun _ => d.leaseSlot dom state) with
  | none => (d, 1, 4, held)
  | some i =>
    if d.guardClash dom state page pages then (d, 1, 2, held) else
    let made := match old with
      | some (_, x) => x.made
      | none => (d.ten.leases.map (fun x => x.2.made + 1)).foldl max 0
    let lost := match old with
      | some (_, x) => x.held && (x.pool != pool || x.epoch != epoch)
      | none => false
    let late := (old.map Prod.snd).any (fun x => x.expired && x.pool == pool && x.epoch == epoch)
    let d := d.when late (fun d => d.bump Reg.LATE_ITEMS)
    let d := d.putLease i ⟨state, epoch, pool, true, dom, page, pages, ms, d.time + ms * 1000000, made, false, false⟩
    let d := d.when lost (fun d => d.post [dom] 0x30 [state, ((old.map Prod.snd).map Lease.pool).getD 0])
    (d, 0, 0, epoch)

/-- A release (R440, R491): by the holding pool at the held epoch. -/
def Dev.release (d : Dev) (fn state epoch pool : Nat) : Dev × Nat × Nat :=
  match d.poolDom pool with
  | none => (d, 1, 2)
  | some dom =>
    if fn != 0 && dom != fn then (d, 1, 1) else
    match d.leaseOf dom state with
    | some (i, l) =>
      if l.held && l.pool == pool && l.epoch == epoch then (d.putLease i { l with held := false }, 0, 0)
      else (d.bump Reg.CLAIMS_DENIED, 7, 0)
    | none => (d.bump Reg.CLAIMS_DENIED, 7, 0)

/-- A lease whose time is up (R440). -/
def Dev.leaseExpired (d : Dev) (i : Nat) : Dev :=
  match Tab.find? d.ten.leases i with
  | some l => if l.held && !l.lost && decide (l.until_ ≤ d.time) then (d.putLease i { l with held := false, expired := true }).bump Reg.LEASES_EXPIRED else d
  | none => d

/-- The four registers that show an ownership entry (R439, R446). -/
def Dev.leaseWord (d : Dev) (i w : Nat) : Nat :=
  match Tab.find? d.ten.leases i with
  | none => 0
  | some l =>
    if l.lost then 0 else
    let left := if l.held then min (2 ^ 32 - 1) (ceilDiv (l.until_ - d.time) 1000000) else 0
    match w with
    | 0 => l.state
    | 1 => l.epoch + l.pool * 2 ^ 32 + (if l.held then 2 ^ 40 else 0) + l.dom * 2 ^ 48
    | 2 => l.page + l.pages * 2 ^ 32
    | _ => l.ms + left * 2 ^ 32

end Sys2Proof.Machine
end

