-- ==== Sys2Proof/Machine/Tier.lean ====
section
/-! DEFINITION. The forge-cache tier (R343 to R352), shadows (R354 to R357), weight pushes (R358) and the re-encryption sweep
(R372 to R375). -/
namespace Sys2Proof.Machine

/-- One line of a frame set to move: `ix` is the line's index in its page. -/
def Dev.moveTierLine (d : Dev) (page ix : Nat) (op : HomeOp) : Dev :=
  (d.onFrame page (fun f => { f with out := f.out ++ [ix] })).askHome (d.tierReq page (page * 32768 + ix) op)

/-- The TIER frames that may hold a page: those of the image that are not retired (R376, R451). -/
def Dev.freeSlot (d : Dev) : Option Nat :=
  let n := d.get Reg.TIER_STAT_FRAMES
  let bad := d.ras.badUnits.map (fun u => u - d.areaBase 7 / 0x20_0000)
  let used := d.store.frames.map TierFrame.slot ++ bad
  let s := freshNumber used 0 (used.length + 1)
  if s < n then some s else none

/-- Whether a candidate page may be promoted (R346, R352): it is not resident, and its region has a tier. -/
def Dev.promotable (d : Dev) (page : Nat) : Bool :=
  (d.frameOf page).isNone && ((d.ten.live.byPpa (page * 0x20_0000)).map (fun x => x.2.tier == 1 || x.2.tier == 2)).getD false

/-- A page's promotion begins in a free frame (R346, R347). -/
def Dev.startPromotion (d : Dev) (page slot : Nat) : Dev :=
  let f : TierFrame := { page := page, slot := slot, moved := [], dirty := [], mode := 1, at_ := 1, next := 0, out := [], hurt := false }
  (({ d with store := { d.store with frames := d.store.frames ++ [f] } }).showTier).moveTierLine page 0 .promote

/-- A demoted frame is freed, or retired where it lost a dirty line (R450), and the candidate that displaced its page is promoted into
it (R346), unless it is discarded as no longer promotable (R352). -/
def Dev.freeFrame (d : Dev) (f : TierFrame) : Dev :=
  let d := { d with store := { d.store with frames := d.store.frames.filter (fun g => g.page != f.page) } }
  let unit_ := d.areaBase 7 / 0x20_0000 + f.slot
  let d := d.when (f.hurt && decide (unit_ ∉ d.ras.badUnits)) (fun d => d.retireFrame unit_)
  let d := (d.bump Reg.DEMOTIONS).showTier
  match f.next != 0 && d.promotable (f.next - 1), d.freeSlot with
  | true, some s => d.startPromotion (f.next - 1) s
  | _, _ => d

/-- The next line of a page in motion; nothing while a line of it is at its home (R347). -/
def Dev.tierNext (d : Dev) (page : Nat) : Dev :=
  match d.frameOf page with
  | none => d
  | some f =>
    if f.out != [] then d
    else if f.mode = 1 then
      if f.at_ < 32768 then
        (d.onFrame page (fun g => { g with at_ := g.at_ + 1 })).moveTierLine page f.at_ .promote
      else ((d.onFrame page (fun g => { g with mode := 0 })).bump Reg.PROMOTIONS).showTier
    else if f.mode = 2 then
      match f.dirty with
      | (ix, _) :: _ => d.moveTierLine page ix .clean
      | [] => d.freeFrame f
    else d

/-- A frame's page is to be demoted; `next` is the page to promote into the frame plus one. -/
def Dev.demote (d : Dev) (page next : Nat) : Dev :=
  (d.onFrame page (fun f => { f with mode := 2, next := next })).tierNext page

/-- The resident frame with the lowest counter (R346). -/
def Dev.coldest (d : Dev) : Option TierFrame :=
  (d.store.frames.filter (fun f => f.mode == 0)).foldl (fun (acc : Option TierFrame) f => match acc with
    | none => some f
    | some g => if d.accessCounter f.page < d.accessCounter g.page then some f else some g) none

/-- The tier manager takes its first candidate (R346, R352): promoted into a free frame or one freed by demotion, or dropped. A
demotion that a failed write-back held up goes on. -/
def Dev.tierPromotion (d : Dev) : Dev :=
  if !(d.coreUp 15) then d else
  let d := d.each ((d.store.frames.filter (fun f => f.mode == 2 && f.out == [])).map TierFrame.page) Dev.tierNext
  match d.flag Reg.TIER_CTL_PROMOTE_EN, d.store.cands with
  | true, page :: rest =>
    let d := ({ d with store := { d.store with cands := rest } }).showTier
    if !(d.promotable page) then d else
    match d.freeSlot, d.coldest with
    | some s, _ => d.startPromotion page s
    | none, some f => if d.accessCounter f.page < d.get Reg.TIER_THR_DEMOTE_THR then d.demote f.page (page + 1) else d
    | none, none => d
  | _, _ => d

/-- A line move has ended at its home. A demotion waits after a write-back that failed; a promotion passes over the line. -/
def Dev.tierMail (d : Dev) (page k : Nat) (op : HomeOp) (status : Nat) : Dev :=
  let ix := k % 32768
  let d := d.onFrame page (fun f => { f with out := f.out.filter (fun x => x != ix) })
  let d := if op = .clean then
      ({ d with store := { d.store with flush := d.store.flush.filter (fun x => !(x.1 == page && x.2 == ix)) } }).showTier
    else d
  if status = 0 || op = .promote then d.tierNext page else d

/-- Every DECAY_MS every access counter is halved, rounding down (R345). -/
def Dev.counterDecay (d : Dev) : Dev :=
  if d.time < d.store.decayAt + max 1 (d.get Reg.TIER_THR_DECAY_MS) * 1000000 then d else
  let base := d.areaBase 4
  let listed := (d.dmem.filter (fun c => decide (base ≤ c.1) && decide (c.1 < base + d.areaSize 4))).map (fun c => (c.1 - base) / 2)
  let d := { d with store := { d.store with decayAt := d.time } }
  d.each (listed.foldl addOnce []) (fun d page => d.writeMem (base + page * 2) (natBytes 2 (d.accessCounter page / 2)))

/-- A line dirty for CLEAN_MS is written back to its tray (R348). -/
def Dev.cleanWriteback (d : Dev) (k : Nat) : Dev :=
  let page := k / 32768
  let ix := k % 32768
  match d.frameOf page with
  | none => d
  | some f =>
    match f.dirty.find? (fun x => x.1 == ix) with
    | some (_, since) =>
      if decide (ix ∈ f.out) || decide (d.time < since + max 1 (d.get Reg.TIER_THR_CLEAN_MS) * 1000000) then d
      else d.moveTierLine page ix .clean
    | none => d

/-- A line to be flushed is asked for at its home, unless it is out already. -/
def Dev.flushLine (d : Dev) (x : Nat × Nat) : Dev :=
  match d.frameOf x.1 with
  | some f => if x.2 ∈ f.out then d else d.moveTierLine x.1 x.2 .clean
  | none => d

/-- TIER_CTL.FLUSH (R350): every line dirty at this moment is written back. -/
def Dev.flushTier (d : Dev) : Dev :=
  let lines := d.store.frames.flatMap (fun f => f.dirty.map (fun x => (f.page, x.1)))
  let fresh := lines.filter (fun x => decide (x ∉ d.store.flush))
  let d := ({ d with store := { d.store with flush := d.store.flush ++ fresh } }).showTier
  d.each fresh (fun d x => d.flushLine x)

/-- The bytes of a KV row (R315). -/
def kvRowBytes (fmt dim : Nat) : Nat := 2 * rowBytes fmt dim

/-- The bytes of an E2M1 KV row of a shadow (R355). -/
def shadowRowBytes (dim : Nat) : Nat := dim + dim / 16

/-- The rows of a page of a KV format (R315). -/
def kvRows (len fmt dim : Nat) : Nat := len / max 1 (kvRowBytes fmt dim)

/-- The length of a shadow page: Q rows, rounded up to 4 KiB (R355). -/
def shadowLen (len fmt dim : Nat) : Nat := ceilDiv (kvRows len fmt dim * shadowRowBytes dim) 4096 * 4096

/-- One KV row converted to E2M1: its key row, then its value row (R355). -/
def shadowRow (fmt dim : Nat) (row : List Byte) : List Byte :=
  let half := rowBytes fmt dim
  let one := fun (bs : List Byte) => (writeRow 7 (readRow fmt dim (bs.take half))).1
  one row ++ one (row.drop half)

/-- The rows of a page converted one after the other (R355). -/
def shadowRows (fmt dim : Nat) : Nat → List Byte → List Byte
  | 0, _ => []
  | n + 1, bs => shadowRow fmt dim bs ++ shadowRows fmt dim n (bs.drop (kvRowBytes fmt dim))

/-- The span page that a PPA lies in (R354, R355): its first PPA, its length and its span. -/
def Dev.spanPage (d : Dev) (ppa : Nat) : Option (Nat × Nat × Span) :=
  match d.ten.live.byPpa ppa with
  | none => none
  | some (_, e) =>
    if !e.shadowed then none else
    let dpa := e.toDpa ppa
    (d.store.spans.find? (fun x => x.2.dom == e.dom && decide (x.2.base ≤ dpa) && decide (dpa < x.2.base + x.2.length))).map (fun x =>
      let len := 2 ^ x.2.pageLog
      (ppa - dpa % len, len, x.2))

/-- The request for one line of a page under build. -/
def Dev.shadowReq (d : Dev) (page k : Nat) : HomeReq :=
  { who := .shadow page, tag := k, op := .rdNoalloc, dom := 0, ppa := k * 64, count := 0, first := k * 64, data := [], mask := 0,
    tc := d.get Reg.TIER_CTL_TIER_TC, ctrKind := 0, ctr := 0, epoch := d.epoch, no := 0, parity := 0, gen := none }

/-- SHADOW_BUILD (R355, R356): a page of a span whose shadow is absent or not VALID is read anew once it has been quiet. -/
def Dev.shadowBuild (d : Dev) (ppa : Nat) : Dev :=
  if !(d.coreUp 15) then d else
  match d.spanPage ppa with
  | none => d
  | some (page, len, s) =>
    let have_ := d.store.shadows.any (fun x => x.ppa == page && x.valid) || d.store.builds.any (fun b => b.ppa == page)
    let last := ((rangeFrom (page / 4096) (len / 4096)).filterMap (Tab.find? d.store.quiet)).foldl max 0
    let quiet := (rangeFrom (page / 4096) (len / 4096)).all (fun u => (Tab.find? d.store.quiet u).isNone) ||
      decide (last + max 1 (d.get Reg.TIER_CTL_SHADOW_QUIET_US) * 1000 ≤ d.time)
    if have_ || !quiet || decide (d.areaSize 6 < shadowLen len s.fmt s.d) then d else
    let b : Build := ⟨page, len, s.fmt, s.d, [], false⟩
    ({ d with store := { d.store with builds := d.store.builds ++ [b] } }).askHome (d.shadowReq page (page / 64))

/-- Whether `n` bytes from `a` are free in the SHADOW area and lie in no retired unit. -/
def Dev.shadowFree (d : Dev) (a n : Nat) : Bool :=
  decide (a + n ≤ d.areaBase 6 + d.areaSize 6) && !(d.store.shadows.any (fun s => meets s.addr s.size a n)) &&
  !(d.ras.badUnits.any (fun u => meets (u * 0x20_0000) 0x20_0000 a n))

/-- A place of `n` bytes in the SHADOW area: the first that is free; with none, the least recently built shadow goes (R355). -/
def Dev.shadowPlace (d : Dev) (n : Nat) : Nat → Dev × Option Nat
  | 0 => (d, none)
  | k + 1 =>
    let starts := d.areaBase 6 :: (d.store.shadows.map (fun s => s.addr + s.size)) ++ d.ras.badUnits.map (fun u => (u + 1) * 0x20_0000)
    match (sortBy id starts).find? (fun a => decide (d.areaBase 6 ≤ a) && d.shadowFree a n) with
    | some a => (d, some a)
    | none =>
      let oldest := d.store.shadows.foldl (fun m s => min m s.made) d.store.shadowMade
      ({ d with store := { d.store with shadows := d.store.shadows.filter (fun s => s.made != oldest) } }).shadowPlace n k

/-- A page has been read whole: its shadow is written and VALID, unless a write came meanwhile (R355, R356). -/
def Dev.shadowBuilt (d : Dev) (b : Build) : Dev :=
  let d := { d with store := { d.store with builds := d.store.builds.filter (fun x => x.ppa != b.ppa) } }
  if b.spoiled then d else
  let d := { d with store := { d.store with shadows := d.store.shadows.filter (fun s => s.ppa != b.ppa) } }
  let size := shadowLen b.len b.fmt b.d
  match d.shadowPlace size (d.store.shadows.length + 1) with
  | (d, none) => d
  | (d, some a) =>
    let d := d.writeMem a (padBytes size (shadowRows b.fmt b.d (kvRows b.len b.fmt b.d) b.bytes))
    let s : Shadow := ⟨b.ppa, a, b.len, size, b.fmt, b.d, true, d.store.shadowMade + 1⟩
    ({ d with store := { d.store with shadows := d.store.shadows ++ [s], shadowMade := d.store.shadowMade + 1 } }).bump Reg.SHADOW_BUILT

/-- A line of a page under build has been read, or its read has failed and the build ends. -/
def Dev.shadowMail (d : Dev) (page status : Nat) (line : List Byte) : Dev :=
  match d.store.builds.find? (fun b => b.ppa == page) with
  | none => d
  | some b =>
    if status != 0 then { d with store := { d.store with builds := d.store.builds.filter (fun x => x.ppa != page) } } else
    let b := { b with bytes := b.bytes ++ line }
    if b.len ≤ b.bytes.length then d.shadowBuilt b
    else ({ d with store := { d.store with builds := d.store.builds.map (fun (x : Build) => if x.ppa = page then b else x) } }).askHome
      (d.shadowReq page ((page + b.bytes.length) / 64))

/-- The VALID shadow of the page at a PPA (R357). -/
def Dev.shadowOf (d : Dev) (ppa : Nat) : Option Shadow := d.store.shadows.find? (fun s => s.ppa == ppa && s.valid)

/-- A shadow that cannot be read loses VALID (R450). -/
def Dev.dropShadow (d : Dev) (s : Shadow) : Dev :=
  { d with store := { d.store with shadows := d.store.shadows.map (fun (x : Shadow) => if x = s then { x with valid := false } else x) } }

/-- A row of a shadow page as a row of a format (R279), with the flags of the conversion (R236, R247). -/
def expandRow (fmt dim : Nat) (bs : List Byte) : List Byte × Nat :=
  let half := rowBytes 7 dim
  let k := writeRow fmt (readRow 7 dim (bs.take half))
  let v := writeRow fmt (readRow 7 dim ((bs.drop half).take half))
  (k.1 ++ v.1, stepFlags (Nat.lor k.2 v.2))

/-- The rows of a VALID shadow at some slots, as rows of the format that its operator reads, with the flags of their conversion (R279,
R333). -/
def Dev.expandSlots (d : Dev) (s : Shadow) (fmt : Nat) (slots : List Nat) : List (List Byte) × Nat :=
  let rows := slots.map (fun i => expandRow fmt s.d (d.readMem (s.addr + i * shadowRowBytes s.d) (shadowRowBytes s.d)))
  (rows.map Prod.fst, (rows.map Prod.snd).foldl Nat.lor 0)

/-- The page that a VALID shadow stands for, as rows of the format that its operator reads, with the flags of their conversion (R279). -/
def Dev.expandShadow (d : Dev) (s : Shadow) (fmt : Nat) : List Byte × Nat :=
  let r := d.expandSlots s fmt (rangeFrom 0 (min (kvRows s.len fmt s.d) (kvRows s.len s.fmt s.d)))
  (padBytes s.len r.1.flatten, r.2)

/-- The members of a multicast group (R183, R200): the placed requester ports of its 512-bit set. -/
def Dev.groupPorts (d : Dev) (g : Nat) : List Nat :=
  (rangeFrom 0 512).filter (fun p => bitOf (d.reg (Reg.MCAST_RW (g - 8192) (p / 64))) (p % 64) && d.isRole p 0)

/-- Whether `n` bytes of device memory from `a` exist and meet neither the SHADOW nor the TIER area (R46, R340). -/
def Dev.dmaNamed (d : Dev) (a n : Nat) : Bool :=
  decide (a + n ≤ 0x30_0000_0000) && !(meets a n (d.areaBase 6) (d.areaSize 6)) && !(meets a n (d.areaBase 7) (d.areaSize 7))

/-- A push changed. -/
def Dev.onPush (d : Dev) (n : Nat) (f : Push → Push) : Dev :=
  { d with store := { d.store with pushes := d.store.pushes.map (fun p => if p.number = n then f p else p) } }

/-- A push ends (R358, R378): WPUSH_STAT reports the members dropped, and a ring command completes. -/
def Dev.endPush (d : Dev) (p : Push) : Dev :=
  let d := { d with store := { d.store with pushes := d.store.pushes.filter (fun q => q.number != p.number) } }
  let d := d.set Reg.WPUSH_STAT_BUSY (if d.store.pushes = [] then 0 else 1)
  match p.cmd with
  | some c => d.completeOk c (natBytes 2 p.failed.length)
  | none => d

/-- A push whose source cannot be read (R450) ends there; a ring command completes with POISON (assumption log 162). -/
def Dev.spoilPush (d : Dev) (p : Push) : Dev :=
  let d := match p.cmd with
    | some c => d.completeErr c 2
    | none => d
  d.endPush { p with cmd := none }

/-- The next piece of a push, once every member has answered the last (R358): the frame names the group that PF0 wrote (R183). -/
def Dev.pushNext (d : Dev) (p : Push) : Dev :=
  let d := d.set Reg.WPUSH_STAT_FAILED p.failed.length
  let d := d.set Reg.WPUSH_STAT_FIRST_FAILED (p.failed.headD 0x1FF)
  if p.wait != [] then d
  else if p.len ≤ p.off || p.members = [] then d.endPush p
  else
    let n := min 224 (p.len - p.off)
    match d.readEcc (p.src + p.off) n with
    | (d, none) => d.spoilPush p
    | (d, some bytes) =>
    let dom := (p.cmd.map (fun c => c.fn.val)).getD 0
    let stack := stackOf (p.src + p.off)
    let outs : List ResOut := p.members.map (fun q =>
      ⟨q, d.freeTag q, .push p.number stack, resultMsg (d.freeTag q) (ownTc 4) dom (p.dst + p.off) (filledChunks bytes), 0⟩)
    let d := d.onPush p.number (fun x => { x with off := x.off + n, wait := x.members })
    let d := d.each outs Dev.noteResult
    d.sendMulti (.forge stack) dom false ((outs.filter (fun r => decide (r.tag < tagSpace))).map (fun r => (r.port, r.msg)))

/-- A push starts (R358): of `len` bytes at a device memory address to the members of a group; none goes to a member of another
partition (R467). -/
def Dev.startPush (d : Dev) (cmd : Option RingCmd) (src dst len group : Nat) : Dev :=
  let n := d.store.pushMade + 1
  let part := d.domPart ((cmd.map (fun c => c.fn.val)).getD 0)
  let shut := (d.groupPorts group).filter (d.partBlocks part)
  let p : Push := { number := n, cmd := cmd, src := src, dst := dst, len := len,
                    members := (d.groupPorts group).filter (fun q => decide (q ∉ shut)), off := 0, wait := [], failed := shut }
  let d := d.bumpBy Reg.PART_BLOCKED shut.length
  let d := { d with store := { d.store with pushes := d.store.pushes ++ [p], pushMade := n } }
  (d.set Reg.WPUSH_STAT_BUSY 1).pushNext p

/-- WPUSH_GO (R378): ignored while BUSY, and with a GROUP outside 8,192 to 16,383 or a source outside device memory. -/
def Dev.wpushGo (d : Dev) : Dev :=
  let g := d.get Reg.WPUSH_CFG_GROUP
  let a := d.get Reg.WPUSH_SRC_ADDR
  let n := d.get Reg.WPUSH_CFG_LENGTH
  if d.flag Reg.WPUSH_STAT_BUSY || decide (g < 8192) || !(d.dmaNamed a n) then d
  else d.startPush none a (d.get Reg.WPUSH_DST_ADDR) n g

/-- A member has answered a piece, or is dropped from the push (R358). -/
def Dev.pushAnswered (d : Dev) (n port : Nat) (lost : Bool) : Dev :=
  let d := d.onPush n (fun x => { x with
    wait := x.wait.filter (fun q => q != port),
    members := if lost then x.members.filter (fun q => q != port) else x.members,
    failed := if lost then x.failed ++ [port] else x.failed })
  match d.store.pushes.find? (fun p => p.number == n) with
  | some p => d.pushNext p
  | none => d

/-- Pushes whose members have all answered, or been fenced, go on (R358, R464). -/
def Dev.pushesOn (d : Dev) : Dev := d.each (d.store.pushes.filter (fun p => p.wait == [])) Dev.pushNext

/-- The pages of a domain's extents in ascending PPA (R372). -/
def Dev.domainPages (d : Dev) (dom : Nat) : List Nat :=
  let mine := d.ten.exts.filter (fun e => d.extState e == 1 && d.get (Reg.EXT_STATE_OWNER e) == dom)
  (sortBy (fun e => d.get (Reg.EXT_BASE_PPA_PAGE e)) mine).flatMap (fun e =>
    rangeFrom (d.get (Reg.EXT_BASE_PPA_PAGE e)) (d.extPages e))

/-- The previous generation retires (R374). -/
def Dev.retireKey (d : Dev) (dom : Nat) : Dev :=
  let pair := d.keyPair dom
  let d := { d with store := { d.store with
    keys := Tab.ins d.store.keys dom { pair with prev := [] }, sweeps := d.store.sweeps.filter (fun s => s.dom != dom) } }
  let d := (d.set (Reg.KEYGEN_PREV_LIVE dom) 0).set (Reg.KEYGEN_SWEEP_BUSY dom) 0
  (d.post [dom, 0] 0x33 [dom, d.get (Reg.KEYGEN_PREV_GEN dom)]).keyWaitsOver

/-- A sweep's page is done: PREV_PAGES falls by one (R373). Pages that no LOCAL entry maps are passed over. -/
def Dev.sweepPages (d : Dev) (dom : Nat) : List Nat → Dev
  | [] => d.retireKey dom
  | page :: rest =>
    if (d.ten.live.byPpa (page * 0x20_0000)).isSome then
      { d with store := { d.store with sweeps := d.store.sweeps.map (fun s => if s.dom = dom then { s with pages := page :: rest, next := 0 } else s) } }
    else (d.set (Reg.KEYPAGES_PREV_PAGES dom) (d.get (Reg.KEYPAGES_PREV_PAGES dom) - 1)).sweepPages dom rest

/-- The sweep of a rotation begins (R372). -/
def Dev.startSweep (d : Dev) (dom : Nat) : Dev :=
  let pages := d.domainPages dom
  let s : Sweep := ⟨dom, pages, 0, []⟩
  let d := (d.set (Reg.KEYPAGES_PREV_PAGES dom) pages.length).set (Reg.KEYGEN_SWEEP_BUSY dom) 1
  ({ d with store := { d.store with sweeps := d.store.sweeps ++ [s] } }).sweepPages dom pages

/-- The sweep of a domain. -/
def Dev.sweepOf (d : Dev) (dom : Nat) : Option Sweep := d.store.sweeps.find? (fun s => s.dom == dom)

/-- The request for a line of the sweep (R373). -/
def Dev.sweepReq (d : Dev) (dom k : Nat) : HomeReq :=
  { who := .sweep dom, tag := k, op := .sweep, dom := 0, ppa := k * 64, count := 0, first := k * 64, data := [], mask := 0,
    tc := d.get Reg.BELLOWS_CTL_QUENCH_TC, ctrKind := 0, ctr := 0, epoch := d.epoch, no := 0, parity := 0, gen := none }

/-- KEY_SWEEP_LINE (R373): one request at the home of the next line of the current page. -/
def Dev.keySweepLine (d : Dev) (dom : Nat) : Dev :=
  match d.sweepOf dom with
  | none => d
  | some s =>
    match s.pages with
    | [] => d.retireKey dom
    | page :: _ =>
      if 32768 ≤ s.next then d else
      let k := page * 32768 + s.next
      ({ d with store := { d.store with sweeps := d.store.sweeps.map (fun (x : Sweep) =>
        if x.dom = dom then { x with next := x.next + 1, out := x.out ++ [k] } else x) } }).askHome (d.sweepReq dom k)

/-- A sweep request has ended (R373): its line is done, and with the page's last line the page. That of a page which the sweep has left out
since (R375) is nothing to it. -/
def Dev.sweepMail (d : Dev) (dom k status : Nat) : Dev :=
  if ((d.sweepOf dom).map (fun s => decide (k ∉ s.out))).getD true then d else
  let d := d.when (status != 0) (fun d => d.bump Reg.SWEEP_LINE_FAILED)
  let d := { d with store := { d.store with sweeps := d.store.sweeps.map (fun (x : Sweep) =>
    if x.dom = dom then { x with out := x.out.filter (fun i => i != k) } else x) } }
  match d.sweepOf dom with
  | some s =>
    match s.pages with
    | page :: rest =>
      if 32768 ≤ s.next && s.out == [] && page == k / 32768 then
        (d.set (Reg.KEYPAGES_PREV_PAGES dom) (d.get (Reg.KEYPAGES_PREV_PAGES dom) - 1)).sweepPages dom rest
      else d
    | [] => if s.out == [] then d.retireKey dom else d
  | none => d

end Sys2Proof.Machine
end

