-- ==== Sys2Proof/Machine/HeatRules.lean ====
section
/-! DEFINITION. What admission checks of a heat (R51 to R54, R255 to R258, R265 to R267, R274): typed addresses, the fields of
descriptors, and chains. -/
namespace Sys2Proof.Machine

/-- SPACE of a typed address (R51): 0 SPA, 1 DMA, 2 DPA, 3 HOST, 4 PPA. -/
def taSpace (a : Nat) : Nat := a / 2 ^ 60

/-- The address bits of a typed address (R51). -/
def taAddr (a : Nat) : Nat := match taSpace a with
  | 0 => fieldOf a 0 21
  | 1 => fieldOf a 0 38
  | 3 => fieldOf a 0 57
  | _ => fieldOf a 0 52

/-- The logical tile of an SPA typed address (R51, R52); `self` is the tile on which the descriptor runs. -/
def taTile (self a : Nat) : Nat := if bitOf a 29 then self else fieldOf a 21 8

/-- Whether the bits that R51 requires to be zero are zero, and the space is one of R51. -/
def taFormed (a : Nat) : Bool := match taSpace a with
  | 0 => fieldOf a 30 30 == 0
  | 1 => fieldOf a 38 22 == 0
  | 2 => fieldOf a 52 8 == 0
  | 3 => fieldOf a 57 3 == 0
  | 4 => fieldOf a 52 8 == 0
  | _ => false

/-- Whether `n` bytes from a typed address may be named by a domain whose heat holds `tiles` (R46, R47, R53, R54, R340); `w` asks
for a window that may be written. -/
def Dev.typedOk (d : Dev) (dom : Nat) (tiles : List Nat) (a n : Nat) (w : Bool) : Bool :=
  taFormed a && (match taSpace a with
    | 0 => bitOf a 29 || decide (fieldOf a 21 8 ∈ tiles)
    | 1 => d.dmaNamed (taAddr a) (max 1 n) && (dom == 0 || d.inWindow dom (taAddr a) (max 1 n) w)
    | 4 => dom == 0
    | _ => true)

/-- Word `i` of a descriptor (R265). -/
def dWord (w : List Nat) (i : Nat) : Nat := w.getD i 0
/-- OP (R267). -/
def dOp (w : List Nat) : Nat := fieldOf (dWord w 0) 0 5
/-- CHAIN. -/
def dChain (w : List Nat) : Bool := bitOf (dWord w 0) 5
/-- FOLLOW. -/
def dFollow (w : List Nat) : Bool := bitOf (dWord w 0) 6
/-- TILE. -/
def dTile (w : List Nat) : Nat := fieldOf (dWord w 0) 8 8
/-- REL. -/
def dRel (w : List Nat) : Bool := bitOf (dWord w 0) 16
/-- REL_SCOPE. -/
def dRelScope (w : List Nat) : Nat := fieldOf (dWord w 0) 17 2
/-- MISS: 0 WAIT, 1 SHADOW, 2 SKIP. -/
def dMiss (w : List Nat) : Nat := fieldOf (dWord w 0) 22 2
/-- IN_FMT. -/
def dIn (w : List Nat) : Nat := fieldOf (dWord w 0) 24 8
/-- OUT_FMT. -/
def dOut (w : List Nat) : Nat := fieldOf (dWord w 0) 32 8
/-- SCALE_K. -/
def dScale (w : List Nat) : Int := signedOf 7 (fieldOf (dWord w 0) 40 7)
/-- LOOKAHEAD; 0 acts as 8. -/
def dLook (w : List Nat) : Nat := let n := fieldOf (dWord w 0) 48 8; if n = 0 then 8 else n
/-- WAIT_KIND. -/
def dWaitKind (w : List Nat) : Nat := fieldOf (dWord w 1) 16 2
/-- WAIT_N. -/
def dWaitN (w : List Nat) : Nat := fieldOf (dWord w 1) 18 44
/-- The counter waited on. -/
def dWait (w : List Nat) : Option Nat := counterId (dWaitKind w) (fieldOf (dWord w 1) 0 16)
/-- SIG_KIND. -/
def dSigKind (w : List Nat) : Nat := fieldOf (dWord w 2) 16 2
/-- SIG_CTR. -/
def dSigCtr (w : List Nat) : Nat := fieldOf (dWord w 2) 0 16
/-- The counter named by every write. -/
def dSig (w : List Nat) : Option Nat := counterId (dSigKind w) (dSigCtr w)
/-- DEADLINE in ns; 0 none. -/
def dDeadline (w : List Nat) : Nat := fieldOf (dWord w 2) 18 30 * 100
/-- WAIT_TIMEOUT_US. -/
def dWaitLimit (w : List Nat) : Nat := fieldOf (dWord w 2) 48 16
/-- Operator field `i`, 0 to 4. -/
def dF (w : List Nat) (i : Nat) : Nat := dWord w (3 + i)
/-- A bit field of an operator field. -/
def dBits (w : List Nat) (i lo n : Nat) : Nat := fieldOf (dF w i) lo n

/-- The bytes of a row of `n` elements in a format code, a byte each when RAW and 64 when IMAGE (R234, R248, R266). -/
def dataBytes (fmt n : Nat) : Nat := if fmt = 0xFF then n else if fmt = 0xFE then 64 * n else rowBytes fmt n

/-- Whether a row of `n` elements of a format is whole blocks (R234). -/
def wholeBlocks (fmt n : Nat) : Bool := !fmtIsMx fmt || n % 32 == 0

/-- PAGE_LOG2 and PAGE_SPACE in range (R282, R312). -/
def pageFieldsOk (log space : Nat) : Bool := decide (12 ≤ log) && decide (log ≤ 21) && (space == 1 || space == 2 || space == 4)

/-- The bytes that `rows` rows of `n` bytes at a stride span. -/
def spanBytes (rows n stride : Nat) : Nat := (max 1 rows - 1) * stride + n

/-- The KV row and head dimension of an ATTEND descriptor (R311, R315). -/
def attD (w : List Nat) : Nat := (dBits w 1 21 4 + 1) * 32
/-- G of an ATTEND descriptor. -/
def attG (w : List Nat) : Nat := dBits w 1 17 4 + 1
/-- The work region of an ATTEND descriptor that runs alone, or in a chain (R313). -/
def attWork (w : List Nat) (chained : Bool) : Nat :=
  (if chained then 0 else dLook w * 2 ^ dBits w 1 40 5) + attG w * (attD w + 2) * 4 + (if taSpace (dF w 2) = 1 then attG w * attD w * 2 else 0)

/-- The bytes of a KV row of an ATTEND descriptor (R315). -/
def attRow (w : List Nat) : Nat := kvRowBytes (dIn w) (attD w)

/-- Q (R315): the rows of a page. -/
def attQ (w : List Nat) : Nat := max 1 (2 ^ dBits w 1 40 5 / max 1 (attRow w))

/-- The row index of a token (R316). -/
def attRowOf (w : List Nat) (tok : Nat) : Nat := if bitOf (dF w 1) 25 then tok * (dBits w 1 26 7 + 1) + dBits w 1 33 7 else tok

/-- A length-table entry (R318). -/
structure LenEntry where
  len : Nat
  masked : Bool
  first : Nat
  pt : Nat
  mask : Nat
  deriving DecidableEq, Repr

/-- A length-table entry read from its 32 bytes. -/
def lenEntry (bs : List Byte) : LenEntry :=
  let f := fieldBytes bs
  ⟨fieldOf (f 0 8) 0 40, bitOf (f 0 8) 40, fieldOf (f 8 8) 0 40, f 16 8, f 24 8⟩

/-- The pages of an entry (R314, R316): from that of its first row to that of its last. -/
def entryPages (w : List Nat) (e : LenEntry) : List Nat :=
  if e.len = 0 then [] else
  let p := attRowOf w e.first / attQ w
  rangeFrom p (attRowOf w (e.first + e.len - 1) / attQ w - p + 1)

/-- The lines of the bitmap that an entry needs (R320): where they begin and their bytes. -/
def maskSpan (e : LenEntry) : Nat × Nat :=
  if !e.masked || e.len = 0 then (e.mask, 0) else
  let a := e.mask + e.first / 8
  let lo := a - taAddr a % 64
  let b := e.mask + (e.first + e.len - 1) / 8
  (lo, b - taAddr b % 64 + 64 - lo)

/-- Whether a token of an entry's range is attendable by its bitmap (R320, R323). -/
def attendable (e : LenEntry) (mask : List Byte) (tok : Nat) : Bool :=
  !e.masked || bitOf ((mask.getD (e.mask + tok / 8 - (maskSpan e).1) 0#8).toNat) (tok % 8)

/-- The attendable tokens of an entry whose rows lie in a page, in ascending order, with their slots (R316, R323). -/
def pageTokens (w : List Nat) (e : LenEntry) (mask : List Byte) (p : Nat) : List (Nat × Nat) :=
  let q := attQ w
  let heads := if bitOf (dF w 1) 25 then dBits w 1 26 7 + 1 else 1
  let toks := rangeFrom (p * q / heads) (q / heads + 2)
  (toks.map (fun tok => (tok, attRowOf w tok))).filterMap (fun x =>
    if x.2 / q = p && decide (e.first ≤ x.1) && decide (x.1 < e.first + e.len) && attendable e mask x.1 then some (x.1, x.2 % q) else none)

/-- A region that a descriptor names: typed address, bytes, whether it is written, and the spaces it may lie in. -/
structure Named where
  addr : Nat
  n : Nat
  w : Bool
  spaces : List Nat
  deriving DecidableEq, Repr

/-- The pages of a layout of RESHARD (R306). -/
def reshardPages (w : List Nat) (order : Nat) : Nat :=
  let q := 2 ^ dBits w 2 42 5 / max 1 (dBits w 3 0 16)
  if order = 0 then dBits w 2 32 8 * ceilDiv (dBits w 2 0 32) (max 1 q) else ceilDiv (dBits w 2 0 32 * dBits w 2 32 8) (max 1 q)

/-- The rows (slot, head, token) that a source page of RESHARD holds and that are to be moved (R306). -/
def reshardRows (w : List Nat) (page : Nat) : List (Nat × Nat × Nat) :=
  let tokens := dBits w 2 0 32
  let heads := max 1 (dBits w 2 32 8)
  let q := 2 ^ dBits w 2 42 5 / max 1 (dBits w 3 0 16)
  let per := max 1 (ceilDiv tokens (max 1 q))
  ((rangeFrom 0 q).map (fun s =>
    if dBits w 2 40 1 = 0 then (s, page / per, page % per * q + s) else (s, (page * q + s) % heads, (page * q + s) / heads))).filter
    (fun x => decide (x.2.1 < heads) && decide (x.2.2 < tokens) && decide (dBits w 3 16 32 ≤ x.2.2) &&
      decide (x.2.2 < dBits w 3 16 32 + dBits w 4 0 32))

/-- The regions that a descriptor names; `head` is the GATHER of its chain if it is a stage after the first: its source field is zero, and
a FILTER's records are those of the GATHER's pages (R274). -/
def namedRegions (w : List Nat) (head : Option (List Nat)) : List Named :=
  let chained := head.isSome
  let all := [0, 1, 2, 3, 4]
  let noHost := [0, 1, 2, 4]
  let src := fun (r : Named) => if chained then [] else [r]
  match dOp w with
  | 1 => [⟨dF w 0, dBits w 1 0 48, true, noHost⟩]
  | 2 =>
    let conv := bitOf (dF w 2) 48
    let len := dBits w 2 0 48
    let rows := dBits w 3 0 32
    [⟨dF w 0, spanBytes rows (if conv then dataBytes (dIn w) len else len) (dBits w 4 0 32), false, all⟩,
     ⟨dF w 1, spanBytes rows (if conv then dataBytes (dOut w) len else len) (dBits w 4 32 32), true, all⟩]
  | 3 => [⟨dF w 0, dBits w 2 0 48, false, all⟩, ⟨dF w 1, dBits w 2 0 48, false, all⟩]
  | 5 =>
    let slots := dBits w 3 0 16
    [⟨dF w 0, dBits w 1 0 32 * 8, false, all⟩,
     ⟨dF w 2, (if slots = 0 then dBits w 1 0 32 else slots) * 2 ^ dBits w 1 32 5, true, [0]⟩]
  | 6 =>
    let len := dBits w 2 0 48
    src ⟨dF w 0, len, false, [0]⟩ ++
      [if bitOf (dF w 2) 48 then ⟨dF w 1, ceilDiv len (2 ^ dBits w 2 49 5) * 8, false, all⟩ else ⟨dF w 1, len, true, noHost⟩]
  | 7 =>
    let table := head.getD w
    let recs := dBits table 1 0 32 * 2 ^ dBits table 1 32 5
    src ⟨dF w 0, dBits w 1 0 32 * 8, false, all⟩ ++ [⟨dF w 2, dBits w 3 0 4 * 16, false, [0]⟩] ++
      (match dBits w 3 4 2 with
       | 1 => [⟨dF w 4, recs / max 1 (dBits w 1 40 16) * 4, true, noHost⟩]
       | 2 => [⟨dF w 4, recs, true, noHost⟩]
       | _ => [])
  | 8 =>
    let nq := dBits w 2 43 4 + 1
    src ⟨dF w 0, dBits w 1 0 32 * 8, false, all⟩ ++
      [⟨dF w 3, nq * dBits w 2 16 16 * (if bitOf (dF w 2) 49 then 4 else 2), false, [0]⟩, ⟨dF w 4, nq * dBits w 2 32 11 * 8, true, noHost⟩]
  | 9 =>
    let states := dBits w 1 0 17 * attG w * (attD w + 2) * 4
    [⟨dF w 0, dBits w 1 0 17 * 32, false, [0, 1, 2]⟩, ⟨dF w 2, dBits w 1 0 17 * attG w * attD w * 2, false, [0, 1]⟩,
     ⟨dBits w 3 42 21 + 2 ^ 29, attWork w chained, true, [0]⟩] ++
      (if bitOf (dF w 3) 41 then [] else [⟨dF w 4, states, true, [0, 1, 2]⟩])
  | 4 =>
    let res := dataBytes (dOut w) (dBits w 3 0 9)
    [⟨dF w 0, dBits w 2 16 8 * dBits w 2 0 9 * 256, true, [0]⟩, ⟨dF w 1, dBits w 2 0 9 * 16, false, [0, 1]⟩] ++
      (if bitOf (dF w 3) 10 then [⟨dF w 4, dBits w 2 32 32 * res, true, noHost⟩] else [])
  | 10 =>
    let h := dBits w 1 9 5
    let dim := dBits w 1 14 12
    let out := if bitOf (dF w 1) 26 then dataBytes (dOut w) (h * dim)
      else if bitOf (dF w 1) 27 then h * dataBytes (dOut w) dim else h * (dim + 2) * 4
    src ⟨dF w 0, dBits w 1 0 9 * 8, false, all⟩ ++ [⟨dF w 2, out, true, noHost⟩]
  | 11 => [⟨dF w 0, reshardPages w (dBits w 2 40 1) * 8, false, all⟩, ⟨dF w 1, reshardPages w (dBits w 2 41 1) * 8, false, all⟩]
  | 12 => [⟨dF w 0, dataBytes (dIn w) (dBits w 2 0 48), false, noHost⟩, ⟨dF w 1, dBits w 3 0 32, true, noHost⟩]
  | 13 => if chained then (if dF w 1 = 0 then [] else [⟨dF w 1, 1, true, noHost⟩]) else [⟨dF w 0, 1, false, noHost⟩, ⟨dF w 1, dataBytes (dOut w) (dBits w 2 0 48), true, noHost⟩]
  | _ => []

/-- The space of the pages that a descriptor's own page table or layout names (R282, R302, R306, R312). -/
def pageSpaceOf (w : List Nat) (chained : Bool) : Option Nat :=
  match dOp w with
  | 5 => some (dBits w 1 37 3)
  | 6 => if bitOf (dF w 2) 48 then some (dBits w 2 54 3) else none
  | 7 => if chained then none else some (dBits w 1 37 3)
  | 8 => if chained then none else some (dBits w 1 37 3)
  | 9 => some (dBits w 1 45 3)
  | 11 => some (dBits w 2 47 3)
  | _ => none

/-- Whether the unused bits of the operator fields are zero (R284, R290, R292, R295, R302, R306, R307, R311). -/
def unusedZero (w : List Nat) : Bool :=
  let fits := fun (bits : List Nat) => (List.zipWith (fun i n => decide (dF w i < 2 ^ n)) [0, 1, 2, 3, 4] bits).all id
  match dOp w with
  | 0 => fits [0, 0, 0, 0, 0]
  | 1 => fits [64, 48, 64, 0, 0]
  | 2 => fits [64, 64, 49, 32, 64]
  | 3 => fits [64, 64, 48, 0, 0]
  | 4 => fits [64, 64, 64, 11, 64] && dBits w 2 9 7 == 0 && dBits w 2 24 8 == 0
  | 5 => fits [64, 40, 64, 16, 0]
  | 6 => fits [64, 64, 57, 0, 0]
  | 7 => fits [64, 56, 64, 6, 64]
  | 8 => fits [64, 56, 50, 64, 64]
  | 9 => fits [64, 48, 64, 63, 64]
  | 10 => fits [64, 28, 64, 0, 0]
  | 11 => fits [64, 64, 50, 48, 32]
  | _ => fits [64, 64, 49, 32, 0]

/-- REC_BYTES in range (R283). -/
def recordsOk (recBytes log : Nat) : Bool :=
  decide (16 ≤ recBytes) && decide (recBytes ≤ 4096) && recBytes % 16 == 0 && 2 ^ log % recBytes == 0

/-- Whether every operator field lies in its stated range (R284 to R312). `bound` are the ports bound to the heat's domain. -/
def fieldsInRange (w : List Nat) (chained : Bool) (bound : Nat → Bool) : Bool :=
  let isFloat := fun c => decide (c ≤ 7)
  let isNum := fun c => decide (c ≤ 10)
  match dOp w with
  | 2 => if bitOf (dF w 2) 48 then isNum (dIn w) && isNum (dOut w) && wholeBlocks (dIn w) (dBits w 2 0 48) && wholeBlocks (dOut w) (dBits w 2 0 48)
      else dIn w == 0xFF && dOut w == 0xFF
  | 4 =>
    let n := dBits w 3 0 9
    decide (1 ≤ dBits w 2 0 9) && decide (1 ≤ dBits w 2 16 8) && decide (1 ≤ dBits w 2 32 32) && decide (1 ≤ n) && dBits w 3 9 2 != 0 &&
    (isNum (dIn w) || dIn w == 0xFE) && (isNum (dOut w) || dOut w == 0xFE) && wholeBlocks (dIn w) n && wholeBlocks (dOut w) n &&
    decide (dataBytes (dIn w) n ≤ 224) && (dIn w != 0xFE || decide (n ≤ 3)) && (bitOf (dF w 0) 29 || fieldOf (dF w 0) 21 8 == dTile w)
  | 5 => pageFieldsOk (dBits w 1 32 5) (dBits w 1 37 3) && (bitOf (dF w 2) 29 || fieldOf (dF w 2) 21 8 == dTile w)
  | 6 => if bitOf (dF w 2) 48 then pageFieldsOk (dBits w 2 49 5) (dBits w 2 54 3)
      else dBits w 2 49 8 == 0 && (taSpace (dF w 1) != 0 || taTile (dTile w) (dF w 1) != dTile w)
  | 7 =>
    (chained || pageFieldsOk (dBits w 1 32 5) (dBits w 1 37 3)) && recordsOk (dBits w 1 40 16) (if chained then 12 else dBits w 1 32 5) &&
    decide (1 ≤ dBits w 3 0 4) && decide (dBits w 3 0 4 ≤ 8) && dBits w 3 4 2 != 3 && (dBits w 3 4 2 != 0 || dF w 4 == 0)
  | 8 =>
    let dim := dBits w 2 16 16
    (chained || pageFieldsOk (dBits w 1 32 5) (dBits w 1 37 3)) && recordsOk (dBits w 1 40 16) (if chained then 12 else dBits w 1 32 5) &&
    isFloat (dIn w) && decide (32 ≤ dim) && decide (dim ≤ 4096) && dim % 32 == 0 && decide (1 ≤ dBits w 2 32 11) &&
    decide (dBits w 2 32 11 ≤ 1024) && decide (dBits w 2 47 2 ≤ 1) && decide (dBits w 2 0 16 + rowBytes (dIn w) dim ≤ dBits w 1 40 16)
  | 9 =>
    decide (1 ≤ dIn w) && isFloat (dIn w) && dOut w == 0 && dScale w == 0 && decide (1 ≤ dBits w 1 0 17) && decide (dBits w 1 0 17 ≤ 65536) &&
    (if dBits w 1 25 1 = 0 then dBits w 1 26 7 == 0 && dBits w 1 33 7 == 0 else decide (dBits w 1 33 7 ≤ dBits w 1 26 7)) &&
    pageFieldsOk (dBits w 1 40 5) (dBits w 1 45 3) && decide (kvRowBytes (dIn w) (attD w) ≤ 2 ^ dBits w 1 40 5) &&
    dF w 0 % 32 == 0 && dBits w 3 42 21 % 4096 == 0 &&
    (if bitOf (dF w 3) 41 then bound (dBits w 3 32 9) && decide (dF w 4 < 2 ^ 52) else true)
  | 10 =>
    let h := dBits w 1 9 5
    let dim := dBits w 1 14 12
    decide (1 ≤ dBits w 1 0 9) && decide (1 ≤ h) && decide (h ≤ 16) && decide (1 ≤ dim) && decide (dim ≤ 2048) &&
    (if bitOf (dF w 1) 26 then (isNum (dIn w) || dIn w == 0xFE) && (isNum (dOut w) || dOut w == 0xFE) && wholeBlocks (dIn w) (h * dim) && wholeBlocks (dOut w) (h * dim)
     else dIn w == 0 && (!bitOf (dF w 1) 27 || (isNum (dOut w) && wholeBlocks (dOut w) dim)))
  | 11 =>
    dIn w == 0xFF && dOut w == 0xFF && pageFieldsOk (dBits w 2 42 5) (dBits w 2 47 3) && decide (1 ≤ dBits w 3 0 16) &&
    decide (dBits w 3 0 16 ≤ 2 ^ dBits w 2 42 5) && decide (1 ≤ dBits w 2 32 8) && decide (dBits w 2 32 8 ≤ 128) &&
    decide (dBits w 3 16 32 + dBits w 4 0 32 ≤ dBits w 2 0 32)
  | 12 => isFloat (dIn w) && dBits w 2 0 48 % 32 == 0
  | 13 => isFloat (dOut w) && dBits w 2 0 48 % 32 == 0
  | _ => true

/-- Whether a format code is not reserved (R266). -/
def fmtKnown (c : Nat) : Bool := decide (c ≤ 10) || c == 0xFE || c == 0xFF

/-- Whether the common fields of a descriptor lie in range (R65, R265 to R267). -/
def commonOk (w : List Nat) : Bool :=
  let missOk := match dOp w with
    | 5 => decide (dMiss w ≤ 2)
    | 7 => dMiss w == 0 || dMiss w == 2
    | 8 => decide (dMiss w ≤ 2)
    | 9 => decide (dMiss w ≤ 2)
    | _ => dMiss w == 0
  decide (dOp w ≤ 13) && !bitOf (dWord w 0) 7 && !bitOf (dWord w 0) 47 && fieldOf (dWord w 0) 56 8 == 0 && missOk &&
    fmtKnown (dIn w) && fmtKnown (dOut w) && dWaitKind w != 3 && dSigKind w != 3 && fieldOf (dWord w 1) 62 2 == 0 &&
    (dWaitKind w == 0 || dWaitN w != 0)

/-- A term of FILTER (R291) that may not stand in a predicate over records of `recBytes` bytes; JOIN is ignored in the first. -/
def badTerm (recBytes : Nat) (first : Bool) (t : List Byte) : Bool :=
  let typ := fieldBytes t 2 1
  let size := if typ = 2 || typ = 3 then 8 else if typ = 5 || typ = 6 then 2 else 4
  let cmp := fieldBytes t 3 1
  decide (6 < typ) || decide (7 < cmp) || (!first && decide (1 < fieldBytes t 4 1)) || fieldBytes t 5 3 != 0 ||
    (decide (6 ≤ cmp) && (typ == 4 || typ == 5)) || decide (recBytes < fieldBytes t 0 2 + size)

/-- Whether a predicate holds a term that may not stand in it. -/
def badTerms (recBytes : Nat) : List (List Byte) → Bool
  | [] => false
  | t :: ts => badTerm recBytes true t || ts.any (badTerm recBytes false)

/-- The terms of a FILTER, 16 bytes each. -/
def filterTerms : Nat → List Byte → List (List Byte)
  | 0, _ => []
  | n + 1, bs => bs.take 16 :: filterTerms n (bs.drop 16)

/-- The chain stage of an operator (R267); 0 for one that stands in no chain. -/
def chainRank (op : Nat) : Nat := match op with
  | 5 => 1 | 13 => 2 | 7 => 3 | 8 => 4 | 9 => 4 | 10 => 4 | 6 => 5 | _ => 0

/-- The descriptor groups of a heat in array order: single descriptors and chains, each as its indices (R274). -/
def groupsFrom (ix : Nat) (cur : List Nat) : List (List Nat) → List (List Nat)
  | [] => if cur = [] then [] else [cur]
  | w :: ws => if dChain w then groupsFrom (ix + 1) (cur ++ [ix]) ws else (cur ++ [ix]) :: groupsFrom (ix + 1) [] ws

/-- Whether a group of descriptors breaks the chaining rules (R274); `last` is the array's last index. -/
def chainBroken (descs : List (List Nat)) (g : List Nat) : Bool :=
  let ws := g.map (fun i => descs.getD i [])
  match ws with
  | [w] => dChain w
  | w :: rest =>
    let ranks := ws.map (fun x => chainRank (dOp x))
    !(decide (ws.length ≤ 5)) || dOp w != 5 || dBits w 3 0 16 == 0 || ((ws.getLast?).map dChain).getD true ||
    (List.zipWith (fun a b => decide (b ≤ a)) ranks (ranks.drop 1)).any id ||
    rest.any (fun x => dTile x != dTile w || dDeadline x != 0 || dMiss x != 0 || fieldOf (dWord x 0) 48 8 != 0 ||
      (dOp x != 9 && dF x 0 != 0)) ||
    (dMiss w == 1 && ws.any (fun x => dOp x == 7))
  | [] => false

/-- The fault of descriptor `ix` (R258, R493): the first that applies of 0x12 to 0x17; 0 none. Pages in PPA space are domain 0's alone
(R53). -/
def Dev.descFault (d : Dev) (dom : Nat) (tiles ctrs : List Nat) (descs : List (List Nat)) (g : List Nat) (ix : Nat) : Nat :=
  let w := descs.getD ix []
  let chained := decide (g.head? ≠ some ix)
  let head := if chained then some (descs.getD (g.headD 0) []) else none
  let regions := if decide (dOp w ≤ 13) then namedRegions w head else []
  let overrun := fun (r : Named) => taSpace r.addr == 0 && decide (spaBytes < taAddr r.addr + r.n)
  let bound := fun p => d.isRole p 0 && d.boundDom p == some dom
  let pred := d.readSpa (taTile (dTile w) (dF w 2)) (taAddr (dF w 2)) (dBits w 3 0 4 * 16)
  if regions.any (fun r => !(d.typedOk dom tiles r.addr 1 r.w)) || (pageSpaceOf w chained == some 4 && dom != 0) then 0x12
  else if !commonOk w || !unusedZero w || !fieldsInRange w chained bound || regions.any (fun r => decide (taSpace r.addr ∉ r.spaces)) ||
    (dOp w == 7 && badTerms (dBits w 1 40 16) (filterTerms (dBits w 3 0 4) pred)) then 0x13
  else if regions.any (fun r => taSpace r.addr == 1 && !(d.typedOk dom tiles r.addr r.n r.w)) then 0x12
  else if (match dWait w with
    | some c => decide (c ∉ ctrs)
    | none => false) || (match dSig w with
    | some c => decide (c ∉ ctrs)
    | none => false) then 0x14
  else if chainBroken descs g then 0x15
  else if regions.any overrun then 0x16
  else
    let r := d.reg (Reg.TILE_RES (dTile w))
    if (bitOf r 12 && fieldOf r 0 12 != dom) || d.flag (Reg.TILE_MAP_FAILED (dTile w)) then 0x17 else 0

/-- The first faulty descriptor of a heat with its fault. -/
def Dev.firstFault (d : Dev) (dom : Nat) (tiles ctrs : List Nat) (descs : List (List Nat)) : Option (Nat × Nat) :=
  (groupsFrom 0 [] descs).findSome? (fun g => g.findSome? (fun ix =>
    let e := d.descFault dom tiles ctrs descs g ix
    if e = 0 then none else some (ix, e)))

/-- Descriptors read from device memory as eight words each (R265). -/
def Dev.readDescs (d : Dev) (a : Nat) : Nat → List (List Nat)
  | 0 => []
  | n + 1 =>
    let bs := d.readMem a 64
    (rangeFrom 0 8).map (fun i => fieldBytes bs (8 * i) 8) :: d.readDescs (a + 64) n

/-- Counter-list entries (R257): kind, counter and unit; none where one is malformed. -/
def Dev.readCtrs (d : Dev) (a : Nat) : Nat → Option (List (Nat × Nat))
  | 0 => some []
  | n + 1 =>
    let v := bytesNat (d.readMem a 4)
    match counterId (fieldOf v 16 2) (fieldOf v 0 16), d.readCtrs (a + 4) n with
    | some id, some l => if fieldOf v 19 13 = 0 then some ((id, fieldOf v 18 1) :: l) else none
    | _, _ => none

end Sys2Proof.Machine
end

