-- ==== Sys2Proof/Machine/Heats.lean ====
section
/-! DEFINITION. Heats (R255 to R264, R268 to R270, R276): admission, start, the waits and the status words of descriptors, completion
and the watchdog. -/
namespace Sys2Proof.Machine

/-- What a tile runs. -/
def Dev.runAt (d : Dev) (t : Nat) : Option Run := Tab.find? d.heats.runs t

/-- A tile's run changed. -/
def Dev.onRun (d : Dev) (t : Nat) (f : Run → Run) : Dev :=
  match d.runAt t with
  | some r => { d with heats := { d.heats with runs := Tab.ins d.heats.runs t (f r) } }
  | none => d

/-- A stage of a tile's run changed. -/
def Dev.onStage (d : Dev) (t ix : Nat) (f : Stage → Stage) : Dev :=
  d.onRun t (fun r => { r with stages := r.stages.map (fun s => if s.ix = ix then f s else s) })

/-- A stage of a tile's run. -/
def Dev.stageAt (d : Dev) (t ix : Nat) : Option Stage := (d.runAt t).bind (fun r => r.stages.find? (fun s => s.ix == ix))

/-- Whether a heat is the one of a run. -/
def Heat.isOf (h : Heat) (fn ring no : Nat) : Bool := h.fn == fn && h.ring == ring && h.no == no

/-- The heat of a key. -/
def Dev.heatOf (d : Dev) (fn ring no : Nat) : Option Heat := d.heats.list.find? (fun h => h.isOf fn ring no)

/-- The heat that a tile runs. -/
def Dev.heatOn (d : Dev) (t : Nat) : Option Heat := (d.runAt t).bind (fun r => d.heatOf r.fn r.ring r.no)

/-- A heat changed. -/
def Dev.onHeat (d : Dev) (fn ring no : Nat) (f : Heat → Heat) : Dev :=
  { d with heats := { d.heats with list := mapFirst (fun h => h.isOf fn ring no) f d.heats.list } }

/-- The logical tiles a heat holds (R260). -/
def Heat.tiles (h : Heat) : List Nat := (h.descs.map dTile).foldl addOnce []

/-- The placement generation of a tile (R70). -/
def Dev.tileGen (d : Dev) (t : Nat) : Nat := Tab.get 0 d.heats.gens t

/-- HEAT_STAT follows the heats (R309). -/
def Dev.showHeats (d : Dev) : Dev :=
  let n := (d.heats.list.filter Heat.running).length
  (d.set Reg.HEAT_STAT_RUNNING n).set Reg.HEAT_STAT_WAITING (d.heats.list.length - n)

/-- A stream's generation (R256): it begins anew whenever its command ring is enabled. -/
def Dev.streamGen (d : Dev) (fn ring : Nat) : Nat := (d.ring fn 0 ring).gen

/-- The first heat admitted on a stream since it began anew, and the number after the last; none for a stream without one. -/
def Dev.stream (d : Dev) (fn ring : Nat) : Option (Nat × Nat) :=
  match Tab.find? d.heats.streams (fn * 16 + ring) with
  | some (g, x) => if g = d.streamGen fn ring then some x else none
  | none => none

/-- The number after the last heat admitted on a stream since it began anew; none for a stream without one. -/
def Dev.streamNext (d : Dev) (fn ring : Nat) : Option Nat := (d.stream fn ring).map Prod.snd

/-- The heat record of a submission (R255) and what is wrong with it: 0x10 malformed, 0x11 number, 0x12 address, 0x18 dependency. -/
def Dev.recordFault (d : Dev) (c : RingCmd) (bs : List Byte) : Nat :=
  let f := fieldBytes bs
  let fn := c.fn.val
  let dma := fun (a al n : Nat) (w : Bool) =>
    if taSpace a != 1 || a % al != 0 then 0x10 else if d.typedOk fn [] a n w then 0 else 0x12
  let n := f 16 4
  let shape := f 6 2 != 0 || n == 0 || decide (1048576 < n) || decide (1024 < f 20 2) || decide (2 ≤ f 22 2) || f 52 12 != 0
  let bases := [dma (f 8 8) 64 (64 * n) false, if f 20 2 = 0 then 0 else dma (f 24 8) 4 (4 * f 20 2) false, dma (f 32 8) 32 (32 * n) true]
  if shape || decide (0x10 ∈ bases) then 0x10
  else if (match d.streamNext fn c.ring.val with
    | some k => f 0 6 != k % 2 ^ 48
    | none => false) then 0x11
  else if decide (0x12 ∈ bases) then 0x12
  else 0

/-- Whether a heat's dependency names a heat admitted on an enabled ring of the function since its stream began anew (R258). -/
def Dev.depOk (d : Dev) (fn dring dheat : Nat) : Bool :=
  decide (dring < 16) && (d.ring fn 0 dring).en && (match d.stream fn dring with
    | some (first, next) => decide ((dheat + 2 ^ 48 - first) % 2 ^ 48 < (next + 2 ^ 48 - first) % 2 ^ 48)
    | none => false)

/-- A submission refused (R258): counted, and completed with POISON, its ERR and the first faulty descriptor. -/
def Dev.refuseHeat (d : Dev) (c : RingCmd) (no err index : Nat) : Dev :=
  (d.bump Reg.HEATS_REFUSED).complete c 1 err index (natBytes 6 no)

/-- HEAT_SUBMIT (R258, R491): admission checks the heat, and refuses it whole or admits it. HOLD_ADMIT leaves it queued. A
record, descriptor or counter entry that cannot be read (R450) refuses it as an error of the record (assumption log 162). -/
def Dev.heatSubmit (d : Dev) (c : RingCmd) : Dev :=
  if d.flag Reg.HEAT_CTL_HOLD_ADMIT then d else
  let fn := c.fn.val
  let a := c.arg 8 8
  if taSpace a != 1 || !(d.typedOk fn [] a 64 false) then d.refuseHeat c 0 0x12 0 else
  match d.readEcc (taAddr a) 64 with
  | (d, none) => d.refuseHeat c 0 0x10 0
  | (d, some bs) =>
  let f := fieldBytes bs
  let no := f 0 6
  let e := d.recordFault c bs
  if e != 0 then d.refuseHeat c no e 0 else
  let descsOk := d.readable (taAddr (f 8 8)) (64 * f 16 4)
  let ctrsOk := descsOk.1.readable (taAddr (f 24 8)) (4 * f 20 2)
  let d := ctrsOk.1
  if !(descsOk.2 && ctrsOk.2) then d.refuseHeat c no 0x10 0 else
  match d.readCtrs (taAddr (f 24 8)) (f 20 2) with
  | none => d.refuseHeat c no 0x10 0
  | some ctrs =>
    let descs := d.readDescs (taAddr (f 8 8)) (f 16 4)
    let tiles := (descs.map dTile).foldl addOnce []
    match d.firstFault fn tiles (ctrs.map Prod.fst) descs with
    | some (ix, e) => d.refuseHeat c no e ix
    | none =>
      let dep := f 22 2 == 1
      if dep && !(d.depOk fn (f 40 2) (f 42 6)) then d.refuseHeat c no 0x18 0 else
      let h : Heat := { fn := fn, ring := c.ring.val, no := no, cmd := c, descs := descs, ctrs := ctrs, status := taAddr (f 32 8),
                        dep := if dep then some (f 40 2, f 42 6, d.streamGen fn (f 40 2)) else none, wdog := f 48 4, running := false,
                        start := 0, codes := [], acks := [], landed := [], mute := false }
      let d := d.beginCmd c
      ({ d with heats := { d.heats with
        list := d.heats.list ++ [h],
        streams := Tab.ins d.heats.streams (fn * 16 + c.ring.val)
          (d.streamGen fn c.ring.val, ((d.stream fn c.ring.val).map Prod.fst).getD no, (no + 1) % 2 ^ 48) } }).showHeats

/-- Whether a heat's dependency has completed (R260, R264): its stream has begun anew, or no such heat is left. -/
def Dev.depDone (d : Dev) (h : Heat) : Bool :=
  match h.dep with
  | none => true
  | some (ring, no, gen) => gen != d.streamGen h.fn ring || !(d.heats.list.any (fun x => x.isOf h.fn ring no))

/-- Whether two heats need a common tile or counter. -/
def Heat.clash (a b : Heat) : Bool :=
  a.tiles.any (fun t => decide (t ∈ b.tiles)) || a.ctrs.any (fun c => decide (c.1 ∈ b.ctrs.map Prod.fst))

/-- Whether a waiting heat may start (R58, R260): the heat before it in its stream is complete, its dependency too, and no running
heat and no earlier waiting heat needs a tile or counter of it. -/
def Dev.heatReady (d : Dev) (h : Heat) : Bool :=
  let earlier := d.heats.list.takeWhile (fun x => !x.isOf h.fn h.ring h.no)
  !h.running && !(earlier.any (fun x => x.fn == h.fn && x.ring == h.ring)) && d.depDone h &&
    !(earlier.any (fun x => !x.running && x.clash h)) && !(d.heats.list.any (fun x => x.running && x.clash h)) &&
    !(h.tiles.any (fun t => (Tab.find? d.heats.frozen t).isSome))

/-- The Crucibles of a tile given up: they hold zeros. -/
def Dev.clearCruc (d : Dev) (t : Nat) : Dev :=
  { d with heats := { d.heats with cruc := d.heats.cruc.filter (fun x => x.1 / 64 != t) } }

/-- The Crucibles of a tile after a step that summed these elements in them (R224): element e in Crucible e mod 64. -/
def Dev.keepCruc (d : Dev) (t : Nat) (cs : List Crucible) : Dev :=
  let cruc := (cs.zip (rangeFrom 0 cs.length)).foldl (fun tab x => Tab.put Crucible.zero tab (t * 64 + x.2 % 64) x.1) d.heats.cruc
  { d with heats := { d.heats with cruc := cruc } }

/-- The wipe of a tile that passes between domains (R261): scratchpad, Crucibles and tile arrival counters. -/
def Dev.wipeTile (d : Dev) (t dom : Nat) : Dev :=
  if d.get (Reg.TILE_RES_LAST_DOMAIN t) = dom then d else
  let d := { d with spa := Memory.clear d.spa (t * spaBytes) spaBytes }.clearCruc t
  let d := d.each (rangeFrom (t * 256) 256) (fun d id =>
    (d.setReg (ctrCur id) (fieldPut (d.reg (ctrCur id)) 0 48 0)).setReg (ctrPrev id) (fieldPut (d.reg (ctrPrev id)) 0 47 0))
  d.bump Reg.TILE_WIPES

/-- The mark of a REDUCE that met an overrun before its steps began. -/
def overrunMark : Nat := 2 ^ 32

/-- The mark of a message that a REDUCE discarded before its steps began. -/
def slagMark : Nat := 2 ^ 32 + 1

/-- A stage of a descriptor that has not begun (R276). -/
def Stage.fresh (ix : Nat) (w : List Nat) : Stage :=
  { ix := ix, w := w, step := 0, waited := false, code := 0, reason := 0, flags := 0, result := 0, slag := 0, shadows := 0, skips := 0,
    firstSkip := 2 ^ 32 - 1, dl := false, replayed := false, fin := false, wrote := false, nums := [], blobs := [], rank := [],
    pass := [], ent := 0, again := 0, parts := [] }

/-- A descriptor of a heat as it begins: what its landing region has discarded by then stands in its SLAG. -/
def Heat.begin (h : Heat) (ix : Nat) : Stage :=
  { Stage.fresh ix (h.descs.getD ix []) with slag := (h.landed.filter (fun x => x.2.1 == ix && x.2.2 == slagMark)).length }

/-- The next descriptor group of a tile begins (R268, R270). -/
def Dev.nextGroup (d : Dev) (t : Nat) : Dev :=
  match d.runAt t, d.heatOn t with
  | some r, some h =>
    match r.todo with
    | [] => (d.onRun t (fun r => { r with stages := [], items := [], held := [] })).set (Reg.TILE_STAT_BUSY t) 0
    | g :: rest =>
      let missed := r.overdue.find? (fun x => g.head? == some x.1)
      (d.onRun t (fun r => { r with
        todo := rest, stages := g.map (fun i => { h.begin i with dl := missed.any (fun x => x.2 != []) }), since := d.time, tries := [],
        deadlined := missed.isSome, inTime := [], missed := (missed.map Prod.snd).getD [], lost := [], outcomes := [], items := [],
        held := [] })).set (Reg.TILE_STAT_BUSY t) 1
  | _, _ => d

/-- A tile taken by a heat (R260, R261, R309). -/
def Dev.takeTile (d : Dev) (h : Heat) (t : Nat) : Dev :=
  let d := d.wipeTile t h.fn
  let d := (d.set (Reg.TILE_RES_LAST_DOMAIN t) h.fn).set (Reg.TILE_RES_HELD t) 1
  let mine := (groupsFrom 0 [] h.descs).filter (fun g => ((g.head?).map (fun i => dTile (h.descs.getD i []) == t)).getD false)
  let r : Run := { fn := h.fn, ring := h.ring, no := h.no, todo := mine, stages := [], since := d.time, tries := [], deadlined := false,
                   inTime := [], missed := [], lost := [], outcomes := [], items := [], held := [], frames := [], gone := [], overdue := [] }
  ({ d with heats := { d.heats with runs := Tab.ins d.heats.runs t r } }).nextGroup t

/-- A stage of a chain before one that acquires at POOL or FABRIC (R78): it takes its steps again, for its pool reads were issued before the
acquire completed. Its status keeps the outcomes of the pages it has met, and its counter the pages it has counted; the flags of data
that is discarded go (R250). -/
def Stage.reissue (s : Stage) : Stage :=
  if s.code != 0 then s
  else { s with step := 0, result := 0, flags := 0, fin := false, nums := [], blobs := [], rank := [], pass := [], ent := 0, again := max s.again s.step, parts := [] }

/-- Whether an item came from the pool. -/
def Item.pooled (i : Item) : Bool := taSpace i.addr == 2 || taSpace i.addr == 4

/-- The pool reads of a tile, tables among them, that a chain's later stage acquires behind are discarded and issued again (R78, R253). -/
def Run.acquire (r : Run) (ix : Nat) : Run :=
  match r.stages.head? with
  | some g =>
    let pool := dOp g.w == 5 && (dBits g.w 1 37 3 != 1 || taSpace (dF g.w 0) == 2 || taSpace (dF g.w 0) == 4)
    if g.ix = ix || !pool then r
    else { r with
      stages := r.stages.map (fun s => if s.ix < ix then s.reissue else s),
      items := r.items.filter (fun i => !(decide (i.page < 2 ^ 64) || i.pooled)) }
  | none => r

/-- Whether a descriptor acquires at POOL or FABRIC (R78, R268). -/
def poolAcquire (w : List Nat) : Bool := bitOf (dWord w 0) 19 && decide (2 ≤ fieldOf (dWord w 0) 20 2)

/-- Every descriptor whose wait holds goes on, through its acquire (R65, R78, R268). -/
def Dev.checkWaits (d : Dev) : Dev :=
  let holds := fun (s : Stage) => match dWait s.w with
    | none => true
    | some c => d.waitHolds (dFollow s.w) c (dWaitN s.w)
  let on := fun (r : Run) =>
    let ready := r.stages.filter (fun s => !s.waited && !s.fin && holds s)
    let r := { r with stages := r.stages.map (fun s => if !s.waited && !s.fin && holds s then { s with waited := true } else s) }
    (ready.filter (fun s => poolAcquire s.w)).foldl (fun r s => r.acquire s.ix) r
  { d with heats := { d.heats with runs := d.heats.runs.map (fun (x : Nat × Run) => (x.1, on x.2)) } }

/-- The placement generation that a counter of a heat starts with (R66, R70): that of its tile, and of a device counter that of the
tile whose descriptor waits on it. -/
def Dev.startGen (d : Dev) (h : Heat) (id : Nat) : Nat :=
  if id < 65536 then d.tileGen (id / 256)
  else ((h.descs.find? (fun w => dWait w == some id)).map (fun w => d.tileGen (dTile w))).getD (d.ctrGen id)

/-- HEAT_START (R260, R261, R264): the heat takes its tiles and counters together, or is refused at its turn for a tile that is
reserved for another domain or FAILED. A counter's FOLLOW is that of the first descriptor that names it (assumption log 141). -/
def Dev.heatStart (d : Dev) (fn ring no : Nat) : Dev :=
  match d.heatOf fn ring no with
  | none => d
  | some h =>
    if !d.heatReady h then d else
    let barred := fun (w : List Nat) =>
      (d.flag (Reg.TILE_RES_RESERVED (dTile w)) && d.get (Reg.TILE_RES_DOMAIN (dTile w)) != fn) || d.flag (Reg.TILE_MAP_FAILED (dTile w))
    match h.descs.findIdx? barred with
    | some ix =>
      let d := { d with heats := { d.heats with list := dropFirst (fun x => x.isOf fn ring no) d.heats.list } }
      (if h.mute then d.bump Reg.HEATS_REFUSED else d.refuseHeat h.cmd no 0x17 ix).showHeats
    | none =>
      let d := d.onHeat fn ring no (fun h => { h with running := true, start := d.time })
      let follow := fun (id : Nat) => ((h.descs.find? (fun w => dWait w == some id || dSig w == some id)).map dFollow).getD false
      let d := d.each h.tiles (fun d t => d.takeTile h t)
      let d := d.each h.ctrs (fun d c =>
        d.takeCtr c.1 c.2 (if follow c.1 then 1 else 0) (d.startGen h c.1) ⟨fn, fn, ring, no, [], []⟩)
      ((d.trace 0 0xF (no + fn * 2 ^ 48)).checkWaits).showHeats

/-- The CODE of a status word (R19, R276): what ended the descriptor, and what its pages met. -/
def Stage.finalCode (s : Stage) : Nat :=
  worse s.code (worse (if s.skips = 0 then 0 else 10) (if s.shadows = 0 then 0 else 9))

/-- A status word (R276). -/
def Stage.word (s : Stage) (start now pgen : Nat) : List Byte :=
  let b := fun (x : Bool) (n : Nat) => if x then 2 ^ n else 0
  natBytes 4 (s.finalCode + s.flags % 256 * 2 ^ 8 + 2 ^ 16 + b s.dl 17 + b s.replayed 18 + s.reason * 2 ^ 19) ++
    natBytes 4 s.shadows ++ natBytes 4 s.skips ++ natBytes 4 s.firstSkip ++ natBytes 8 s.result ++
    natBytes 4 (min (2 ^ 32 - 1) ((now - start) / 10)) ++ natBytes 2 pgen ++ natBytes 2 (min 65535 s.slag)

/-- Where the status word of a descriptor lies (R276). -/
def Heat.statusAt (h : Heat) (ix : Nat) : Nat := h.status + 32 * ix

/-- A status word sent to device memory by its tile (R165, R276); the heat waits until it has landed (R262). -/
def Dev.sendStatus (d : Dev) (h : Heat) (t : Nat) (s : Stage) : Dev :=
  let a := h.statusAt s.ix
  let tag := d.heats.tag
  let word := s.word h.start d.time (d.tileGen t)
  let d := { d with heats := { d.heats with tag := tag + 1 } }
  let d := d.onHeat h.fn h.ring h.no (fun h => { h with acks := h.acks ++ [⟨tag, t, s.ix, 1⟩] })
  d.sendInner (.tile t) (.forge (stackOf a)) (opsMsg 0 (tag % tagSpace) (ownTc 2) h.fn a 0 (filledChunks word)) h.fn (.store tag a 0 h.fn 0 word)

/-- A descriptor has its status word, which counts (R276, R310, R338). -/
def Dev.noteStatus (d : Dev) (h : Heat) (t : Nat) (s : Stage) : Dev :=
  let d := d.bump Reg.DESC_DONE
  let d := d.when (dOp s.w == 9) (fun d => d.bump Reg.ATTEND_DESC)
  let d := d.set (Reg.TILE_STAT_NUMFLAGS t) (Nat.lor (d.get (Reg.TILE_STAT_NUMFLAGS t)) s.flags)
  d.onHeat h.fn h.ring h.no (fun h => { h with codes := h.codes ++ [(s.ix, s.finalCode)] })

/-- A heat has completed (R262): its tiles and counters are free and its completion is posted with the first of its codes in the
order of R19. -/
def Dev.finishHeat (d : Dev) (h : Heat) : Dev :=
  let code := (h.codes.map Prod.snd).foldl worse 0
  let d := d.each h.tiles (fun d t =>
    (({ d with heats := { d.heats with runs := Tab.del d.heats.runs t } }).set (Reg.TILE_RES_HELD t) 0).set (Reg.TILE_STAT_BUSY t) 0)
  let d := d.each h.ctrs (fun d c => d.dropCtr c.1)
  let d := { d with heats := { d.heats with list := dropFirst (fun x => x.isOf h.fn h.ring h.no) d.heats.list } }
  let d := (d.bump Reg.HEATS_DONE).trace 1 0xF (h.no + code * 2 ^ 48)
  (if h.mute then d else d.complete h.cmd code 0 0 (natBytes 6 h.no)).showHeats

/-- HEAT_COMPLETE (R57, R262): every descriptor has written its status word and every write has been acknowledged. -/
def Dev.heatComplete (d : Dev) (fn ring no : Nat) : Dev :=
  match d.heatOf fn ring no with
  | some h => if h.running && h.codes.length == h.descs.length && h.acks == [] then d.finishHeat h else d
  | none => d

/-- The key of a page of an entry of a length table (R318). -/
def attKey (ent p : Nat) : Nat := ent * 2 ^ 41 + p + 1

/-- `n` bytes of a table at a typed address as a tile knows them without a read (R277): in a scratchpad or in device memory, or landed. -/
def Dev.known (d : Dev) (t a n : Nat) : Option (List Byte) :=
  match taSpace a with
  | 0 => some (d.readSpa (taTile t a) (taAddr a) n)
  | 1 => some (d.readMem (taAddr a) n)
  | _ => (((d.runAt t).map Run.items).getD []).findSome? (fun i =>
      if i.status = some 0 && decide (i.addr ≤ a) && decide (a + n ≤ i.addr + i.data.length) then some ((i.data.drop (a - i.addr)).take n) else none)

/-- Whether entry `i` of a page table is known to be a hole (R282). -/
def Dev.isHole (d : Dev) (t pt i : Nat) : Bool :=
  match d.known t (pt + 8 * i) 8 with
  | some bs => !bitOf (bytesNat bs) 52
  | none => false

/-- The keys of the pages of an entry that an ATTEND has not begun to serve, as far as its tables are known (R277, R314). -/
def Dev.laterKeys (d : Dev) (t : Nat) (w : List Nat) (ent : Nat) : List Nat :=
  match (d.known t (dF w 0 + 32 * ent) 32).map lenEntry with
  | none => []
  | some e => match d.known t (maskSpan e).1 (maskSpan e).2 with
    | none => []
    | some mask => ((entryPages w e).filter (fun p => pageTokens w e mask p != [] && !(d.isHole t e.pt p))).map (attKey ent)

/-- The keys of the pages that a stage which walks its own page tables has still to take (R277), holes left out: those of ATTEND are of the
entry being served and of the entries behind it. -/
def Dev.pagesAhead (d : Dev) (t : Nat) (s : Stage) : List Nat :=
  let w := s.w
  match dOp w with
  | 5 | 7 | 8 => ((rangeFrom s.step (dBits w 1 0 32 - s.step)).filter (fun i => !(d.isHole t (dF w 0) i))).map (fun i => i + 1)
  | 11 => ((rangeFrom s.step (reshardPages w (dBits w 2 40 1) - s.step)).filter (fun p => reshardRows w p != [])).map (fun i => i + 1)
  | 9 =>
    let tab := s.blobs.getD 2 []
    let now := ((rangeFrom 0 (tab.length / 16)).filter (fun i => bitOf (fieldBytes tab (16 * i + 8) 8) 52)).drop (s.nums.getD 1 0)
    let from_ := if tab = [] && s.blobs = [] then s.ent else s.ent + 1
    now.map (fun i => attKey s.ent (fieldBytes tab (16 * i) 8)) ++ (rangeFrom from_ (dBits w 1 0 17 - from_)).flatMap (d.laterKeys t w)
  | _ => []

/-- The keys of the pages read ahead whose lines have all landed. -/
def Run.landedKeys (r : Run) : List Nat :=
  (((r.items.filter (fun i => decide (i.page < 2 ^ 64))).map Item.page).foldl addOnce []).filter
    (fun k => r.items.all (fun i => i.page != k || i.status.isSome))

/-- The pages of a tile's chain or descriptor that have not landed (R277), those whose reads are not yet issued included. -/
def Dev.pagesLeft (d : Dev) (t : Nat) : List Nat :=
  match d.runAt t with
  | some r => (match r.stages.head? with
    | some s => if s.fin then [] else (d.pagesAhead t s).filter (fun k => decide (k ∉ r.landedKeys))
    | none => [])
  | none => []

/-- Whether the deadline of a descriptor has come. -/
def Dev.isDue (d : Dev) (h : Heat) (w : List Nat) : Bool := dDeadline w != 0 && decide (h.start + dDeadline w ≤ d.time)

/-- The groups of a tile not yet begun whose deadline has come (R277), by the index of their first descriptor, with the pages they miss. -/
def Dev.dueLater (d : Dev) (h : Heat) (t : Nat) : List (Nat × List Nat) :=
  (((d.runAt t).map Run.todo).getD []).filterMap (fun g => (g.head?).bind (fun i =>
    let w := h.descs.getD i []
    if d.isDue h w then some (i, d.pagesAhead t (h.begin i)) else none))

/-- Whether a deadline of a tile's chain falls due with pages that have not landed (R277, R470). -/
def Dev.deadlineDue (d : Dev) (h : Heat) (t : Nat) : Bool :=
  match d.runAt t with
  | some r => !r.deadlined && d.pagesLeft t != [] && ((r.stages.head?).map (fun s => d.isDue h s.w)).getD false
  | none => false

/-- Whether descriptor `ix` of a tile that the heat's end finds unfinished has missed its deadline (R264, R470): its chain runs, or has not
begun. -/
def Dev.missesAt (d : Dev) (h : Heat) (t ix : Nat) : Bool :=
  if (d.stageAt t ix).isSome then d.deadlineDue h t
  else
    let group := (((d.runAt t).map Run.todo).getD []).find? (fun g => decide (ix ∈ g))
    match group.bind List.head? with
    | some i => (d.dueLater h t).any (fun x => x.1 == i && x.2 != [])
    | none => false

/-- The watchdog of a heat in ms (R255, R263); 0 none. -/
def Dev.watchdogOf (d : Dev) (h : Heat) : Nat := if h.wdog = 0 then d.get Reg.HEAT_CTL_WATCHDOG_MS else h.wdog

/-- A running heat ended at once with POISON and REASON WATCHDOG for every unfinished descriptor (R263, R481). Where a deadline falls due
with it, DL_MISS is set (R470). -/
def Dev.endHeat (d : Dev) (fn ring no : Nat) : Dev :=
  match d.heatOf fn ring no with
  | none => d
  | some h =>
    let tileOf := fun (ix : Nat) => dTile (h.descs.getD ix [])
    let open_ := (rangeFrom 0 h.descs.length).filter (fun ix => !(h.codes.any (fun c => c.1 == ix)))
    let d := d.each open_ (fun d ix =>
      let t := tileOf ix
      let s := (d.stageAt t ix).getD (h.begin ix)
      let s := { s with
        result := s.result - sumBy (fun p => p.2.length) s.parts, code := worse s.code 1,
        reason := if s.fin && s.code != 0 then s.reason else 2, dl := s.dl || d.missesAt h t ix }
      (d.writeMem (h.statusAt ix) (s.word h.start d.time (d.tileGen t))).noteStatus h t s)
    let d := d.onHeat fn ring no (fun h => { h with acks := [] })
    match d.heatOf fn ring no with
    | some h => d.finishHeat h
    | none => d

/-- WATCHDOG_EXPIRY (R263, R264). -/
def Dev.watchdogExpiry (d : Dev) (fn ring no : Nat) : Dev :=
  match d.heatOf fn ring no with
  | some h =>
    let ms := d.watchdogOf h
    if h.running && ms != 0 && decide (h.start + ms * 1000000 ≤ d.time) then (d.bump Reg.WATCHDOG_EXPIRED).endHeat fn ring no else d
  | none => d

/-- A stage ends with a code other than OK, and every later stage of its chain with the same code and REASON CHAIN (R275). -/
def Dev.failStage (d : Dev) (t ix code reason : Nat) : Dev :=
  d.onRun t (fun r => { r with stages := r.stages.map (fun s =>
    if s.fin then s
    else if s.ix = ix then { s with fin := true, code := worse code s.code, reason := reason }
    else if ix < s.ix then { s with fin := true, code := worse code s.code, reason := 9 }
    else s) })

/-- A stage that ends with a code other than OK, APPROX or SKIPPED ends every later stage of its chain with it (R275). -/
def Dev.failLater (d : Dev) (t ix code : Nat) : Dev :=
  if decide (code ∈ [0, 9, 10]) then d else
  d.onRun t (fun r => { r with stages := r.stages.map (fun s =>
    if ix < s.ix && !s.wrote then { s with fin := true, code := worse code s.code, reason := if s.reason = 0 then 9 else s.reason } else s) })

/-- A stage's steps have ended. -/
def Dev.finStage (d : Dev) (t ix : Nat) : Dev := d.onStage t ix (fun s => { s with fin := true })

/-- WAIT_TIMEOUT (R269, R468): the descriptor ends without a write, and the arrival that would have satisfied it will not be counted. -/
def Dev.waitTimeout (d : Dev) (t : Nat) : Dev :=
  let d := d.checkWaits
  match d.runAt t with
  | none => d
  | some r =>
    match r.stages.find? (fun s => !s.waited && !s.fin && dWaitLimit s.w != 0 && decide (r.since + dWaitLimit s.w * 1000 ≤ d.time)) with
    | none => d
    | some s =>
      let d := match dWait s.w with
        | some c => (match Tab.find? d.ctrs c with
          | some h => { d with ctrs := Tab.ins d.ctrs c { h with late := addOnce h.late (dWaitN s.w) } }
          | none => d)
        | none => d
      d.failStage t s.ix 1 3

end Sys2Proof.Machine
end

