-- ==== Sys2Proof/Machine/TileMem.lean ====
section
/-! DEFINITION. How a tile reads and writes (R49, R55, R56, R70, R72, R252, R268, R277 to R282, R297, R301): the pieces its Tongs
read, pages and their misses, the messages of its writes, and frames that land in a scratchpad. -/
namespace Sys2Proof.Machine

/-- What a read has brought: its bytes, nothing yet, or a code other than OK. -/
inductive Got where
  | ok (bytes : List Byte)
  | wait
  | bad (code : Nat)
  deriving DecidableEq, Repr

/-- The key of the operand and table reads of descriptor `ix`. -/
def opKey (ix : Nat) : Nat := 2 ^ 64 + ix

/-- All stages of a tile's run changed. -/
def Dev.onStages (d : Dev) (t : Nat) (f : Stage → Stage) : Dev := d.onRun t (fun r => { r with stages := r.stages.map f })

/-- The REMOTE entry that a domain's DPA typed address lies in (R389). -/
def Dev.remoteAt (d : Dev) (dom a : Nat) : Option RtEntry :=
  if taSpace a = 2 then ((d.ten.live.byDpa dom (taAddr a)).map Prod.snd).filter (fun e => e.kind == 2) else none

/-- The requests in which `n` bytes from a typed address are read or written (R252, R389, R476): `spa` bytes at most in SPA, and where
that is not all of them whole sectors (R81, R84), `dma` in DMA, one line of the pool, 4,096 bytes of host memory, 16 MiB of a remote
window. -/
def Dev.cut (d : Dev) (dom spa dma : Nat) : Nat → Nat → Nat → List (Nat × Nat)
  | 0, _, _ => []
  | fuel + 1, a, n =>
    if n = 0 then [] else
    let m := match taSpace a with
      | 0 => if n ≤ max 64 spa then n else (a + max 64 spa) / 64 * 64 - a
      | 1 => min n (max 1 dma - taAddr a % max 1 dma)
      | 3 => min n (4096 - taAddr a % 4096)
      | _ => (match d.remoteAt dom a with
        | some e => max 1 (min n (min 0x100_0000 ((e.dpaPage + e.pages) * 0x20_0000 - taAddr a)))
        | none => min n (64 - taAddr a % 64))
    (a, m) :: d.cut dom spa dma fuel (a + m) (n - m)

/-- The pieces in which a tile reads `n` bytes (R252): lines of device memory and of the pool. -/
def Dev.piecesOf (d : Dev) (dom a n : Nat) : List (Nat × Nat) := d.cut dom (2 ^ 40) 64 (n + 1) a n

/-- An item added to a tile's reads. -/
def Dev.addItem (d : Dev) (t : Nat) (i : Item) : Dev := d.onRun t (fun r => { r with items := r.items ++ [i] })

/-- The next TAG of the tiles. -/
def Dev.tileTag (d : Dev) : Nat × Dev := (d.heats.tag, { d with heats := { d.heats with tag := d.heats.tag + 1 } })

/-- A HOST read issued by the host controller (R49, R476). -/
def Dev.hostAsk (d : Dev) (fn addr len : Nat) (use : HostUse) : Dev :=
  { d with host := { d.host with
    reads := d.host.reads ++ [⟨d.host.readTag, fn, addr, len, use⟩], readTag := d.host.readTag + 1 } }

/-- A pool request of a tile (R419): class 0, its heat's domain, under the live epoch. -/
def Dev.tileReq (d : Dev) (t tag dom ppa : Nat) (op : HomeOp) (data : List Byte) (mask kind ctr : Nat)
    (gen : Option Nat) : HomeReq :=
  { who := .tile t, tag := tag, op := op, dom := dom, ppa := ppa / 64 * 64, count := 0, first := ppa / 64 * 64, data := data,
    mask := mask, tc := ownTc 2, ctrKind := kind, ctr := ctr, epoch := d.epoch, no := 0, parity := 0, gen := gen }

/-- The scope at which the descriptor whose reads carry a key acquires, if it does (R268, R402). -/
def Dev.acquireAt (d : Dev) (t key : Nat) : Option Nat :=
  let s := if 2 ^ 64 ≤ key then d.stageAt t (key - 2 ^ 64) else (d.runAt t).bind (fun r => r.stages.head?)
  s.bind (fun s => if bitOf (dWord s.w 0) 19 then some (fieldOf (dWord s.w 0) 20 2) else none)

/-- The lines that Tongs engine `e` of a tile has outstanding (R224, R252). -/
def Run.outstanding (r : Run) (e : Nat) : Nat := (r.items.filter (fun i => i.tongs == e && i.status.isNone)).length

/-- The Tongs engine of a tile that issues its next pool line: the one with fewer lines outstanding, none while both have 2,048 (R252). -/
def Dev.tongsFree (d : Dev) (t : Nat) : Option Nat :=
  (d.runAt t).bind (fun r =>
    let e := if r.outstanding 0 ≤ r.outstanding 1 then 0 else 1
    if r.outstanding e < 2048 then some e else none)

/-- A remote access goes to the engine of its context (R165, R389, R390). -/
def Dev.askRemote (d : Dev) (t dom : Nat) (a : RemoteAsk) : Dev :=
  let die := match Tab.find? d.grt.ctxs a.ctx with
    | some x => d.portDie (fieldBytes x.rec_ 2 2 % 512)
    | none => 0
  d.sendTrain (.tile t) (.grt die) 224 (fun bs => opsMsg (if bs = [] then 1 else 0) (a.tag % tagSpace) (ownTc 2) dom 0 0 (filledChunks bs)) dom a.bytes
    (.remote a)

/-- One piece of a read is issued (R252, R253): a scratchpad answers at once, device memory, a home, the host or a remote T9 later; an
address outside what the domain may name returns POISON. -/
def Dev.issuePiece (d : Dev) (t key : Nat) (remoteOk : Bool) (p : Nat × Nat) : Dev :=
  match d.heatOn t with
  | none => d
  | some h =>
    let a := p.1
    let n := p.2
    let (tag, d) := d.tileTag
    let item := fun (st : Option Nat) (bs : List Byte) => (⟨tag, key, a, n, 2, st, bs⟩ : Item)
    if !(d.typedOk h.fn h.tiles a n false) then d.addItem t (item (some 1) []) else
    match taSpace a with
    | 0 => if spaBytes < taAddr a + n then d.addItem t (item (some 1) [])
      else d.addItem t (item (some 0) (d.readSpa (taTile t a) (taAddr a) n))
    | 1 => (d.addItem t { item none [] with tongs := (d.tongsFree t).getD 0 }).sendInner (.tile t) (.forge (stackOf (taAddr a)))
        (opsMsg 1 (tag % tagSpace) (ownTc 2) h.fn (taAddr a) 0 []) h.fn (.fetch tag (taAddr a) n)
    | 3 => (d.addItem t (item none [])).askHost (.tile t) (tag % tagSpace) (ownTc 2) h.fn (taAddr a) n [] (.operator t tag)
    | sp =>
      let (d, c) := d.checkPool (.tile t) h.fn (taAddr a) (sp == 4) .rdNoalloc
      match c with
      | .fail s => d.addItem t (item (some s) [])
      | .remote e =>
        if !remoteOk || !e.canRead then (d.bump Reg.ACCESS_DENIED).addItem t (item (some 1) []) else
        let ask : RemoteAsk := { tile := t, tag := tag, ctx := e.context, handle := e.handle, epoch := e.regEpoch,
                                 offset := e.offset + (taAddr a - e.dpaPage * 0x20_0000), write := false, bytes := [], len := n,
                                 ctrKind := 0, ctr := 0, order := d.acquireAt t key }
        (d.addItem t (item none [])).askRemote t h.fn ask
      | .pass ppa => (d.addItem t { item none [] with tongs := (d.tongsFree t).getD 0 }).askHome
          (d.tileReq t tag h.fn ppa .rdNoalloc [] 0 0 0 none)

/-- The item of a piece under a key. -/
def Run.itemOf (r : Run) (key : Nat) (p : Nat × Nat) : Option Item :=
  r.items.find? (fun i => i.page == key && i.addr == p.1 && i.len == p.2)

/-- A KV line that an ATTEND walking its own tables has asked for already, for whatever page (R324). -/
def Run.lineAsked (r : Run) (key : Nat) (p : Nat × Nat) : Option Item :=
  if decide (key < 2 ^ 64) && ((r.stages.head?).map (fun s => dOp s.w == 9)).getD false then
    r.items.find? (fun i => decide (i.page < 2 ^ 64) && i.addr == p.1 && i.len == p.2 && (i.status.isNone || i.status == some 0))
  else none

/-- The pieces not yet asked for are issued, lines as long as a Tongs engine can hold one more (R252); a KV line of an ATTEND is issued once
for the descriptor, and another page that holds it takes what it brings (R324). -/
def Dev.fetch (d : Dev) (t key : Nat) (remoteOk : Bool) (ps : List (Nat × Nat)) : Dev :=
  d.each ps (fun d p => match (d.runAt t).bind (fun r => r.itemOf key p), (d.runAt t).bind (fun r => r.lineAsked key p) with
    | some _, _ => d
    | none, some i => if i.status = some 0 then d.addItem t { i with page := key } else d
    | none, none =>
      if (taSpace p.1 == 1 || taSpace p.1 == 2 || taSpace p.1 == 4) && (d.tongsFree t).isNone then d else d.issuePiece t key remoteOk p)

/-- What pieces have brought; a code other than OK counts as soon as it is there. -/
def Dev.collect (d : Dev) (t key : Nat) (ps : List (Nat × Nat)) : Got :=
  match d.runAt t with
  | none => .wait
  | some r =>
    let found := ps.map (r.itemOf key)
    let codes := found.filterMap (fun i => (i.bind Item.status).filter (fun c => c != 0))
    if codes != [] then .bad (codes.foldl worse 0)
    else if found.any (fun i => (i.bind Item.status).isNone) then .wait
    else .ok (found.flatMap (fun i => (i.map Item.data).getD []))

/-- Bytes read as an operand or table of descriptor `ix`. -/
def Dev.grab (d : Dev) (t ix a n : Nat) (remoteOk : Bool) : Dev × Got :=
  match d.heatOn t with
  | none => (d, .wait)
  | some h =>
    let ps := d.piecesOf h.fn a n
    let d := d.fetch t (opKey ix) remoteOk ps
    (d, d.collect t (opKey ix) ps)

/-- Whether a descriptor's reads may go to a remote window (R389): those of COPY and GATHER. -/
def Dev.mayRemote (d : Dev) (t ix : Nat) : Bool := ((d.stageAt t ix).map (fun s => dOp s.w == 2 || dOp s.w == 5)).getD false

/-- Entry `i` of a table of `count` 8-byte entries, read by the line that holds it (R282, R316). -/
def Dev.tableEntry (d : Dev) (t ix pt count i : Nat) : Dev × Got :=
  let a := pt + 8 * i
  let lo := max pt (a - taAddr a % 64)
  let hi := min (pt + 8 * count) (a - taAddr a % 64 + 64)
  let (d, g) := d.grab t ix lo (hi - lo) (d.mayRemote t ix)
  (d, match g with
    | .ok bs => .ok ((bs.drop (a - lo)).take 8)
    | g => g)

/-- An entry of a Tongs page table (R282): its page's typed address, none for a hole, or malformed. -/
inductive Entry where
  | page (a : Nat)
  | hole
  | malformed
  deriving DecidableEq, Repr

/-- An entry read from its bytes; a nonzero reserved bit or an address not aligned to the page is malformed. -/
def entryOf (space log : Nat) (bs : List Byte) : Entry :=
  let v := bytesNat bs
  if 2 ^ 53 ≤ v then .malformed
  else if !bitOf v 52 then .hole
  else if v % 2 ^ 52 % 2 ^ log != 0 then .malformed
  else .page (space * 2 ^ 60 + v % 2 ^ 52)

/-- Reads of a key no longer wanted (R277, R280): those outstanding are cancelled, so that their lines are discarded when they come,
and what has landed is discarded into SLAG. -/
def Dev.dropPage (d : Dev) (t ix key : Nat) : Dev :=
  let mine : List Item := match d.runAt t with
    | some r => r.items.filter (fun i => i.page == key)
    | none => []
  let d := d.onRun t (fun r => { r with items := r.items.filter (fun i => i.page != key) })
  let no := ((d.runAt t).map Run.no).getD 0
  let late := (mine.filter (fun (i : Item) => i.status.isNone)).map (fun (i : Item) => (⟨i.tag, t, no, ix⟩ : LateLine))
  let d := { d with heats := { d.heats with late := d.heats.late ++ late } }
  d.onStage t ix (fun s => { s with slag := s.slag + (mine.filter (fun (i : Item) => i.status.isSome)).length })

/-- Reads of a key that have been used. -/
def Dev.clearKey (d : Dev) (t key : Nat) : Dev := d.onRun t (fun r => { r with items := r.items.filter (fun i => i.page != key) })

/-- The key under which a tile keeps the KV lines that its ATTEND has used (R324). -/
def usedKey : Nat := 2 ^ 63

/-- The KV lines of a page that have been used are kept for the descriptor's other pages (R324). -/
def Dev.keepLines (d : Dev) (t key : Nat) : Dev :=
  d.onRun t (fun r =>
    let old := r.items.filter (fun i => i.page == usedKey)
    let mine := (r.items.filter (fun i => i.page == key && !(old.any (fun j => j.addr == i.addr)))).map (fun i => { i with page := usedKey })
    { r with items := r.items.filter (fun i => i.page != key) ++ mine })

/-- Pages counted as missed at the deadline (R277): DL_MISS in every stage. -/
def Dev.countMissed (d : Dev) (t n : Nat) : Dev :=
  if n = 0 then d else (d.onStages t (fun s => { s with dl := true })).bumpBy Reg.DL_MISSED_PAGES n

/-- A page whose table was not known at the deadline counts as missed when it is come to, once (assumption log 159). -/
def Dev.countLater (d : Dev) (t key : Nat) : Dev :=
  match d.runAt t with
  | some r => if key ∈ r.missed then d
      else (d.onRun t (fun r => { r with missed := r.missed ++ [key] })).countMissed t 1
  | none => d

/-- MISS of the chain or descriptor on a tile: that of its first stage (R274). -/
def Dev.missPolicy (d : Dev) (t : Nat) : Nat := (((d.runAt t).bind (fun r => r.stages.head?)).map (fun s => dMiss s.w)).getD 0

/-- Under SHADOW or SKIP a page that has returned a line with POISON is missed at once (R281). -/
def Dev.missPoisoned (d : Dev) (t key : Nat) : Dev :=
  match d.runAt t with
  | some r =>
    if d.missPolicy t != 0 && decide (key < 2 ^ 64) && r.items.any (fun i => i.page == key && i.status == some 1) then
      (d.onRun t (fun r => { r with lost := addOnce r.lost key })).dropPage t (((r.stages.head?).map Stage.ix).getD 0) key
    else d
  | none => d

/-- What becomes of a page: its bytes, its shadow, left out, nothing yet, or a code that ends the descriptor. -/
inductive PageGot where
  | data (bytes : List Byte)
  | shadow (s : Shadow)
  | skip
  | wait
  | bad (code : Nat)
  deriving DecidableEq, Repr

/-- The outcome of a page noted in every stage (R275, R277), once: 1 shadow, 2 skipped. -/
def Dev.noteOutcome (d : Dev) (t key index o : Nat) : Dev :=
  if ((d.runAt t).bind (fun r => Tab.find? r.outcomes key)) = some o then d else
  let d := d.onRun t (fun r => { r with outcomes := Tab.ins r.outcomes key o })
  if o = 1 then (d.onStages t (fun s => { s with shadows := s.shadows + 1 })).bump Reg.SHADOW_PAGES_ALL
  else (d.onStages t (fun s => { s with skips := s.skips + 1, firstSkip := if s.skips = 0 then index else s.firstSkip })).bump
    Reg.SKIP_PAGES_ALL

/-- The shadow of the page at a typed address, if the index holds a valid one for the page's PPA (R357). -/
def Dev.pageShadow (d : Dev) (dom a len : Nat) : Option Shadow :=
  let ppa := match taSpace a with
    | 4 => some (taAddr a)
    | 2 => (d.ten.live.byDpa dom (taAddr a)).bind (fun x => if x.2.kind = 1 then some (x.2.toPpa (taAddr a)) else none)
    | _ => none
  (ppa.bind d.shadowOf).filter (fun s => s.len == len)

/-- Whether pieces of device memory, by address and length, can all be read (R447, R450). -/
def Dev.allReadable (d : Dev) : List (Nat × Nat) → Dev × Bool
  | [] => (d, true)
  | p :: ps => match d.readEcc p.1 p.2 with
    | (d, some _) => d.allReadable ps
    | (d, none) => (d, false)

/-- A page that is missed under SHADOW or SKIP (R277, R278): a shadow whose pieces `need` cannot be read loses VALID, and the page is treated
under SKIP (R281, R333, R450). -/
def Dev.missPage (d : Dev) (t ix key index miss dom a len : Nat) (need : Shadow → List (Nat × Nat)) : Dev × PageGot :=
  let d := d.dropPage t ix key
  match if miss = 1 then d.pageShadow dom a len else none with
  | some s => (match d.allReadable ((need s).map (fun p => (s.addr + p.1, p.2))) with
    | (d, true) => (d.noteOutcome t key index 1, .shadow s)
    | (d, false) => ((d.dropShadow s).noteOutcome t key index 2, .skip))
  | none => ((d.when (miss == 1) (fun d => d.bump Reg.SHADOW_ABSENT)).noteOutcome t key index 2, .skip)

/-- The code other than OK and POISON with which a line of a page has come: it ends the descriptor under any MISS (R334). -/
def Run.hardCode (r : Run) (key : Nat) : Option Nat :=
  match r.items.filterMap (fun i => if i.page = key then i.status.filter (fun c => decide (1 < c)) else none) with
  | [] => none
  | c :: cs => some (cs.foldl worse c)

/-- The page of key `key` (R277 to R281): index `index` in its table, `len` bytes at typed address `a`, of which the pieces `ps` are
read under policy `miss` of the descriptor `ix`, or the pieces `need` of its shadow. A page in a remote window that the operator may not
read ends it with POISON (R389). -/
def Dev.pageGot (d : Dev) (t ix key index miss a len : Nat) (ps : List (Nat × Nat)) (need : Shadow → List (Nat × Nat)) : Dev × PageGot :=
  match d.heatOn t, d.runAt t with
  | some h, some r =>
    match r.hardCode key with
    | some c => (d, .bad c)
    | none =>
    if !(d.mayRemote t ix) && ps.any (fun p => (d.remoteAt h.fn p.1).isSome) then (d.bump Reg.ACCESS_DENIED, .bad 1) else
    let overdue := r.deadlined && decide (key ∉ r.inTime)
    let d := d.when overdue (fun d => d.countLater t key)
    if overdue && miss != 0 then d.missPage t ix key index miss h.fn a len need else
    let d := if key ∈ r.lost then d else (d.fetch t key (d.mayRemote t ix) ps).missPoisoned t key
    if ((d.runAt t).map (fun r => decide (key ∈ r.lost))).getD false && miss != 0 then d.missPage t ix key index miss h.fn a len need else
    match d.collect t key ps with
    | .ok bs => (d, .data bs)
    | .wait => (d, .wait)
    | .bad c => if c = 1 && miss != 0 then d.missPage t ix key index miss h.fn a len need else (d, .bad c)
  | _, _ => (d, .wait)

/-- Pages read ahead (R253): the pieces of a page that is not yet due, unless the deadline has made it a miss. -/
def Dev.ahead (d : Dev) (t ix key miss : Nat) (ps : List (Nat × Nat)) : Dev :=
  match d.runAt t with
  | some r => if (r.deadlined && miss != 0) || decide (key ∈ r.lost) then d else (d.fetch t key (d.mayRemote t ix) ps).missPoisoned t key
  | none => d

/-- DEADLINE (R277): the pages all of whose lines have landed are in time; every other page is missed, those not yet asked for
included, and unless MISS is WAIT the outstanding lines are cancelled. -/
def Dev.deadlineNow (d : Dev) (t : Nat) : Dev :=
  match d.runAt t, d.heatOn t with
  | some r, some h =>
    match r.stages.head? with
    | some s =>
      if r.deadlined || !(d.isDue h s.w) then d else
      let landed := r.landedKeys
      let open_ := (((r.items.filter (fun i => decide (i.page < 2 ^ 64))).map Item.page).foldl addOnce []).filter (fun k => decide (k ∉ landed))
      let left := d.pagesLeft t
      let landed' := if dOp s.w = 9 then landed else landed ++ rangeFrom 1 s.step
      let d := (d.onRun t (fun r => { r with deadlined := true, inTime := landed', missed := r.missed ++ left })).countMissed t left.length
      if dMiss s.w = 0 then d else d.each open_ (fun d k => d.dropPage t s.ix k)
    | none => d
  | _, _ => d

/-- DEADLINE (R277): the chain or descriptor that runs on a tile, and those that have not begun when theirs comes, whose pages are all
missed. -/
def Dev.deadline (d : Dev) (t : Nat) : Dev :=
  let d := d.deadlineNow t
  match d.heatOn t, d.runAt t with
  | some h, some r =>
    d.each ((d.dueLater h t).filter (fun x => !(r.overdue.any (fun y => y.1 == x.1)))) (fun d x =>
      (d.onRun t (fun r => { r with overdue := r.overdue ++ [x] })).bumpBy Reg.DL_MISSED_PAGES x.2.length)
  | _, _ => d

/-- A write of a descriptor was answered with a code other than OK: the code passes to its status word with REASON DATA. -/
def Dev.failPut (d : Dev) (t ix code : Nat) : Dev :=
  d.onStage t ix (fun s => if s.wrote then s else { s with code := worse code s.code, reason := if s.reason = 0 then 1 else s.reason })

/-- An acknowledgement that a heat waits for (R57). -/
def Dev.addAck (d : Dev) (h : Heat) (a : Ack) : Dev := d.onHeat h.fn h.ring h.no (fun h => { h with acks := h.acks ++ [a] })

/-- The write of a tile under a TAG has been acknowledged; one that no heat waits for any longer is discarded (R263). -/
def Dev.ackDone (d : Dev) (tag code : Nat) : Dev :=
  match d.heats.list.find? (fun h => h.acks.any (fun a => a.tag == tag)) with
  | none => d.bump Reg.LATE_ITEMS
  | some h =>
    let d := match h.acks.find? (fun a => a.tag == tag) with
      | some a => d.when (code != 0) (fun d => d.failPut a.tile a.ix code)
      | none => d
    d.onHeat h.fn h.ring h.no (fun h => { h with acks := h.acks.filter (fun a => a.tag != tag) })

/-- Whether a TAG is that of a write. -/
def Dev.isAck (d : Dev) (tag : Nat) : Bool := d.heats.list.any (fun h => h.acks.any (fun a => a.tag == tag))

/-- The bytes of a line that an item asked for. -/
def Item.part (i : Item) (data : List Byte) : List Byte :=
  if (taSpace i.addr == 2 || taSpace i.addr == 4) && data.length == 64 && i.len != 64 then (data.drop (taAddr i.addr % 64)).take i.len
  else data

/-- A completion for a tile: a write acknowledged, a piece landed after what has landed of it before, or a line that comes after its page
was missed (R280). -/
def Dev.tileMail (d : Dev) (t tag code : Nat) (data : List Byte) : Dev :=
  if d.isAck tag then d.ackDone tag code else
  match d.heats.late.find? (fun x => x.tag == tag) with
  | some x =>
    let d := (({ d with heats := { d.heats with late := d.heats.late.filter (fun x => x.tag != tag) } }).bump Reg.SLAG_LATE_PAGE).bump
      Reg.LATE_ITEMS
    d.when (((d.runAt x.tile).map Run.no) == some x.no) (fun d =>
      d.onStage x.tile x.ix (fun s => if s.wrote then s else { s with slag := s.slag + 1 }))
  | none =>
  match d.runAt t with
  | none => d.bump Reg.LATE_ITEMS
  | some r =>
    match r.items.find? (fun i => i.tag == tag) with
    | some i => (d.onRun t (fun r => { r with items := r.items.map (fun i =>
        if i.tag = tag then { i with status := some code, data := if code = 0 then i.data ++ i.part data else [] } else i) })).missPoisoned t i.page
    | none => d.bump Reg.LATE_ITEMS

/-- A part of what a read of a tile brings has landed (R403). -/
def Dev.tilePart (d : Dev) (t tag off : Nat) (bytes : List Byte) : Dev :=
  d.onRun t (fun r => { r with items := r.items.map (fun i =>
    if i.tag = tag && i.status.isNone then { i with data := i.data.take off ++ bytes } else i) })

/-- A tile's write reaches device memory (R62, R70, R72): it is acknowledged, also where its generation is no longer live and its counter
goes on with the state that was copied. -/
def Dev.forgeStore (d : Dev) (at_ src : Endpoint) (tag addr ctr dom gen : Nat) (bytes : List Byte) : Dev :=
  let id := ctr - 1
  let stale := !(d.genLive id gen) && bitOf (d.reg (ctrCur id)) 47
  let x : Counted := ⟨256, match src with
    | .tile t => d.stepOf (.tile t) tag
    | _ => none, bytes.length⟩
  let d := if ctr = 0 then d.writeMem addr bytes
    else if stale then d.bump Reg.SLAG_PLACEMENT
    else (d.writeMem addr bytes).countResult id dom gen x
  d.sendInner at_ src (rspMsg 0 (tag % tagSpace) (ownTc 2) 0) dom (.done tag)

/-- A tile's read reaches device memory (R252): its bytes go back, or POISON where they cannot be read (R450). -/
def Dev.forgeFetch (d : Dev) (at_ src : Endpoint) (tag addr len dom : Nat) : Dev :=
  let tag' := tag % tagSpace
  match d.readEcc addr len with
  | (d, some bs) => d.sendInner at_ src (dataMsg tag' (ownTc 2) 0 0 0 0 bs) dom (.came tag 0 bs)
  | (d, none) => d.sendInner at_ src (dataMsg tag' (ownTc 2) 1 0 0 0 []) dom (.came tag 1 [])

/-- The homes' completions for the tiles. -/
def Dev.tileMails (d : Dev) : Dev :=
  let isTile := fun (m : Mail) => match m.who with
    | .tile _ => true
    | _ => false
  let mine := d.home.mail.filter isTile
  let d := { d with home := { d.home with mail := d.home.mail.filter (fun m => !isTile m) } }
  d.each mine (fun d m => match m.who with
    | .tile t => d.tileMail t m.tag m.status m.data
    | _ => d)

/-- Whether a frame of a generation that names no counter may still be written at a tile (R72). Key 256 + t tells whether the
placement before the current one is live. -/
def Dev.tileGenLive (d : Dev) (t gen : Nat) : Bool :=
  gen == d.tileGen t || (Tab.get 0 d.heats.gens (256 + t) == 1 && (gen + 1) % 65536 == d.tileGen t)

/-- A contributor-table entry (R296): SOURCE, KIND and RESULT_BASE. -/
structure Contrib where
  source : Nat
  kind : Nat
  base : Nat
  deriving DecidableEq, Repr

/-- The contributor table of a REDUCE on tile `t` (R295, R296). -/
def Dev.contribs (d : Dev) (t : Nat) (w : List Nat) : List Contrib :=
  let a := dF w 1
  let n := dBits w 2 0 9
  let bs := if taSpace a = 0 then d.readSpa (taTile t a) (taAddr a) (16 * n) else d.readMem (taAddr a) (16 * n)
  (rangeFrom 0 n).map (fun k =>
    let kind := fieldBytes bs (16 * k + 2) 1
    ⟨fieldBytes bs (16 * k) 2 % (if kind = 0 then 512 else 256), kind, fieldBytes bs (16 * k + 8) 8⟩)

/-- Whether a contributor is an endpoint. -/
def Contrib.isAt (c : Contrib) : Endpoint → Bool
  | .port p => c.kind == 0 && c.source == p
  | .tile t => c.kind == 1 && c.source == t
  | _ => false

/-- The REDUCE of the tile's heat whose landing region holds an offset (R295, R297), with its heat and the slot. -/
def Dev.reduceAt (d : Dev) (t off : Nat) : Option (Heat × Nat × Nat) :=
  (d.heatOn t).bind (fun h => (rangeFrom 0 h.descs.length).findSome? (fun ix =>
    let w := h.descs.getD ix []
    let base := taAddr (dF w 0)
    let ended := h.codes.any (fun c => c.1 == ix) || ((d.stageAt t ix).map Stage.fin).getD false
    if dOp w == 4 && dTile w == t && !ended && decide (base ≤ off) &&
      decide (off < base + dBits w 2 16 8 * dBits w 2 0 9 * 256) then some (h, ix, (off - base) / 256) else none))

/-- The bytes of a frame written to a tile's scratchpad, and its counter (R62 to R64, R72): counted under the generation it carries, and
under the counter's own where that is none of the counter's, which then lies elsewhere (assumption log 178). The tile's placement keeps
account of the frame. -/
def Dev.landWrite (d : Dev) (t : Nat) (f : HeldFrame) : Dev :=
  let d := d.writeSpa t f.off f.bytes
  let d := d.onRun t (fun r => { r with frames := { f with answer := none, ack := none } :: r.frames })
  let src := match f.src with
    | .tile x => some (x, f.ix)
    | _ => none
  if f.ctr = 0 then d
  else d.countArrival (f.ctr - 1) f.dom (if d.genLive (f.ctr - 1) f.gen then f.gen else d.ctrGen (f.ctr - 1)) ⟨t, src, f.bytes.length⟩

/-- A message that a REDUCE discards counts in its descriptor's SLAG (R276), also before the descriptor begins. -/
def Dev.slagReduce (d : Dev) (h : Heat) (t ix : Nat) : Dev :=
  if (d.stageAt t ix).isSome then d.onStage t ix (fun s => { s with slag := s.slag + 1 })
  else d.onHeat h.fn h.ring h.no (fun h => { h with landed := h.landed ++ [(t, ix, slagMark)] })

/-- A frame of a live generation lands at a tile (R301): discarded if it comes to a REDUCE from a source outside the table; a second
contribution to a slot ends the REDUCE. -/
def Dev.landFrame (d : Dev) (t : Nat) (f : HeldFrame) : Dev :=
  match d.reduceAt t f.off with
  | none => d.landWrite t f
  | some (h, ix, slot) =>
    let w := h.descs.getD ix []
    if !((d.contribs t w).any (fun c => c.isAt f.src)) then (d.bump Reg.SLAG_REDUCE_FOREIGN).slagReduce h t ix
    else if (t, ix, slot) ∈ h.landed then
      (((d.bump Reg.SLAG_REDUCE_OVERRUN).slagReduce h t ix).failStage t ix 1 6).onHeat h.fn h.ring h.no
        (fun h => { h with landed := h.landed ++ [(t, ix, overrunMark)] })
    else (d.landWrite t f).onHeat h.fn h.ring h.no (fun h => { h with landed := h.landed ++ [(t, ix, slot)] })

/-- Whether the last migration of a tile dropped the state that a frame belongs to (R72): its region, or the count of the tile's counter
that it names. -/
def Dev.stateDropped (d : Dev) (t : Nat) (f : HeldFrame) : Bool :=
  let id := f.ctr - 1
  ((d.runAt t).map (fun r => r.gone.any (fun g => decide (g.1 ≤ f.off) && decide (f.off < g.1 + g.2)))).getD false ||
  (f.ctr != 0 && decide (id < 65536) && id / 256 == t && (d.ctrHold id).isSome && !bitOf (d.reg (ctrCur id)) 47)

/-- A frame comes to a tile (R70, R72): one whose generation is not live, or that belongs to state which a migration has dropped since, is
discarded. Of dropped state every contributing step sends its frames again under the current generation (assumption log 145). -/
def Dev.landNow (d : Dev) (t : Nat) (f : HeldFrame) : Dev :=
  let dropped := f.gen != d.tileGen t && d.stateDropped t f
  if d.tileGenLive t f.gen && !dropped then d.landFrame t f
  else
    let d := d.bump Reg.SLAG_PLACEMENT
    match f.src, dropped with
    | .tile _, true => d.landFrame t { f with gen := d.tileGen t }
    | _, _ => d

/-- Whoever sent a frame to a tile is answered OK. -/
def Dev.landAnswer (d : Dev) (t : Nat) (f : HeldFrame) : Dev :=
  let d := match f.answer with
    | some (p, tag, tc, no) => d.opsAnswer (.tile t) p tag tc f.dom no
    | none => d
  match f.ack, f.src with
  | some tag, .tile x =>
    if x = t then d.ackDone tag 0 else d.sendInner (.tile t) (.tile x) (rspMsg 0 (tag % tagSpace) (ownTc 2) 0) f.dom (.done tag)
  | _, _ => d

/-- A frame reaches a tile: held while the tile migrates (R71), else it lands and is answered. -/
def Dev.landSpa (d : Dev) (t : Nat) (f : HeldFrame) : Dev :=
  match Tab.find? d.heats.frozen t with
  | some z => { d with heats := { d.heats with frozen := Tab.ins d.heats.frozen t { z with frames := z.frames ++ [f] } } }
  | none => (d.landNow t f).landAnswer t f

/-- The destination of a write: own scratchpad and tiles, device memory, the pool, the host, a port, a remote context. -/
def Dev.destOf (d : Dev) (t dom : Nat) (p : Put) : Nat × Nat :=
  match p.port with
  | some q => (5, q)
  | none => match taSpace p.addr with
    | 0 => (0, taTile t p.addr)
    | 1 => (1, 0)
    | 3 => (3, 0)
    | _ => (match d.remoteAt dom p.addr with
      | some e => (6, e.context)
      | none => (2, 0))

/-- The least scope that contains a destination (R75). -/
def destScope (t : Nat) (x : Nat × Nat) : Nat :=
  if x = (0, t) then 0 else match x.1 with
  | 0 => 1 | 1 => 1 | 3 => 1 | 6 => 3 | _ => 2

/-- One message of a write goes out (R55, R56, R62, R70, R330, R389); `rel` marks a release. -/
def Dev.sendPut (d : Dev) (t : Nat) (p : Put) (rel : Bool) : Dev :=
  match d.heatOn t, d.stageAt t p.ix with
  | some h, some s =>
    let w := s.w
    let (tag, d) := d.tileTag
    let scope := destScope t (d.destOf t h.fn p)
    let ack : Ack := ⟨tag, t, p.ix, scope⟩
    let ctr := match dSig w with
      | some id => id + 1
      | none => 0
    match p.port with
    | some q =>
      if d.fenced q || d.boundDom q != some h.fn then d.failPut t p.ix 3 else
      if d.partBlocks (d.domPart h.fn) q then (d.bump Reg.PART_BLOCKED).failPut t p.ix 3 else
      let rtag := d.freeTag q
      let m := resultMsg rtag (ownTc 3) h.fn p.addr (filledChunks p.bytes)
      let named := dSigCtr w * 2 ^ 100 + dSigKind w * 2 ^ 116
      let m : Msg := mkMsg (m.hdr.toNat + named + if rel then dRelScope w * 2 ^ 118 + 2 ^ 120 else 0) m.data
      let d := (d.addAck h ack).noteResult ⟨q, rtag, .anvil t tag, m, 0⟩
      if rtag < tagSpace then d.sendMsg (.tile t) q m h.fn else d
    | none =>
      if !(d.typedOk h.fn h.tiles p.addr p.bytes.length true) then d.failPut t p.ix 1 else
      match taSpace p.addr with
      | 0 =>
        let x := taTile t p.addr
        if spaBytes < taAddr p.addr + p.bytes.length then d.failPut t p.ix 1 else
        let f : HeldFrame := ⟨taAddr p.addr, p.bytes, ctr, h.fn, d.tileGen x, .tile t, p.ix, none, some tag⟩
        let d := d.addAck h ack
        if x = t then d.landSpa x f
        else d.sendInner (.tile t) (.tile x) (opsMsg 0 (tag % tagSpace) (ownTc 2) h.fn (taAddr p.addr) 0 (filledChunks p.bytes)) h.fn (.land x f)
      | 1 =>
        let a := taAddr p.addr
        let gen := if ctr = 0 then 0 else d.ctrGen (ctr - 1)
        (d.addAck h ack).sendInner (.tile t) (.forge (stackOf a)) (opsMsg 0 (tag % tagSpace) (ownTc 2) h.fn a 0 (filledChunks p.bytes)) h.fn
          (.store tag a ctr h.fn gen p.bytes)
      | 3 => (d.addAck h ack).askHost (.tile t) (tag % tagSpace) (ownTc 2) h.fn (taAddr p.addr) 0 p.bytes (.landed t tag)
      | sp =>
        let whole := p.bytes.length == 64
        let op : HomeOp := if whole then .wrLine else .wrPart
        let (d, c) := d.checkPool (.tile t) h.fn (taAddr p.addr) (sp == 4) op
        match c with
        | .fail s => d.failPut t p.ix s
        | .remote e =>
          if !e.canWrite || !(dOp w == 2 || dOp w == 6) then (d.bump Reg.ACCESS_DENIED).failPut t p.ix 1 else
          let ask : RemoteAsk := { tile := t, tag := tag, ctx := e.context, handle := e.handle, epoch := e.regEpoch,
                                   offset := e.offset + (taAddr p.addr - e.dpaPage * 0x20_0000), write := true, bytes := p.bytes,
                                   len := p.bytes.length, ctrKind := dSigKind w, ctr := dSigCtr w,
                                   order := if rel then some (dRelScope w) else none }
          (d.addAck h ack).askRemote t h.fn ask
        | .pass ppa =>
          let off := ppa % 64
          let data := if whole then p.bytes else padBytes 64 (List.replicate off 0#8 ++ p.bytes)
          let mask := (2 ^ p.bytes.length - 1) * 2 ^ off
          (d.addAck h ack).askHome (d.tileReq t tag h.fn ppa op data mask (dSigKind w) (dSigCtr w) ((dSig w).map d.ctrGen))
  | _, _ => d

/-- A descriptor's bytes go out (R268): message by message, each sector in one; with REL the last message to each destination is kept
back. A REDUCE's last writes are those of its last slice (R298). Whether the sectors of a SCATTER or COPY to another endpoint arrive in
ascending or in descending order is a free value, so that a reader of two may see any of R84's four combinations (assumption log
174). -/
def Dev.writeNow (d : Dev) (t ix : Nat) (port : Option Nat) (a : Nat) (bytes : List Byte) : Dev :=
  match d.heatOn t, d.stageAt t ix with
  | some h, some s =>
    let own := taSpace a == 0 && taTile t a == t
    let free := port.isNone && !own && decide (taSpace a ≤ 1) && decide (64 < bytes.length) && (dOp s.w == 6 || dOp s.w == 2)
    let (back, d) := if free then d.fresh 1 else (0, d)
    let cuts := match port with
      | some _ => (rangeFrom 0 (ceilDiv bytes.length 224)).map (fun i => (a + 224 * i, min 224 (bytes.length - 224 * i)))
      | none => if back = 1 then (d.cut h.fn 64 64 (bytes.length + 1) a bytes.length).reverse
          else d.cut h.fn (if own then 2 ^ 40 else 224) 64 (bytes.length + 1) a bytes.length
    let more := dOp s.w == 4 && decide (s.step + 1 < dBits s.w 2 32 32)
    d.each cuts (fun d c =>
      let p : Put := ⟨ix, port, c.1, (bytes.drop (c.1 - a)).take c.2⟩
      if !(dRel s.w) || more then d.sendPut t p false else
      let dest := d.destOf t h.fn p
      let mine := fun (q : Put) => q.ix == ix && d.destOf t h.fn q == dest
      let before := ((d.runAt t).map (fun r => r.held.filter mine)).getD []
      let d := d.onRun t (fun r => { r with held := r.held.filter (fun q => !mine q) ++ [p] })
      d.each before (fun d q => d.sendPut t q false))
  | _, _ => d

/-- Bytes from an address by the sectors they lie in (R81). -/
def bySector : Nat → Nat → List Byte → List (Nat × List Byte)
  | 0, _, _ => []
  | n + 1, a, bs => if bs = [] then [] else (a, bs.take (64 - a % 64)) :: bySector n (a + (64 - a % 64)) (bs.drop (64 - a % 64))

/-- Pieces that follow one another put together. -/
def joinRuns (ps : List (Nat × List Byte)) : List (Nat × List Byte) :=
  ps.foldr (fun p acc => match acc with
    | q :: rest => if p.1 + p.2.length = q.1 then (p.1, p.2 ++ q.2) :: rest else p :: acc
    | [] => [p]) []

/-- Pieces of sectors brought to those that wait for the rest of theirs: what waits, and what is complete (R81). -/
def fillSectors (parts : List (Nat × List Byte)) (ps : List (Nat × List Byte)) : List (Nat × List Byte) × List (Nat × List Byte) :=
  ps.foldl (fun acc p =>
    if p.2.length = 64 then (acc.1, acc.2 ++ [p]) else
    let same := fun (q : Nat × List Byte) => q.1 / 64 == p.1 / 64
    match joinRuns (sortBy Prod.fst (acc.1.filter same ++ [p])) with
    | [q] => if q.2.length = 64 then (acc.1.filter (fun x => !same x), acc.2 ++ [q]) else (acc.1 ++ [p], acc.2)
    | _ => (acc.1 ++ [p], acc.2)) (parts, [])

/-- Whether the steps of an operator cut one stream of bytes into blocks (R267): FILL, COPY, SCATTER, PACK and UNPACK. -/
def streams (op : Nat) : Bool := op == 1 || op == 2 || op == 6 || op == 12 || op == 13

/-- A descriptor writes bytes. Where its steps cut a stream into blocks, a sector of scratchpad or device memory that two of them share is
written as a whole with the later one, or at the descriptor's end (R81, R84). -/
def Dev.write (d : Dev) (t ix : Nat) (port : Option Nat) (a : Nat) (bytes : List Byte) : Dev :=
  match d.stageAt t ix with
  | some s =>
    if port.isSome || decide (1 < taSpace a) || !streams (dOp s.w) then d.writeNow t ix port a bytes else
    let (parts, out) := fillSectors s.parts (bySector (bytes.length / 64 + 2) a bytes)
    (d.onStage t ix (fun s => { s with parts := parts })).each (joinRuns out) (fun d p => d.writeNow t ix none p.1 p.2)
  | none => d

/-- The pieces of sectors that an ended stage has left go out (R81). -/
def Dev.flushParts (d : Dev) (t : Nat) (s : Stage) : Dev :=
  if s.parts = [] then d else
  (d.onStage t s.ix (fun s => { s with parts := [] })).each (joinRuns s.parts) (fun d p => d.writeNow t s.ix none p.1 p.2)

/-- Whether the writes of a descriptor to agents within a scope are all acknowledged. -/
def Dev.acked (d : Dev) (t ix scope : Nat) : Bool :=
  match d.heatOn t with
  | some h => !(h.acks.any (fun a => a.tile == t && a.ix == ix && decide (a.scope ≤ scope)))
  | none => true

/-- The last writes of a descriptor with REL go out as releases once every earlier write within REL_SCOPE is acknowledged (R268). -/
def Dev.releaseHeld (d : Dev) (t : Nat) (s : Stage) : Dev :=
  let mine := ((d.runAt t).map (fun r => r.held.filter (fun q => q.ix == s.ix))).getD []
  if mine = [] || !(d.acked t s.ix (dRelScope s.w)) then d else
  (d.onRun t (fun r => { r with held := r.held.filter (fun q => q.ix != s.ix) })).each mine (fun d q => d.sendPut t q true)

/-- One stage whose steps have ended goes on: its kept writes go out, and its status word is written once every write of it is answered and
the stages before it in its chain, whose codes pass to it (R275), have written theirs. -/
def Dev.stageOn (d : Dev) (t : Nat) (s : Stage) : Dev :=
  if !s.fin || s.wrote then d else
  let d := (d.flushParts t s).releaseHeld t s
  match d.heatOn t, d.runAt t, d.stageAt t s.ix with
  | some h, some r, some s =>
    if r.held.any (fun q => q.ix == s.ix) || !(d.acked t s.ix 3) || r.stages.any (fun q => decide (q.ix < s.ix) && !q.wrote) then d
    else (((d.sendStatus h t s).noteStatus h t s).onStage t s.ix (fun s => { s with wrote := true })).failLater t s.ix s.finalCode
  | _, _, _ => d

/-- A tile goes on: status words of ended stages, then the next descriptor group (R268, R270). -/
def Dev.tileOn (d : Dev) (t : Nat) : Dev :=
  match d.runAt t with
  | none => d
  | some r =>
    let d := d.each (r.stages.map Stage.ix) (fun d ix => match d.stageAt t ix with
      | some s => d.stageOn t s
      | none => d)
    match d.runAt t with
    | some r => if r.stages != [] && r.stages.all (fun s => s.fin && s.wrote) then d.nextGroup t else d
    | none => d

/-- Every tile that runs a heat goes on. -/
def Dev.tilesOn (d : Dev) : Dev := (d.each (d.heats.runs.map Prod.fst) Dev.tileOn).checkWaits

end Sys2Proof.Machine
end

