-- ==== Sys2Proof/Machine/Operators.lean ====
section
/-! DEFINITION. The operators of chapter 08 but REDUCE: one step of each (R267, R273 to R275, R282 to R294, R302 to R308). -/
namespace Sys2Proof.Machine

/-- An attempt of a step has failed its parity (R249, R273, R451): an event of its physical tile; it is replayed, and the fourth failure
ends the descriptor. -/
def Dev.parityFailed (d : Dev) (t ix : Nat) : Dev :=
  let d := d.temperEvent 1 (d.get (Reg.TILE_MAP_PHYS t))
  let n : Nat := (((d.runAt t).map (fun r => Tab.get 0 r.tries ix)).getD 0) + 1
  if 4 ≤ n then (d.bump Reg.STEP_POISON).failStage t ix 1 4
  else ((d.bump Reg.ANVIL_REPLAY).onRun t (fun r => { r with tries := Tab.ins r.tries ix n })).onStage t ix (fun s => { s with replayed := true })

/-- What a step leaves of the failures before it (R273): one that has taken place forgets them, unless it has added one itself. -/
def Dev.stepDone (base d : Dev) (t ix : Nat) : Dev :=
  let tries := fun (d : Dev) => (d.runAt t).map (fun r => Tab.get 0 r.tries ix)
  if tries d == tries base then d.onRun t (fun r => { r with tries := Tab.del r.tries ix }) else d

/-- One step of the descriptor of operator `op` on a tile (R270, R273): `f` tries it and says whether it took place; what it still
misses is taken from the homes' answers once. Where `par` says so words of device memory or of state tables are found wrong, and the
step fails its parity and is replayed, the fourth time fatally. -/
def Dev.opStep (d : Dev) (t op : Nat) (par : Upset) (f : Dev → Stage → Dev × Bool) : Dev :=
  let d := (d.upsetWords par.words).each par.tables (fun d x => d.upsetTable x.1 x.2.1 x.2.2)
  if (Tab.find? d.heats.frozen t).isSome then d else
  match (d.runAt t).bind (fun r => r.stages.find? (fun s => dOp s.w == op && s.waited && !s.fin)) with
  | none => d
  | some s =>
    let go := fun (d : Dev) => match d.stageAt t s.ix with
      | some s => f d s
      | none => (d, false)
    let first := go d
    let base := if first.2 then d else first.1.tileMails
    let r := if first.2 then first else go base
    if !r.2 then r.1
    else if par.parity then base.parityFailed t s.ix
    else base.stepDone r.1 t s.ix

/-- The descriptor ends with a code and a REASON (R276). -/
def Dev.failStep (d : Dev) (t ix code reason : Nat) : Dev × Bool := (d.failStage t ix code reason, true)

/-- A step has been taken: the last of `total` ends the steps. -/
def Dev.stepTo (d : Dev) (t ix total : Nat) (f : Stage → Stage) : Dev × Bool :=
  (d.onStage t ix (fun s => let s := f s; { s with step := s.step + 1, fin := s.fin || decide (total ≤ s.step + 1) }), true)

/-- What a got value means for a step: `k` goes on with the bytes. -/
def Dev.withGot (d : Dev) (t ix : Nat) (g : Got) (k : List Byte → Dev × Bool) : Dev × Bool :=
  match g with
  | .ok bs => k bs
  | .wait => (d, false)
  | .bad c => d.failStep t ix c 1

/-- Several ranges read as operands, one after the other. -/
def Dev.grabMany (d : Dev) (t ix : Nat) (remoteOk : Bool) : List (Nat × Nat) → Dev × Got
  | [] => (d, .ok [])
  | (a, n) :: rest =>
    let (d, g) := d.grab t ix a n remoteOk
    let (d, h) := d.grabMany t ix remoteOk rest
    (d, match g, h with
      | .bad c, .bad e => .bad (worse c e)
      | .bad c, _ => .bad c
      | _, .bad c => .bad c
      | .ok x, .ok y => .ok (x ++ y)
      | _, _ => .wait)

/-- NOP (R267): nothing but its wait, its acquire and its release. -/
def Dev.nopStep (d : Dev) (t : Nat) (s : Stage) : Dev × Bool := d.stepTo t s.ix 0 id

/-- FILL (R285). -/
def Dev.fillStep (d : Dev) (t : Nat) (s : Stage) : Dev × Bool :=
  let len := dBits s.w 1 0 48
  let off := 4096 * s.step
  let n := min 4096 (len - off)
  let bytes := (rangeFrom off n).map (fun x => BitVec.ofNat 8 (fieldOf (dF s.w 2) (8 * (x % 8)) 8))
  (d.write t s.ix none (dF s.w 0 + off) bytes).stepTo t s.ix (ceilDiv len 4096) (fun s => { s with result := s.result + n })

/-- The parts of rows of `len` bytes at a stride that the bytes `[x, x + n)` of all rows make up. -/
def rowParts (base len stride : Nat) : Nat → Nat → Nat → List (Nat × Nat)
  | 0, _, _ => []
  | fuel + 1, x, n =>
    if n = 0 || len = 0 then [] else
    let m := min n (len - x % len)
    (base + x / len * stride + x % len, m) :: rowParts base len stride fuel (x + m) (n - m)

/-- Bytes written to parts in order. -/
def Dev.writeParts (d : Dev) (t ix : Nat) : List (Nat × Nat) → List Byte → Dev
  | [], _ => d
  | (a, n) :: rest, bs => (d.write t ix none a (bs.take n)).writeParts t ix rest (bs.drop n)

/-- The bytes of the packed elements of a row of `n` (R234). -/
def elemBytes (fmt n : Nat) : Nat := rowBytes fmt n - if fmtIsMx fmt then n / 32 else 0

/-- Where the elements `[e, e + m)` of a row of `n` at `base` lie: their packed bytes, then their scale bytes (R234). Read one after the
other they are a row of `m`. -/
def rowPieces (fmt n base e m : Nat) : List (Nat × Nat) :=
  (base + elemBytes fmt e, elemBytes fmt m) :: if fmtIsMx fmt then [(base + elemBytes fmt n + e / 32, m / 32)] else []

/-- The parts of rows of `len` elements that the elements `[x, x + n)` of all rows make up: row, first element and count. -/
def rowSpans (len : Nat) : Nat → Nat → Nat → List (Nat × Nat × Nat)
  | 0, _, _ => []
  | fuel + 1, x, n =>
    if n = 0 || len = 0 then [] else
    let m := min n (len - x % len)
    (x / len, x % len, m) :: rowSpans len fuel (x + m) (n - m)

/-- The elements of a format that 4 KiB of destination hold, whole blocks of 32 (R267). -/
def stepElems (fmt : Nat) : Nat := 4096 / max 1 (rowBytes fmt 32) * 32

/-- Bytes cut into strings of these lengths. -/
def cutBytes : List Nat → List Byte → List (List Byte)
  | [], _ => []
  | n :: ns, bs => bs.take n :: cutBytes ns (bs.drop n)

/-- RANGE_HI of scaled inputs (R247). -/
def scaledFlags (xs : List Num) : Nat :=
  if xs.any (fun x => match x with
    | .fin m e => m != 0 && !(magLt (m.natAbs, e) (1, 160))
    | _ => false) then nfRangeHi else 0

/-- COPY (R286): 4 KiB of destination; with CONVERT the whole blocks of elements that 4 KiB of destination hold. -/
def Dev.copyStep (d : Dev) (t : Nat) (s : Stage) : Dev × Bool :=
  let w := s.w
  let len := dBits w 2 0 48
  let rows := max 1 (dBits w 3 0 32)
  let ss := dBits w 4 0 32
  let ds := dBits w 4 32 32
  if bitOf (dF w 2) 48 then
    let per := stepElems (dOut w)
    let x := per * s.step
    let spans := rowSpans len (per + 1) x (min per (rows * len - x))
    let (d, g) := d.grabMany t s.ix true (spans.flatMap (fun p => rowPieces (dIn w) len (dF w 0 + p.1 * ss) p.2.1 p.2.2))
    d.withGot t s.ix g (fun bs =>
      let xs := List.zipWith (fun p b => readRow (dIn w) p.2.2 b) spans (cutBytes (spans.map (fun p => rowBytes (dIn w) p.2.2)) bs)
      let out := xs.map (fun x => writeRow (dOut w) (x.map (Num.scale (dScale w))))
      let bytes := (out.map Prod.fst).flatten
      let flags := (out.map Prod.snd).foldl Nat.lor
        (Nat.lor (readFlags xs.flatten) (scaledFlags (xs.flatten.map (Num.scale (dScale w)))))
      let parts := spans.flatMap (fun p => rowPieces (dOut w) len (dF w 1 + p.1 * ds) p.2.1 p.2.2)
      (d.writeParts t s.ix parts bytes).stepTo t s.ix (ceilDiv (rows * len) per)
        (fun s => { s with result := s.result + bytes.length, flags := Nat.lor s.flags flags }))
  else
    let x := 4096 * s.step
    let n := min 4096 (rows * len - x)
    let (d, g) := d.grabMany t s.ix true (rowParts (dF w 0) len ss (n + 1) x n)
    d.withGot t s.ix g (fun bs =>
      (d.writeParts t s.ix (rowParts (dF w 1) len ds (n + 1) x n) bs).stepTo t s.ix (ceilDiv (rows * len) 4096)
        (fun s => { s with result := s.result + n }))

/-- The first place at which two byte strings differ. -/
def firstDiff : Nat → List Byte → List Byte → Option Nat
  | i, a :: as, b :: bs => if a = b then firstDiff (i + 1) as bs else some i
  | _, _, _ => none

/-- COMPARE (R287): RESULT [48] EQUAL and the offset of the first difference. -/
def Dev.compareStep (d : Dev) (t : Nat) (s : Stage) : Dev × Bool :=
  let w := s.w
  let len := dBits w 2 0 48
  let x := 4096 * s.step
  let n := min 4096 (len - x)
  let (d, g) := d.grab t s.ix (dF w 0 + x) n false
  let (d, h) := d.grab t s.ix (dF w 1 + x) n false
  match g, h with
  | .ok a, .ok b =>
    let first := match s.nums with
      | [i] => some i
      | _ => firstDiff x a b
    d.stepTo t s.ix (ceilDiv len 4096) (fun s => match first with
      | some i => { s with nums := [i], result := i }
      | none => { s with result := 2 ^ 49 - 1 })
  | .bad c, .bad e => d.failStep t s.ix (worse c e) 1
  | .bad c, _ => d.failStep t s.ix c 1
  | _, .bad c => d.failStep t s.ix c 1
  | _, _ => (d, false)

/-- The stage before a stage of its chain. -/
def Dev.prevStage (d : Dev) (t ix : Nat) : Option Stage :=
  (d.runAt t).bind (fun r => (r.stages.takeWhile (fun s => s.ix != ix)).getLast?)

/-- The GATHER that starts the chain of a tile's stages. -/
def Dev.chainHead (d : Dev) (t : Nat) : Option Stage := (d.runAt t).bind (fun r => r.stages.head?)

/-- The pages a stage of a chain has finished with: COMBINE and ATTEND count them in their first number, a SCATTER by its bytes. -/
def Stage.taken (page : Nat) (s : Stage) : Nat :=
  if dOp s.w = 10 || dOp s.w = 9 then s.nums.headD 0 else if dOp s.w = 6 then s.step * 4096 / max 1 page else s.step

/-- Whether a SCATTER stage reads the landed pages: its chain holds nothing between it and the page stages (R274). -/
def pagesOnly (stages : List Stage) (ix : Nat) : Bool :=
  (stages.takeWhile (fun s => s.ix != ix)).all (fun s => dOp s.w == 5 || dOp s.w == 13 || (dOp s.w == 7 && dBits s.w 3 4 2 == 0))

/-- The pages that every stage of a chain that reads them has finished with (R275); none where every later stage has ended. -/
def Run.freed (r : Run) (page : Nat) : Option Nat :=
  let readers := (r.stages.drop 1).filter (fun s => !s.fin && (dOp s.w != 6 || pagesOnly r.stages s.ix))
  match readers.map (Stage.taken page) with
  | n :: ns => some (ns.foldl min n)
  | [] => none

/-- A page with VALID clear noted as a hole (R282). -/
def Dev.noteHole (d : Dev) (t key : Nat) : Dev := d.onRun t (fun r => { r with outcomes := Tab.ins r.outcomes key 3 })

/-- The outcome of a page of a run: 0 landed, 1 shadow, 2 skipped, 3 hole. -/
def Dev.outcomeOf (d : Dev) (t key : Nat) : Nat := ((d.runAt t).map (fun r => Tab.get 0 r.outcomes key)).getD 0

/-- What a page table gives of one page. -/
inductive PageIn where
  | here (bytes : List Byte)
  | shadow (s : Shadow)
  | skip
  | hole
  | wait
  | bad (code : Nat)
  deriving DecidableEq, Repr

/-- Page `i` of a Tongs page table of `count` entries (R277, R282), with the pages after it read ahead up to LOOKAHEAD and `limit`. -/
def Dev.walkPage (d : Dev) (t ix pt count log space miss look limit i : Nat) : Dev × PageIn :=
  let dom := ((d.heatOn t).map Heat.fn).getD 0
  let (d, g) := d.tableEntry t ix pt count i
  let d := d.each (rangeFrom (i + 1) (min look (min count limit - (i + 1)))) (fun d j =>
    let (d, g) := d.tableEntry t ix pt count j
    match g with
    | .ok bs => (match entryOf space log bs with
      | .page a => d.ahead t ix (j + 1) miss (d.piecesOf dom a (2 ^ log))
      | _ => d)
    | _ => d)
  match g with
  | .wait => (d, .wait)
  | .bad c => (d, .bad c)
  | .ok bs => match entryOf space log bs with
    | .malformed => (d, .bad 1)
    | .hole => (d.noteHole t (i + 1), .hole)
    | .page a =>
      let (d, p) := d.pageGot t ix (i + 1) i miss a (2 ^ log) (d.piecesOf dom a (2 ^ log)) (fun x => [(0, x.size)])
      match p with
      | .data b => (d.clearKey t (i + 1), .here b)
      | .shadow s => (d, .shadow s)
      | .skip => (d, .skip)
      | .wait => (d, .wait)
      | .bad c => (d, .bad c)

/-- The format in which a chain's shadow pages are expanded: IN_FMT of the stage that takes the landed elements, or of a GATHER alone (R279),
and where that is no format of elements that of their span (assumption log 42). -/
def Dev.shadowFmt (d : Dev) (t : Nat) (x : Shadow) : Nat :=
  let stages := ((d.runAt t).map Run.stages).getD []
  let user := (stages.find? (fun s => dOp s.w == 8 || dOp s.w == 9 || dOp s.w == 10)).or (if stages.length = 1 then stages.head? else none)
  match user.map (fun s => dIn s.w) with
  | some c => if c ≤ 10 then c else x.fmt
  | none => x.fmt

/-- Bytes that a descriptor writes into its own scratchpad in place: one write, which its counter counts (R62, R265), but not a second
time where the stage takes a step again (R78). The tile's placement keeps account of it (R72). -/
def Dev.writeHere (d : Dev) (t a : Nat) (s : Stage) (bs : List Byte) : Dev :=
  match d.heatOn t with
  | none => d
  | some h =>
    let ctr := if s.step < s.again then 0 else ((dSig s.w).map (fun id => id + 1)).getD 0
    let f : HeldFrame := ⟨a, bs, ctr, h.fn, d.tileGen t, .tile t, s.ix, none, none⟩
    let d := (d.writeSpa t a bs).onRun t (fun r => { r with frames := f :: r.frames })
    if ctr = 0 then d else d.countArrival (ctr - 1) h.fn (d.ctrGen (ctr - 1)) ⟨t, some (t, s.ix), bs.length⟩

/-- GATHER (R288): one page into its landing slot; a ring lands a page only in a slot its chain has freed (R275). Each page is one write
of the descriptor to its counter (R265; assumption log 142). -/
def Dev.gatherStep (d : Dev) (t : Nat) (s : Stage) : Dev × Bool :=
  let w := s.w
  let pages := dBits w 1 0 32
  let log := dBits w 1 32 5
  let slots := dBits w 3 0 16
  let i := s.step
  if pages ≤ i then (d.finStage t s.ix, true) else
  let limit := match d.runAt t with
    | some r => if slots = 0 || r.stages.length ≤ 1 then pages else (match r.freed (2 ^ log) with
      | some n => n + slots
      | none => pages)
    | none => 0
  if limit ≤ i then (d, false) else
  let land := fun (d : Dev) (bs : List Byte) (n flags : Nat) =>
    let d := d.writeHere t (taAddr (dF w 2) + (if slots = 0 then i else i % slots) * 2 ^ log) s (padBytes (2 ^ log) bs)
    d.stepTo t s.ix pages (fun s => { s with result := s.result + n, flags := Nat.lor s.flags flags })
  let (d, p) := d.walkPage t s.ix (dF w 0) pages log (dBits w 1 37 3) (dMiss w) (dLook w) limit i
  match p with
  | .here bs => land d bs 1 0
  | .shadow x => let r := d.expandShadow x (d.shadowFmt t x); land d r.1 1 r.2
  | .skip => land d [] 0 0
  | .hole => land d [] 1 0
  | .wait => (d, false)
  | .bad c => d.failStep t s.ix c 1

/-- Pages of a stage: those of its own table, or those of its chain's GATHER. -/
def Dev.stagePages (d : Dev) (t : Nat) (s : Stage) : Nat :=
  match d.prevStage t s.ix, d.chainHead t with
  | some _, some g => dBits g.w 1 0 32
  | _, _ => dBits s.w 1 0 32

/-- The bytes of a page of a stage: PAGE_LOG2 of its own table or of its chain's GATHER. -/
def Dev.stageLog (d : Dev) (t : Nat) (s : Stage) : Nat :=
  match d.prevStage t s.ix, d.chainHead t with
  | some _, some g => dBits g.w 1 32 5
  | _, _ => dBits s.w 1 32 5

/-- The landing slot of page `i` of a chain: its address in the scratchpad. -/
def Dev.slotAddr (d : Dev) (t i : Nat) : Nat :=
  match d.chainHead t with
  | some g =>
    let slots := dBits g.w 3 0 16
    taAddr (dF g.w 2) + (if slots = 0 then i else i % slots) * 2 ^ dBits g.w 1 32 5
  | none => 0

/-- Page `i` as a stage of a chain finds it: landed and passed by the stage before (R274, R275). -/
def Dev.chainPage (d : Dev) (t : Nat) (s : Stage) (i : Nat) : PageIn :=
  match d.prevStage t s.ix, d.chainHead t with
  | some p, some g =>
    let log := dBits g.w 1 32 5
    if !(p.fin || decide (i < p.taken (2 ^ log))) then .wait
    else match d.outcomeOf t (i + 1) with
      | 2 => .skip
      | 3 => .hole
      | _ => .here (d.readSpa t (d.slotAddr t i) (2 ^ log))
  | _, _ => .wait

/-- Page `i` of a FILTER or TOPK: of its chain, or of its own table. -/
def Dev.recordPage (d : Dev) (t : Nat) (s : Stage) (i : Nat) : Dev × PageIn :=
  match d.prevStage t s.ix with
  | some _ => (d, d.chainPage t s i)
  | none =>
    let n := dBits s.w 1 0 32
    d.walkPage t s.ix (dF s.w 0) n (dBits s.w 1 32 5) (dBits s.w 1 37 3) (dMiss s.w) (dLook s.w) n i

/-- A destination of SCATTER for the bytes from offset `x` of its source (R289): its address, or none for a hole of the table. -/
def Dev.scatterTo (d : Dev) (t : Nat) (s : Stage) (x : Nat) : Dev × Option (Option Nat) × Nat :=
  let w := s.w
  if !(bitOf (dF w 2) 48) then (d, some (some (dF w 1 + x)), 0) else
  let log := dBits w 2 49 5
  let (d, g) := d.tableEntry t s.ix (dF w 1) (ceilDiv (dBits w 2 0 48) (2 ^ log)) (x / 2 ^ log)
  match g with
  | .wait => (d, none, 0)
  | .bad c => (d, none, c)
  | .ok bs => match entryOf (dBits w 2 54 3) log bs with
    | .malformed => (d, none, 1)
    | .hole => (d, some none, 0)
    | .page a => (d, some (some (a + x % 2 ^ log)), 0)

/-- The address at which a stage left its output in memory. -/
def outputAt (w : List Nat) : Nat := if dOp w = 10 then dF w 2 else dF w 4

/-- SCATTER (R289): 4 KiB of source; chained behind pages it takes them as they land, behind another stage its finished output. -/
def Dev.scatterStep (d : Dev) (t : Nat) (s : Stage) : Dev × Bool :=
  let w := s.w
  let len := dBits w 2 0 48
  let x := 4096 * s.step
  let n := min 4096 (len - x)
  let stages := ((d.runAt t).map Run.stages).getD []
  let (d, src) : Dev × Option (Option Got) := match d.prevStage t s.ix with
    | none => let (d, g) := d.grab t s.ix (dF w 0 + x) n false; (d, some (some g))
    | some p =>
      if pagesOnly stages s.ix then
        let page := 2 ^ d.stageLog t s
        match d.chainPage t s (x / page) with
        | .here b => (d, some (some (.ok ((b.drop (x % page)).take n))))
        | .hole => (d, some (some (.ok (List.replicate n 0#8))))
        | .skip => (d, some none)
        | _ => (d, none)
      else if p.fin && d.acked t p.ix 3 then
        let (d, g) := d.grab t s.ix (outputAt p.w + x) n false
        (d, some (some g))
      else (d, none)
  match src with
  | none => (d, false)
  | some none => d.stepTo t s.ix (ceilDiv len 4096) id
  | some (some g) =>
    let (d, dst, c) := d.scatterTo t s x
    if c != 0 then d.failStep t s.ix c 1 else
    match dst with
    | none => (d, false)
    | some to_ => d.withGot t s.ix g (fun bs => match to_ with
      | some a => (d.write t s.ix none a bs).stepTo t s.ix (ceilDiv len 4096) (fun s => { s with result := s.result + n })
      | none => d.stepTo t s.ix (ceilDiv len 4096) id)

/-- Whether a comparison of FILTER holds for a field and a constant (R291). -/
def termHolds (typ cmp : Nat) (field const : Nat) : Bool :=
  let num := fun (x : Nat) => if typ = 4 then decodeFloat fmtFP32 x else decodeFloat fmtBF16 x
  let isFloat := typ == 4 || typ == 5
  let nan := isFloat && (num field == .nan || num const == .nan)
  let signed := fun (x : Nat) => if typ = 1 then signedOf 32 x else if typ = 3 then signedOf 64 x else (x : Int)
  let lt := if isFloat then (num field).lt false (num const) else decide (signed field < signed const)
  let gt := if isFloat then (num const).lt false (num field) else decide (signed const < signed field)
  if nan then cmp == 1 else match cmp with
  | 0 => !lt && !gt
  | 1 => lt || gt
  | 2 => lt
  | 3 => !gt
  | 4 => gt
  | 5 => !lt
  | 6 => Nat.land field const != 0
  | _ => Nat.land field const == const

/-- A term on a record (R291). -/
def termOn (rec_ t : List Byte) : Bool :=
  let typ := fieldBytes t 2 1
  let size := if typ = 2 || typ = 3 then 8 else if typ = 5 || typ = 6 then 2 else 4
  termHolds typ (fieldBytes t 3 1) (fieldBytes rec_ (fieldBytes t 0 2) size) (fieldBytes t 8 size)

/-- NAN_IN and INF_IN of the FP32 or BF16 field and constant that a term reads (R247). -/
def termFlags (rec_ t : List Byte) : Nat :=
  let typ := fieldBytes t 2 1
  if typ = 4 || typ = 5 then
    let n := if typ = 4 then 4 else 2
    let num := decodeFloat (if typ = 4 then fmtFP32 else fmtBF16)
    readFlags [num (fieldBytes rec_ (fieldBytes t 0 2) n), num (fieldBytes t 8 n)]
  else 0

/-- The predicate on a record: terms from left to right (R291). -/
def recordPasses (terms : List (List Byte)) (rec_ : List Byte) : Bool :=
  match terms with
  | [] => true
  | t :: ts => ts.foldl (fun r u => if fieldBytes u 4 1 = 0 then r && termOn rec_ u else r || termOn rec_ u) (termOn rec_ t)

/-- Records of a page, `size` bytes each. -/
def recordsOf (size : Nat) : Nat → List Byte → List (List Byte)
  | 0, _ => []
  | n + 1, bs => if bs.length < size then [] else bs.take size :: recordsOf size n (bs.drop size)

/-- FILTER (R290): one page. -/
def Dev.filterStep (d : Dev) (t : Nat) (s : Stage) : Dev × Bool :=
  let w := s.w
  let pages := d.stagePages t s
  if pages ≤ s.step then (d.finStage t s.ix, true) else
  let size := max 1 (dBits w 1 40 16)
  let (d, g) := d.grab t s.ix (dF w 2) (dBits w 3 0 4 * 16) false
  d.withGot t s.ix g (fun pred =>
    let terms := filterTerms (dBits w 3 0 4) pred
    let (d, p) := d.recordPage t s s.step
    match p with
    | .wait => (d, false)
    | .bad c => d.failStep t s.ix c 1
    | .here bs =>
      let recs := recordsOf size (2 ^ d.stageLog t s / size) bs
      let per := 2 ^ d.stageLog t s / size
      let hits := (rangeFrom 0 recs.length).filter (fun j => recordPasses terms (recs.getD j []))
      let flags := (recs.flatMap (fun r => terms.map (termFlags r))).foldl Nat.lor 0
      let out := match dBits w 3 4 2 with
        | 1 => hits.flatMap (fun j => natBytes 4 (s.step * per + j))
        | 2 => hits.flatMap (fun j => recs.getD j [])
        | _ => []
      let at_ := dF w 4 + s.result * (if dBits w 3 4 2 = 1 then 4 else size)
      let d := d.when (out != []) (fun d => d.write t s.ix none at_ out)
      d.stepTo t s.ix pages (fun s => { s with
        result := s.result + hits.length, flags := Nat.lor s.flags flags, pass := s.pass ++ [(s.step, hits)] })
    | _ => d.stepTo t s.ix pages id)

/-- Whether a score ranks before another (R294): higher first, −0 equal to +0, NaN below every number. -/
def scoreBefore (a b : F32) : Bool :=
  let x := f32Num a
  let y := f32Num b
  if x == .nan then false else if y == .nan then true else y.lt false x

/-- A record ranked behind every record whose score is not below its own. -/
def rankIn (k : Nat) (e : Nat × Nat) : List (Nat × Nat) → List (Nat × Nat)
  | [] => if k = 0 then [] else [e]
  | x :: xs => match k with
    | 0 => []
    | k + 1 => if scoreBefore e.1 x.1 then e :: (x :: xs).take k else x :: rankIn k e xs

/-- The score of an embedding against a query (R293), with its flags. -/
def scoreOf (metric : Nat) (grp : Nat) (query emb : List Num) : F32 × Nat :=
  if metric = 0 then dotF32 grp (List.zipWith (fun q x => (q, x)) query emb)
  else
    let diffs := List.zipWith (fun q x => Num.sum [q, x.neg]) query emb
    let made := (List.zipWith (fun q x => invalidIf [q, x] (Num.sum [q, x.neg])) query emb).foldl Nat.lor 0
    let r := dotF32 grp (diffs.map (fun x => (x, x)))
    (if f32Num r.1 == .nan then f32Nan else Nat.xor r.1 (2 ^ 31), Nat.lor r.2 made)

/-- Query rows of TOPK. -/
def queryRows (fmt dim : Nat) : Nat → List Byte → List (List Num)
  | 0, _ => []
  | n + 1, bs => readRow fmt dim bs :: queryRows fmt dim n (bs.drop (rowBytes fmt dim))

/-- One record scored against every query. An entry's number is its index, with bit 32 set where its score was rounded: INEXACT tells of
the scores that are written (R247). -/
def scoreRecord (w : List Nat) (queries : List (List Num)) (acc : List (List (Nat × Nat)) × Nat) (index : Nat) (rec_ : List Byte) :
    List (List (Nat × Nat)) × Nat :=
  let dim := dBits w 2 16 16
  let k := dBits w 2 32 11
  let grp := if dIn w = 0 || bitOf (dF w 2) 49 then 1 else 32
  let xs := (readRow (dIn w) dim (rec_.drop (dBits w 2 0 16))).map (Num.scale (dScale w))
  let scores := queries.map (fun q => scoreOf (dBits w 2 47 2) grp q xs)
  let flags := (scores.map (fun x => Nat.land x.2 (255 - nfInexact))).foldl Nat.lor (Nat.lor (readFlags xs) (scaledFlags xs))
  (List.zipWith (fun r (x : F32 × Nat) => rankIn k (x.1, index % 2 ^ 32 + if bitOf x.2 6 then 2 ^ 32 else 0) r) acc.1 scores,
    Nat.lor acc.2 flags)

/-- The entries of a TOPK result (R294). -/
def rankBytes (k : Nat) (rank : List (Nat × Nat)) : List Byte :=
  (rank ++ List.replicate (k - rank.length) (f32Nan, 2 ^ 32 - 1)).flatMap (fun (e : Nat × Nat) => natBytes 4 e.1 ++ natBytes 4 e.2)

/-- TOPK (R292 to R294): one page; after the last, the entries of every query. -/
def Dev.topkStep (d : Dev) (t : Nat) (s : Stage) : Dev × Bool :=
  let w := s.w
  let pages := d.stagePages t s
  let nq := dBits w 2 43 4 + 1
  let k := dBits w 2 32 11
  let qfmt := if bitOf (dF w 2) 49 then 0 else 1
  let dim := dBits w 2 16 16
  let size := max 1 (dBits w 1 40 16)
  let start := if s.rank = [] then List.replicate nq [] else s.rank
  let done := fun (d : Dev) (rank : List (List (Nat × Nat))) (n flags : Nat) =>
    let last := decide (pages ≤ s.step + 1)
    let d := d.when last (fun d => d.write t s.ix none (dF w 4) (rank.flatMap (rankBytes k)))
    let flags := Nat.lor flags (if last && rank.any (fun r => r.any (fun e => bitOf e.2 32)) then nfInexact else 0)
    d.stepTo t s.ix pages (fun s => { s with rank := rank, result := s.result + n, flags := Nat.lor s.flags flags })
  if pages ≤ s.step then done d start 0 0 else
  let (d, g) := d.grab t s.ix (dF w 3) (nq * rowBytes qfmt dim) false
  d.withGot t s.ix g (fun qs =>
    let queries := queryRows qfmt dim nq qs
    let log := d.stageLog t s
    let (d, p) := d.recordPage t s s.step
    let score := fun (bs : List Byte) (flags : Nat) =>
      let recs := recordsOf size (2 ^ log / size) bs
      let pass := match d.prevStage t s.ix with
        | some q => if dOp q.w = 7 then ((q.pass.find? (fun (x : Nat × List Nat) => x.1 == s.step)).map Prod.snd).getD [] else rangeFrom 0 recs.length
        | none => rangeFrom 0 recs.length
      let r := pass.foldl (fun acc j => scoreRecord w queries acc (s.step * (2 ^ log / size) + j) (recs.getD j []))
        (start, if pass = [] then 0 else (queries.map readFlags).foldl Nat.lor 0)
      done d r.1 pass.length (Nat.lor r.2 flags)
    match p with
    | .wait => (d, false)
    | .bad c => d.failStep t s.ix c 1
    | .here bs => score bs 0
    | .shadow x => let r := d.expandShadow x (dIn w); score (padBytes (2 ^ log) r.1) r.2
    | _ => done d start 0 0)

/-- A softmax state of one head (R303). -/
structure Soft where
  o : List F32
  m : F32
  l : F32
  deriving DecidableEq, Repr

/-- A state read from its bytes. -/
def softOf (dim : Nat) (bs : List Byte) : Soft :=
  ⟨(rangeFrom 0 dim).map (fun e => fieldBytes bs (4 * e) 4), fieldBytes bs (4 * dim) 4, fieldBytes bs (4 * dim + 4) 4⟩

/-- The bytes of a state. -/
def Soft.bytes (x : Soft) : List Byte := x.o.flatMap (natBytes 4) ++ natBytes 4 x.m ++ natBytes 4 x.l

/-- The empty state (R303). -/
def Soft.none (dim : Nat) : Soft := ⟨List.replicate dim 0, f32NegInf, 0⟩

/-- The exact sum of FP32 products, rounded once (R304), with its flags. -/
def crucibleSum (xs : List F32) : F32 × Nat :=
  let r := roundRow 0 [xs.foldl (fun c x => c.place (f32Num x)) Crucible.clear]
  (bytesNat r.1, Nat.land r.2 (Nat.lor nfSat (Nat.lor nfInexact (Nat.lor nfInvalid nfOvf))))

/-- The merge of one head's states (R304), with its flags. -/
def softMerge (dim : Nat) (parts : List Soft) : Soft × Nat :=
  let read := readFlags (parts.flatMap (fun (p : Soft) => (p.m :: p.l :: p.o).map f32Num))
  let m := (parts.map Soft.m).foldl f32Max f32NegInf
  if parts.all (fun p => decide (p = Soft.none dim)) then (Soft.none dim, read) else
  let ss := parts.map (fun p => let a := f32Sub p.m m; let b := f32Exp2 a.1; (b.1, Nat.lor (stepFlags a.2) (stepFlags b.2)))
  let mulAll := fun (get : Soft → F32) => List.zipWith (fun p (s : Nat × Nat) => f32Mul (get p) s.1) parts ss
  let sum := fun (get : Soft → F32) =>
    let ms := mulAll get
    let c := crucibleSum (ms.map Prod.fst)
    (c.1, Nat.lor c.2 ((ms.map (fun (x : F32 × Nat) => stepFlags x.2)).foldl Nat.lor 0))
  let l := sum Soft.l
  let os := (rangeFrom 0 dim).map (fun e => sum (fun p => p.o.getD e 0))
  (⟨os.map Prod.fst, m, l.1⟩,
    (os.map Prod.snd).foldl Nat.lor (Nat.lor read (Nat.lor l.2 ((ss.map Prod.snd).foldl Nat.lor 0))))

/-- The normalized output of a head (R304): DIV(o_e, l) in OUT_FMT, +0 for l = 0. -/
def softOut (fmt : Nat) (x : Soft) : List Byte × Nat :=
  let zero := f32Num x.l == .zero false || f32Num x.l == .zero true
  let qs := x.o.map (fun o => if zero then (0, 0) else f32Div o x.l)
  let keep := fun (fl : Nat) => if fmt = 0 then fl else stepFlags fl
  let r := writeRow fmt (qs.map (fun q => f32Num q.1))
  (r.1, (qs.map (fun q => keep q.2)).foldl Nat.lor r.2)

/-- The Crucibles that a contribution of `n` elements brings to a slice (R298): elements to place, or images to merge. None for an
image whose zero bytes are not zero (R243). -/
def addContribution (fmt n : Nat) (scale : Int) (acc : List Crucible) (bs : List Byte) : Option (List Crucible) :=
  if fmt = 0xFE then
    (List.zip acc (rangeFrom 0 n)).mapM (fun x => (Crucible.ofImage ((bs.drop (64 * x.2)).take 64)).map (Crucible.merge x.1))
  else some (List.zipWith (fun (c : Crucible) (x : Num) => c.place (x.scale scale)) acc (readRow fmt n bs))

/-- A finished slice in OUT_FMT with its NUMFLAGS (R245, R298). -/
def sliceOut (fmt : Nat) (cs : List Crucible) : List Byte × Nat :=
  if fmt = 0xFE then
    (cs.flatMap Crucible.image, Nat.land (cs.foldl (fun n c => Nat.lor n (c.flags false)) 0) (Nat.lor nfNanIn (Nat.lor nfInfIn (Nat.lor nfOvf (Nat.lor nfRangeHi nfRangeLo)))))
  else roundRow fmt cs

/-- The exact sum of rows of `n` elements or images, in OUT_FMT, and the Crucibles it was formed in (R305); none when an image is refused
(R248). -/
def sumRows (w : List Nat) (n : Nat) (rows : List (List Byte)) : Option (List Byte × Nat × List Crucible) :=
  let acc := rows.foldl (fun (a : Option (List Crucible)) r => a.bind (fun a => addContribution (dIn w) n (dScale w) a r))
    (some (List.replicate n Crucible.clear))
  let read := if dIn w = 0xFE then 0 else (rows.map (fun r => readFlags (readRow (dIn w) n r))).foldl Nat.lor 0
  acc.map (fun cs => let out := sliceOut (dOut w) cs; (out.1, Nat.lor out.2 read, cs))

/-- The elements that head `h` of COMBINE in mode SUM adds (R267, R305): its own, or, where a format has blocks of 32, the blocks that its
elements complete; first element and count. -/
def sumSpan (w : List Nat) (h : Nat) : Nat × Nat :=
  let dim := dBits w 1 14 12
  let upTo := fun (e : Nat) => if fmtIsMx (dIn w) || fmtIsMx (dOut w) then e / 32 * 32 else e
  (upTo (h * dim), upTo ((h + 1) * dim) - upTo (h * dim))

/-- Where the elements `[e, e + m)` of `n` elements or images lie, from offset `base`. -/
def spanPieces (fmt n base e m : Nat) : List (Nat × Nat) := if fmt = 0xFE then [(base + 64 * e, 64 * m)] else rowPieces fmt n base e m

/-- The parts of each partial that head `h` needs. -/
def combineParts (w : List Nat) (h : Nat) : List (Nat × Nat) :=
  let dim := dBits w 1 14 12
  if bitOf (dF w 1) 26 then spanPieces (dIn w) (dBits w 1 9 5 * dim) 0 (sumSpan w h).1 (sumSpan w h).2 else [(h * (dim + 2) * 4, (dim + 2) * 4)]

/-- One head of COMBINE on the parts of the partials that it needs (R304, R305). -/
def Dev.combineHead (d : Dev) (t : Nat) (s : Stage) (h : Nat) (parts : List (List Byte)) : Dev × Bool :=
  let w := s.w
  let heads := dBits w 1 9 5
  let dim := dBits w 1 14 12
  let fin := fun (d : Dev) (flags : Nat) =>
    d.stepTo t s.ix heads (fun s => { s with result := s.result + 1, flags := Nat.lor s.flags flags })
  if bitOf (dF w 1) 26 then
    let x := sumSpan w h
    match sumRows w x.2 parts with
    | some r =>
      let d := (d.keepCruc t r.2.2).writeParts t s.ix ((spanPieces (dOut w) (heads * dim) (dF w 2) x.1 x.2).filter (fun p => p.2 != 0)) r.1
      d.stepTo t s.ix heads (fun s => { s with result := (x.1 + x.2) / max 1 dim, flags := Nat.lor s.flags r.2.1 })
    | none => (d.parityFailed t s.ix, true)
  else
    let m := softMerge dim (parts.map (softOf dim))
    if bitOf (dF w 1) 27 then
      let o := softOut (dOut w) m.1
      let keep := Nat.land m.2 (255 - nfInexact)
      fin (d.write t s.ix none (dF w 2 + h * dataBytes (dOut w) dim) o.1) (Nat.lor keep o.2)
    else fin (d.write t s.ix none (dF w 2 + h * (dim + 2) * 4) m.1.bytes) m.2

/-- The partials that a page of a chain brings a COMBINE (R302): the records that a FILTER before it has passed, else the page, which is
zeros where it is a hole (R282). -/
def Dev.chainPartials (d : Dev) (t : Nat) (s : Stage) (i : Nat) (page : List Byte) : List (List Byte) :=
  match d.prevStage t s.ix with
  | some q =>
    if dOp q.w != 7 then [page] else
    let size := max 1 (dBits q.w 1 40 16)
    (((q.pass.find? (fun (x : Nat × List Nat) => x.1 == i)).map Prod.snd).getD []).map (fun j => (page.drop (j * size)).take size)
  | none => []

/-- COMBINE (R302): one head; in a chain it first takes what each landed page brings. -/
def Dev.combineStep (d : Dev) (t : Nat) (s : Stage) : Dev × Bool :=
  let w := s.w
  match d.prevStage t s.ix with
  | some _ =>
    let i := s.nums.headD 0
    if i < d.stagePages t s then
      match d.chainPage t s i with
      | .here b => (d.onStage t s.ix (fun s => { s with nums := [i + 1], blobs := s.blobs ++ d.chainPartials t s i b }), true)
      | .skip => (d.onStage t s.ix (fun s => { s with nums := [i + 1] }), true)
      | .hole =>
        let zeros := List.replicate (2 ^ d.stageLog t s) 0#8
        (d.onStage t s.ix (fun s => { s with nums := [i + 1], blobs := s.blobs ++ d.chainPartials t s i zeros }), true)
      | _ => (d, false)
    else
      d.combineHead t s s.step (s.blobs.map (fun b => (combineParts w s.step).flatMap (fun p => (b.drop p.1).take p.2)))
  | none =>
    let n := dBits w 1 0 9
    let (d, g) := d.grab t s.ix (dF w 0) (8 * n) false
    d.withGot t s.ix g (fun tab =>
      let (d, got) := (rangeFrom 0 n).foldl (fun (acc : Dev × List Got) i =>
        let (d, g) := acc.1.grabMany t s.ix false ((combineParts w s.step).map (fun p => (fieldBytes tab (8 * i) 8 + p.1, p.2)))
        (d, acc.2 ++ [g])) (d, [])
      let codes := got.filterMap (fun g => match g with
        | .bad c => some c
        | _ => none)
      let parts := got.filterMap (fun g => match g with
        | .ok b => some b
        | _ => none)
      if codes != [] then d.failStep t s.ix (codes.foldl worse 0) 1
      else if parts.length < n then (d, false)
      else d.combineHead t s s.step parts)

/-- The page and slot of a row in the destination layout (R306). -/
def reshardTo (w : List Nat) (h tok : Nat) : Nat × Nat :=
  let q := max 1 (2 ^ dBits w 2 42 5 / max 1 (dBits w 3 0 16))
  if dBits w 2 41 1 = 0 then (h * ceilDiv (dBits w 2 0 32) q + tok / q, tok % q)
  else ((tok * dBits w 2 32 8 + h) / q, (tok * dBits w 2 32 8 + h) % q)

/-- RESHARD (R306): one source page; a page without rows to move is not read. -/
def Dev.reshardStep (d : Dev) (t : Nat) (s : Stage) : Dev × Bool :=
  let w := s.w
  let log := dBits w 2 42 5
  let space := dBits w 2 47 3
  let rb := dBits w 3 0 16
  let total := reshardPages w (dBits w 2 40 1)
  let rows := reshardRows w s.step
  if total ≤ s.step then (d.finStage t s.ix, true) else
  if rows = [] then d.stepTo t s.ix total id else
  let (d, p) := d.walkPage t s.ix (dF w 0) total log space 0 0 total s.step
  let dst := reshardPages w (dBits w 2 41 1)
  let (d, tos) := rows.foldl (fun (acc : Dev × List (Nat × Got)) r =>
    let to_ := reshardTo w r.2.1 r.2.2
    let (d, g) := acc.1.tableEntry t s.ix (dF w 1) dst to_.1
    (d, acc.2 ++ [(to_.2, g)])) (d, [])
  let entries : List (Nat × Option Entry) := tos.map (fun x => match x.2 with
    | .ok bs => (x.1, some (entryOf space log bs))
    | _ => (x.1, none))
  let codes := tos.filterMap (fun x => match x.2 with
    | .bad c => some c
    | _ => none)
  let moved := fun (d : Dev) (bs : List Byte) =>
    if codes != [] then d.failStep t s.ix (codes.foldl worse 0) 1
    else if entries.any (fun x => x.2.isNone) then (d, false)
    else if entries.any (fun x => decide (x.2 = some Entry.malformed)) then d.failStep t s.ix 1 1
    else
      let pairs := rows.zip entries
      let d := d.each pairs (fun d x => match x.2.2 with
        | some (.page a) => d.write t s.ix none (a + x.2.1 * rb) ((bs.drop (x.1.1 * rb)).take rb)
        | _ => d)
      let n := (entries.filter (fun x => decide (x.2 ≠ some Entry.hole))).length
      d.stepTo t s.ix total (fun s => { s with result := s.result + n })
  match p with
  | .here bs => moved d bs
  | .hole => moved d (List.replicate (2 ^ log) 0#8)
  | .bad c => d.failStep t s.ix c 1
  | _ => (d, false)

/-- The compression format of a format code (R361); none where it has none. -/
def packFmt (c : Nat) : Option CodeFmt :=
  match c with
  | 1 => codeFmt 1 | 2 => codeFmt 2 | 3 => codeFmt 3 | 4 => codeFmt 4 | 7 => codeFmt 5 | _ => none

/-- D of FIXED for a format code (R363). -/
def packWidth (c : Nat) : Nat := match c with
  | 1 => fixedWidth 1 | 2 => fixedWidth 2 | 3 => fixedWidth 3 | 4 => fixedWidth 4 | _ => fixedWidth 5

/-- A line of a PACK stream (R307, R362, R363): native with its smallest delta width, fixed with that of the format; a format
without a code stays plain. None where a fixed line spreads too far. -/
def packLine (fmt : Nat) (fixed : Bool) (line : List Byte) : Option (List Byte) :=
  match packFmt fmt with
  | none => some line
  | some f =>
    let dw := deltaWidth (codeSpread f (lineElements f line))
    if !fixed then some (codeLine f dw line)
    else if dw ≤ packWidth fmt then some (codeLine f (packWidth fmt) line) else none

/-- Lines of 64 bytes, the last padded with zeros. -/
def linesOf : Nat → List Byte → List (List Byte)
  | 0, _ => []
  | n + 1, bs => if bs = [] then [] else padBytes 64 (bs.take 64) :: linesOf n (bs.drop 64)

/-- The flags of the elements that a PACK has read, once the last of them and their scales have come (R247). -/
def Dev.packFlags (d : Dev) (t : Nat) (s : Stage) : Nat :=
  let w := s.w
  let len := dataBytes (dIn w) (dBits w 2 0 48)
  let cuts := (rangeFrom 0 (ceilDiv len 4096)).map (fun i => (dF w 0 + 4096 * i, min 4096 (len - 4096 * i)))
  match (d.grabMany t s.ix false cuts).2 with
  | .ok bs => readFlags (readRow (dIn w) (dBits w 2 0 48) bs)
  | _ => 0

/-- PACK (R307, R308): 4 KiB of source; the first number is the bytes written. -/
def Dev.packStep (d : Dev) (t : Nat) (s : Stage) : Dev × Bool :=
  let w := s.w
  let len := dataBytes (dIn w) (dBits w 2 0 48)
  let x := 4096 * s.step
  let n := min 4096 (len - x)
  let (d, g) := d.grab t s.ix (dF w 0 + x) n false
  d.withGot t s.ix g (fun bs =>
    let coded := (linesOf 64 bs).map (packLine (dIn w) (bitOf (dF w 2) 48))
    let out := coded.flatMap (fun c => c.getD [])
    if coded.any Option.isNone || dBits w 3 0 32 < s.result + out.length then d.failStep t s.ix 1 7 else
    let flags := if x + n < len then 0 else d.packFlags t s
    (d.write t s.ix none (dF w 1 + s.result) out).stepTo t s.ix (ceilDiv len 4096)
      (fun s => { s with result := s.result + out.length, flags := Nat.lor s.flags flags }))

/-- The length in the stream of a line whose first bytes are given (R362); none where its header is no header. -/
def codedLength (fmt : Nat) (fixed : Bool) (head : List Byte) : Option Nat :=
  match packFmt fmt with
  | none => some 64
  | some f =>
    let v := bytesNat (head.take 2)
    let dw := v % 16
    if 8 < dw || fieldOf v 12 4 != 0 || (fixed && dw != packWidth fmt) then none else some (ceilDiv (codedBits f dw) 128 * 16)

/-- A line of a stream decoded. -/
def unpackLine (fmt : Nat) (coded : List Byte) : Option (List Byte) :=
  match packFmt fmt with
  | none => some coded
  | some f => decodeCoded f coded

/-- A stream decoded to `n` lines; none where it does not decode. -/
def unpackAll (fmt : Nat) (fixed : Bool) : Nat → List Byte → Option (List Byte)
  | 0, _ => some []
  | n + 1, bs =>
    match codedLength fmt fixed bs with
    | none => none
    | some k => if bs.length < k then none else
      match unpackLine fmt (bs.take k), unpackAll fmt fixed n (bs.drop k) with
      | some l, some rest => some (l ++ rest)
      | _, _ => none

/-- Lines of a stream read one after the other from a place in the source, at most `n`: their bytes, and the place after them. -/
def Dev.unpackFrom (d : Dev) (t ix src fmt : Nat) (fixed : Bool) : Nat → Nat → Dev × Option (Got × Nat)
  | 0, pos => (d, some (.ok [], pos))
  | n + 1, pos =>
    let (d, g) := d.grab t ix (src + pos) 16 false
    match g with
    | .wait => (d, some (.wait, pos))
    | .bad c => (d, some (.bad c, pos))
    | .ok head => match codedLength fmt fixed head with
      | none => (d, none)
      | some k =>
        let (d, g) := d.grab t ix (src + pos) k false
        match g with
        | .wait => (d, some (.wait, pos))
        | .bad c => (d, some (.bad c, pos))
        | .ok coded => match unpackLine fmt coded with
          | none => (d, none)
          | some l =>
            let (d, r) := d.unpackFrom t ix src fmt fixed n (pos + k)
            (d, r.map (fun x => (match x.1 with
              | .ok b => .ok (l ++ b)
              | g => g, x.2)))

/-- UNPACK (R307, R308): 4 KiB of destination; behind a GATHER each landed page in place. -/
def Dev.unpackStep (d : Dev) (t : Nat) (s : Stage) : Dev × Bool :=
  let w := s.w
  let fixed := bitOf (dF w 2) 48
  let len := dataBytes (dOut w) (dBits w 2 0 48)
  match d.prevStage t s.ix with
  | some _ =>
    let pages := d.stagePages t s
    if pages ≤ s.step then (d.finStage t s.ix, true) else
    let page := 2 ^ d.stageLog t s
    let shadowed := d.outcomeOf t (s.step + 1) == 1
    match d.chainPage t s s.step with
    | .here b =>
      if shadowed then d.stepTo t s.ix pages id
      else if page < len then d.failStep t s.ix 1 7
      else match unpackAll (dOut w) fixed (ceilDiv len 64) b with
        | none => d.failStep t s.ix 1 8
        | some out => (d.writeHere t (d.slotAddr t s.step) s (out.take len)).stepTo t s.ix pages
            (fun s => { s with result := s.result + len })
    | .wait => (d, false)
    | _ => d.stepTo t s.ix pages id
  | none =>
    let x := 4096 * s.step
    let n := min 4096 (len - x)
    let (d, r) := d.unpackFrom t s.ix (dF w 0) (dOut w) fixed (ceilDiv n 64) (s.nums.headD 0)
    match r with
    | none => d.failStep t s.ix 1 8
    | some (g, pos) => d.withGot t s.ix g (fun bs =>
        (d.write t s.ix none (dF w 1 + x) (bs.take n)).stepTo t s.ix (ceilDiv len 4096)
          (fun s => { s with nums := [pos], result := s.result + n }))

end Sys2Proof.Machine
end

