-- ==== Sys2Proof/Machine/Migrate.lean ====
section
/-! DEFINITION. REDUCE (R295 to R301) and the migration of a tile to its group's spare (R71 to R74, R453). -/
namespace Sys2Proof.Machine

/-- Whether a REDUCE's slices wait for a contribution of a port (R301): one that it has still to place has not landed. -/
def Dev.waitsFor (d : Dev) (h : Heat) (t ix step port : Nat) : Bool :=
  let w := h.descs.getD ix []
  let count := dBits w 2 0 9
  let window := max 1 (dBits w 2 16 8)
  let open_ := rangeFrom step (min window (dBits w 2 32 32 - step))
  let mine := ((d.contribs t w).zip (rangeFrom 0 count)).filter (fun c => c.1.kind == 0 && c.1.source == port)
  mine.any (fun c => decide (step + window < dBits w 2 32 32) ||
    open_.any (fun j => decide ((t, ix, j % window * count + c.2) ∉ h.landed)))

/-- The fenced contributor ports that a REDUCE's slices wait for (R301). -/
def Dev.fencedWait (d : Dev) (h : Heat) (t ix step : Nat) : Bool :=
  (d.contribs t (h.descs.getD ix [])).any (fun c => c.kind == 0 && d.fenced c.source && d.waitsFor h t ix step c.source)

/-- REDUCE (R298 to R301): the next slice, once every contribution to its slot has landed. Its sums stand in the tile's Crucibles
(assumption log 143). -/
def Dev.reduceStep (d : Dev) (t : Nat) (s : Stage) : Dev × Bool :=
  match d.heatOn t with
  | none => (d, false)
  | some h =>
    let w := s.w
    let count := dBits w 2 0 9
    let n := dBits w 3 0 9
    let base := taAddr (dF w 0)
    let slot := fun (k : Nat) => s.step % max 1 (dBits w 2 16 8) * count + k
    let cs := d.contribs t w
    let table := if taSpace (dF w 1) = 0 then (d, true) else d.readable (taAddr (dF w 1)) (16 * count)
    let d := table.1
    if !table.2 then d.failStep t s.ix 1 1
    else if (t, s.ix, overrunMark) ∈ h.landed then d.failStep t s.ix 1 6
    else if d.fencedWait h t s.ix s.step then d.failStep t s.ix 3 0
    else if !((rangeFrom 0 count).all (fun k => decide ((t, s.ix, slot k) ∈ h.landed))) then (d, false)
    else
      let rows := (rangeFrom 0 count).map (fun k => d.readSpa t (base + slot k * 256) (dataBytes (dIn w) n))
      let acc := rows.foldl (fun (a : Option (List Crucible)) r => a.bind (fun a => addContribution (dIn w) n (dScale w) a r))
        (some (List.replicate n Crucible.clear))
      match acc with
      | none => (d.parityFailed t s.ix, true)
      | some cs' =>
        let out := sliceOut (dOut w) cs'
        let read := if dIn w = 0xFE then 0 else (rows.map (fun r => readFlags (readRow (dIn w) n r))).foldl Nat.lor 0
        let off := s.step * out.1.length
        let used := (rangeFrom 0 count).map (fun k => (t, s.ix, slot k))
        let d := d.onHeat h.fn h.ring h.no (fun h => { h with landed := h.landed.filter (fun x => decide (x ∉ used)) })
        let placed := fun (f : HeldFrame) => decide (base ≤ f.off) && decide ((t, s.ix, (f.off - base) / 256) ∈ used)
        let d := (d.onRun t (fun r => { r with frames := r.frames.filter (fun f => !placed f) })).keepCruc t cs'
        let d := d.when (bitOf (dF w 3) 9) (fun d => d.each cs (fun d c =>
          d.write t s.ix (if c.kind = 0 then some c.source else none) (c.base + off) out.1))
        let d := d.when (bitOf (dF w 3) 10) (fun d => d.write t s.ix none (dF w 4 + off) out.1)
        d.stepTo t s.ix (dBits w 2 32 32) (fun s => { s with result := s.result + 1, flags := Nat.lor s.flags (Nat.lor read out.2) })

/-- REDUCE ends at once with FENCED when a contributor port is declared dead or fenced while slices wait (R301). -/
def Dev.fencedReduces (d : Dev) : Dev :=
  d.each d.heats.runs (fun d x => d.each x.2.stages (fun d s =>
    match d.heatOn x.1 with
    | some h => if dOp s.w == 4 && !s.fin && d.fencedWait h x.1 s.ix s.step then d.failStage x.1 s.ix 3 0 else d
    | none => d))

/-- The physical tile that a logical tile's group has free (R23, R453). -/
def Dev.spareTile (d : Dev) (t : Nat) : Option Nat :=
  let used := (rangeFrom 0 256).map (fun x => d.get (Reg.TILE_MAP_PHYS x))
  (rangeFrom (d.get (Reg.TILE_MAP_GROUP t) * 9) 9).find? (fun p => decide (p ∉ used) && decide (p ∉ d.ras.badTiles))

/-- The logical tile that runs on a physical tile. -/
def Dev.tileOn? (d : Dev) (phys : Nat) : Option Nat := (rangeFrom 0 256).find? (fun t => d.get (Reg.TILE_MAP_PHYS t) == phys)

/-- A tile with a lasting fault and no free spare is FAILED (R453): its running descriptor ends with POISON and PARITY, and the later stages
of its chain with it (R275). -/
def Dev.failTile (d : Dev) (t : Nat) : Dev :=
  let d := d.when (!d.flag (Reg.TILE_MAP_FAILED t)) (fun d => d.set Reg.CAPS_TILES_ACTIVE (d.get Reg.CAPS_TILES_ACTIVE - 1))
  let d := d.set (Reg.TILE_MAP_FAILED t) 1
  match (d.runAt t).bind (fun r => r.stages.find? (fun s => !s.fin)) with
  | some s => (d.bump Reg.STEP_POISON).failStage t s.ix 1 4
  | none => d

/-- The logical tiles of a sparing group that wait for their migration to its spare (R453). -/
def Dev.tilesWaiting (d : Dev) (group : Nat) : List Nat :=
  (rangeFrom 0 256).filter (fun t => d.get (Reg.TILE_MAP_GROUP t) == group && decide (d.get (Reg.TILE_MAP_PHYS t) ∈ d.ras.badTiles) &&
    !d.flag (Reg.TILE_MAP_FAILED t))

/-- A lasting fault of a physical tile (R453): it is barred from service. Its logical tile waits for its migration, or is FAILED where the
group has no spare, also where another tile of the group waits for that spare (R470). A faulty spare is no longer free, and a tile that
waited for it is FAILED. -/
def Dev.tileFault (d : Dev) (phys : Nat) : Dev :=
  let spare := (d.tileOn? phys).isNone && decide (phys ∉ d.ras.badTiles)
  let d := { d with ras := { d.ras with badTiles := addOnce d.ras.badTiles phys } }
  match d.tileOn? phys with
  | some t =>
    let others := (d.tilesWaiting (d.get (Reg.TILE_MAP_GROUP t))).filter (fun x => x != t)
    if (d.spareTile t).isSome && others == [] then d else d.failTile t
  | none =>
    let d := d.when spare (fun d => (d.set Reg.CAPS_TILE_SPARES_FREE (d.get Reg.CAPS_TILE_SPARES_FREE - 1)).sparesGone 1 (phys / 9))
    d.each ((d.tilesWaiting (phys / 9)).filter (fun t => (d.spareTile t).isNone)) Dev.failTile

/-- MIGRATION (R71 step 1): the tile is frozen and frames addressed to it are held; `readable` says whether its scratchpad can be
read. Only a tile whose group has a free spare can move. -/
def Dev.migrate (d : Dev) (t : Nat) (readable : Bool) : Dev :=
  if (Tab.find? d.heats.frozen t).isSome || (d.spareTile t).isNone then d
  else { d with heats := { d.heats with frozen := Tab.ins d.heats.frozen t ⟨d.time, readable, []⟩ } }

/-- A descriptor on a migrating tile that has not ended: its index and words, the GATHER of its chain if it
is a later stage, and whether it runs. -/
structure Moving where
  ix : Nat
  w : List Nat
  head : Option (List Nat)
  running : Bool
  deriving DecidableEq, Repr

/-- The descriptors on a tile that have not ended (R71, R453): those that run and those still to begin. -/
def Run.moving (r : Run) (descs : List (List Nat)) : List Moving :=
  let first := r.stages.head?
  ((r.stages.filter (fun s => !s.fin)).map (fun s => ⟨s.ix, s.w, if first.map Stage.ix = some s.ix then none else first.map Stage.w, true⟩)) ++
    r.todo.flatMap (fun g => g.map (fun i => ⟨i, descs.getD i [], if g.head? = some i then none else (g.head?).map (fun k => descs.getD k []), false⟩))

/-- The counters that move with a tile's descriptors (R71): the tile counters of the heat on it and the device counters its descriptors
wait on. -/
def Dev.migrantCtrs (d : Dev) (t : Nat) (left : List Moving) : List Nat :=
  match d.heatOn t with
  | some h =>
    let waits := left.filterMap (fun m => dWait m.w)
    (h.ctrs.map Prod.fst).filter (fun c => if c < 65536 then decide (c / 256 = t) else decide (c ∈ waits))
  | none => []

/-- A counter moves to the next placement generation (R71, R72): with `follow` its count becomes PREV, live. -/
def Dev.moveCtr (d : Dev) (follow : Bool) (id : Nat) : Dev :=
  let cur := d.reg (ctrCur id)
  let gen := fieldOf cur 48 16
  let prev := if follow then fieldOf cur 0 44 + fieldOf cur 45 1 * 2 ^ 45 + 2 ^ 46 + gen * 2 ^ 48
    else fieldPut (d.reg (ctrPrev id)) 46 1 0
  let next := fieldPut (fieldPut (fieldPut cur 0 44 0) 45 1 0) 48 16 ((gen + 1) % 65536)
  let d := (d.setReg (ctrPrev id) prev).setReg (ctrCur id) next
  { d with ctrs := d.ctrs.map (fun x => if x.1 = id then (id, if follow then x.2 else { x.2 with counted := [] }) else x) }

/-- A descriptor begun again at the new placement (R72); a wait already satisfied has taken effect, and a REDUCE goes on with the
slice it had reached (R301). -/
def Stage.restart (s : Stage) : Stage :=
  if s.fin then s
  else if dOp s.w = 4 then s
  else { Stage.fresh s.ix s.w with waited := s.waited, dl := s.dl, replayed := s.replayed, slag := s.slag }

/-- The bytes of tile `t`'s own scratchpad that a descriptor names (R71): offset and length of each region. -/
def ownRegions (t : Nat) (w : List Nat) (head : Option (List Nat)) : List (Nat × Nat) :=
  (namedRegions w head).filterMap (fun r => if taSpace r.addr = 0 && taTile t r.addr = t then some (taAddr r.addr, r.n) else none)

/-- Scratchpad and Crucibles of the old placement as they come to the new one (R71, R249): with `whole` nothing is copied, else all but
the regions `gone` of descriptors with FOLLOW clear, of which what a descriptor with FOLLOW set names too (`kept`) stays. -/
def Dev.copyPlacement (d : Dev) (t : Nat) (whole : Bool) (gone kept : List (Nat × Nat)) : Dev :=
  if whole then { d with spa := Memory.clear d.spa (t * spaBytes) spaBytes }.clearCruc t else
  let saved := kept.map (fun r => (r.1, d.readSpa t r.1 r.2))
  let d := d.each gone (fun d r => { d with spa := Memory.clear d.spa (t * spaBytes + r.1) r.2 })
  if gone = [] then d else d.each saved (fun d x => d.writeSpa t x.1 x.2)

/-- What the run of a tile loses with the state of some of its stages (R72): those stages begin again, and when the first stage of the
chain is one of them, so do its pages. -/
def Run.dropStages (r : Run) (lost : List Nat) : Run :=
  let head := ((r.stages.head?).map Stage.ix).any (fun i => decide (i ∈ lost))
  let mine := fun (i : Item) => if i.page < 2 ^ 64 then head else decide (i.page - 2 ^ 64 ∈ lost)
  { r with
    stages := r.stages.map (fun s => if s.ix ∈ lost then s.restart else s), items := r.items.filter (fun i => !mine i),
    held := r.held.filter (fun q => decide (q.ix ∉ lost)), tries := r.tries.filter (fun x => decide (x.1 ∉ lost)),
    missed := if head then [] else r.missed, outcomes := if head then [] else r.outcomes, inTime := if head then [] else r.inTime,
    lost := if head then [] else r.lost }

/-- Whether an offset lies in some regions. -/
def inRegions (rs : List (Nat × Nat)) (a : Nat) : Bool := rs.any (fun g => decide (g.1 ≤ a) && decide (a < g.1 + g.2))

/-- The states that an ATTEND begun anew had sent elsewhere than to its own tile: it sends them again (R334). -/
def statesSent (t : Nat) (s : Stage) : Nat :=
  if dOp s.w = 9 ∧ !(!bitOf (dF s.w 3) 41 && taSpace (dF s.w 4) == 0 && taTile t (dF s.w 4) == t) then s.ent * attG s.w else 0

/-- The writes counted outside a tile by counters whose counts its migration drops: each counts in SLAG_PLACEMENT, and the steps
of tiles that sent them, but those of descriptors `lost` that begin anew, send them again (R72). -/
def Dev.recount (d : Dev) (t : Nat) (lost ctrs : List Nat) (old : List (Nat × CtrHold)) : Dev :=
  d.each ctrs (fun d c => match Tab.find? old c with
    | none => d
    | some h => d.each (h.counted.reverse.filter (fun x => x.dest != t)) (fun d x =>
      let d := d.bump Reg.SLAG_PLACEMENT
      match x.src with
      | some (y, ix) => if y = t ∧ ix ∈ lost then d else d.countArrival c h.dom (d.ctrGen c) x
      | none => d))

/-- MIGRATION_DONE (R71 to R74). Each descriptor that has not ended keeps its state if its FOLLOW bit is set and the old scratchpad can be
read, and else drops it and begins again; a tile on which none is left keeps a scratchpad that can be read (R261; assumption log
144). What is dropped counts in SLAG_PLACEMENT, and the contributing steps of tiles send theirs again under the next generation
(assumption log 145). The logical tile points at its group's spare, and the frames held since the freeze are released. -/
def Dev.migrationDone (d : Dev) (t : Nat) : Dev :=
  match Tab.find? d.heats.frozen t, d.spareTile t with
  | some z, some spare =>
    let old := d.get (Reg.TILE_MAP_PHYS t)
    let r := d.runAt t
    let descs := ((d.heatOn t).map Heat.descs).getD []
    let left := ((r.map (fun r => r.moving descs)).getD [])
    let follows := fun (m : Moving) => z.readable && dFollow m.w
    let whole := !z.readable || (!left.any follows && left != [])
    let regions := fun (ms : List Moving) => ms.flatMap (fun m => ownRegions t m.w m.head)
    let kept := if z.readable then regions (left.filter follows) else []
    let gone := if whole then [(0, spaBytes)] else regions (left.filter (fun m => !follows m))
    let lost := (left.filter (fun m => m.running && !follows m)).map Moving.ix
    let ctrs := d.migrantCtrs t left
    let zeroed := ctrs.filter (fun c => !(z.readable && bitOf (d.reg (ctrCur c)) 47))
    let isDropped := fun (f : HeldFrame) => (inRegions gone f.off && !inRegions kept f.off) || (f.ctr != 0 && decide (f.ctr - 1 ∈ zeroed))
    let dropped := (((r.map Run.frames).getD []).reverse).filter isDropped
    let begun := ((r.map Run.stages).getD []).filter (fun s => decide (s.ix ∈ lost))
    let d := d.bumpBy Reg.SLAG_PLACEMENT (dropped.length + sumBy (statesSent t) begun)
    let d := d.copyPlacement t whole gone kept
    let d := match d.heatOn t with
      | some h => d.onHeat h.fn h.ring h.no (fun h => { h with
          landed := h.landed.filter (fun x => x.1 != t || x.2.2 == slagMark ||
            !(whole || (left.any (fun m => m.ix == x.2.1 && !follows m)))) })
      | none => d
    let d := d.onRun t (fun r => { r.dropStages lost with frames := r.frames.filter (fun f => !isDropped f), gone := gone })
    let counts := d.ctrs
    let d := d.each ctrs (fun d c => d.moveCtr (decide (c ∉ zeroed)) c)
    let gen := (d.tileGen t + 1) % 65536
    let gens := Tab.put 0 (Tab.put 0 d.heats.gens t gen) (256 + t) (if whole then 0 else 1)
    let d := { d with heats := { d.heats with gens := gens, frozen := Tab.del d.heats.frozen t } }
    let d := ((d.set (Reg.TILE_MAP_PHYS t) spare).set (Reg.TILE_MAP_DIE t) (spare / 144)).set (Reg.TILE_MAP_ON_SPARE t) 1
    let d := d.when (decide (old ∈ d.ras.badTiles)) (fun d =>
      let d := (d.set Reg.CAPS_TILE_SPARES_FREE (d.get Reg.CAPS_TILE_SPARES_FREE - 1)).logSwap 1 old spare
      d.when ((d.spareTile t).isNone) (fun d => d.sparesGone 1 (d.get (Reg.TILE_MAP_GROUP t))))
    let d := if z.readable then d else d.each (left.filter (fun m => m.running && dFollow m.w)) (fun d m => d.post [0] 0x20 [1, old, m.ix])
    let d := d.trace 7 0xF (t + gen * 256)
    let again := dropped.filter (fun f => match f.src with
      | .tile x => !(x == t && decide (f.ix ∈ lost))
      | _ => false)
    let d := d.each again (fun d f => d.landFrame t { f with gen := gen, ctr := if f.ctr - 1 ∈ zeroed then f.ctr else 0 })
    let d := d.recount t lost zeroed counts
    d.each z.frames (fun d f => (d.landNow t f).landAnswer t f)
  | some _, none => d
  | none, _ => d

/-- A heat has given up its tiles: the previous placement of each is retired (R74). -/
def Dev.retirePlacements (d : Dev) : Dev :=
  let idle := (rangeFrom 0 256).filter (fun t => Tab.get 0 d.heats.gens (256 + t) == 1 && (d.runAt t).isNone)
  { d with heats := { d.heats with gens := idle.foldl (fun g t => Tab.put 0 g (256 + t) 0) d.heats.gens } }

end Sys2Proof.Machine
end

