-- ==== Sys2Proof/Machine/Attend.lean ====
section
/-! DEFINITION. ATTEND (chapter 09): length-table entries, live tokens, the order of accumulation and the states. -/
namespace Sys2Proof.Machine

/-- Whether an entry fails (R321). -/
def Dev.entryFails (d : Dev) (dom : Nat) (tiles : List Nat) (chained : Bool) (e : LenEntry) : Bool :=
  let named := fun a => decide (taSpace a ≤ 2) && d.typedOk dom tiles a 1 false
  decide (2 ^ 40 < e.first + e.len) || (!chained && e.pt == 0) || (e.pt != 0 && !(named e.pt)) ||
    ((e.masked || e.mask != 0) && (!(named e.mask) || e.mask % 8 != 0))

/-- The lines of a page, of rows of `row` bytes, that hold bytes of the rows at these slots, in ascending order (R324). -/
def liveLines (row : Nat) (slots : List Nat) : List Nat :=
  (slots.foldl (fun (acc : List Nat) s =>
    let a := s * row / 64
    let b := (s * row + row - 1) / 64
    let from_ := match acc with
      | x :: _ => max a (x + 1)
      | [] => a
    (rangeFrom from_ (b + 1 - from_)).reverse ++ acc) []).reverse

/-- A row cut out of the landed lines. -/
def rowFrom (lines : List Nat) (data : List Byte) (off n : Nat) : List Byte :=
  (data.drop (lines.idxOf (off / 64) * 64 + off % 64)).take n

/-- Where the work region holds its states (R313). -/
def attStates (w : List Nat) (chained : Bool) : Nat := dBits w 3 42 21 + if chained then 0 else dLook w * 2 ^ dBits w 1 40 5

/-- The bytes of a state (R303). -/
def attState (w : List Nat) : Nat := (attD w + 2) * 4

/-- The query rows of the entry being served: in the scratchpad named by QUERY, or in the work region (R313, R319). -/
def Dev.attQueries (d : Dev) (t : Nat) (s : Stage) (chained : Bool) : List (List Num) :=
  let w := s.w
  let n := attG w * attD w * 2
  let bs := if taSpace (dF w 2) = 0 then d.readSpa (taTile t (dF w 2)) (taAddr (dF w 2) + s.ent * n) n
    else d.readSpa t (attStates w chained + attG w * attState w) n
  queryRows 1 (attD w) (attG w) bs

/-- The states of the entry being served. -/
def Dev.attSofts (d : Dev) (t : Nat) (w : List Nat) (chained : Bool) : List Soft :=
  (rangeFrom 0 (attG w)).map (fun g => softOf (attD w) (d.readSpa t (attStates w chained + g * attState w) (attState w)))

/-- States put into the work region. -/
def Dev.putSofts (d : Dev) (t : Nat) (w : List Nat) (chained : Bool) (xs : List Soft) : Dev :=
  d.writeSpa t (attStates w chained) (xs.flatMap Soft.bytes)

/-- The bytes of the table reads that a descriptor has issued so far (R338). -/
def Dev.tableBytes (d : Dev) (t ix : Nat) : Nat :=
  ((d.runAt t).map (fun r => sumBy Item.len (r.items.filter (fun i => i.page == opKey ix)))).getD 0

/-- What an entry needs is read once (R322): the entry, its bitmap lines, its page-table entries and, from DMA, its query rows. The
numbers kept are pages of the chain taken, pages of the entry passed, live tokens, heads whose m was rounded, and whether the last
sums were. -/
def Dev.loadEntry (d : Dev) (t : Nat) (s : Stage) (chained : Bool) : Dev × Bool :=
  let w := s.w
  match d.heatOn t with
  | none => (d, false)
  | some h =>
    let (d, g) := d.grab t s.ix (dF w 0 + 32 * s.ent) 32 false
    match g with
    | .wait => (d, false)
    | .bad c => (d.failStage t s.ix c 1, false)
    | .ok ebs =>
      let e := lenEntry ebs
      if d.entryFails h.fn h.tiles chained e then (d.failStage t s.ix 1 1, false) else
      let span := maskSpan e
      let (d, gm) := d.grab t s.ix span.1 span.2 false
      match gm with
      | .wait => (d, false)
      | .bad c => (d.failStage t s.ix c 1, false)
      | .ok mask =>
        let pages := if chained then [] else (entryPages w e).filter (fun p => pageTokens w e mask p != [])
        let count := ((pages.getLast?).getD 0) + 1
        let (d, got) := pages.foldl (fun (acc : Dev × List (Nat × Got)) p =>
          let (d, g) := acc.1.tableEntry t s.ix e.pt count p
          (d, acc.2 ++ [(p, g)])) (d, [])
        let n := attG w * attD w * 2
        let (d, gq) := if taSpace (dF w 2) = 1 then d.grab t s.ix (dF w 2 + s.ent * n) n false else (d, .ok [])
        let codes := (got.map Prod.snd ++ [gq]).filterMap (fun g => match g with
          | .bad c => some c
          | _ => none)
        let rows := got.filterMap (fun x => match x.2 with
          | .ok b => some (x.1, b)
          | _ => none)
        if codes != [] then (d.failStage t s.ix (codes.foldl worse 0) 1, false) else
        match gq with
        | .ok q =>
          if rows.length < pages.length then (d, false)
          else if rows.any (fun x => decide (entryOf (dBits w 1 45 3) (dBits w 1 40 5) x.2 = .malformed)) then
            (d.failStage t s.ix 1 1, false)
          else
            let d := d.when (q != []) (fun d => d.writeSpa t (attStates w chained + attG w * attState w) q)
            let d := d.putSofts t w chained (List.replicate (attG w) (Soft.none (attD w)))
            (d.onStage t s.ix (fun s => { s with
              blobs := [ebs, mask, rows.flatMap (fun x => natBytes 8 x.1 ++ x.2)], nums := [s.nums.headD 0, 0, 0, 0, 0] }), true)
        | _ => (d, false)

/-- The page tables of an entry as kept: page index and entry. -/
def keptPages (w : List Nat) : Nat → List Byte → List (Nat × Entry)
  | 0, _ => []
  | n + 1, bs => if bs = [] then [] else
    (fieldBytes bs 0 8, entryOf (dBits w 1 45 3) (dBits w 1 40 5) ((bs.drop 8).take 8)) :: keptPages w n (bs.drop 16)

/-- One head's state after the tokens of a page (R326 to R328): keys and values of the live tokens, in order. The state, whether its
m and its sums were rounded, and the flags. -/
def attHead (scale : F32) (dim : Nat) (q : List Num) (kvs : List (List Num × List Num)) (x : Soft) (mWas : Bool) :
    Soft × Bool × Bool × Nat :=
  let scored := kvs.map (fun kv =>
    let a := dotF32 32 (List.zipWith (fun u v => (u, v)) q kv.1)
    let b := f32Mul a.1 scale
    (b.1, bitOf b.2 6, Nat.lor (stepFlags a.2) (stepFlags b.2)))
  let flags := (scored.map (fun r => r.2.2)).foldl Nat.lor 0
  let best := scored.foldl (fun (acc : F32 × Bool) r => let m := f32Max acc.1 r.1; if m = acc.1 then acc else (m, r.2.1)) (x.m, mWas)
  let mn := best.1
  let c := if mn = f32NegInf then (0x3F800000, 0) else
    let a := f32Sub x.m mn
    let b := f32Exp2 a.1
    (b.1, Nat.lor (stepFlags a.2) (stepFlags b.2))
  let l0 := f32Mul x.l c.1
  let o0 := x.o.map (fun o => f32Mul o c.1)
  let ws := scored.map (fun r => if mn = f32NegInf then (Num.zero false, 0) else
    let a := f32Sub r.1 mn
    let b := f32Exp2 a.1
    let e := encodeFloat fmtBF16 (f32Num b.1)
    (decodeFloat fmtBF16 e.1, Nat.lor (stepFlags a.2) (Nat.lor (stepFlags b.2) (stepFlags e.2))))
  let flags := (ws.map Prod.snd).foldl Nat.lor (Nat.lor flags (Nat.lor c.2 (stepFlags l0.2)))
  let flags := (o0.map (fun o => stepFlags o.2)).foldl Nat.lor flags
  let sum := fun (start : F32) (terms : List (Num × Num)) =>
    (groupsOf 32 (terms.length + 1) terms).foldl (fun (a : F32 × Nat) g =>
      let r := accGroup a.1 g
      (r.1, Nat.lor (stepFlags a.2) r.2)) (start, 0)
  let l := sum l0.1 (ws.map (fun y => (y.1, Num.fin 1 0)))
  let os := (rangeFrom 0 dim).map (fun e =>
    sum ((o0.getD e (0, 0)).1) (List.zipWith (fun (y : Num × Nat) (kv : List Num × List Num) => (y.1, kv.2.getD e (.zero false))) ws kvs))
  let all := (os.map Prod.snd).foldl Nat.lor l.2
  (⟨os.map Prod.fst, mn, l.1⟩, best.2, bitOf all 6, Nat.lor flags (stepFlags all))

/-- The live tokens of one page brought into every head's state; `rows` are their KV rows (R326, R331, R338). -/
def Dev.attCompute (d : Dev) (t : Nat) (s : Stage) (chained : Bool) (rows : List (List Byte)) (rowLen : Nat) : Dev :=
  let w := s.w
  let dim := attD w
  let half := attRow w / 2
  let scale := dBits w 3 0 32
  let kvs := rows.map (fun r => (readRow (dIn w) dim (r.take half), readRow (dIn w) dim (r.drop half)))
  let qs := d.attQueries t s chained
  let heads := List.zipWith (fun (q : List Num × Nat) x => attHead scale dim q.1 kvs x (bitOf (s.nums.getD 3 0) q.2))
    (qs.zip (rangeFrom 0 qs.length)) (d.attSofts t w chained)
  let read := readFlags ((qs.flatten ++ kvs.flatMap (fun kv => kv.1 ++ kv.2)))
  let mBits := (heads.zip (rangeFrom 0 heads.length)).foldl (fun n x => if x.1.2.1 then n + 2 ^ x.2 else n) 0
  let lastBit := if heads.any (fun x => x.2.2.1) then 1 else 0
  let flags := (heads.map (fun x => x.2.2.2)).foldl Nat.lor read
  let d := d.putSofts t w chained (heads.map Prod.fst)
  let d := (d.bumpBy Reg.ATTEND_TOKENS rows.length).bumpBy Reg.ATTEND_KV_BYTES (rows.length * rowLen)
  d.onStage t s.ix (fun s => { s with
    flags := Nat.lor s.flags flags, nums := [s.nums.getD 0 0, s.nums.getD 1 0, s.nums.getD 2 0, mBits, lastBit],
    result := min (2 ^ 40 - 1) (s.result % 2 ^ 40 + rows.length) + min (2 ^ 24 - 1) (s.result / 2 ^ 40 + 1) * 2 ^ 40 })

/-- An entry is done: its states go out, heads in order, and the next entry follows (R325, R329, R330). -/
def Dev.attFinish (d : Dev) (t : Nat) (s : Stage) (chained : Bool) : Dev × Bool :=
  let w := s.w
  let e := lenEntry (s.blobs.headD [])
  let port := if bitOf (dF w 3) 41 then some (dBits w 3 32 9) else none
  let softs := d.attSofts t w chained
  let d := d.each (softs.zip (rangeFrom 0 softs.length)) (fun d x =>
    d.write t s.ix port (dF w 4 + (s.ent * attG w + x.2) * attState w) x.1.bytes)
  let d := (d.bumpBy Reg.ATTEND_STATES softs.length).bumpBy Reg.ATTEND_MASKED (e.len - s.nums.getD 2 0)
  let inexact := if s.nums.getD 3 0 != 0 || s.nums.getD 4 0 != 0 then nfInexact else 0
  (d.onStage t s.ix (fun s => { s with
    ent := s.ent + 1, blobs := [], nums := [s.nums.headD 0], flags := Nat.lor s.flags inexact,
    fin := s.fin || decide (dBits w 1 0 17 ≤ s.ent + 1) }), true)

/-- One page of the entry is passed; after its last the entry is done. -/
def Dev.attPassed (d : Dev) (t ix : Nat) (chained : Bool) (total live : Nat) : Dev × Bool :=
  let d := d.onStage t ix (fun s => { s with
    step := s.step + 1,
    nums := [s.nums.headD 0 + (if chained then 1 else 0), s.nums.getD 1 0 + 1, s.nums.getD 2 0 + live, s.nums.getD 3 0, s.nums.getD 4 0] })
  match d.stageAt t ix with
  | some s => if total ≤ s.nums.getD 1 0 then d.attFinish t s chained else (d, true)
  | none => (d, true)

/-- The bytes of some lines that belong to no row, of `row` bytes, at these slots (R324). -/
def deadBytes (row : Nat) (slots lines : List Nat) : Nat :=
  sumBy (fun l => 64 - sumBy (fun sl => min (sl * row + row) (64 * l + 64) - max (sl * row) (64 * l)) slots) lines

/-- A page of an entry in a chain: the next landed page (R314), whose bytes of no live token count (R338; assumption log 160). -/
def Dev.attChained (d : Dev) (t : Nat) (s : Stage) (e : LenEntry) (mask : List Byte) : Dev × Bool :=
  let w := s.w
  let pages := entryPages w e
  match pages[s.nums.getD 1 0]? with
  | none => d.attFinish t s true
  | some p =>
    let i := s.nums.headD 0
    let toks := pageTokens w e mask p
    if d.stagePages t s ≤ i then d.failStep t s.ix 1 1 else
    match d.chainPage t s i with
    | .here b =>
      let shadowed := d.outcomeOf t (i + 1) == 1
      let row := if shadowed then shadowRowBytes (attD w) else attRow w
      let d := d.bumpBy Reg.ATTEND_OVERREAD ((if shadowed then attQ w * row else b.length) - toks.length * row)
      let d := if toks = [] then d else
        d.attCompute t s true (toks.map (fun x => (b.drop (x.2 * attRow w)).take (attRow w))) row
      d.attPassed t s.ix true pages.length toks.length
    | .skip => d.attPassed t s.ix true pages.length toks.length
    | .hole => d.attPassed t s.ix true pages.length 0
    | _ => (d, false)

/-- The pieces of a page that ATTEND reads: its live lines (R324). -/
def attPieces (w : List Nat) (a : Nat) (slots : List Nat) : List (Nat × Nat) := (liveLines (attRow w) slots).map (fun l => (a + 64 * l, 64))

/-- A page of an entry read by ATTEND's own walk (R324, R326, R333), with the pages behind it read ahead. -/
def Dev.attWalked (d : Dev) (t : Nat) (s : Stage) (e : LenEntry) (mask : List Byte) : Dev × Bool :=
  let w := s.w
  let log := dBits w 1 40 5
  let table := (keptPages w ((s.blobs.getD 2 []).length / 16) (s.blobs.getD 2 [])).filterMap (fun x => match x.2 with
    | .page a => some (x.1, a)
    | _ => none)
  let k := s.nums.getD 1 0
  match table[k]? with
  | none => d.attFinish t s false
  | some (p, a) =>
    let toks := pageTokens w e mask p
    let slots := toks.map Prod.snd
    let d := d.each ((table.drop (k + 1)).take (dLook w - 1)) (fun d y =>
      d.ahead t s.ix (attKey s.ent y.1) (dMiss w) (attPieces w y.2 ((pageTokens w e mask y.1).map Prod.snd)))
    let lines := liveLines (attRow w) slots
    let key := attKey s.ent p
    let (d, g) := d.pageGot t s.ix key p (dMiss w) a (2 ^ log) (attPieces w a slots)
      (fun x => (liveLines (shadowRowBytes x.d) slots).map (fun l => (64 * l, 64)))
    match g with
    | .data bs =>
      let d := d.each (lines.zip (rangeFrom 0 lines.length)) (fun d x =>
        d.writeSpa t (dBits w 3 42 21 + k % dLook w * 2 ^ log + x.1 * 64) ((bs.drop (64 * x.2)).take 64))
      let used := ((d.runAt t).map (fun r => (r.items.filter (fun i => i.page == usedKey)).map Item.addr)).getD []
      let fresh := lines.filter (fun l => decide (a + 64 * l ∉ used))
      let d := (d.bumpBy Reg.ATTEND_OVERREAD (deadBytes (attRow w) slots fresh)).keepLines t key
      let d := d.attCompute t s false (slots.map (fun sl => rowFrom lines bs (sl * attRow w) (attRow w))) (attRow w)
      d.attPassed t s.ix false table.length toks.length
    | .shadow x =>
      let image := d.expandSlots x (dIn w) slots
      let sr := shadowRowBytes x.d
      let d := d.bumpBy Reg.ATTEND_OVERREAD (64 * (liveLines sr slots).length - slots.length * sr)
      let d := d.onStage t s.ix (fun s => { s with flags := Nat.lor s.flags image.2 })
      let d := (match d.stageAt t s.ix with
        | some s => d.attCompute t s false image.1 sr
        | none => d)
      d.attPassed t s.ix false table.length toks.length
    | .skip => d.attPassed t s.ix false table.length toks.length
    | .wait => (d, false)
    | .bad c => d.failStep t s.ix c 1

/-- ATTEND (R326): the next page that holds a live token of the entry being served, after the entry has been read; with the entry's
last page its states go out. A SCORE_SCALE that is NaN or infinite shows in its flags from the start (R328). -/
def Dev.attendStep (d : Dev) (t : Nat) (s : Stage) : Dev × Bool :=
  let chained := (d.prevStage t s.ix).isSome
  let before := d.tableBytes t s.ix
  let d := d.onStage t s.ix (fun s => { s with flags := Nat.lor s.flags (readFlags [f32Num (dBits s.w 3 0 32)]) })
  let (d, ready) := if s.blobs = [] then d.loadEntry t s chained else (d, true)
  let d := d.when (before < d.tableBytes t s.ix) (fun d => d.bumpBy Reg.ATTEND_TABLE_BYTES (d.tableBytes t s.ix - before))
  match d.stageAt t s.ix with
  | none => (d, false)
  | some s =>
    if s.fin then (d, true) else if !ready then (d, false) else
    let e := lenEntry (s.blobs.headD [])
    let mask := s.blobs.getD 1 []
    if chained then d.attChained t s e mask else d.attWalked t s e mask

end Sys2Proof.Machine
end

