-- ==== Sys2Proof/Machine/GrtWire.lean ====
section
/-! DEFINITION. GRT frames on the wire (R382 to R387): what the T9 builds, what it reads, and the checks that need no context. -/
namespace Sys2Proof.Machine

/-- A number in network byte order. -/
def wireBytes (n v : Nat) : List Byte := (natBytes n v).reverse

/-- A number read in network byte order. -/
def wireNat (bs : List Byte) (off n : Nat) : Nat := bytesNat ((bs.drop off).take n).reverse

/-- The 16-bit words of bytes, in network order, summed. -/
def wordSum : Nat → List Byte → Nat
  | 0, _ => 0
  | _ + 1, [] => 0
  | _ + 1, [b] => b.toNat * 256
  | n + 1, a :: b :: rest => a.toNat * 256 + b.toNat + wordSum n rest

/-- The ones' complement fold of a sum into 16 bits. -/
def foldSum (s : Nat) : Nat :=
  let s := s % 65536 + s / 65536
  let s := s % 65536 + s / 65536
  s % 65536 + s / 65536

/-- The UDP checksum over the IPv6 pseudo-header (R382), of a datagram whose checksum field holds zero. -/
def udpSum (src dst : List Byte) (datagram : List Byte) : Nat :=
  let s := wordSum 64 (src ++ dst ++ wireBytes 4 datagram.length ++ wireBytes 4 17) + wordSum (datagram.length + 1) datagram
  let c := 65535 - foldSum s
  if c = 0 then 65535 else c

/-- The GRT header (R385). -/
structure GHead where
  op : Nat
  flags : Nat
  status : Nat
  nak : Nat
  dst : Nat
  src : Nat
  psn : Nat
  offset : Nat
  length : Nat
  reg : Nat
  repoch : Nat
  ctr : Nat
  ctrKind : Nat
  deriving DecidableEq, Repr

/-- A GRT header as its 40 bytes (R385). -/
def GHead.bytes (h : GHead) : List Byte :=
  natBytes 1 1 ++ natBytes 1 h.op ++ natBytes 1 h.flags ++ natBytes 1 (h.status + h.nak * 32) ++ natBytes 4 h.dst ++ natBytes 4 h.src ++
    natBytes 4 h.psn ++ natBytes 8 h.offset ++ natBytes 4 h.length ++ natBytes 4 h.reg ++ natBytes 2 h.repoch ++ natBytes 2 h.ctr ++
    natBytes 1 h.ctrKind ++ natBytes 3 0

/-- STATUS as byte 3 of a header carries it; a reserved value counts as POISON from its receipt (R18). -/
def gStatus (b : Nat) : Nat := if b % 32 ≤ 0x0A then b % 32 else 1

/-- A GRT header read from its bytes. -/
def gHead (bs : List Byte) : GHead :=
  let f := fieldBytes bs
  ⟨f 1 1, f 2 1, gStatus (f 3 1), f 3 1 / 32, f 4 4 % 2 ^ 20, f 8 4 % 2 ^ 20, f 12 4 % 2 ^ 24, f 16 8 % 2 ^ 52, f 24 4, f 28 4 % 2 ^ 24, f 32 2,
   f 34 2, f 36 1 % 4⟩

/-- Whether VERSION, OPCODE, the zero fields and the payload length of a header are as R385 to R387 require (R384); the PMTU of the
context is checked with the context. -/
def gHeadOk (bs : List Byte) (payload : Nat) : Bool :=
  let f := fieldBytes bs
  let h := gHead bs
  let ackNak := h.op == 0x10 || h.op == 0x11
  let req := h.op == 1 || h.op == 2
  f 0 1 == 1 && (decide (1 ≤ h.op ∧ h.op ≤ 3) || ackNak) && !bitOf h.flags 3 && fieldOf h.flags 4 2 != 3 && decide (f 4 4 < 2 ^ 20) &&
    decide (f 8 4 < 2 ^ 20) && decide (f 12 4 < 2 ^ 24) && decide (f 16 8 < 2 ^ 52) && decide (f 28 4 < 2 ^ 24) && decide (f 36 1 < 3) &&
    f 37 3 == 0 &&
    (h.op == 0x11 || h.nak == 0) && (h.op == 3 || h.op == 0x11 || h.status == 0) && (h.op != 0x11 || decide (h.nak ≤ 4)) &&
    (!ackNak || (h.offset == 0 && h.reg == 0 && h.repoch == 0 && h.ctr == 0)) &&
    (if req then decide (1 ≤ h.length ∧ h.length ≤ 0x100_0000) && decide (h.reg < 65536) else h.length == 0) &&
    (h.op == 1 || h.ctrKind == 0) &&
    (match h.op with
     | 1 => decide (1 ≤ payload ∧ payload ≤ 8192)
     | 3 => if h.status = 0 then decide (1 ≤ payload ∧ payload ≤ 8192) else payload == 0
     | _ => payload == 0)

/-- A GRT packet as received: its PCP, VID and DSCP, source MAC and address, header, payload, and the uplink it came by. -/
structure GIn where
  port : Nat
  pcp : Nat
  vid : Nat
  dscp : Nat
  mac : Nat
  ip : List Byte
  head : GHead
  payload : List Byte
  deriving DecidableEq, Repr

/-- Where the frame's EtherType stands: 16 behind an 802.1Q tag, else 12. -/
def etherAt (bs : List Byte) : Nat := if wireNat bs 12 2 = 0x8100 then 16 else 12

/-- Whether a frame is a PFC frame (IEEE 802.1Qbb). -/
def isPfc (bs : List Byte) : Bool := bytesNat ((bs.take 6).reverse) == 0x0180C2000001 && wireNat bs 12 2 == 0x8808 && wireNat bs 14 2 == 0x0101

/-- Whether a frame without its FCS is addressed as a GRT packet for an uplink (R384). -/
def Dev.grtAddressed (d : Dev) (p : Nat) (bs : List Byte) : Bool :=
  let e := etherAt bs
  let ip := bs.drop (e + 2)
  wireNat bs e 2 == 0x86DD && decide (e + 2 + 48 ≤ bs.length) && fieldBytes ip 0 1 / 16 == 6 && fieldBytes ip 6 1 == 17 &&
    fieldBytes bs 0 6 == d.get (Reg.UPL_MAC_MAC p) &&
    decide ((ip.drop 24).take 16 = natBytes 8 (d.reg (Reg.UPL_IP_LO p)) ++ natBytes 8 (d.reg (Reg.UPL_IP_HI p))) &&
    wireNat ip 42 2 == d.get Reg.GRT_CFG_UDP_PORT

/-- Whether the IPv6 and UDP lengths agree and the UDP checksum holds (R384). -/
def grtSound (bs : List Byte) : Bool :=
  let ip := bs.drop (etherAt bs + 2)
  let n := wireNat ip 4 2
  let udp := (ip.drop 40).take n
  let zeroed := udp.take 6 ++ [0#8, 0#8] ++ udp.drop 8
  decide (n + 40 ≤ ip.length) && n == wireNat ip 44 2 && decide (48 ≤ n) &&
    wireNat ip 46 2 == udpSum ((ip.drop 8).take 16) ((ip.drop 24).take 16) zeroed

/-- A GRT packet read from its frame. -/
def grtPacket (p : Nat) (bs : List Byte) : GIn :=
  let e := etherAt bs
  let ip := bs.drop (e + 2)
  let n := wireNat ip 4 2
  let tag := if e = 16 then wireNat bs 14 2 else 0
  ⟨p, tag / 8192, tag % 4096, wireNat ip 0 4 / 2 ^ 22 % 64, fieldBytes bs 6 6, (ip.drop 8).take 16, gHead (ip.drop 48), (ip.drop 88).take (n - 48)⟩

/-- A GRT frame as it goes on from its receipt: a reserved STATUS has become POISON (R18). The checksum stays as it came. -/
def grtReceived (bs : List Byte) : List Byte :=
  let i := etherAt bs + 2 + 48 + 3
  bs.take i ++ ((bs.drop i).take 1).map (fun b => BitVec.ofNat 8 (gStatus b.toNat + b.toNat / 32 * 32)) ++ bs.drop (i + 1)

/-- A frame without its FCS (R382): destination MAC, tag, addresses and the GRT header with its payload. -/
def Dev.grtFrame (d : Dev) (p mac pcp vid dscp ctx : Nat) (ip : List Byte) (h : GHead) (payload : List Byte) : List Byte :=
  let src := natBytes 8 (d.reg (Reg.UPL_IP_LO p)) ++ natBytes 8 (d.reg (Reg.UPL_IP_HI p))
  let body := h.bytes ++ payload
  let n := 8 + body.length
  let udp := fun (c : Nat) => wireBytes 2 (0xC000 + ctx % 2 ^ 14) ++ wireBytes 2 (d.get Reg.GRT_CFG_UDP_PORT) ++ wireBytes 2 n ++ wireBytes 2 c ++ body
  natBytes 6 mac ++ natBytes 6 (d.get (Reg.UPL_MAC_MAC p)) ++ wireBytes 2 0x8100 ++ wireBytes 2 (pcp * 8192 + vid) ++ wireBytes 2 0x86DD ++
    wireBytes 4 (6 * 2 ^ 28 + dscp * 4 * 2 ^ 20 + ctx) ++ wireBytes 2 n ++ natBytes 1 17 ++ natBytes 1 (d.get Reg.GRT_CFG_HOP_LIMIT) ++
    src ++ ip ++ udp (udpSum src ip (udp 0))

/-- Whether a priority of an uplink is being discarded after a storm, until its pause ends (R409). -/
def Dev.stormy (d : Dev) (p prio : Nat) : Bool :=
  d.flag Reg.GRT_CFG_PFC_WD_DROP && d.paused p prio && decide (p * 8 + prio ∈ d.grt.storms)

/-- The engine of an uplink's core die sends a frame toward it (R165); one for a priority in a storm is discarded (R409). -/
def Dev.grtEmit (d : Dev) (p tc dom : Nat) (bytes : List Byte) : Dev :=
  if d.stormy p tc then (d.bump (Reg.SLAG_AGED p tc)).bump Reg.SLAG_AGED_ALL
  else d.send (.grt (d.portDie p)) (.port p) 6 tc ⟨.eth bytes, d.time, dom, false, 0⟩

/-- A pause of a priority has ended: the RTO of every context that sends at it has stood still meanwhile (R399), and a storm is over
(R409). -/
def Dev.pauseEnds (d : Dev) (p prio : Nat) : Dev :=
  let key := p * 8 + prio
  match Tab.find? d.grt.pauses key with
  | none => d
  | some (since, until_) =>
    let later := fun (t : Nat) => t + (min d.time until_ - max since t)
    let field := fun (r : List Byte) (off n : Nat) => fieldBytes r off n
    let on := fun (x : GCtx) => field x.rec_ 2 2 % 512 == p && fieldOf (field x.rec_ 30 2) 12 3 == prio
    { d with grt := { d.grt with
      pauses := Tab.del d.grt.pauses key, storms := d.grt.storms.filter (fun k => k != key),
      ctxs := d.grt.ctxs.map (fun c => if on c.2 then (c.1, { c.2 with times := c.2.times.map (fun t => (t.1, later t.2)) }) else c) } }

/-- A received pause of the enabled priorities of an uplink (R408): a quantum is 512 bit times of the interface. -/
def Dev.takePfc (d : Dev) (p : Nat) (bs : List Byte) : Dev :=
  if !(d.isRole p 2) then d else
  let d := d.bump (Reg.UPL_PFC_RX p)
  let vec := wireNat bs 16 2
  let per := if d.width p = 8 then 8 else 16
  d.each ((rangeFrom 0 8).filter (fun i => bitOf vec i && bitOf (d.get (Reg.UPL_PFC_PFC_EN p)) i)) (fun d i =>
    let q := wireNat bs (18 + 2 * i) 2
    let key := p * 8 + i
    let d := if q = 0 || !(d.paused p i) then d.pauseEnds p i else d
    if q = 0 then d else
      let since := ((Tab.find? d.grt.pauses key).map Prod.fst).getD d.time
      { d with grt := { d.grt with pauses := Tab.ins d.grt.pauses key (since, d.time + ceilDiv (q * per) 25) } })

/-- PFC_PAUSE_EXPIRY: the quanta of a pause have run out. -/
def Dev.pauseExpiry (d : Dev) (p prio : Nat) : Dev :=
  if d.paused p prio then d else d.pauseEnds p prio

/-- PFC_WATCHDOG (R409): a priority paused for PFC_WD_MS without a break. Each frame discarded counts once, also one that waits for cells. -/
def Dev.pfcWatchdog (d : Dev) (p prio : Nat) : Dev :=
  let key := p * 8 + prio
  let ms := d.get Reg.GRT_CFG_PFC_WD_MS
  match Tab.find? d.grt.pauses key with
  | some x =>
    if ms = 0 || !(d.paused p prio) || decide (d.time < x.1 + ms * 1000000) || decide (key ∈ d.grt.storms) then d else
    let d := (d.post [0] 0x44 [p, prio]).bump Reg.PFC_STORMS
    let d := { d with grt := { d.grt with storms := d.grt.storms ++ [key] } }
    if !d.flag Reg.GRT_CFG_PFC_WD_DROP then d else
    let cells := d.sw.cells.filter (fun c => c.dst == .port p && c.tc == prio && c.cls == 6)
    let waits := fun (w : Waiting) => w.dst == .port p && w.tc == prio && w.cls == 6
    let n := (cells.filter (fun c => c.more == 0)).length + (d.sw.waiting.filter waits).length
    let d := { d with sw := { d.sw with waiting := d.sw.waiting.filter (fun w => !waits w) } }
    ((d.each cells Dev.dropCell).bumpBy (Reg.SLAG_AGED p prio) n).bumpBy Reg.SLAG_AGED_ALL n
  | none => d

/-- The cells queued from an uplink at a priority (R408). -/
def Dev.pfcCells (d : Dev) (p prio : Nat) : Nat := (d.sw.cells.filter (fun c => c.src == .port p && c.tc == prio)).length

/-- A PFC frame sent by an uplink (R408): it does not pass the Hearth. -/
def Dev.sendPfc (d : Dev) (p prio quanta : Nat) : Dev :=
  let bytes := padBytes 60 (wireBytes 6 0x0180C2000001 ++ natBytes 6 (d.get (Reg.UPL_MAC_MAC p)) ++ wireBytes 2 0x8808 ++ wireBytes 2 0x0101 ++
    wireBytes 2 (2 ^ prio) ++ (rangeFrom 0 8).flatMap (fun i => wireBytes 2 (if i = prio then quanta else 0)))
  let s : Staged := ⟨.eth bytes, 7, d.time, false, false⟩
  (d.onLink p (fun l => { l with staged := s :: l.staged })).bump (Reg.UPL_PFC_TX p)

/-- XOFF and XON of an uplink's enabled priorities by its queued cells (R408); `refresh` repeats an XOFF 10 µs after the last. -/
def Dev.pfcOn (d : Dev) (refresh : Bool) (p : Nat) : Dev :=
  d.each ((rangeFrom 0 8).filter (fun i => bitOf (d.get (Reg.UPL_PFC_PFC_EN p)) i)) (fun d i =>
    let key := p * 8 + i
    let n := d.pfcCells p i
    let mark := fun (d : Dev) => { d with grt := { d.grt with xoff := Tab.ins d.grt.xoff key d.time } }
    match Tab.find? d.grt.xoff key with
    | none => if d.get (Reg.UPL_PFC_XOFF_CELLS p) < n then mark (d.sendPfc p i 0xFFFF) else d
    | some t =>
      if n < d.get (Reg.UPL_PFC_XON_CELLS p) then { (d.sendPfc p i 0) with grt := { d.grt with xoff := Tab.del d.grt.xoff key } }
      else if refresh && decide (d.get (Reg.UPL_PFC_XON_CELLS p) < n) && decide (t + 10000 ≤ d.time) then mark (d.sendPfc p i 0xFFFF) else d)

/-- The uplinks whose priorities PFC guards. -/
def Dev.pfcPorts (d : Dev) : List Nat := (rangeFrom 0 512).filter (fun p => d.isRole p 2 && d.get (Reg.UPL_PFC_PFC_EN p) != 0)

/-- GRT_FRAME_RECEIVE (R166, R211, R384): a PFC frame, which the policer ignores, is acted on or found bad where it arrives; any other frame
meets the policer at its lookup and goes to the engine of its uplink's core die in the class of its tag. `bad` tells a frame that its PCS
could not deliver whole. -/
def Dev.grtFrameReceive (d : Dev) (p : Nat) (frame : List Byte) (bad : Bool) : Dev :=
  if !(d.isRole p 2) || d.linkState p != 4 then d else
  let d := d.bump (Reg.FRAMES_IN p)
  let n := frame.length - 4
  let bs := frame.take n
  let good := !bad && decide (4 ≤ frame.length) && bytesNat (frame.drop n) == crc32 bs
  if isPfc bs then (if good then d.takePfc p bs else d.bump Reg.SLAG_GRT_BAD)
  else
    let (act, d) := d.police p frame.length
    if act = 3 then d.bump (Reg.SLAG_POLICED p) else
    let tc := if act = 2 then d.get (Reg.POL_CFG_REMARK_TC p) else if etherAt bs = 16 then wireNat bs 14 2 / 8192 else 0
    d.send (.port p) (.grt (d.portDie p)) 6 tc ⟨.grtIn bs good, d.time, 0, false, 0⟩

end Sys2Proof.Machine
end

