-- ==== Sys2Proof/Machine/Grt.lean ====
section
/-! DEFINITION. GRT contexts, their cache and the sender (R389 to R396, R398, R399, R402, R410). -/
namespace Sys2Proof.Machine

/-- A field of a context record (R390). -/
def GCtx.f (c : GCtx) (off n : Nat) : Nat := fieldBytes c.rec_ off n
/-- DOMAIN. -/
def GCtx.dom (c : GCtx) : Nat := c.f 0 2 % 4096
/-- UPLINK. -/
def GCtx.uplink (c : GCtx) : Nat := c.f 2 2 % 512
/-- REMOTE_CTX. -/
def GCtx.remote (c : GCtx) : Nat := c.f 4 4 % 2 ^ 20
/-- TC. -/
def GCtx.tc (c : GCtx) : Nat := fieldOf (c.f 30 2) 12 3
/-- PMTU in bytes. -/
def GCtx.pmtu (c : GCtx) : Nat := 1024 * 2 ^ (c.f 33 1 % 4)
/-- BACKING_HOST. -/
def GCtx.hosted (c : GCtx) : Bool := bitOf (c.f 33 1) 2
/-- WINDOW. -/
def GCtx.window (c : GCtx) : Nat := c.f 34 2
/-- RTO in ns. -/
def GCtx.rto (c : GCtx) : Nat := c.f 44 2 * 1000

/-- When the oldest unacknowledged packet was last sent (R399). -/
def GCtx.unaAt (c : GCtx) : Nat := Tab.get 0 c.times c.una

/-- The context of a record just created (R390): nothing sent, nothing received. -/
def GCtx.fresh (rec_ : List Byte) (now : Nat) : GCtx :=
  let spsn := fieldBytes rec_ 36 4 % 2 ^ 24
  let epsn := fieldBytes rec_ 40 4 % 2 ^ 24
  { rec_ := rec_, state := 1, cached := false, fetching := none, used := now, next := spsn, una := spsn, sent := [], queue := [],
    resend := none, times := [], retries := 0, rnrs := 0, rnr := none, epsn := epsn, cpsn := (epsn + 2 ^ 24 - 1) % 2 ^ 24,
    nakAt := none, mac := 0, rx := [], since := 0, ackFrom := none, answers := [], cur := none, curNo := 0, curReg := 0, open_ := none, msgs := [],
    reads := [], serves := [], drain := none, cmd := none }

/-- A context. -/
def Dev.gctx (d : Dev) (c : Nat) : Option GCtx := Tab.find? d.grt.ctxs c

/-- A context changed. -/
def Dev.onCtx (d : Dev) (c : Nat) (f : GCtx → GCtx) : Dev :=
  match d.gctx c with
  | some x => { d with grt := { d.grt with ctxs := Tab.ins d.grt.ctxs c (f x) } }
  | none => d

/-- GRT_STAT follows the caches and the miss queue (R411). -/
def Dev.showGrt (d : Dev) : Dev :=
  let on := fun (die : Nat) => (d.grt.ctxs.filter (fun x => x.2.cached && d.portDie x.2.uplink == die)).length
  ((d.set Reg.GRT_STAT_CACHED_A (on 0)).set Reg.GRT_STAT_CACHED_B (on 1)).set Reg.GRT_STAT_MISSQ d.grt.missq.length

/-- A PSN is behind another (R397): it lies in the 2^23 values before it. -/
def psnBehind (a b : Nat) : Bool := decide (1 ≤ (b + 2 ^ 24 - a) % 2 ^ 24) && decide ((b + 2 ^ 24 - a) % 2 ^ 24 ≤ 2 ^ 23)

/-- Whether a cached context is pinned (R392). -/
def Dev.pinned (d : Dev) (c : Nat) (x : GCtx) : Bool :=
  x.sent != [] || x.queue != [] || x.rx != [] || x.serves != [] || x.reads.any (fun r => !r.done) || d.grt.asks.any (fun a => a.ctx == c)

/-- The address of a context in the GRT_BACK area (R392). -/
def Dev.ctxBack (d : Dev) (c : Nat) : Nat := d.areaBase 3 + 128 * c

/-- A context's record as its backing holds it: the record, STATE, and engine state that the spec does not lay out. -/
def Dev.ctxImage (d : Dev) (x : GCtx) : Dev × List Byte :=
  let (v, d) := d.fresh 608
  (d, padBytes 51 (x.rec_.take 51) ++ natBytes 1 x.state ++ natBytes 76 v)

/-- A context written to its backing (R392). -/
def Dev.ctxStore (d : Dev) (c : Nat) (x : GCtx) : Dev :=
  let (d, bs) := d.ctxImage x
  if x.hosted then
    match d.host.backing with
    | some b => d.toHost (.write 0 (b.1 + 128 * c) bs)
    | none => d
  else d.writeMem (d.ctxBack c) bs

/-- The state of a context, in its record in the backing too where no cache holds it (R390). -/
def Dev.ctxState (d : Dev) (c state : Nat) : Dev :=
  match d.gctx c with
  | none => d
  | some x =>
    let d := d.onCtx c (fun x => { x with state := state })
    if x.cached then d
    else if x.hosted then
      match d.host.backing with
      | some b => d.toHost (.write 0 (b.1 + 128 * c + 51) (natBytes 1 state))
      | none => d
    else d.writeMem (d.ctxBack c + 51) (natBytes 1 state)

/-- Room in the cache of a die's engine: the least recently used context that is not pinned is evicted for it (R392), and leaves GRT_STAT's
count. -/
def Dev.ctxRoom (d : Dev) (die : Nat) : Dev × Bool :=
  let mine := d.grt.ctxs.filter (fun x => (x.2.cached || x.2.fetching.isSome) && d.portDie x.2.uplink == die)
  if mine.length < 8192 then (d, true) else
  let free := mine.filter (fun x => x.2.cached && !d.pinned x.1 x.2)
  match free with
  | [] => (d, false)
  | v :: vs =>
    let v := vs.foldl (fun a b => if b.2.used < a.2.used then b else a) v
    (((d.ctxStore v.1 v.2).onCtx v.1 (fun c => { c with cached := false })).showGrt, true)

/-- The fetch of a context starts, if none is in flight and the cache has room (R392, R393, R395). -/
def Dev.startFetch (d : Dev) (c : Nat) : Dev :=
  match d.gctx c with
  | none => d
  | some x =>
    if x.cached || x.fetching.isSome then d else
    let (d, room) := d.ctxRoom (d.portDie x.uplink)
    if !room then d else
    let d := d.onCtx c (fun x => { x with fetching := some d.time })
    if !x.hosted then d else
    match d.host.backing with
    | some b => d.askHost (.grt (d.portDie x.uplink)) 0 x.tc 0 (b.1 + 128 * c) 128 [] (.context c)
    | none => d

/-- How the access of a tile that the engine of a context serves has ended (R165, R389): a read in the queue of what it has brought. -/
def Dev.tellTile (d : Dev) (die tile tag code : Nat) (read : Bool) : Dev :=
  let m := if read then mkMsg (headWord 1 0 0 (tag % tagSpace) (ownTc 2) false + code * 2 ^ 32) [] else rspMsg 0 (tag % tagSpace) (ownTc 2) code
  d.sendInner (.grt die) (.tile tile) m 0 (.came tag code [])

/-- A completion for the operator of a message (R389). -/
def Dev.endMessage (d : Dev) (x : GCtx) (m : GMessage) : Dev :=
  d.tellTile (d.portDie x.uplink) m.tile m.tag m.code (x.reads.any (fun r => r.msg == m.id))

/-- Messages of a context whose packets are all acknowledged, and whose read has landed, complete (R389). -/
def Dev.messagesDone (d : Dev) (c : Nat) : Dev :=
  match d.gctx c with
  | none => d
  | some x =>
    let landed := fun (m : GMessage) => match x.reads.find? (fun r => r.msg == m.id) with
      | some r => r.done
      | none => true
    let past := x.msgs.filter (fun m => m.left == 0 && landed m)
    if past = [] then d else
    let d := d.each past (fun d m => d.endMessage x m)
    d.onCtx c (fun x => { x with
      msgs := x.msgs.filter (fun m => !decide (m ∈ past)), reads := x.reads.filter (fun r => !past.any (fun m => m.id == r.msg)) })

/-- Uncommitted packets of messages that passed their check (R406): INFLIGHT of the registration shows them, saturating. -/
def Dev.regInflight (d : Dev) (h : Nat) (f : Nat → Nat) : Dev :=
  match Tab.find? d.grt.regs h with
  | none => d
  | some r =>
    let n := f r.flight
    ({ d with grt := { d.grt with regs := Tab.ins d.grt.regs h { r with flight := n } } }).set (Reg.GRT_REG_INFLIGHT h) (min 65535 n)

/-- A registration being revoked whose messages have all completed is FREE, and its domain is told (R406). -/
def Dev.regFreed (d : Dev) (h : Nat) : Dev :=
  match Tab.find? d.grt.regs h with
  | none => d
  | some r =>
    if d.get (Reg.GRT_REG_STATE h) = 2 && r.flight = 0 then
      let d := (d.set (Reg.GRT_REG_STATE h) 0).post [d.get (Reg.GRT_REG_DOMAIN h)] 0x43 [h, d.get (Reg.GRT_REG_REG_EPOCH h), r.naks]
      { d with grt := { d.grt with regs := Tab.del d.grt.regs h } }
    else d

/-- Packets of a passed message that will not be committed any more, or have been. -/
def Dev.regDone (d : Dev) (h n : Nat) : Dev := if n = 0 then d else (d.regInflight h (fun x => x - n)).regFreed h

/-- The packets of passed messages that a context still holds uncommitted, by registration (R406): the accepted ones of `rx`, the rest of the
message in progress, and the reads served. -/
def GCtx.owes (x : GCtx) (rx : List GRx) : List (Nat × Nat) :=
  let held := rx.filter (fun e => (e.pkt.op == 1 && (e.kind == 0 || e.kind == 4) && e.port != 512) ||
    (e.pkt.op == 2 && e.stage == 0))
  let rest := match x.cur with
    | some (left, false) => [(x.curReg, left)]
    | _ => []
  held.map (fun e => (e.pkt.reg, 1)) ++ rest ++ x.serves.map (fun s => (s.psn / 2 ^ 24, 1))

/-- Everything a context still owes its operators completes with POISON (R399), and of the messages it has received nothing more will come
(R406). -/
def Dev.dropMessages (d : Dev) (c : Nat) : Dev :=
  match d.gctx c with
  | none => d
  | some x =>
    let d := d.onCtx c (fun x => { x with
      msgs := [], reads := [], sent := [], queue := [], serves := [], resend := none, rnr := none, una := x.next, open_ := none,
      cur := x.cur.map (fun _ => (0, true)) })
    let d := d.each x.msgs (fun d m => d.endMessage x { m with code := worse 1 m.code })
    d.each (x.owes []) (fun d o => d.regDone o.1 o.2)

/-- A context enters ERROR (R395, R398, R399): 1 RETRY, 2 RNR, 3 FETCH. -/
def Dev.ctxError (d : Dev) (c cause : Nat) : Dev :=
  match d.gctx c with
  | none => d
  | some x =>
    let d := d.post [x.dom, 0] 0x42 [c, cause, x.una, x.f 36 4]
    (((d.dropMessages c).ctxState c 3).onCtx c (fun x => { x with fetching := none })).showGrt

/-- Parked packets of a context discarded without an answer (R395). -/
def Dev.dropParked (d : Dev) (c : Nat) : Dev :=
  let n := (d.grt.missq.filter (fun m => m.ctx == c)).length
  ({ d with grt := { d.grt with missq := d.grt.missq.filter (fun m => m.ctx != c) } }.bumpBy Reg.SLAG_GRT_NOCTX n).showGrt

/-- A draining context is freed: what it still owes completes with POISON, and the command that destroyed it completes (R399). -/
def Dev.freeCtx (d : Dev) (c : Nat) : Dev :=
  match d.gctx c with
  | none => d
  | some x =>
    let owed := { x with cur := none, serves := [] }.owes x.rx
    let d := (((d.dropMessages c).dropParked c).each owed (fun d o => d.regDone o.1 o.2)).ctxState c 0
    let d := { d with grt := { d.grt with ctxs := Tab.del d.grt.ctxs c } }
    let d := match x.cmd with
      | some cmd => d.completeOk cmd []
      | none => d
    d.showGrt

/-- Whether nothing is outstanding on a context. -/
def GCtx.quiet (x : GCtx) : Bool := x.sent == [] && x.rx == [] && x.reads.all (fun r => r.done || r.psn.isNone)

/-- CTX_DRAIN_TIMEOUT (R399): one RTO_US × RETRY_LIMIT of draining. -/
def Dev.drainTimeout (d : Dev) (c : Nat) : Dev :=
  match d.gctx c with
  | some x => (match x.drain with
    | some t => if t + x.rto * x.f 46 1 ≤ d.time then d.freeCtx c else d
    | none => d)
  | none => d

/-- The packets of a write message (R387, R398): PMTU bytes each but the last; ORD and SCOPE as asked. -/
def cutPackets (pmtu msg total : Nat) (a : RemoteAsk) : Nat → Nat → List Byte → List GPacket
  | 0, _, _ => []
  | k + 1, off, bs =>
    if bs = [] then [] else
    let first := if off = 0 then 1 else 0
    let last := if bs.length ≤ pmtu then 2 else 0
    let ord := match a.order with
      | some sc => 2 ^ 4 + sc * 2 ^ 6
      | none => 0
    ⟨0, msg, 1, first + last + ord, 0, a.offset + off, total, a.handle, a.epoch, a.ctr, a.ctrKind, bs.take pmtu⟩ ::
      cutPackets pmtu msg total a k (off + pmtu) (bs.drop pmtu)

/-- The core die whose engine serves a context (R390); one that does not exist is looked for at die A. -/
def Dev.ctxDie (d : Dev) (c : Nat) : Nat := ((d.gctx c).map (fun x => d.portDie x.uplink)).getD 0

/-- An operator's remote access becomes a message of its context (R387, R389); on a context that is not READY it fails. -/
def Dev.takeAsk (d : Dev) (a : RemoteAsk) : Dev :=
  match d.gctx a.ctx with
  | none => d.tellTile 0 a.tile a.tag 1 (!a.write)
  | some x =>
    if x.state != 1 then d.tellTile (d.portDie x.uplink) a.tile a.tag 1 (!a.write) else
    let id := d.grt.ids
    let d := { d with grt := { d.grt with ids := id + 1 } }
    let ord := match a.order with
      | some sc => 2 * 2 ^ 4 + sc * 2 ^ 6
      | none => 0
    let ps := if a.write then cutPackets x.pmtu id a.bytes.length a (a.bytes.length + 1) 0 a.bytes
      else [⟨0, id, 2, 3 + ord, 0, a.offset, a.len, a.handle, a.epoch, 0, 0, []⟩]
    let m : GMessage := ⟨id, a.tile, a.tag, ps.length, 0⟩
    let r : List GRead := if a.write then [] else [⟨id, none, a.len, 0, a.order.isSome, false⟩]
    d.onCtx a.ctx (fun x => { x with queue := x.queue ++ ps, msgs := x.msgs ++ [m], reads := x.reads ++ r })

/-- The operators' remote accesses go to their contexts, whose records are fetched if need be (R392). -/
def Dev.takeAsks (d : Dev) : Dev :=
  let asks := d.grt.asks
  let d := { d with grt := { d.grt with asks := [] } }
  d.each asks (fun d a => (d.takeAsk a).startFetch a.ctx)

/-- A packet of a context as a frame on its way to the uplink (R382, R385). -/
def Dev.sendPacket (d : Dev) (c : Nat) (x : GCtx) (p : GPacket) (mac : Nat) : Dev :=
  let nak := if p.op = 0x11 then fieldOf p.msg 0 3 else 0
  let h : GHead := ⟨p.op, p.flags, p.status, nak, x.remote, c, p.psn, p.offset, p.length, p.reg, p.repoch, p.ctr, p.ctrKind⟩
  d.grtEmit x.uplink x.tc x.dom
    (d.grtFrame x.uplink mac x.tc (x.f 30 2 % 4096) (x.f 32 1 % 64) c ((x.rec_.drop 8).take 16) h p.payload)

/-- An ACK (op 0x10), or a NAK (op 0x11) of a kind with its status (R385, R398). -/
def answerPacket (op kind status psn : Nat) : GPacket := ⟨psn, kind, op, 0, status, 0, 0, 0, 0, 0, 0, []⟩

/-- An ACK or NAK of a context, to the source MAC of the frame answered (R382). -/
def Dev.sendAnswer (d : Dev) (c : Nat) (p : GPacket) : Dev :=
  match d.gctx c with
  | some x => d.sendPacket c x p x.mac
  | none => d

/-- An ACK with PSN = CPSN (R398). -/
def Dev.sendAck (d : Dev) (c : Nat) : Dev :=
  match d.gctx c with
  | some x => (d.sendAnswer c (answerPacket 0x10 0 0 x.cpsn)).onCtx c (fun x => { x with since := 0, ackFrom := none })
  | none => d

/-- A NAK of kind SEQ with PSN = EPSN (R397). -/
def Dev.sendSeqNak (d : Dev) (c : Nat) : Dev :=
  match d.gctx c with
  | some x => ((d.sendAnswer c (answerPacket 0x11 0 0 x.epsn)).bump Reg.GRT_SEQ_NAK_TX).onCtx c (fun x => { x with nakAt := some d.time })
  | none => d

/-- The bytes the retransmit store holds (R396). -/
def Dev.retxBytes (d : Dev) : Nat := sumBy (fun x : Nat × GCtx => sumBy (fun p : GPacket => p.payload.length) x.2.sent) d.grt.ctxs

/-- Whether a context may send the new packet at the head of its queue (R392, R396, R398, R399, R402, R409). -/
def Dev.mayStart (d : Dev) (x : GCtx) (p : GPacket) : Bool :=
  x.state == 1 && decide (x.sent.length < x.window) &&
    decide (d.retxBytes + p.payload.length ≤ d.get Reg.GRT_CAP_RETX_MIB * 0x10_0000) &&
    !(x.reads.any (fun r => r.acquire && r.psn.isSome && !r.done)) &&
    (p.op != 2 || decide ((x.reads.filter (fun r => r.psn.isSome && !r.done)).length < x.f 50 1))

/-- The message that a packet belongs to (R387): a READ_RESP to the answer of its READ_REQ. -/
def GPacket.message (p : GPacket) : Nat × Nat := (p.op, if p.op = 3 then p.reg else p.msg)

/-- The new packet that a context sends next (R387, R396): while a message has begun and its last packet has not been sent, the next of
it. -/
def GCtx.head (x : GCtx) : Option GPacket :=
  match x.open_ with
  | some m => x.queue.find? (fun p => p.message == m)
  | none => x.queue.head?

/-- GRT_PACKET_SEND (R396, R398): the next packet of a context, resent ones first; nothing while not cached, and during an RNR wait only
what RTO resends before the wait's PSN (R398). -/
def Dev.packetSend (d : Dev) (c : Nat) : Dev :=
  match d.gctx c with
  | none => d
  | some x =>
    if !x.cached || x.state = 3 || d.linkState x.uplink != 4 then d else
    let waits := fun (p : GPacket) => match x.rnr with
      | some (w, _) => !psnBehind p.psn w
      | none => false
    let mac := x.f 24 6
    let touch := fun (psn : Nat) (y : GCtx) => { y with used := d.time, times := Tab.ins y.times psn d.time }
    match x.resend.bind (fun psn => x.sent.find? (fun p => !psnBehind p.psn psn)) with
    | some p =>
      if waits p then d else
      let after := x.sent.filter (fun q => psnBehind p.psn q.psn)
      let d := ((d.bump Reg.GRT_TX_PKTS).bump Reg.GRT_RETX_PKTS).sendPacket c x p mac
      d.onCtx c (fun y => touch p.psn { y with resend := (after.head?).map GPacket.psn })
    | none =>
      match x.head with
      | none => d.onCtx c (fun y => { y with resend := none })
      | some p =>
        if x.rnr.isSome || !(d.mayStart x p) then d.onCtx c (fun y => { y with resend := none }) else
        let half := x.sent.length + 1 == max 1 (x.window / 2)
        let ask := if half || bitOf p.flags 1 then Nat.lor p.flags 4 else p.flags
        let queued := p
        let p := { p with psn := x.next, flags := ask }
        let d := (d.bump Reg.GRT_TX_PKTS).sendPacket c x p mac
        d.onCtx c (fun y => touch p.psn { y with
          queue := dropFirst (fun q => decide (q = queued)) y.queue, open_ := if bitOf p.flags 1 then none else some p.message, sent := y.sent ++ [p], next := (y.next + 1) % 2 ^ 24, resend := none,
          reads := y.reads.map (fun r => if p.op = 2 && r.msg = p.msg then { r with psn := some p.psn } else r) })

/-- A packet acknowledged counts for its message. -/
def ackMessage (p : GPacket) (m : GMessage) : GMessage := if m.id = p.msg && p.op != 3 then { m with left := m.left - 1 } else m

/-- Every packet up to a PSN is acknowledged (R398, R399): UNA advances, the retry count clears, and so does the RNR count (assumption
log 166). -/
def Dev.ackUpTo (d : Dev) (c psn : Nat) : Dev :=
  d.onCtx c (fun x =>
    let got := x.sent.takeWhile (fun p => p.psn == psn || psnBehind p.psn psn)
    if got = [] then x else
    let sent := x.sent.drop got.length
    { x with
      sent := sent, una := match sent with
        | p :: _ => p.psn
        | [] => x.next,
      times := x.times.filter (fun t => sent.any (fun p => p.psn == t.1)), retries := 0, rnrs := 0, msgs := got.foldl (fun ms p => ms.map (ackMessage p)) x.msgs })

/-- GRT_ACK (R398, R399): the next ACK received on a context; one that lost to an RTO at the same moment is discarded. -/
def Dev.takeAck (d : Dev) (c : Nat) : Dev :=
  match d.gctx c with
  | none => d
  | some x =>
    match x.answers with
    | p :: rest =>
      if p.op != 0x10 then d else
      let d := d.onCtx c (fun x => { x with answers := rest, used := d.time })
      if x.retries != 0 && x.unaAt == d.time && x.sent != [] then (d.bump Reg.GRT_LATE_ACK).bump Reg.LATE_ITEMS
      else (d.ackUpTo c p.psn).messagesDone c
    | [] => d

/-- A packet refused for good (R398): it and the rest of its message are not sent again; those before it are committed, and stay outstanding
until an ACK covers them (assumption log 180). The read that a refused READ_RESP answers is over. -/
def Dev.finalNak (d : Dev) (c psn status : Nat) : Dev :=
  let over_ := match (d.gctx c).bind (fun x => (x.sent.find? (fun p => p.psn == psn)).map (fun p => (x, p))) with
    | some (x, p) => if p.op = 3 then x.serves.filter (fun s => s.psn % 2 ^ 24 == p.reg) else []
    | none => []
  let d := (d.onCtx c (fun x => { x with serves := x.serves.filter (fun s => decide (s ∉ over_)) })).each over_
    (fun d s => d.regDone (s.psn / 2 ^ 24) 1)
  let d := d.onCtx c (fun x =>
    match x.sent.find? (fun p => p.psn == psn) with
    | none => x
    | some bad =>
      let before := x.sent.takeWhile (fun p => p.psn != psn)
      let left := before ++ x.sent.drop (before.length + 1)
      let gone := (x.queue.filter (fun p => p.message == bad.message)).length
      let ms := x.msgs.map (ackMessage bad)
      let ms := ms.map (fun m => if m.id = bad.msg && bad.op != 3 then { m with left := m.left - gone, code := worse status m.code } else m)
      { x with
        sent := left, una := match left with
          | p :: _ => p.psn
          | [] => x.next,
        queue := x.queue.filter (fun p => p.message != bad.message), retries := if before = [] then 0 else x.retries, msgs := ms,
        open_ := if x.open_ = some bad.message then none else x.open_,
        times := x.times.filter (fun t => left.any (fun p => p.psn == t.1)),
        reads := x.reads.map (fun r => if r.msg = bad.msg && bad.op = 2 then { r with done := true } else r) })
  d.messagesDone c

/-- GRT_NAK (R398): the next NAK received on a context. -/
def Dev.takeNakG (d : Dev) (c : Nat) : Dev :=
  match d.gctx c with
  | none => d
  | some x =>
    match x.answers with
    | p :: rest =>
      if p.op != 0x11 then d else
      let d := d.onCtx c (fun x => { x with answers := rest, used := d.time })
      let kind := p.msg
      if !(x.sent.any (fun q => q.psn == p.psn)) then d.bump Reg.GRT_NAK_IGNORED else
      match x.rnr, decide (kind ≤ 1) with
      | some (w, until_), true =>
        if psnBehind p.psn w then d.onCtx c (fun x => { x with rnr := some (p.psn, until_) }) else d.bump Reg.GRT_NAK_IGNORED
      | _, _ =>
        if kind = 0 then d.onCtx c (fun x => { x with resend := some p.psn })
        else if kind = 1 then
          let limit := x.f 47 1
          if limit != 0 && decide (limit < x.rnrs + 1) then d.ctxError c 2
          else d.onCtx c (fun x => { x with rnrs := x.rnrs + 1, resend := none, rnr := some (p.psn, d.time + x.f 48 2 * 1000) })
        else d.finalNak c p.psn (if kind = 2 then 8 else if kind = 3 then 1 else if p.status = 0 then 1 else p.status)
    | [] => d

/-- RNR_WAIT_EXPIRY (R398, R399): the resend starts at the first unacknowledged PSN at or after the RNR PSN. -/
def Dev.rnrExpiry (d : Dev) (c : Nat) : Dev :=
  match (d.gctx c).bind GCtx.rnr with
  | some (psn, until_) => if d.time < until_ then d else d.onCtx c (fun x => { x with rnr := none, resend := match x.resend with
      | some q => if psnBehind q psn then some q else some psn
      | none => some psn })
  | none => d

/-- When the RTO of a context ends (R399): RTO_US after the last sending of UNA, later by what the pause that ran out last has held. -/
def Dev.rtoDue (d : Dev) (x : GCtx) : Nat :=
  x.unaAt + x.rto + (match Tab.find? d.grt.pauses (x.uplink * 8 + x.tc) with
    | some (since, until_) => min d.time until_ - max since x.unaAt
    | none => 0)

/-- RTO_EXPIRY (R399): UNA is resent from, or the context has used its retries. The timer stands still while the priority is paused; it runs
on during an RNR wait, which holds back what is resent from its PSN on (assumption log 180). -/
def Dev.rtoExpiry (d : Dev) (c : Nat) : Dev :=
  match d.gctx c with
  | none => d
  | some x =>
    if x.sent = [] || x.state = 3 || d.paused x.uplink x.tc || decide (d.time < d.rtoDue x) then d
    else if x.f 46 1 < x.retries + 1 then d.ctxError c 1
    else (d.bump Reg.GRT_RTO).onCtx c (fun x => { x with
      retries := x.retries + 1, resend := some x.una, times := Tab.ins x.times x.una d.time })

/-- An answer of a context whose time has come: sent if the context is cached, else its fetch starts first (R392). -/
def Dev.answerDue (d : Dev) (c : Nat) (send : Dev → Dev) : Dev :=
  match d.gctx c with
  | some x => if x.cached then send d else (d.startFetch c).showGrt
  | none => d

/-- SEQ_NAK_RESEND (R397): 10 µs without EPSN. -/
def Dev.seqNakResend (d : Dev) (c : Nat) : Dev :=
  match (d.gctx c).bind GCtx.nakAt with
  | some t => if t + 10000 ≤ d.time then d.answerDue c (fun d => d.sendSeqNak c) else d
  | none => d

/-- ACK_DELAY_EXPIRY (R398). -/
def Dev.ackDelayExpiry (d : Dev) (c : Nat) : Dev :=
  match (d.gctx c).bind GCtx.ackFrom with
  | some t => if t + max 100 (d.get Reg.GRT_CFG_ACK_DELAY_NS) ≤ d.time then d.answerDue c (fun d => d.sendAck c) else d
  | none => d

/-- The domains with a context on an uplink (R410). -/
def Dev.uplinkFns (d : Dev) (p : Nat) : List Nat := 0 :: (d.grt.ctxs.filter (fun x => x.2.uplink == p)).map (fun x => x.2.dom)

/-- UPLINK_UP and UPLINK_DOWN (R381, R410): the PCS of an uplink becomes aligned, or loses its alignment. An analysis
port has no such event: its LINK_STAT.STATE is taken to stay 0 (assumption log 175). -/
def Dev.uplink (d : Dev) (p : Nat) (up : Bool) : Dev :=
  if !(d.isRole p 2) || (d.linkState p == 4) == up || (up && (!d.running || d.boot.halt || d.flag (Reg.LINK_CTL_DISABLE p))) then d else
  let d := d.set (Reg.LINK_STAT_WIDTH_NOW p) (if up then d.get (Reg.PORT_CFG_WIDTH_CODE p) else 0)
  (d.set (Reg.LINK_STAT_STATE p) (if up then 4 else 0)).post (d.uplinkFns p) (if up then 0x41 else 0x40) [p]

end Sys2Proof.Machine
end

