-- ==== Sys2Proof/Machine/LinkTimers.lean ====
section
/-! DEFINITION. The times and training events of a Glois port (R107, R116, R117, R122), and the register writes that move its state
(R126, R128). -/
namespace Sys2Proof.Machine

/-- Whether `n` ns have passed since `since`. -/
def Dev.passed (d : Dev) (since n : Nat) : Bool := decide (since + n ≤ d.time)

/-- 1 µs after a NAK without SEQ = E, the NAK is sent again (R117). -/
def Dev.nakResend (d : Dev) (p : Nat) : Dev :=
  match (d.link p).nakAt with
  | some t =>
    if d.passed t 1000 then (d.bump (Reg.NAK_TX p)).onLink p (fun l => { l with nakAt := some d.time, nakDue := true }) else d
  | none => d

/-- ACK_MAX_NS after a MSG flit was accepted, an ACK is owed (R116, R128). -/
def Dev.ackLimit (d : Dev) (p : Nat) : Dev :=
  match (d.link p).ackFrom with
  | some t =>
    if d.passed t (clampTo 50 1000 (d.get (Reg.LINK_CTL_ACK_MAX_NS p))) then d.onLink p (fun l => { l with ackDue := true }) else d
  | none => d

/-- The heartbeat period of a port in µs (R107, R128); a value outside 1 to 1,000 acts as the nearest bound (assumption log 175). -/
def Dev.hbPeriod (d : Dev) (p : Nat) : Nat := clampTo 1 1000 (d.get (Reg.LINK_CTL_HB_PERIOD_US p))

/-- HEARTBEAT_SEND (R107): a port in ACTIVE sends its next HEARTBEAT, with its FENCE_EPOCH. -/
def Dev.heartbeatSend (d : Dev) (p : Nat) : Dev :=
  let l := d.link p
  if !(d.isGlois p) || d.linkState p != 4 || (l.hbCount != 0 && !d.passed l.hbAt (d.hbPeriod p * 1000)) then d else
  let n := (l.hbCount + 1) % 2 ^ 32
  (d.onLink p (fun l => { l with hbAt := d.time, hbCount := n })).sendMsg .core p
    (heartbeatMsg n (d.get (Reg.PORT_FENCE_FENCE_EPOCH p))) 0

/-- Whether a port may leave DOWN (R122, R467, R512, R514): the part is RUNNING, and nothing holds the port. -/
def Dev.mayRise (d : Dev) (p : Nat) : Bool :=
  d.running && !d.boot.halt && !d.flag (Reg.LINK_CTL_DISABLE p) && !(d.link p).electrical

/-- PARTNER_SIGNAL_DETECT (R122): DOWN to EQUALIZE. -/
def Dev.partnerSignal (d : Dev) (p : Nat) : Dev :=
  if d.isGlois p && d.linkState p == 0 && d.mayRise p then d.enter p stEqualize else d

/-- EQUALIZE_DONE (R122): EQUALIZE to ALIGN; in RETRAIN the training part has ended. -/
def Dev.equalizeDone (d : Dev) (p : Nat) : Dev :=
  if !(d.isGlois p) then d
  else if d.linkState p = 1 then d.enter p stAlign
  else if d.linkState p = 6 then d.onLink p (fun l => { l with trained := true, syncs := 0 })
  else d

/-- EQUALIZE_TIMEOUT (R122). -/
def Dev.equalizeTimeout (d : Dev) (p : Nat) : Dev :=
  if d.linkState p == 1 && d.passed (d.link p).since 100_000_000 then d.fallDown p else d

/-- ALIGN_TIMEOUT (R122). -/
def Dev.alignTimeout (d : Dev) (p : Nat) : Dev :=
  if d.linkState p == 2 && d.passed (d.link p).since 1_000_000 then d.enter p stEqualize else d

/-- HELLO_TIMEOUT (R122): the port stays in HELLO. -/
def Dev.helloTimeout (d : Dev) (p : Nat) : Dev :=
  if d.linkState p == 3 && d.passed (d.link p).since 100_000 then d.set (Reg.LINK_STAT_HELLO_FAIL p) 1 else d

/-- RETRAIN_LIMIT_TIMEOUT (R122, R125); a limit of 0 acts as 1 (assumption log 175). -/
def Dev.retrainLimit (d : Dev) (p : Nat) : Dev :=
  if d.linkState p == 6 && d.passed (d.link p).since (max 1 (d.get (Reg.LINK_CTL_RETRAIN_LIMIT_MS p)) * 1_000_000) then d.fallDown p
  else d

/-- LINK_CTL.RETRAIN (R128): an ACTIVE Glois port enters RETRAIN. -/
def Dev.linkCtlRetrain (d : Dev) (p : Nat) : Dev :=
  if d.isGlois p && d.linkState p == 4 then d.goRetrain p else d

/-- LINK_CTL.DISABLE (R128): 1 holds the port in DOWN. -/
def Dev.linkCtlDisable (d : Dev) (p : Nat) (on : Bool) : Dev :=
  let d := d.set (Reg.LINK_CTL_DISABLE p) (if on then 1 else 0)
  if !on || d.linkState p = 0 then d
  else if d.isRole p 2 then d.uplink p false
  else d.fallDown p

/-- LANE_CTL.GO (R126, R129): a REMAP of a lane of an ACTIVE port onto a free assigned spare. On a port in another state, for a spare
that is not assigned or not free, and for a lane the port does not have or does not run, it does nothing (assumption log 175). -/
def Dev.laneCtlGo (d : Dev) (p lane spare : Nat) : Dev :=
  if d.isGlois p && d.linkState p == 4 && decide ((d.link p).base ≤ lane) && decide (lane < (d.link p).base + (d.link p).run) &&
      d.spareFree p spare then d.startRemap p lane spare false else d

/-- PARTNER_SIGNAL_LOSS (R463): an ACTIVE port falls to DOWN. -/
def Dev.partnerSignalLoss (d : Dev) (p : Nat) : Dev :=
  if d.isGlois p && d.linkState p == 4 then d.fallDown p else d

end Sys2Proof.Machine
end

