-- ==== Sys2Proof/Machine/GrtRx.lean ====
section
/-! DEFINITION. The GRT receiver (R393 to R395, R397, R398, R400 to R407): context checks, sequencing, writes and reads at the homes,
commits, and registrations. -/
namespace Sys2Proof.Machine

/-- The check of a message at its FIRST packet (R405): 0 passed, 2 REVOKED, 3 ACCESS, which is what a lost entry answers too (R449). -/
def Dev.regCheck (d : Dev) (x : GCtx) (h : GHead) : Nat :=
  let r := h.reg % 65536
  let range := (Tab.find? d.grt.regs r).getD ⟨0, 0, 0, 0, false⟩
  let live := d.get (Reg.GRT_REG_STATE r) == 1 && d.get (Reg.GRT_REG_REG_EPOCH r) == h.repoch
  if range.lost then 3
  else if !live then (if h.op = 1 then 2 else 3)
  else if d.get (Reg.GRT_REG_DOMAIN r) != x.dom || !bitOf (d.get (Reg.GRT_REG_ACCESS r)) (if h.op = 1 then 0 else 1) ||
    decide (range.len < h.offset + h.length) then 3
  else 0

/-- A revoke under way counts its NAK-REVOKED answers (R410). -/
def Dev.countNak (d : Dev) (h : Nat) : Dev :=
  match Tab.find? d.grt.regs h with
  | some r => if d.get (Reg.GRT_REG_STATE h) = 2 then { d with grt := { d.grt with regs := Tab.ins d.grt.regs h { r with naks := r.naks + 1 } } } else d
  | none => d

/-- The message of a context that a packet belongs to fails: if it is still in progress, none of its later packets will be committed
(R398, R400). -/
def Dev.failCurrent (d : Dev) (c : Nat) (p : GPacket) : Dev :=
  match d.gctx c with
  | none => d
  | some x => match x.cur with
    | some (left, false) =>
      if p.msg = x.curNo then (d.onCtx c (fun x => { x with cur := some (0, true) })).regDone p.reg left else d
    | _ => d

/-- The head of a packet as it is kept: with its NAK kind, or the number of the message that it belongs to. -/
def keepPacket (g : GIn) (msg : Nat) : GPacket :=
  let h := g.head
  ⟨h.psn, msg, h.op, h.flags, h.status, h.offset, h.length, h.reg, h.repoch, h.ctr, h.ctrKind, g.payload⟩

/-- A sequenced packet with PSN = EPSN is accepted (R397, R405): a WRITE or READ_REQ with FIRST is checked, and a packet of a failed
message is discarded. Stage 0 waits to be processed, 2 is over. -/
def Dev.acceptPacket (d : Dev) (c : Nat) (g : GIn) : Dev :=
  match d.gctx c with
  | none => d
  | some x =>
    let h := g.head
    let d := (d.bump Reg.GRT_RX_PKTS).onCtx c (fun x => { x with epsn := (x.epsn + 1) % 2 ^ 24, nakAt := none, used := d.time })
    let first := h.op != 3 && bitOf h.flags 0
    let no := if first then x.curNo + 1 else x.curNo
    let add := fun (d : Dev) (stage code kind : Nat) =>
      let e : GRx := ⟨keepPacket g no, if stage = 2 then 512 else g.port, stage, [], code, kind⟩
      d.onCtx c (fun x => { x with rx := x.rx ++ [e] })
    if h.op = 3 then add d 0 0 0
    else if first then
      let prev := (x.cur.map (fun q => if q.2 then 0 else q.1)).getD 0
      let d := (d.regDone x.curReg prev).onCtx c (fun x => { x with curNo := no, curReg := h.reg })
      match d.regCheck x h with
      | 0 =>
        let n := if h.op = 1 then ceilDiv h.length x.pmtu else 1
        add ((d.regInflight h.reg (fun v => v + n)).onCtx c (fun x => { x with cur := some (n - 1, false) })) 0 0 0
      | k =>
        let d := if k = 2 then (d.bump Reg.GRT_NAK_REVOKED_TX).countNak h.reg else d.bump Reg.GRT_ACCESS_DENIED
        add (d.onCtx c (fun x => { x with cur := some (0, true) })) 2 (if k = 2 then 8 else 1) k
    else
      match x.cur with
      | some (left, false) =>
        if left = 0 then add (d.bump Reg.SLAG_GRT_FAILED_MSG) 2 0 0
        else add (d.onCtx c (fun x => { x with cur := some (left - 1, false) })) 0 0 0
      | _ => add (d.bump Reg.SLAG_GRT_FAILED_MSG) 2 0 0

/-- A sequenced packet that has passed R384 meets the sequence of its context (R397). -/
def Dev.sequencePacket (d : Dev) (c : Nat) (g : GIn) : Dev :=
  match d.gctx c with
  | none => d
  | some x =>
    let d := d.onCtx c (fun x => { x with mac := g.mac })
    if g.head.psn = x.epsn then d.acceptPacket c g
    else if psnBehind g.head.psn x.epsn then (d.bump Reg.GRT_DUP_RX).sendAck c
    else if x.nakAt.isSome then d else d.sendSeqNak c

/-- Whether the payload of a packet is of a length that its opcode and the PMTU of its context allow (R384, R387). -/
def GCtx.lengthOk (x : GCtx) (g : GIn) : Bool :=
  let h := g.head
  let n := g.payload.length
  decide (n ≤ x.pmtu) && (h.op == 2 || decide (0x10 ≤ h.op) || bitOf h.flags 1 || n == x.pmtu || h.status != 0)

/-- Whether a context takes a packet (R384): READY, bound to its uplink and to its sender; one that is DRAINING takes what answers it, and
no write or read (R395, assumption log 72). -/
def GCtx.takes (x : GCtx) (g : GIn) : Bool :=
  (x.state == 1 || (x.state == 2 && decide (3 ≤ g.head.op))) && x.uplink == g.port && decide ((x.rec_.drop 8).take 16 = g.ip) &&
    x.remote == g.head.src

/-- A packet whose context is cached (R384, R397): its length against the PMTU, the context check, then sequencing, or the queue of ACKs and
NAKs. -/
def Dev.contextPacket (d : Dev) (g : GIn) : Dev :=
  let h := g.head
  match d.gctx h.dst with
  | none => d.bump Reg.SLAG_GRT_NOCTX
  | some x =>
    if !(x.lengthOk g) then d.bump Reg.SLAG_GRT_BAD
    else if !(x.takes g) then d.bump Reg.SLAG_GRT_NOCTX
    else if 0x10 ≤ h.op then d.onCtx h.dst (fun x => { x with answers := x.answers ++ [keepPacket g h.nak] })
    else d.sequencePacket h.dst g

/-- The answer to a packet that finds the miss queue full (R394): a NAK of kind RNR from the packet's own headers. -/
def Dev.rnrDrop (d : Dev) (g : GIn) : Dev :=
  let h : GHead := ⟨0x11, 0, 0, 1, g.head.src, g.head.dst, g.head.psn, 0, 0, 0, 0, 0, 0⟩
  let d := (d.bump Reg.SLAG_GRT_RNR_DROP).bump Reg.GRT_RNR_TX
  d.grtEmit g.port g.pcp 0 (d.grtFrame g.port g.mac g.pcp g.vid g.dscp g.head.dst g.ip h [])

/-- The miss queue has taken a packet (R410): its filling is posted, at most once a ms. -/
def Dev.missFull (d : Dev) : Dev :=
  let due := match d.grt.fullAt with
    | some t => decide (t + 1000000 ≤ d.time)
    | none => true
  if d.grt.missq.length < 4096 || !due then d else { (d.post [0] 0x45 [d.time]) with grt := { d.grt with fullAt := some d.time } }

/-- A packet whose headers are sound (R384, R393 to R395): taken, parked until its context is fetched, or dropped. Only the first packet
parked for a context counts a miss. -/
def Dev.enginePacket (d : Dev) (p : Nat) (bs : List Byte) : Dev :=
  let g := grtPacket p bs
  let c := g.head.dst
  match d.gctx c with
  | none => d.bump Reg.SLAG_GRT_NOCTX
  | some x =>
    if x.cached || x.state != 1 then d.contextPacket g
    else if 4096 ≤ d.grt.missq.length then d.rnrDrop g
    else
      let first := !(d.grt.missq.any (fun m => m.ctx == c)) && x.fetching.isNone
      let miss : Miss := ⟨c, p, bs⟩
      let d := ({ d with grt := { d.grt with missq := d.grt.missq ++ [miss] } }).missFull
      let d := d.when first (fun d => (d.bump Reg.GRT_CTX_MISS).when x.hosted (fun d => d.bump Reg.GRT_CTX_MISS_HOST))
      (d.startFetch c).showGrt

/-- A frame of an uplink at the engine of its die (R384): the checks in their order, up to those that need the context. -/
def Dev.engineFrame (d : Dev) (p : Nat) (bs : List Byte) (good : Bool) : Dev :=
  if !good then d.bump Reg.SLAG_GRT_BAD
  else if !(d.grtAddressed p bs) then d.bump (Reg.SLAG_REJECT p)
  else if !grtSound bs then d.bump Reg.SLAG_GRT_BAD
  else if !gHeadOk ((bs.drop (etherAt bs + 2)).drop 48) (grtPacket p bs).payload.length then d.bump Reg.SLAG_GRT_BAD
  else d.enginePacket p (grtReceived bs)

/-- A fetched context is installed (R393): its record is what its backing gave, and its parked packets are sequenced. -/
def Dev.installCtx (d : Dev) (c : Nat) (rec_ : List Byte) : Dev :=
  let d := d.onCtx c (fun x => { x with cached := true, fetching := none, used := d.time, rec_ := rec_.take 51 ++ x.rec_.drop 51 })
  let mine := d.grt.missq.filter (fun m => m.ctx == c)
  let d := { d with grt := { d.grt with missq := d.grt.missq.filter (fun m => m.ctx != c) } }
  (d.each mine (fun d m => d.contextPacket (grtPacket m.port m.frame))).showGrt

/-- A fetch has failed (R395, R450): the context enters ERROR and its parked packets are discarded. -/
def Dev.fetchFailed (d : Dev) (c : Nat) : Dev := (d.dropParked c).ctxError c 3

/-- CONTEXT_FETCH_DONE (R393): the fetch of a context backed by device memory completes, or fails (R450). -/
def Dev.contextFetchDone (d : Dev) (c : Nat) : Dev :=
  match d.gctx c with
  | some x => if x.fetching.isSome && !x.hosted then 
      (match d.readEcc (d.ctxBack c) 128 with
       | (d, some rec_) => d.installCtx c rec_
       | (d, none) => d.fetchFailed c) else d
  | none => d

/-- The host reads of a context's record that are under way are given up: what they bring comes late (R468). -/
def Dev.giveFetch (d : Dev) (c : Nat) : Dev :=
  { d with host := { d.host with reads := d.host.reads.map (fun r => if r.use = HostUse.context c then { r with use := .given c } else r) } }

/-- A record that the host has sent comes to its engine (R393, R395): installed, failed, or late, if its context waits for none (R468). -/
def Dev.ctxCame (d : Dev) (c : Nat) (got : Option (List Byte)) : Dev :=
  if !(((d.gctx c).map (fun x => x.hosted && x.fetching.isSome)).getD false) then d.bump Reg.LATE_ITEMS
  else match got with
  | some bs => d.installCtx c bs
  | none => d.fetchFailed c

/-- HOST_FETCH_LIMIT (R393, R411). -/
def Dev.hostFetchLimit (d : Dev) (c : Nat) : Dev :=
  match d.gctx c with
  | some x => (match x.fetching with
    | some t => if x.hosted && decide (t + max 1 (d.get Reg.GRT_CFG2_HOST_FETCH_LIMIT_US) * 1000 ≤ d.time) then
        (d.giveFetch c).fetchFailed c else d
    | none => d)
  | none => d

/-- Fetches that waited for a cache entry (R395), for parked packets and for what a context has to send or to hear of (R392, R399). -/
def Dev.retryFetches (d : Dev) : Dev :=
  let want := d.grt.missq.map Miss.ctx ++ (d.grt.ctxs.filter (fun x => x.2.queue != [] || x.2.sent != [] || x.2.rx != [])).map Prod.fst
  d.each (want.foldl addOnce []) (fun d c => d.startFetch c)

/-- An accepted packet changed. -/
def Dev.onRx (d : Dev) (c psn : Nat) (f : GRx → GRx) : Dev :=
  d.onCtx c (fun x => { x with rx := x.rx.map (fun e => if e.pkt.psn = psn then f e else e) })

/-- A request of a context at a home (R400, R403): class of the context's TC, cacheless. -/
def Dev.grtReq (d : Dev) (c tag tc dom ppa : Nat) (op : HomeOp) (data : List Byte) (mask : Nat) : HomeReq :=
  { who := .grt c, tag := tag, op := op, dom := dom, ppa := ppa / 64 * 64, count := 0, first := ppa / 64 * 64, data := data, mask := mask,
    tc := tc, ctrKind := 0, ctr := 0, epoch := d.epoch, no := 0, parity := 0, gen := none }

/-- The next number of GRT's messages and lines. -/
def Dev.grtId (d : Dev) : Nat × Dev := (d.grt.ids, { d with grt := { d.grt with ids := d.grt.ids + 1 } })

/-- The lines of a packet's payload written at the homes (R400): WR_LINE for whole lines, WR_PART at partial ones. -/
def Dev.writeLines (d : Dev) (c : Nat) (x : GCtx) (psn : Nat) : Nat → Nat → List Byte → Dev
  | 0, _, _ => d
  | k + 1, dpa, bs =>
    if bs = [] then d else
    let n := 64 - dpa % 64
    let part := bs.take n
    let whole := part.length == 64
    let op : HomeOp := if whole then .wrLine else .wrPart
    let (d, r) := d.checkPool (.grt c) x.dom dpa false op
    let d := match r with
      | .fail s => d.onRx c psn (fun e => { e with code := worse s e.code })
      | .remote _ => (d.bump Reg.ACCESS_DENIED).onRx c psn (fun e => { e with code := worse 1 e.code })
      | .pass ppa =>
        let (id, d) := d.grtId
        let off := ppa % 64
        let data := if whole then part else padBytes 64 (List.replicate off 0#8 ++ part)
        (d.onRx c psn (fun e => { e with lines := e.lines ++ [id] })).askHome
          (d.grtReq c id x.tc x.dom ppa op data ((2 ^ part.length - 1) * 2 ^ off))
    d.writeLines c x psn k (dpa + n) (bs.drop n)

/-- A write whose homes have all answered (R400, R401): committed with its counter, or failed with a NAK of kind DATA. -/
def Dev.writeDone (d : Dev) (c psn : Nat) : Dev :=
  match d.gctx c with
  | none => d
  | some x =>
    match x.rx.find? (fun e => e.pkt.psn == psn && e.stage == 1 && e.lines == []) with
    | none => d
    | some e =>
      let p := e.pkt
      let d := d.onRx c psn (fun e => { e with stage := 2, kind := if e.code = 0 then 0 else 4 })
      if e.code = 0 then
        match counterId p.ctrKind p.ctr with
        | some id => d.countArrival id x.dom (d.ctrGen id) ⟨256, none, p.payload.length⟩
        | none => d
      else d.failCurrent c p

/-- The next packet accepted and not yet processed. -/
def GCtx.nextRx (x : GCtx) : Option GRx := x.rx.find? (fun e => e.stage == 0)

/-- Whether every packet before one has committed. -/
def GCtx.alone (x : GCtx) (e : GRx) : Bool := (x.rx.takeWhile (fun q => q.pkt.psn != e.pkt.psn)).all (fun q => q.stage == 2)

/-- Whether the word of a registration is lost in both copies (R449). -/
def Dev.regLost (d : Dev) (h : Nat) : Bool := ((Tab.find? d.grt.regs h).map RegRange.lost).getD true

/-- WRITE (R400, R402): the next accepted packet's payload goes to its homes; a release waits until every earlier packet has
committed. One whose registration is lost is refused with POISON (R449). -/
def Dev.grtWrite (d : Dev) (c : Nat) : Dev :=
  match d.gctx c with
  | none => d
  | some x =>
    match x.nextRx with
    | none => d
    | some e =>
      let p := e.pkt
      if p.op != 1 || (fieldOf p.flags 4 2 == 1 && !x.alone e) then d else
      let base := ((Tab.find? d.grt.regs p.reg).map RegRange.base).getD 0
      let d := d.onRx c p.psn (fun e => { e with stage := 1 })
      if d.regLost p.reg then (d.onRx c p.psn (fun e => { e with code := 1 })).writeDone c p.psn else
      (d.writeLines c x p.psn (p.payload.length + 1) (base + p.offset) p.payload).writeDone c p.psn

/-- READ_RESP packets cut from what a read has gathered (R403): PMTU bytes each, the rest with the last. -/
def Dev.cutResp (d : Dev) (c : Nat) (x : GCtx) (s : GServe) (past : Bool) : Nat → List Byte → Nat → Dev × Nat
  | 0, _, sent => (d, sent)
  | k + 1, bs, sent =>
    let n := bs.length
    if n < x.pmtu && !(past && n != 0) then (d, sent) else
    let part := bs.take x.pmtu
    let first := if sent = 0 then 1 else 0
    let last := if past && decide (n ≤ x.pmtu) then 2 else 0
    let p : GPacket := ⟨0, 0, 3, first + last, 0, sent * x.pmtu, 0, s.psn % 2 ^ 24, 0, 0, 0, part⟩
    (d.onCtx c (fun y => { y with queue := y.queue ++ [p] })).cutResp c x s past k (bs.drop x.pmtu) (sent + 1)

/-- A read served ends with one READ_RESP that carries a code and no payload (R387, R403): the first of its message only if no other has gone
before. -/
def Dev.failServe (d : Dev) (c : Nat) (s : GServe) (reg code : Nat) : Dev :=
  let pmtu := ((d.gctx c).map GCtx.pmtu).getD 0
  let p : GPacket := ⟨0, 0, 3, if s.sent = 0 then 3 else 2, code, s.sent * pmtu, 0, s.psn % 2 ^ 24, 0, 0, 0, []⟩
  (d.onCtx c (fun y => { y with queue := y.queue ++ [p], serves := y.serves.filter (fun q => q.psn != s.psn) })).regDone reg 1

/-- The next line of a read being served is asked of its home, or the read is over (R403). `reg` is its registration. -/
def Dev.serveNext (d : Dev) (c psn reg : Nat) : Dev :=
  match d.gctx c with
  | none => d
  | some x =>
    match x.serves.find? (fun s => s.psn == psn) with
    | none => d
    | some s =>
      if s.len ≤ s.bytes.length then
        let (d, _) := d.cutResp c x s true (s.len + 2) (s.bytes.drop (s.sent * x.pmtu)) s.sent
        (d.onCtx c (fun y => { y with serves := y.serves.filter (fun q => q.psn != psn) })).regDone reg 1
      else
        let (d, n) := d.cutResp c x s false (s.len + 2) (s.bytes.drop (s.sent * x.pmtu)) s.sent
        let s := { s with sent := n }
        let d := d.onCtx c (fun y => { y with serves := y.serves.map (fun q => if q.psn = psn then s else q) })
        let a := s.dpa + s.bytes.length
        let (d, r) := d.checkPool (.grt c) x.dom a false .rdNoalloc
        match r with
        | .fail code => d.failServe c s reg code
        | .remote _ => (d.bump Reg.ACCESS_DENIED).failServe c s reg 1
        | .pass ppa =>
          let (id, d) := d.grtId
          (d.onCtx c (fun y => { y with serves := y.serves.map (fun q => if q.psn = psn then { q with tag := some id } else q) })).askHome
            (d.grtReq c id x.tc x.dom ppa .rdNoalloc [] 0)

/-- READ_REQ (R403): the next accepted packet, once every earlier one has committed, is served with reads of its lines. The low 24 bits
of a serve's PSN are those of the request, the rest its registration. -/
def Dev.grtReadReq (d : Dev) (c : Nat) : Dev :=
  match d.gctx c with
  | none => d
  | some x =>
    match x.nextRx with
    | none => d
    | some e =>
      let p := e.pkt
      if p.op != 2 || !x.alone e then d else
      let base := ((Tab.find? d.grt.regs p.reg).map RegRange.base).getD 0
      let id := p.psn + p.reg * 2 ^ 24
      let s : GServe := ⟨id, base + p.offset, p.length, [], 0, none⟩
      let d := (d.onRx c p.psn (fun e => { e with stage := 2 })).onCtx c (fun y => { y with serves := y.serves ++ [s] })
      if d.regLost p.reg then d.failServe c s p.reg 1 else d.serveNext c id p.reg

/-- READ_RESP (R403): the next accepted packet lands at its read, which hands its payload on to its tile at once, or answers none and is
discarded. A read that ends with other than its length of bytes ends with POISON. -/
def Dev.grtReadResp (d : Dev) (c : Nat) : Dev :=
  match d.gctx c with
  | none => d
  | some x =>
    match x.nextRx with
    | none => d
    | some e =>
      let p := e.pkt
      if p.op != 3 then d else
      let d := d.onRx c p.psn (fun e => { e with stage := 2 })
      match x.reads.find? (fun r => r.psn == some p.reg && !r.done) with
      | none => d.bump Reg.SLAG_GRT_FAILED_MSG
      | some r =>
        let got := p.offset + p.payload.length
        let past := bitOf p.flags 1 || p.status != 0
        let code := if p.status != 0 then p.status else if past && got != r.len then 1 else 0
        let d := match p.payload, x.msgs.find? (fun m => m.id == r.msg) with
          | _ :: _, some m => d.sendLines (.grt (d.portDie x.uplink)) (.tile m.tile) (m.tag % tagSpace) (ownTc 2) x.dom 0 p.payload
              (.part m.tag p.offset p.payload)
          | _, _ => d
        let d := d.onCtx c (fun y => { y with
          reads := y.reads.map (fun q => if q.msg = r.msg then { q with got := got, done := past } else q),
          msgs := y.msgs.map (fun m => if m.id = r.msg then { m with code := worse code m.code } else m) })
        d.messagesDone c

/-- One packet at the head of the accepted ones is reported (R398, R400): CPSN passes it; a failed one draws a final NAK, and the ACK that
the committed ones before it are owed stays due; another draws an ACK when one is due. -/
def Dev.reportOne (d : Dev) (c : Nat) (e : GRx) : Dev :=
  let p := e.pkt
  let d := d.onCtx c (fun x => { x with rx := x.rx.drop 1, cpsn := p.psn })
  let d := d.when (p.op == 1 && (e.kind == 0 || e.kind == 4) && e.stage == 2 && e.port != 512) (fun d => d.regDone p.reg 1)
  if e.kind != 0 then
    d.sendAnswer c (answerPacket 0x11 e.kind e.code p.psn)
  else
    let d := d.onCtx c (fun x => { x with since := x.since + 1, ackFrom := some (x.ackFrom.getD d.time) })
    match d.gctx c with
    | some x => if bitOf p.flags 1 || bitOf p.flags 2 || decide (max 1 (d.get Reg.GRT_CFG_ACK_EVERY) ≤ x.since) then d.sendAck c else d
    | none => d

/-- Commits are reported in PSN order (R400). -/
def Dev.report (d : Dev) (c : Nat) : Nat → Dev
  | 0 => d
  | n + 1 =>
    match (d.gctx c).bind (fun x => x.rx.head?) with
    | some e => if e.stage = 2 then (d.reportOne c e).report c n else d
    | none => d

/-- A completion of a home for a context: a line of a packet being written, or of a read being served. -/
def Dev.grtMail (d : Dev) (c tag status : Nat) (data : List Byte) : Dev :=
  match d.gctx c with
  | none => d
  | some x =>
    match x.rx.find? (fun e => decide (tag ∈ e.lines)) with
    | some e =>
      (d.onRx c e.pkt.psn (fun e => { e with lines := e.lines.filter (fun k => k != tag), code := worse status e.code })).writeDone c e.pkt.psn
    | none =>
      match x.serves.find? (fun s => s.tag == some tag) with
      | none => d.bump Reg.LATE_ITEMS
      | some s =>
        let reg := s.psn / 2 ^ 24
        if status != 0 then d.failServe c s reg status else
        let off := (s.dpa + s.bytes.length) % 64
        let part := (data.drop off).take (min (64 - off) (s.len - s.bytes.length))
        (d.onCtx c (fun y => { y with serves := y.serves.map (fun q =>
          if q.psn = s.psn then { q with tag := none, bytes := q.bytes ++ part } else q) })).serveNext c s.psn reg

/-- The homes' completions for GRT. -/
def Dev.grtMails (d : Dev) : Dev :=
  let isGrt := fun (m : Mail) => match m.who with
    | .grt _ => true
    | _ => false
  let mine := d.home.mail.filter isGrt
  let d := { d with home := { d.home with mail := d.home.mail.filter (fun m => !isGrt m) } }
  d.each mine (fun d m => match m.who with
    | .grt c => d.grtMail c m.tag m.status m.data
    | _ => d)

/-- GRT goes on: operators' accesses, fetches, commits to report, and contexts that have drained. -/
def Dev.grtOn (d : Dev) : Dev :=
  let d := (d.takeAsks).retryFetches
  d.each d.grt.ctxs (fun d x =>
    let d := d.report x.1 (x.2.rx.length + 1)
    match d.gctx x.1 with
    | some y => if y.state = 2 && y.quiet then d.freeCtx x.1 else d
    | none => d)

/-- Frames that the crossbar has brought to the engines (R388). -/
def Dev.grtArrivals (d : Dev) : Dev :=
  let isGrt := fun (a : Arrival) => match a.at_, a.frame.body with
    | .grt _, .grtIn _ _ => true
    | _, _ => false
  let mine := d.sw.arrived.filter isGrt
  let d := { d with sw := { d.sw with arrived := d.sw.arrived.filter (fun a => !isGrt a) } }
  d.each mine (fun d a => match a.src, a.frame.body with
    | .port p, .grtIn bs good => d.engineFrame p bs good
    | _, _ => d)

end Sys2Proof.Machine
end

