-- ==== Sys2Proof/Machine/HostRings.lean ====
section
/-! DEFINITION. The host's side of the rings (R478 to R490, R496): doorbells, ring configuration, command fetch, interrupts, host
copies, Function Level Reset and BAR2. -/
namespace Sys2Proof.Machine

/-- Whether the PCIe controller serves requests: the part has power and its reset has been released (R513). -/
def Dev.pcieUp (d : Dev) : Bool := d.boot.rails && !d.boot.held

/-- A ring changed. -/
def Dev.onRing (d : Dev) (fn kind index : Nat) (f : Ring → Ring) : Dev := d.setRing fn kind index (f (d.ring fn kind index))

/-- The bytes of a function's ring region that its rings and BAR2 reach: PF0's firmware store is left out (R480). -/
def Dev.mapped (d : Dev) (fn : Nat) : Nat := if fn = 0 then 0x300_0000 else d.regionSize fn

/-- The next entries of a command ring fetched from its host copy (R483): one read of up to 4,096 bytes at a time (R476). -/
def Dev.askEntries (d : Dev) (fn index : Nat) : Dev :=
  let r := d.ring fn 0 index
  let busy := d.host.reads.any (fun q => match q.use with
    | .ring f i _ => f == fn && i == index
    | _ => false)
  if !r.en || !bitOf r.cfg0 25 || busy || r.avail == r.pi then d else
  let run := if r.avail < r.pi then r.pi - r.avail else r.size - r.avail
  d.hostAsk fn (r.cfg1 + r.avail * 64) (64 * min 64 run) (.ring fn index r.avail)

/-- CMD_DB_r (R485, R489): a new producer index, modulo the ring's size, that does not pass the consumer index. -/
def Dev.cmdDb (d : Dev) (fn index pi : Nat) : Dev :=
  let r := d.ring fn 0 index
  let n := r.size
  let new := pi % n
  if !r.en || decide ((new + n - r.ci) % n < (r.pi + n - r.ci) % n) then
    (d.set (Reg.FN_STAT_DB_ERR fn) 1).bump (Reg.DB_BAD fn)
  else if bitOf r.cfg0 25 then (d.setRing fn 0 index { r with pi := new, held := !d.running }).askEntries fn index
  else d.setRing fn 0 index { r with pi := new, avail := new, held := !d.running }

/-- Entries of a completion or event ring released by the host (R485, R489); an index past the entries written releases those. -/
def Dev.releaseEntries (d : Dev) (fn kind index ci : Nat) : Dev :=
  let r := d.ring fn kind index
  if !r.en then d else
  let n := r.size
  let new := ci % n
  let step := (new + n - r.ci) % n
  let done := if step = 0 && r.used = n then n else step
  d.setRing fn kind index { r with ci := new, used := r.used - done }

/-- EVENTS_LOST once a slot has freed (R489, R495). -/
def Dev.tellLost (d : Dev) (fn : Nat) : Dev :=
  let n := Tab.get 0 d.host.lost fn
  let r := d.ring fn 2 0
  if n = 0 || r.size ≤ r.used then d else
  let first := Tab.get 0 d.host.lostFirst fn
  ({ d with host := { d.host with lost := Tab.put 0 d.host.lost fn 0, lostFirst := Tab.put 0 d.host.lostFirst fn 0 } }).post [fn] 0x01 [n, first]

/-- CPL_DB_r (R485). -/
def Dev.cplDb (d : Dev) (fn index ci : Nat) : Dev := d.releaseEntries fn 1 index ci

/-- EVT_DB (R489). -/
def Dev.evtDb (d : Dev) (fn ci : Nat) : Dev := (d.releaseEntries fn 2 0 ci).tellLost fn

/-- The ring that RING_SEL of a function names, if there is one (R482, R506). -/
def Dev.selected (d : Dev) (fn : Nat) : Option (Nat × Nat) :=
  let kind := d.get (Reg.RING_SEL_KIND fn)
  let index := d.get (Reg.RING_SEL_INDEX fn)
  let count := if kind = 2 then 1 else 16
  if index < count && (kind != 3 || fn == 0) then some (kind, index) else none

/-- The defined bits of RING_CFG0 (R506). -/
def cfg0Mask (v : Nat) : Nat := fieldOf v 0 26 + fieldOf v 32 32 * 2 ^ 32

/-- Reads of a command ring's host copy under way are forgotten: what they bring is discarded. -/
def Dev.dropAsked (d : Dev) (fn index : Nat) : Dev :=
  { d with host := { d.host with reads := d.host.reads.filter (fun q => match q.use with
      | .ring f i _ => !(f == fn && i == index)
      | _ => true) } }

/-- RING_CFG0 (R483, R484, R506): setting EN zeroes the ring and starts it afresh; a ring that does not lie in its function's region
is not enabled. -/
def Dev.ringCfg0 (d : Dev) (fn v : Nat) : Dev :=
  match d.selected fn with
  | none => d
  | some (kind, index) =>
    let r := d.ring fn kind index
    let v := cfg0Mask v
    let d := d.when (kind == 0 && bitOf v 0 != r.en) (fun d => d.dropAsked fn index)
    let want : Ring := { r with cfg0 := v }
    if bitOf v 0 && !r.en then
      let fits := decide (fieldOf v 1 20 * 64 + want.size * ringEntry kind ≤ d.mapped fn)
      if !fits then d.setRing fn kind index { r with cfg0 := v - 1 } else
      let d := d.zeroMem (d.ringAddr fn kind want 0) (want.size * ringEntry kind)
      d.setRing fn kind index { Ring.idle with cfg0 := v, cfg1 := r.cfg1, phase := true, gen := r.gen + 1 }
    else d.setRing fn kind index { want with unsig := if bitOf v 0 then r.unsig else 0 }

/-- RING_CFG1 (R483, R506). -/
def Dev.ringCfg1 (d : Dev) (fn v : Nat) : Dev :=
  match d.selected fn with
  | none => d
  | some (kind, index) => d.onRing fn kind index (fun r => { r with cfg1 := fieldOf v 0 57 })

/-- A fetched entry that no command's row starts (R490, R491): a reserved opcode, or a byte that must be zero. -/
def badEntry (bs : List Byte) : Bool :=
  decide (0x19 < fieldBytes bs 0 1) || decide (1 < fieldBytes bs 1 1) || fieldBytes bs 2 2 != 0

/-- A command entry as a command (R490). -/
def entryCmd (fn : Dom) (ring : Fin 16) (bs : List Byte) : RingCmd :=
  ⟨fn, ring, BitVec.ofNat 32 (fieldBytes bs 4 4), BitVec.ofNat 8 (fieldBytes bs 1 1), bs.drop 8⟩

/-- COMMAND_FETCH (R485, R487): the next command leaves its ring once its core runs and a completion slot can be reserved for it. A
malformed one is remembered as opcode + 256 and completes in its turn, and so does one that cannot be read (R450; assumption log 162). -/
def Dev.commandFetch (d : Dev) (fn : Dom) (ring : Fin 16) : Dev :=
  let r := d.ring fn.val 0 ring.val
  if !r.en || r.ci == r.avail || !d.coreUp (fabricCore fn.val) || !d.slotFree fn.val ring.val then d else
  let (d, got) := d.readEcc (d.ringAddr fn.val 0 r r.ci) 64
  let bs := got.getD (List.replicate 64 0#8)
  let op := fieldBytes bs 0 1 + (if badEntry bs || got.isNone then 256 else 0)
  (d.setRing fn.val 0 ring.val { r with ci := (r.ci + 1) % r.size, held := false }).takeCmd (entryCmd fn ring bs) op

/-- Malformed commands whose turn has come complete with POISON and ERR 2 (R491, R493); up to `n` of them. -/
def Dev.endMalformed (d : Dev) : Nat → Dev
  | 0 => d
  | n + 1 =>
    match d.host.started.find? (fun s => decide (256 ≤ s.op) && s.ended.isNone && (s.op == 257 || !d.mustWait s.cmd s.op)) with
    | some s => (d.completeErr s.cmd 2).endMalformed n
    | none => d

/-- IRQ_US after the oldest unsignalled entry the ring signals its vector (R496). -/
def Dev.irqExpiry (d : Dev) (fn kind index : Nat) : Dev :=
  let r := d.ring fn kind index
  let us := fieldOf r.cfg0 48 16
  if !r.en || r.unsig = 0 || us = 0 || fieldOf r.cfg0 38 10 = 0 || decide (d.time < r.oldest + us * 1000) then d
  else (d.setRing fn kind index { r with unsig := 0 }).toHost (.irq fn (fieldOf r.cfg0 32 6))

/-- A heat of a function that is reset (R481): a running one ends as at its watchdog, with no completion; one that waits is dropped. -/
def Dev.dropHeat (d : Dev) (h : Heat) : Dev :=
  if h.running then
    ((d.bump Reg.WATCHDOG_EXPIRED).onHeat h.fn h.ring h.no (fun h => { h with mute := true })).endHeat h.fn h.ring h.no
  else ({ d with heats := { d.heats with list := d.heats.list.filter (fun x => !x.isOf h.fn h.ring h.no) } }).showHeats

/-- FUNCTION_LEVEL_RESET (R481): PF0's reaches every function. PF0's firmware store, which the cores restart from, is not zeroed. -/
def Dev.functionReset (d : Dev) (fn : Nat) : Dev :=
  let mine := fun (f : Nat) => fn == 0 || f == fn
  let d := d.each (d.heats.list.filter (fun (h : Heat) => mine h.fn)) Dev.dropHeat
  let rings := (d.host.rings.map (fun r =>
    if mine (r.1 / 64) then (r.1, { Ring.idle with gen := r.2.gen }) else r)).filter (fun r => decide (r.2 ≠ Ring.idle))
  let d := { d with
    host := { d.host with
      started := d.host.started.filter (fun s => !mine s.cmd.fn.val), rings := rings,
      reads := d.host.reads.filter (fun q => match q.use with
        | .ring f _ _ => !mine f
        | .record c _ => !mine c.fn.val
        | _ => true),
      vfEnable := d.host.vfEnable && fn != 0 },
    store := { d.store with pushes := d.store.pushes.filter (fun p => match p.cmd with
      | some c => !mine c.fn.val
      | none => true) } }
  let d := d.when (d.store.pushes == []) (fun d => d.set Reg.WPUSH_STAT_BUSY 0)
  let d := d.zeroMem (d.regionBase fn) (d.mapped fn)
  d.when (fn == 0) (fun d => d.zeroMem (d.areaBase 0 + 0x400_0000) (d.areaSize 0 - 0x400_0000))

/-- Whether the firmware store is out of PF0's reach: after verification the cores and the boot ROM alone reach it (R500). -/
def Dev.storeShut (d : Dev) : Bool := d.get Reg.FW_STAT_STATE == 3

/-- Whether an aperture access of a function may take place (R479, R424, R500). -/
def Dev.apertureOk (d : Dev) (fn a n : Nat) (write : Bool) : Bool :=
  decide (a + n ≤ 0x30_0000_0000) &&
  (if fn = 0 then !(d.storeShut && decide (a < d.storeBase + 0x100_0000) && decide (d.storeBase < a + n))
   else d.inWindow fn a (max 1 n) write)

/-- The answer to a read through BAR2 of `k` bytes of device memory from `a`, padded with zeros to `n` bytes; the function receives
POISON for bytes that cannot be read (R450). -/
def Dev.answerBar2 (d : Dev) (fn a k n : Nat) : Dev :=
  match d.readEcc a k with
  | (d, some bs) => d.toHost (.reply fn (padBytes n bs))
  | (d, none) => d.toHost (.poisoned fn)

/-- BAR2_ACCESS (R479): `write` holds the bytes of a write; a read sends its bytes to the host. VFs answer while VF Enable is set. -/
def Dev.bar2 (d : Dev) (fn addr len : Nat) (write : Option (List Byte)) : Dev :=
  if !d.pcieUp || (fn != 0 && !d.host.vfEnable) then d else
  let n := match write with
    | some bs => bs.length
    | none => len
  if addr + n ≤ 0x1000_0000 then
    let room := d.mapped fn - addr
    match write with
    | some bs => d.writeMem (d.regionBase fn + addr) (bs.take room)
    | none => d.answerBar2 fn (d.regionBase fn + addr) (min n room) n
  else
    let a := d.get (Reg.FN_BAR2_WIN_BASE_2M fn) * 0x20_0000 + (addr - 0x1000_0000)
    let ok := decide (0x1000_0000 ≤ addr) && decide (addr + n ≤ 0x4000_0000) && d.apertureOk fn a n write.isSome
    let d := d.when (!ok) (fun d => d.bump (Reg.BAR2_REFUSED fn))
    match write with
    | some bs => if ok then d.writeMem a bs else d
    | none => if ok then d.answerBar2 fn a n n else d.toHost (.reply fn (List.replicate n 0#8))

/-- Entries of a command ring that have come from its host copy (R483). -/
def Dev.entriesCame (d : Dev) (fn index slot : Nat) (bs : List Byte) : Dev :=
  let r := d.ring fn 0 index
  if !r.en then d else
  let d := d.writeMem (d.ringAddr fn 0 r slot) bs
  (d.setRing fn 0 index { r with avail := (slot + bs.length / 64) % r.size }).askEntries fn index

/-- A command ring whose fetch from the host has failed is disabled; commands not yet fetched are dropped (R477). -/
def Dev.entriesLost (d : Dev) (fn index : Nat) : Dev := d.onRing fn 0 index (fun r => { r with cfg0 := r.cfg0 - r.cfg0 % 2 })

/-- A failed HOST read is reported and counted (R477). -/
def Dev.hostFailed (d : Dev) (fn : Nat) : Dev :=
  ((d.set (Reg.FN_STAT_HOST_ERR fn) 1).bump (Reg.HOST_ERRS fn)).toHost (.aer fn)

end Sys2Proof.Machine
end

