-- ==== Sys2Proof/Machine/Lerat.lean ====
section
/-! DEFINITION. The fuses (R527) and the signed container of images and bundles (R519 to R522). -/
namespace Sys2Proof.Machine

/-- A fuse field (R527), in its order: 0 UID, 1 ROOT_PK_HASH, 2 ID_SEED, 3 PKEK, 4 TAMPER_FLOOR, 5 SVN_FLOOR, 6 SECRET_OFF, 7 LC. -/
def Fuses.field (z : Fuses) (f : Nat) : Nat := Tab.get 0 z.fields f

/-- The bits of a fuse field (R527). -/
def fuseBits (f : Nat) : Nat := [128, 256, 256, 256, 8, 64, 1, 4].getD f 0

/-- The number of ones of a value, in its low `n` bits. -/
def onesOf (v n : Nat) : Nat := (List.range n).countP (fun i => bitOf v i)

/-- The lifecycle state (R530): the count of burned LC fuses. -/
def Fuses.lifecycle (z : Fuses) : Nat := onesOf (z.field 7) 4

/-- SVN_FLOOR as a count (R527). -/
def Fuses.floor (z : Fuses) : Nat := onesOf (z.field 5) 64

/-- SECRET_OFF (R528, R530). -/
def Fuses.secretsOff (z : Fuses) : Bool := z.field 6 == 1

/-- Whether a field is programmed (R528, R543). -/
def Fuses.programmed (z : Fuses) (f : Nat) : Bool := bitOf z.burnt f

/-- Fuse bits burned: a fuse is burned once and never cleared (R527). -/
def Fuses.burn (z : Fuses) (f v : Nat) : Fuses :=
  { fields := Tab.put 0 z.fields f (Nat.lor (z.field f) (v % 2 ^ fuseBits f)), burnt := Nat.lor z.burnt (2 ^ f) }

/-- ID_SEED or PKEK as an engine reads it (R528): zero while SECRET_OFF is set. -/
def Fuses.secret (z : Fuses) (f : Nat) : List Byte := natBytes 32 (if z.secretsOff then 0 else z.field f)

/-- UID as 16 bytes (R528). -/
def Fuses.uid (z : Fuses) : List Byte := natBytes 16 (z.field 0)

/-- One directory entry (R519). -/
structure Section where
  typ : Nat
  flags : Nat
  off : Nat
  len : Nat
  pad : Nat
  deriving DecidableEq, Repr

/-- The directory of an image. -/
def leratDir (bs : List Byte) : List Section :=
  (rangeFrom 0 (fieldBytes bs 12 2)).map (fun i =>
    let e := (bs.drop (64 + 16 * i)).take 16
    ⟨fieldBytes e 0 2, fieldBytes e 2 2, fieldBytes e 4 4, fieldBytes e 8 4, fieldBytes e 12 4⟩)

/-- LENGTH (R519). -/
def leratLength (bs : List Byte) : Nat := fieldBytes bs 16 4

/-- SVN (R519). -/
def leratSvn (bs : List Byte) : Nat := fieldBytes bs 20 4

/-- SIGNER_PK (R519). -/
def leratKey (bs : List Byte) : List Byte := (bs.drop 32).take 32

/-- MAGIC and FORMAT (R519). -/
def leratMagic (bs : List Byte) : Bool := decide (bs.take 8 = asciiBytes "LERATIMG") && fieldBytes bs 8 2 == 1

/-- Whether the 64-byte header is valid under R519 by itself; `limit` is the most that an image may take with its signature. -/
def headerOk (bs : List Byte) (limit : Nat) : Bool :=
  leratMagic bs && decide (1 ≤ fieldBytes bs 12 2) && decide (fieldBytes bs 12 2 ≤ 64) && fieldBytes bs 14 2 == 0 &&
    leratLength bs % 64 == 0 && decide (64 + 16 * fieldBytes bs 12 2 ≤ leratLength bs) && decide (leratLength bs + 7856 ≤ limit) &&
    fieldBytes bs 27 5 == 0

/-- Whether a directory entry stands as R519 has it, in an image of `n` entries. -/
def Section.formed (s : Section) (n length : Nat) : Bool :=
  decide (s.flags % 2 + s.flags / 256 % 16 * 256 = s.flags) && s.off % 64 == 0 && decide (64 + 16 * n ≤ s.off) &&
    decide (s.off + s.len ≤ length) && s.pad == 0

/-- Whether two sections meet. -/
def Section.meets (a b : Section) : Bool := decide (a.off < b.off + b.len) && decide (b.off < a.off + a.len)

/-- The first directory entry that R519 does not allow: one that is malformed, or meets a later one. -/
def badSection (dir : List Section) (length : Nat) : Option Nat :=
  (rangeFrom 0 dir.length).find? (fun i =>
    let s := dir.getD i ⟨0, 0, 0, 0, 0⟩
    !s.formed dir.length length || (dir.drop (i + 1)).any s.meets)

/-- Whether bit 0 of FLAGS, OPTIONAL, is set. -/
def Section.optional (s : Section) : Bool := bitOf s.flags 0

/-- CORE of FLAGS (R519, R526). -/
def Section.core (s : Section) : Nat := fieldOf s.flags 8 4

/-- A failure of R522: its code, the directory index and the byte offset of the failure. -/
structure Failure where
  code : Nat
  ix : Nat
  off : Nat
  deriving DecidableEq, Repr

/-- What a kind of image must hold once each, and what else it may hold (R523, R526): a section as its TYPE and, for a core image, its
core. -/
def requiredSections (kind : Nat) : List (Nat × Nat) :=
  if kind = 1 then [0x0101, 0x0102, 0x0103, 0x0104, 0x0105, 0x0106].map (fun t => (t, 0)) else (rangeFrom 0 16).map (fun c => (0x0201, c))

/-- Whether a TYPE is known to a kind of image. -/
def knownType (kind typ : Nat) : Bool :=
  if kind = 1 then decide (0x0101 ≤ typ) && decide (typ ≤ 0x0107) else typ == 0x0201 || typ == 0x0202

/-- What a section counts as among the required ones. -/
def Section.key (s : Section) : Nat × Nat := (s.typ, if s.typ = 0x0201 then s.core else 0)

/-- The digest that the signer must have (R521, R530): the manufacturing hash, or ROOT_PK_HASH. -/
def Fuses.root (z : Fuses) (lc : Nat) : List Byte := natBytes 32 (if lc = 0 then Config.mfgRootHash.toNat else z.field 1)

/-- The first failure of R522 that applies to an image of a kind, before its content is looked at; `lc` is the lifecycle state read at
reset. The offsets are those of the fields that fail. -/
def leratFailure (z : Fuses) (lc kind limit : Nat) (bs : List Byte) : Option Failure :=
  let dir := leratDir bs
  let n := leratLength bs
  let sig := (bs.drop n).take 7856
  let bad := badSection dir n
  let missing := (requiredSections kind).find? (fun k => (dir.filter (fun s => s.key == k)).length != 1)
  let unknown := (rangeFrom 0 dir.length).find? (fun i =>
    let s := dir.getD i ⟨0, 0, 0, 0, 0⟩
    !knownType kind s.typ && !s.optional)
  if lc = 4 then some ⟨0x0C, 0, 0⟩
  else if !leratMagic bs then some ⟨0x01, 0, if decide (bs.take 8 = asciiBytes "LERATIMG") then 8 else 0⟩
  else if fieldBytes bs 10 2 != kind then some ⟨0x02, 0, 10⟩
  else if fieldBytes bs 24 2 != 0x0A09 then some ⟨0x03, 0, 24⟩
  else if 0x10 < fieldBytes bs 26 1 then some ⟨0x03, 0, 26⟩
  else if sha256 (leratKey bs) != z.root lc then some ⟨0x04, 0, 32⟩
  else if !Config.slhVerify (leratKey bs) (bs.take n) (asciiBytes "GLT9-IMG") sig then some ⟨0x05, 0, n⟩
  else if leratSvn bs < z.floor then some ⟨0x06, 0, 20⟩
  else if !headerOk bs limit then some ⟨0x07, 0, 12⟩
  else if bad.isSome then some ⟨0x07, bad.getD 0, 64 + 16 * bad.getD 0⟩
  else if missing.isSome then some ⟨0x08, 0, 64⟩
  else unknown.map (fun i => ⟨0x09, i, 64 + 16 * i⟩)

/-- The bytes of the first section of a TYPE, with its directory index. -/
def sectionOf (bs : List Byte) (typ : Nat) : Option (Nat × Section × List Byte) :=
  ((rangeFrom 0 (leratDir bs).length).zip (leratDir bs)).findSome? (fun x =>
    if x.2.typ = typ then some (x.1, x.2, (bs.drop x.2.off).take x.2.len) else none)

end Sys2Proof.Machine
end

