-- ==== Sys2Proof/Machine/Image.lean ====
section
/-! DEFINITION. The configuration image (R516 to R518, R523 to R525): its sections, what makes its content invalid, and what the part
is once it has been applied. -/
namespace Sys2Proof.Machine

/-- What parsing a section answers: what it holds, or the byte offset in the section at which it fails. -/
inductive Parsed (α : Type) where
  | ok (a : α)
  | bad (off : Nat)

/-- A table entry by entry: `n` entries of `size` bytes at `off`, the first that `f` refuses fails. -/
def parseAll {α : Type} (size : Nat) (f : Nat → List Byte → Option α) : Nat → Nat → Nat → List Byte → Parsed (List α)
  | 0, _, _, _ => .ok []
  | n + 1, i, off, bs =>
    match f i (bs.take size) with
    | none => .bad off
    | some a =>
      match parseAll size f n (i + 1) (off + size) (bs.drop size) with
      | .ok l => .ok (a :: l)
      | .bad o => .bad o

/-- A port of the image (R523): its number, its PORT_CFG image and its PART. -/
structure ImagePort where
  port : Nat
  cfg : Nat
  part : Nat
  deriving DecidableEq, Repr

/-- WIDTH_CODE of a port of the image. -/
def ImagePort.code (p : ImagePort) : Nat := fieldOf p.cfg 2 3
/-- ROLE. -/
def ImagePort.role (p : ImagePort) : Nat := fieldOf p.cfg 0 2
/-- IO_DIE. -/
def ImagePort.die (p : ImagePort) : Nat := fieldOf p.cfg 8 3
/-- FIRST_LANE. -/
def ImagePort.first (p : ImagePort) : Nat := fieldOf p.cfg 11 7
/-- SPARES. -/
def ImagePort.spares (p : ImagePort) : Nat := fieldOf p.cfg 18 2

/-- Whether a port of the image keeps to R28 and R29 by itself; WIDTH_CODE 0 leaves it unused. -/
def ImagePort.formed (p : ImagePort) : Bool :=
  p.code == 0 || (decide (p.code ≤ 4) && p.first % 2 ^ p.code == 0 && decide (p.first + 2 ^ p.code ≤ 128) && decide (p.spares ≤ 2) &&
    (p.role != 2 || p.code == 2 || p.code == 3))

/-- One entry of PORTS. -/
def parsePort (i : Nat) (bs : List Byte) : Option ImagePort :=
  let v := fieldBytes bs 0 8
  let p : ImagePort := ⟨i, fieldOf v 0 20, fieldOf v 20 4⟩
  if bs.length = 8 && fieldOf v 24 40 = 0 && p.formed then some p else none

/-- Whether a port is an analysis port on the lanes of an uplink of its width (R470): the pair counts its lanes once. -/
def ImagePort.pairs (a b : ImagePort) : Bool :=
  a.first == b.first && a.code == b.code && (a.role == 3 && b.role == 2 || a.role == 2 && b.role == 3)

/-- Whether two ports share a lane that they may not share (R29, R470). -/
def ImagePort.clash (a b : ImagePort) : Bool :=
  !(a.pairs b) && a.code != 0 && b.code != 0 && a.die == b.die && decide (a.first < b.first + 2 ^ b.code) && decide (b.first < a.first + 2 ^ a.code)

/-- Whether the ports together keep to R28 to R30: no lane twice, 8 spares a die, the counts of each role. -/
def portsOk (ps : List ImagePort) : Bool :=
  let used := ps.filter (fun p => p.code != 0)
  let count := fun (r : Nat) => (used.filter (fun p => p.role == r)).length
  !(ps.any (fun p => ps.any (fun q => decide (p.port < q.port) && p.clash q))) &&
    (rangeFrom 0 8).all (fun d => decide (sumBy ImagePort.spares (used.filter (fun p => p.die == d)) ≤ 8)) &&
    decide (1 ≤ count 0) && decide (count 0 ≤ 511) && decide (1 ≤ count 1) && decide (count 1 ≤ 128) && decide (count 2 ≤ 32) &&
    decide (count 3 ≤ 16)

/-- Bit `i` of a byte string (R11, R12). -/
def bitAt (bs : List Byte) (i : Nat) : Bool := bitOf (bs.getD (i / 8) 0#8).toNat (i % 8)

/-- REPAIR (R523): bad physical tiles, bad lanes as die × 256 + lane, bad banks as die × 68 + bank, the spare plane. -/
structure Repair where
  tiles : List Nat
  lanes : List Nat
  banks : List Nat
  plane : Nat
  deriving DecidableEq, Repr

/-- The REPAIR section. -/
def parseRepair (bs : List Byte) : Repair :=
  { tiles := (rangeFrom 0 288).filter (bitAt bs),
    lanes := (rangeFrom 0 8).flatMap (fun d =>
      ((rangeFrom 0 136).filter (fun l => bitAt (bs.drop (36 + 17 * d)) l)).map (fun l => d * 256 + l)),
    banks := (rangeFrom 0 136).filter (fun b => bitAt (bs.drop 172) b),
    plane := fieldBytes bs 189 1 }

/-- The physical spare lanes assigned to a port (R29, R126): those of its die go to its ports in ascending number. -/
def assignedSpares (ps : List ImagePort) (p : ImagePort) : List Nat :=
  let before := sumBy ImagePort.spares (ps.filter (fun q => q.code != 0 && q.die == p.die && decide (q.port < p.port)))
  if p.code = 0 then [] else rangeFrom (128 + before) p.spares

/-- The bad logical lanes of a port. -/
def badLanes (r : Repair) (p : ImagePort) : List Nat :=
  if p.code = 0 then [] else (rangeFrom 0 (2 ^ p.code)).filter (fun l => decide (p.die * 256 + p.first + l ∈ r.lanes))

/-- The assigned spares of a port that are good. -/
def goodSpares (ps : List ImagePort) (r : Repair) (p : ImagePort) : List Nat :=
  (assignedSpares ps p).filter (fun s => decide (p.die * 256 + s ∉ r.lanes))

/-- Whether the repair map can be applied (R524): one bad tile a group, no port with more bad lanes than spares, four bad banks a die. -/
def repairOk (ps : List ImagePort) (r : Repair) : Bool :=
  (rangeFrom 0 32).all (fun g => decide ((r.tiles.filter (fun t => t / 9 == g)).length ≤ 1)) &&
    ps.all (fun p => decide ((badLanes r p).length ≤ (goodSpares ps r p).length)) &&
    (rangeFrom 0 2).all (fun d => decide ((r.banks.filter (fun b => b / 68 == d)).length ≤ 4)) && decide (r.plane ≤ 8)

/-- The largest size of each area in units of 2 MiB (R339); TIER takes the rest. -/
def areaMost : List Nat := [2048, 8192, 4096, 16384, 2048, 32768, 32768, 98304]

/-- Whether the areas keep to R339: one after the other, each in its bounds, and TIER the rest of the 192 GiB. -/
def areasOk (ws : List Nat) : Bool :=
  (rangeFrom 0 8).all (fun a =>
    let w := ws.getD a 0
    fieldOf w 34 30 == 0 && fieldOf w 0 17 == sumBy (fun v => fieldOf v 17 17) (ws.take a) &&
      decide (fieldOf w 17 17 ≤ areaMost.getD a 0)) &&
    decide (512 ≤ fieldOf (ws.getD 0 0) 17 17) && decide (sumBy (fun v => fieldOf v 17 17) (ws.take 8) = 98304)

/-- An extent of the image (R523): its EXT_BASE image, owner, state and fill sets. -/
structure ImageExt where
  ext : Nat
  base : Nat
  owner : Nat
  state : Nat
  zfill : Nat
  deriving DecidableEq, Repr

/-- One entry of EXTENTS. -/
def parseExt (i : Nat) (bs : List Byte) : Option ImageExt :=
  let f := fieldBytes bs
  let z := f 12 2
  let m := f 14 2
  if bs.length = 16 && f 8 2 < 4096 && f 10 1 < 2 && f 11 1 = 0 && z < 1024 && fieldOf m 10 5 = 0 && !bitOf (f 0 4) 31 &&
      decide (f 0 4 + f 4 4 ≤ 2 ^ 31) then
    some ⟨i, f 0 8, f 8 2, f 10 1, z + fieldOf m 0 10 * 2 ^ 16 + fieldOf m 15 1 * 2 ^ 31⟩
  else none

/-- Whether two extents overlap (R524). -/
def ImageExt.clash (a b : ImageExt) : Bool :=
  meets (fieldOf a.base 0 31) (fieldOf a.base 32 32) (fieldOf b.base 0 31) (fieldOf b.base 32 32)

/-- The MAP section (R523): range-table entries, stripe sets in their order from set 0, PORT_BIND images in their order from port 0,
pools in their order from pool 0 (the eight POOL words and POOL_DOM), and DOM_PART images. -/
structure ImageMap where
  rt : List (Nat × RtEntry)
  stripes : List (List Nat)
  binds : List Nat
  pools : List (List Nat)
  parts : List Nat
  deriving DecidableEq, Repr

/-- `n` little-endian words of 8 bytes. -/
def wordsOf (bs : List Byte) (n : Nat) : List Nat := (rangeFrom 0 n).map (fun i => fieldBytes bs (8 * i) 8)

/-- A range-table entry of MAP. -/
def parseRt (_ : Nat) (bs : List Byte) : Option (Nat × RtEntry) :=
  match wordsOf (bs.drop 4) 4 with
  | [a, b, c, e] => if bs.length = 36 && fieldBytes bs 0 4 < 2 ^ 29 then some (fieldBytes bs 0 4, ⟨a, b, c, e⟩) else none
  | _ => none

/-- A stripe set of MAP (R379): STRIPE_HDR, then 32 STRIPE_PORTS words of four ports. -/
def parseStripe (_ : Nat) (bs : List Byte) : Option (List Nat) :=
  let n := fieldBytes bs 0 8
  if bs.length = 264 && n ≤ 128 then some ((rangeFrom 0 n).map (fun k => fieldBytes bs (8 + 2 * k) 2)) else none

/-- A one-word entry of MAP. -/
def parseWord (_ : Nat) (bs : List Byte) : Option Nat := if bs.length = 8 then some (fieldBytes bs 0 8) else none

/-- A pool of MAP. -/
def parsePool (_ : Nat) (bs : List Byte) : Option (List Nat) := if bs.length = 72 then some (wordsOf bs 9) else none

/-- A sub-table of MAP: its 4-byte count, at most `most` entries, and what follows. -/
def subTable {α : Type} (size most off : Nat) (f : Nat → List Byte → Option α) (bs : List Byte) : Parsed (List α × Nat × List Byte) :=
  let n := fieldBytes bs 0 4
  if bs.length < 4 || most < n then .bad off else
  match parseAll size f n 0 (off + 4) (bs.drop 4) with
  | .ok l => .ok (l, off + 4 + size * n, bs.drop (4 + size * n))
  | .bad o => .bad o

/-- The MAP section. -/
def parseMap (bs : List Byte) : Parsed ImageMap :=
  match subTable 36 (2 ^ 29) 0 parseRt bs with
  | .bad o => .bad o
  | .ok (rt, o, bs) =>
  match subTable 264 1024 o parseStripe bs with
  | .bad o => .bad o
  | .ok (st, o, bs) =>
  match subTable 8 512 o parseWord bs with
  | .bad o => .bad o
  | .ok (bi, o, bs) =>
  match subTable 72 256 o parsePool bs with
  | .bad o => .bad o
  | .ok (po, o, bs) =>
  match subTable 8 256 o parseWord bs with
  | .bad o => .bad o
  | .ok (pa, _, _) => .ok ⟨rt, st, bi, po, pa⟩

/-- An uplink of the image (R523): port, MAC, IP_LO, IP_HI and PFC words. -/
def parseUplink (_ : Nat) (bs : List Byte) : Option (Nat × List Nat) :=
  if bs.length = 34 && fieldBytes bs 0 2 < 512 then some (fieldBytes bs 0 2, wordsOf (bs.drop 2) 4) else none

/-- Whether COUNTERS holds 2 bytes for each 2 MiB of the pool that the extents name (R339, assumption log 181). -/
def countersOk (areas : List Nat) (exts : List ImageExt) : Bool :=
  decide (sumBy (fun e : ImageExt => fieldOf e.base 32 32) exts ≤ fieldOf (areas.getD 4 0) 17 17 * 2 ^ 20)

/-- Everything a configuration image says. -/
structure ImageContent where
  ports : List ImagePort
  repair : Repair
  areas : List Nat
  exts : List ImageExt
  map : ImageMap
  uplinks : List (Nat × List Nat)
  mac : Nat
  tamper : Nat
  deriving DecidableEq, Repr

/-- A failure of content (R524, code 0x0A) in the section of a TYPE. -/
def contentBad {α : Type} (bs : List Byte) (typ off : Nat) : Sum Failure α :=
  match sectionOf bs typ with
  | some (ix, s, _) => .inl ⟨0x0A, ix, s.off + off⟩
  | none => .inl ⟨0x0A, 0, 0⟩

/-- The bytes of a section. -/
def sectionBytes (bs : List Byte) (typ : Nat) : List Byte := ((sectionOf bs typ).map (fun x => x.2.2)).getD []

/-- The sections of an image read (R523), with the checks of R524 that need no composition map. -/
def readContent (bs : List Byte) : Sum Failure ImageContent :=
  match parseAll 8 parsePort 512 0 0 (sectionBytes bs 0x0101) with
  | .bad o => contentBad bs 0x0101 o
  | .ok ports =>
  if !portsOk ports then contentBad bs 0x0101 0 else
  let rep := sectionBytes bs 0x0102
  let repair := parseRepair rep
  if rep.length != 190 || !repairOk ports repair then contentBad bs 0x0102 0 else
  let ar := sectionBytes bs 0x0103
  let areas := wordsOf ar 11
  if ar.length != 88 || !areasOk areas then contentBad bs 0x0103 0 else
  match subTable 16 65536 0 parseExt (sectionBytes bs 0x0104) with
  | .bad o => contentBad bs 0x0104 o
  | .ok (exts, _, _) =>
  match exts.find? (fun a => exts.any (fun b => decide (b.ext < a.ext) && a.clash b)) with
  | some a => contentBad bs 0x0104 (4 + 16 * a.ext)
  | none =>
  if !countersOk areas exts then contentBad bs 0x0103 0 else
  match parseMap (sectionBytes bs 0x0105) with
  | .bad o => contentBad bs 0x0105 o
  | .ok map =>
  let up := sectionBytes bs 0x0106
  let n := (up.length - 6) / 34
  if up.length != 34 * n + 6 then contentBad bs 0x0106 0 else
  match parseAll 34 parseUplink n 0 0 up with
  | .bad o => contentBad bs 0x0106 o
  | .ok uplinks =>
  let tamper := match sectionOf bs 0x0107 with
    | some (_, _, t) => fieldBytes t 0 1
    | none => 0xAA
  .inr ⟨ports, repair, areas, exts, map, uplinks, fieldBytes up (34 * n) 6, tamper⟩

/-- One port applied (R524): PORT_CFG, PART, the physical lanes with bad ones on assigned spares, its credit reserve (R171). -/
def Dev.applyPort (d : Dev) (c : ImageContent) (p : ImagePort) : Dev :=
  let d := (d.setReg (Reg.PORT_CFG p.port) p.cfg).set (Reg.PORT_FENCE_PART p.port) p.part
  if p.code = 0 then d else
  let bad := badLanes c.repair p
  let spares := goodSpares c.ports c.repair p
  let d := d.each (rangeFrom 0 (2 ^ p.code)) (fun d l =>
    (d.set (Reg.LANE_PHYS p.port l) (if l ∈ bad then spares.getD (bad.idxOf l) 128 else p.first + l)).set (Reg.LANE_ON_SPARE p.port l)
      (if l ∈ bad then 1 else 0))
  let d := d.onLink p.port (fun l => { l with
    spares := spares ++ (assignedSpares c.ports p).filter (fun s => decide (s ∉ spares)),
    spareUsed := rangeFrom 0 bad.length ++ rangeFrom spares.length (p.spares - spares.length) })
  if p.role < 2 then d.set (Reg.Q_CELLS_RES p.port) (132 * 2 ^ p.code) else d

/-- One group's logical tiles mapped to its good physical tiles in ascending order (R524). -/
def Dev.applyGroup8 (d : Dev) (bad : List Nat) (g : Nat) : Dev :=
  let good := (rangeFrom (9 * g) 9).filter (fun t => decide (t ∉ bad))
  d.each (rangeFrom 0 8) (fun d i =>
    let phys := good.getD i 0
    ((d.set (Reg.TILE_MAP_PHYS (8 * g + i)) phys).set (Reg.TILE_MAP_DIE (8 * g + i)) (phys / 144)).set (Reg.TILE_MAP_GROUP (8 * g + i)) g)

/-- What repair leaves (R42, R43, R199, R524): free spares, the crossbar's spare plane, and tiles never to be used. A bad lane that an uplink
shares with the analysis port placed on its lanes (R470) counts once as a spare of its die used, while LANE_PHYS of each port names that
port's own assigned spare (assumption log 182). -/
def Dev.applyRepair (d : Dev) (c : ImageContent) : Dev :=
  let r := c.repair
  let d := d.each (rangeFrom 0 32) (fun d g => d.applyGroup8 r.tiles g)
  let d := { d with ras := { d.ras with badTiles := r.tiles } }
  let gone := r.lanes.filter (fun l => decide (128 ≤ l % 256) || c.ports.any (fun p =>
    p.code != 0 && p.die == l / 256 && decide (p.first ≤ l % 256) && decide (l % 256 < p.first + 2 ^ p.code)))
  let onDie := fun (die : Nat) => (gone.filter (fun l => l / 256 == die)).length
  let banks := fun (die : Nat) => 4 - (r.banks.filter (fun b => b / 68 == die)).length
  let d := ((d.set Reg.CAPS_TILE_SPARES_FREE (32 - r.tiles.length)).set Reg.CAPS_LANE_SPARES_FREE (64 - gone.length)).set Reg.CAPS_XBAR_SPARES_FREE 1
  let d := (d.set Reg.HEARTH_STAT_BANK_SPARES_A (banks 0)).set Reg.HEARTH_STAT_BANK_SPARES_B (banks 1)
  let d := (d.set Reg.XBAR_STAT_SPARE_PLANE r.plane).set Reg.XBAR_STAT_PLANES_ACTIVE (511 - 2 ^ r.plane)
  let d := { d with ras := { d.ras with laneSpares := (rangeFrom 0 8).foldl (fun m die => Tab.put 0 m die (onDie die)) [] } }
  d.when (r.tiles != [] || banks 0 == 0 || banks 1 == 0 || (rangeFrom 0 8).any (fun die => decide (8 ≤ onDie die))) (fun d => d.set Reg.GSTAT_SPARES_EXHAUSTED 1)

/-- The credit reserve of a die (R171). -/
def Dev.creditReserve (d : Dev) (die : Nat) : Nat :=
  sumBy (fun p => if d.isGlois p && d.portDie p == die then d.get (Reg.Q_CELLS_RES p) else 0) (rangeFrom 0 512)

/-- The extents of the image as they start (R426): an ASSIGNED one with its owner, a FREE one in QUENCHING with none. -/
def Dev.applyExt (d : Dev) (e : ImageExt) : Dev :=
  let d := (d.setReg (Reg.EXT_BASE e.ext) e.base).setReg (Reg.EXT_ZFILL e.ext) e.zfill
  if e.state = 1 then (d.set (Reg.EXT_STATE_STATE e.ext) 1).set (Reg.EXT_STATE_OWNER e.ext) e.owner
  else { d.set (Reg.EXT_STATE_STATE e.ext) 3 with ten := { d.ten with unowned := addOnce d.ten.unowned e.ext } }

/-- The map of the image as a bank; PORT_BIND counts for requester ports alone (R446). -/
def Dev.imageBank (d : Dev) (m : ImageMap) : Bank :=
  let b := Bank.empty
  let b := m.rt.foldl (fun b x => b.apply (.entry x.1 x.2)) b
  let b := ((rangeFrom 0 m.stripes.length).zip m.stripes).foldl (fun b x => b.apply (.stripe x.1 x.2)) b
  let b := (((rangeFrom 0 m.binds.length).zip m.binds).filter (fun x => d.isRole x.1 0)).foldl (fun b x => b.apply (.bind x.1 (x.2 % 2 ^ 13))) b
  ((rangeFrom 0 m.pools.length).zip m.pools).foldl (fun b x =>
    ((rangeFrom 0 8).foldl (fun b j => b.apply (.pool (x.1 * 8 + j) (x.2.getD j 0))) b).apply (.poolDom x.1 (x.2.getD 8 0 % 2 ^ 13))) b

/-- An image's content applied to a wiped part (R512 step 5, R523, R524). -/
def Dev.applyContent (d : Dev) (c : ImageContent) : Dev :=
  let d := d.each c.ports (fun d p => d.applyPort c p)
  let d := d.applyRepair c
  let d := (d.set Reg.HEARTH_CFG_CREDIT_RES_A (d.creditReserve 0)).set Reg.HEARTH_CFG_CREDIT_RES_B (d.creditReserve 1)
  let d := (d.showCells .core 0).showCells .core 1
  let d := d.each (rangeFrom 0 8) (fun d a => d.setReg (Reg.FORGE_AREA a) (c.areas.getD a 0))
  let d := ((d.set Reg.DIR_CAP_BACKING_GIB (c.areas.getD 8 0 % 32)).setReg Reg.GRT_CAP (c.areas.getD 9 0 % 2 ^ 38)).set Reg.RT_CAP_TOTAL
    (fieldOf (c.areas.getD 10 0) 17 29)
  let d := d.set Reg.TIER_STAT_FRAMES (d.get (Reg.FORGE_AREA_SIZE_2M 7))
  let d := d.each c.exts Dev.applyExt
  let d := { d with ten := { d.ten with exts := c.exts.map ImageExt.ext, live := d.imageBank c.map }, boot := { d.boot with analysisMac := c.mac } }
  let d := d.showQuench
  let d := d.each ((rangeFrom 0 c.map.parts.length).zip c.map.parts) (fun d x => d.setReg (Reg.DOM_PART x.1) x.2)
  let d := d.each (c.uplinks.filter (fun u => d.isRole u.1 2)) (fun d u =>
    (((d.setReg (Reg.UPL_MAC u.1) (u.2.getD 0 0 % 2 ^ 48)).setReg (Reg.UPL_IP_LO u.1) (u.2.getD 1 0)).setReg (Reg.UPL_IP_HI u.1)
      (u.2.getD 2 0)).setReg (Reg.UPL_PFC u.1) (u.2.getD 3 0 % 2 ^ 48))
  d.set Reg.TAMPER_POL_POL c.tamper

/-- Whether an extent's fill sets can serve (R524): in use, with no port in common. -/
def Dev.fillSetsOk (d : Dev) (e : ImageExt) : Bool :=
  let z := d.ten.live.set (fieldOf e.zfill 0 10)
  let m := d.ten.live.set (fieldOf e.zfill 16 10)
  z != [] && (!bitOf e.zfill 31 || (m != [] && !z.any (fun p => decide (p ∈ m))))

/-- The checks of R524 that need the map: fill sets, R421 over the entries, stripe sets and pools. The index is that of the entry of
its sub-table. -/
def Dev.mapBad (d : Dev) (c : ImageContent) : Option (Nat × Nat) :=
  let b := d.ten.live
  match c.exts.find? (fun e => !d.fillSetsOk e) with
  | some e => some (0x0104, 4 + 16 * e.ext)
  | none =>
  match (rangeFrom 0 c.map.stripes.length).find? (fun i => d.badStripe (c.map.stripes.getD i [])) with
  | some i => some (0x0105, 8 + 36 * c.map.rt.length + 264 * i)
  | none =>
  match (rangeFrom 0 c.map.rt.length).find? (fun i =>
      let x := c.map.rt.getD i (0, RtEntry.none)
      (x.2.kind != 0 && d.entryCause b x.1 x.2 != 0) || (c.map.rt.take i).any (fun y => y.1 == x.1)) with
  | some i => some (0x0105, 4 + 36 * i)
  | none =>
    if (rangeFrom 0 c.map.pools.length).any (d.badPool b) then some (0x0105, 0) else none

/-- An image verified in full (R521, R522, R524): its failure, or the part with it applied. -/
def Dev.tryImage (d : Dev) (z : Fuses) (bs : List Byte) : Sum Failure Dev :=
  match leratFailure z (d.get Reg.LC_STAT_STATE) 1 0x200_0000 bs with
  | some f => .inl f
  | none =>
    match readContent bs with
    | .inl f => .inl f
    | .inr c =>
      let d := d.applyContent c
      match d.mapBad c with
      | some (typ, off) => contentBad bs typ off
      | none => .inr d

/-- The bytes of a slot (R516): the header first, and the whole image with its signature if that is valid. -/
def slotBytes (flash : List Host.Cell) (slot : Nat) : List Byte :=
  let base := slot * 0x800_0000
  let head := Memory.readN 0xFF#8 flash base 64
  if headerOk head 0x200_0000 then Memory.readN 0xFF#8 flash base (leratLength head + 7856) else head

/-- The order in which the slots are tried (R516): the valid header with the larger SVN, slot A when equal. -/
def slotOrder (flash : List Host.Cell) : List Nat :=
  let a := Memory.readN 0xFF#8 flash 0 64
  let b := Memory.readN 0xFF#8 flash 0x800_0000 64
  if headerOk b 0x200_0000 && (!headerOk a 0x200_0000 || decide (leratSvn a < leratSvn b)) then [1, 0] else [0, 1]

/-- The slots tried in order (R516, R525); a slot whose reading met an uncorrectable word fails with 0x0D. The failure of the last slot
tried is reported. -/
def Dev.trySlots (d : Dev) (z : Fuses) (flash : List Host.Cell) (unread : List Nat) : List Nat → Failure → Sum Failure (Dev × ImageRecord)
  | [], f => .inl f
  | s :: rest, _ =>
    let bs := slotBytes flash s
    let r := if s ∈ unread then .inl ⟨0x0D, 0, 0⟩ else d.tryImage z bs
    match r with
    | .inl f => d.trySlots z flash unread rest f
    | .inr d => .inr (d, ⟨s, leratSvn bs, sha256 (bs.take (leratLength bs))⟩)

/-- The identity seeds (R534): SK.seed, SK.prf and PK.seed. -/
def Fuses.idSeeds (z : Fuses) : List Byte := hkdfExpand (z.secret 2) (asciiBytes "GLT9-ID") 48

/-- IMAGE_APPLIED (R512 steps 3 to 6, R516, R525, R534). -/
def Dev.imageApplied (d : Dev) (z : Fuses) (flash : List Host.Cell) (unread : List Nat) : Dev :=
  if !d.pcieUp || !d.boot.wiped || d.boot.halt || d.flag Reg.IMG_STAT_APPLIED then d else
  let lc := d.get Reg.LC_STAT_STATE
  let d := if lc = 0 || lc = 4 then d else
    ({ d with boot := { d.boot with idKey := Config.slhPublic z.idSeeds } }).set Reg.LC_STAT_ID_READY 1
  let order := slotOrder flash
  match d.trySlots z flash unread order ⟨0x01, 0, 0⟩ with
  | .inr (d, rec_) =>
    let d := { d with boot := { d.boot with image := some rec_ } }
    let d := (d.set Reg.LC_STAT_IMG_SLOT rec_.slot).set Reg.LC_STAT_IMG_FALLBACK (if order.head? = some rec_.slot then 0 else 1)
    ((d.set Reg.IMG_STAT_APPLIED 1).set Reg.IMG_SVN_SVN rec_.svn).set Reg.GSTAT_WIPE_ACTIVE 0
  | .inl f =>
    let d := ((d.set Reg.IMG_STAT_ERR f.code).set Reg.IMG_STAT_SECTION f.ix).set Reg.IMG_STAT_OFFSET f.off
    let d := { d with boot := { d.boot with halt := true } }
    (d.set Reg.FW_STAT_STATE 4).set Reg.FW_STAT_ERR f.code

end Sys2Proof.Machine
end

