-- ==== Sys2Proof/Machine/Firmware.lean ====
section
/-! DEFINITION. The control cores and their firmware (R497 to R502, R507, R526), the answers to HOST reads (R477), and TEL_SNAP (R508). -/
namespace Sys2Proof.Machine

/-- The most that the firmware store holds (R480, R498). -/
def storeBytes : Nat := 0x100_0000

/-- The next piece of the bundle asked of the host: up to 4,096 bytes under PF0's requester ID (R476, R498). -/
def Dev.askBundle (d : Dev) : Dev :=
  let len := min storeBytes (d.get Reg.FW_LEN_BYTES)
  let off := d.boot.asked
  if len ≤ off then d else
  let n := min 4096 (len - off)
  ({ d with boot := { d.boot with asked := off + n } }).hostAsk 0 (d.get Reg.FW_SRC_ADDR + off) n (.bundle off)

/-- FW_GO (R498, R499, R525, R541): ignored before step 6 of R512, in HALT_IMAGE, and while LOADING, VERIFYING or RUNNING. -/
def Dev.fwGo (d : Dev) : Dev :=
  let st := d.get Reg.FW_STAT_STATE
  if !d.pcieUp || d.boot.halt || d.flag Reg.GSTAT_WIPE_ACTIVE || !(st == 0 || st == 4) then d
  else (({ d with boot := { d.boot with asked := 0 } }).set Reg.FW_STAT_STATE 1).set Reg.FW_STAT_ERR 0 |>.askBundle

/-- The loading of a bundle has failed (R499); FW_FAILED names core 0 where no core's image is at fault. -/
def Dev.fwFailed (d : Dev) (core code : Nat) : Dev :=
  ((d.set Reg.FW_STAT_STATE 4).set Reg.FW_STAT_ERR code).post [0] 0x03 [core, code]

/-- A piece of the bundle has come into the firmware store. -/
def Dev.bundleCame (d : Dev) (off : Nat) (bs : List Byte) : Dev :=
  if d.get Reg.FW_STAT_STATE = 1 then (d.writeMem (d.storeBase + off) bs).askBundle else d

/-- Whether the whole bundle has been copied. -/
def Dev.bundleWhole (d : Dev) : Bool :=
  decide (min storeBytes (d.get Reg.FW_LEN_BYTES) ≤ d.boot.asked) && !(d.host.reads.any (fun r => match r.use with
    | .bundle _ => true
    | _ => false))

/-- FW_COPY_DONE (R498): the boot ROM begins verifying once the whole bundle has been copied. -/
def Dev.fwCopyDone (d : Dev) : Dev :=
  if d.get Reg.FW_STAT_STATE = 1 && d.bundleWhole then d.set Reg.FW_STAT_STATE 2 else d

/-- The core images of a bundle (R526). -/
def bundleImages (bs : List Byte) : List CoreImage :=
  ((leratDir bs).filter (fun s => s.typ == 0x0201)).map (fun s => ⟨s.core, s.off, s.len, sha256 ((bs.drop s.off).take s.len)⟩)

/-- The first failure of a bundle in the firmware store (R521, R522, R526), with the core it names. -/
def Dev.bundleFailure (d : Dev) (z : Fuses) (bs : List Byte) : Option (Nat × Nat) :=
  match leratFailure z (d.get Reg.LC_STAT_STATE) 2 storeBytes bs with
  | some f => some (Config.bundleCore.toNat, f.code)
  | none => ((bundleImages bs).find? (fun i => decide (0x20_0000 < i.len))).map (fun i => (i.core, 0x0B))

/-- The zero-fill of the extents that the image declares FREE begins (R426, R512 step 8). -/
def Dev.startFills (d : Dev) : Dev :=
  let free := d.ten.exts.filter (fun e => decide (e ∈ d.ten.unowned) && (d.scrubOf e).isNone)
  let d := d.each free (fun d e =>
    let s : Scrub := ⟨e, true, 0, 0, [], d.fillRanges e, [], 0, []⟩
    { d with ten := { d.ten with scrubs := d.ten.scrubs ++ [s] } })
  d.showQuench

/-- A core runs, or does not: CORE_STAT and FW_STAT.CORES (R507). -/
def Dev.setCore (d : Dev) (c st : Nat) : Dev :=
  let on := d.get Reg.FW_STAT_CORES
  let rest := on - (if bitOf on c then 2 ^ c else 0)
  (d.set (Reg.CORE_STAT_STATE c) st).set Reg.FW_STAT_CORES (rest + (if st = 1 then 2 ^ c else 0))

/-- Firmware runs on a core: what its SRAM holds is no longer known. -/
def Dev.sramChanged (d : Dev) (c : Nat) : Dev :=
  { d with boot := { d.boot with sram := Memory.clear d.boot.sram (c * 0x20_0000) 0x20_0000, changed := addOnce d.boot.changed c } }

/-- FW_VERIFY_DONE (R498, R499, R512 step 8, R542). -/
def Dev.fwVerifyDone (d : Dev) (z : Fuses) : Dev :=
  if d.get Reg.FW_STAT_STATE != 2 then d else
  let bs := d.readMem d.storeBase (min storeBytes (d.get Reg.FW_LEN_BYTES))
  match d.bundleFailure z bs with
  | some (core, code) => d.fwFailed core code
  | none =>
    let d := { d with boot := { d.boot with bundle := some ⟨leratSvn bs, leratKey bs, bundleImages bs⟩ } }
    let d := d.each (rangeFrom 0 16) (fun d c => (d.setCore c 1).sramChanged c)
    let d := (d.set Reg.FW_STAT_STATE 3).set Reg.GSTAT_RUNNING 1
    let d := d.startFills
    d.post [0] 0x62 [d.reg Reg.RESET_CAUSE, d.get Reg.LC_STAT_IMG_SLOT, d.get Reg.LC_STAT_IMG_FALLBACK]

/-- A restart of one core begins (R501): causes 1 watchdog, 2 parity, 3 request. One that is already restarting goes on, and a command
that asked for it waits for its end (R502). -/
def Dev.startRestart (d : Dev) (core cause : Nat) (cmd : Option RingCmd) : Dev :=
  if !d.running then d else
  if d.boot.restarts.any (fun r => r.core == core) then
    match cmd with
    | some c =>
      let r : Restart := ⟨core, 0, d.time, some c⟩
      { d with boot := { d.boot with restarts := d.boot.restarts ++ [r] } }
    | none => d
  else
    let r : Restart := ⟨core, cause, d.time, cmd⟩
    let d := { d with boot := { d.boot with
      restarts := d.boot.restarts ++ [r], halted := d.boot.halted.filter (fun h => h.1 != core) } }
    d.setCore core 2

/-- Whether the image of a core in the firmware store still has the digest that core 0 keeps (R501). -/
def Dev.imageSound (d : Dev) (core : Nat) : Bool :=
  match d.boot.bundle.bind (fun b => b.images.find? (fun i => i.core == core)) with
  | some i => decide (sha256 (d.readMem (d.storeBase + i.off) i.len) = i.digest)
  | none => false

/-- CORE_RESTART_DONE (R501, R502, R507): the core resumes, or stays halted when its image no longer has its digest. -/
def Dev.coreRestartDone (d : Dev) (core : Nat) : Dev :=
  match d.boot.restarts.find? (fun r => r.core == core) with
  | none => d
  | some r =>
    let cmds := (d.boot.restarts.filter (fun x => x.core == core)).filterMap Restart.cmd
    let d := { d with boot := { d.boot with restarts := d.boot.restarts.filter (fun x => x.core != core) } }
    if !d.imageSound core then
      let d := (d.setCore core 0).post [0] 0x03 [core, 0x0B]
      d.each cmds (fun d c => d.completeErr c 3)
    else
      let us := min (2 ^ 32 - 1) ((d.time - r.since) / 1000)
      let d := (d.setCore core 1).sramChanged core
      let d := d.set (Reg.CORE_STAT_RESTARTS core) (min 255 (d.get (Reg.CORE_STAT_RESTARTS core) + 1))
      let d := (d.set (Reg.CORE_STAT_LAST_CAUSE core) r.cause).set (Reg.CORE_STAT_LAST_US core) us
      let d := (d.set Reg.GSTAT_CORE_RESTARTS (min 255 (d.get Reg.GSTAT_CORE_RESTARTS + 1))).post [0] 0x02 [core, r.cause, us]
      ((d.temperEvent 6 core).fwRecords core).each cmds (fun d c => d.completeOk c (natBytes 4 us))

/-- CORE_CTL.RESTART (R501, R507). -/
def Dev.coreCtlRestart (d : Dev) (core : Nat) : Dev := if d.pcieUp then d.startRestart core 3 none else d

/-- CORE_WATCHDOG (R501): a running core has not been fed, or parity has failed in its SRAM or registers. A halted core's watchdog does
not run (R533). -/
def Dev.coreWatchdog (d : Dev) (core : Nat) (parity : Bool) : Dev :=
  if d.get (Reg.CORE_STAT_STATE core) = 1 then d.startRestart core (if parity then 2 else 1) none else d

/-- The CORE_RESTART command (R491, R501). -/
def Dev.coreRestart (d : Dev) (c : RingCmd) : Dev :=
  let core := c.arg 8 1
  if c.fn.val != 0 then d.completeErr c 1 else if 15 < core then d.completeErr c 2
  else (d.beginCmd c).startRestart core 3 (some c)

/-- TEL_SNAP (R508): HOLD freezes what every 48-bit counter reads as; counting goes on underneath. -/
def Dev.telSnap (d : Dev) (hold : Bool) : Dev :=
  let d := d.set Reg.TEL_SNAP_HOLD (if hold then 1 else 0)
  if hold then (if d.snap.isSome then d else { d with snap := some d.regs }) else { d with snap := none }

/-- HOST_READ_COMPLETION (R477): `answer` holds the data of a good completion; none is Unsupported Request, Completer Abort, poisoned
data or the completion timeout. What a tile or a GRT engine has asked for goes back to it through the core (R165). -/
def Dev.hostReadDone (d : Dev) (tag : Nat) (answer : Option (List Byte)) : Dev :=
  match d.host.reads.find? (fun r => r.tag == tag) with
  | none => d
  | some r =>
    let d := { d with host := { d.host with reads := d.host.reads.filter (fun x => x.tag != tag) } }
    match answer with
    | some bs =>
      let bs := padBytes r.len bs
      (match r.use with
        | .operator t g => d.sendLines .host (.tile t) (g % tagSpace) (ownTc 2) r.fn 0 bs (.came g 0 bs)
        | .landed t g => d.sendInner .host (.tile t) (rspMsg 0 (g % tagSpace) (ownTc 2) 0) r.fn (.done g)
        | .ring f i slot => d.entriesCame f i slot bs
        | .context c => d.sendLines .host (.grt (d.ctxDie c)) 0 (ownTc 2) 0 0 bs (.context c (some bs))
        | .given _ => d.bump Reg.LATE_ITEMS
        | .bundle off => d.bundleCame off bs
        | .record _ _ => d)
    | none =>
      let d := d.hostFailed r.fn
      (match r.use with
        | .operator t g => d.sendLines .host (.tile t) (g % tagSpace) (ownTc 2) r.fn 1 [] (.came g 1 [])
        | .landed t g => d.sendInner .host (.tile t) (rspMsg 0 (g % tagSpace) (ownTc 2) 1) r.fn (.came g 1 [])
        | .ring f i _ => d.entriesLost f i
        | .context c => d.sendInner .host (.grt (d.ctxDie c)) (rspMsg 0 0 (ownTc 2) 1) 0 (.context c none)
        | .given _ => d.bump Reg.LATE_ITEMS
        | .record c _ => d.complete c 1 0 0 []
        | .bundle _ => if d.get Reg.FW_STAT_STATE = 1 then d.fwFailed Config.bundleCore.toNat 0x0E else d)

end Sys2Proof.Machine
end

