-- ==== Sys2Proof/Machine/Startup.lean ====
section
/-! DEFINITION. Resets and their release (R509 to R515, R541, R554, R561), and the tamper alarms (R539 to R541). -/
namespace Sys2Proof.Machine

/-- TAMPER_STAT.ACTIVE shows the sources that read active (R543). -/
def Dev.showActive (d : Dev) : Dev :=
  d.set Reg.TAMPER_STAT_ACTIVE (sumBy (fun i => if i ∈ d.boot.active then 2 ^ i else 0) (rangeFrom 0 4))

/-- The core rail's setting in mV (R562): values outside 700 to 800 act as the nearest bound. -/
def Dev.vcoreGoal (d : Dev) : Nat := clampTo 700 800 (d.get Reg.PWR_CTL_VCORE_MV)

/-- The core rail's voltage now (R556): it moves to its setting at 1 mV per µs. -/
def Dev.vcoreNow (d : Dev) : Nat :=
  let steps := (d.time - d.boot.rampAt) / 1000
  if d.boot.rampFrom ≤ d.vcoreGoal then min d.vcoreGoal (d.boot.rampFrom + steps) else max d.vcoreGoal (d.boot.rampFrom - steps)

/-- PWR_CTL.VCORE_MV written (R556): the rail moves to the new setting from where it is. -/
def Dev.vcoreWrite (d : Dev) (mv : Nat) : Dev :=
  let now := d.vcoreNow
  ({ d with boot := { d.boot with rampFrom := now, rampAt := d.time } }).set Reg.PWR_CTL_VCORE_MV mv

/-- A reset wipes the part but for RESET_CAUSE and the straps (R511, R549); the board, the sensors and what holds the reset are as
they were. -/
def Dev.wiped (d : Dev) (cause source : Nat) : Dev :=
  let b := d.boot
  let w := { Dev.reset with time := d.time, free := d.free }
  let w := { w with boot := { Boot.start with
    rails := b.rails, resetLow := b.resetLow, perstLow := b.perstLow, cause := cause, source := source, holds := b.holds,
    bridge := b.bridge, temps := b.temps, active := b.active, rampFrom := d.vcoreNow, rampAt := d.time } }
  let w := (w.setReg Reg.RESET_CAUSE (d.reg Reg.RESET_CAUSE)).setReg Reg.STRAP_STAT (d.reg Reg.STRAP_STAT % 8)
  w.showActive

/-- A reset begins (R509, R511): a reset that meets another still held is one reset with the first cause, but ERASE gives its own
(R541, R561). -/
def Dev.startReset (d : Dev) (cause source : Nat) : Dev :=
  if !d.boot.rails then d
  else if d.boot.held then
    if cause = 5 then { d with boot := { d.boot with cause := 5, source := source } } else d
  else d.wiped cause source

/-- What step 1 reads of the fuses (R512, R530, R543). -/
def Dev.showFuses (d : Dev) (z : Fuses) : Dev :=
  let d := (d.set Reg.LC_STAT_SVN_FLOOR z.floor).set Reg.FUSE_STAT_PROGRAMMED (z.burnt % 256)
  (d.setReg Reg.UID_LO (z.field 0 % 2 ^ 64)).setReg Reg.UID_HI (z.field 0 / 2 ^ 64 % 2 ^ 64)

/-- Debug is open, and has been (R530, R532). -/
def Dev.openDebug (d : Dev) : Dev := (d.set Reg.LC_STAT_DEBUG_OPEN 1).set Reg.LC_STAT_DEBUG_EVER 1

/-- Step 1 of R512: the fuses are read, the lifecycle and debug state set, RESET_CAUSE updated. -/
def Dev.firstStep (d : Dev) (z : Fuses) : Dev :=
  let lc := z.lifecycle
  let b := d.boot
  let warm := d.get Reg.RESET_CAUSE_WARM_RESETS
  let d := (d.set Reg.RESET_CAUSE_CAUSE b.cause).set Reg.RESET_CAUSE_WARM_RESETS (if b.cause = 0 then warm else min 65535 (warm + 1))
  let d := d.when (b.cause == 5) (fun d => d.set Reg.RESET_CAUSE_ALARM_SRC b.source)
  let d := (d.set Reg.LC_STAT_STATE lc).showFuses z
  d.when (lc == 0 || lc == 3) Dev.openDebug

/-- The reset is released once it has been asked for and nothing holds it (R541, R554, R561): the start sequence begins. -/
def Dev.tryRelease (d : Dev) (z : Fuses) : Dev :=
  let b := d.boot
  if !b.rails || !b.held || !b.want || b.resetLow || b.perstLow || b.bridge.isSome || b.holds != [] then d
  else ({ d with boot := { b with held := false, want := false, released := d.time } }).firstStep z

/-- RESET_RELEASE (R512, R554): both pins are high, or an internal reset ends. -/
def Dev.resetRelease (d : Dev) (z : Fuses) : Dev :=
  if !d.boot.rails then d
  else ({ d with boot := { d.boot with resetLow := false, perstLow := false, want := d.boot.held } }).tryRelease z

/-- RESET_N held low (R509). -/
def Dev.resetPin (d : Dev) : Dev :=
  if d.boot.rails then ({ d with boot := { d.boot with resetLow := true } }).startReset 1 0 else d

/-- PERST_N held low (R509). -/
def Dev.perstPin (d : Dev) : Dev :=
  if d.boot.rails then ({ d with boot := { d.boot with perstLow := true } }).startReset 2 0 else d

/-- DEV_RESET (R509, R543). -/
def Dev.devReset (d : Dev) (code : Nat) : Dev := if d.pcieUp && code == 0x0A09 then d.startReset 3 0 else d

/-- POWER_ON (R549, R554): VIN has been at or above 40.0 V for 1 ms; the straps are sampled and the power-on reset is held. -/
def Dev.powerOn (d : Dev) (mv straps : Nat) : Dev :=
  if d.boot.rails || mv < 40000 then d else
  let w := { Dev.reset with time := d.time, free := d.free }
  let w := { w with boot := { Boot.start with active := d.boot.active, temps := d.boot.temps } }
  (w.setReg Reg.STRAP_STAT (straps % 8)).showActive

/-- POWER_DOWN (R554): VIN has been below 38.5 V for 10 µs; every rail goes and nothing survives. -/
def Dev.powerDown (d : Dev) (mv : Nat) : Dev :=
  if !d.boot.rails || 38500 ≤ mv then d else
  let w := { Dev.reset with time := d.time, free := d.free }
  { w with boot := { Boot.start with rails := false, active := d.boot.active, temps := d.boot.temps } }

/-- WIPE_DONE (R511, R512): the wipe has ended; WIPE_ACTIVE stays 1 until the image has been applied. -/
def Dev.wipeDone (d : Dev) : Dev := if d.pcieUp then { d with boot := { d.boot with wiped := true } } else d

/-- STORE_ENGINE_TEST (R514): engines that fail hold their ports in DOWN; SVC_MODE becomes SERVICE. -/
def Dev.storeTest (d : Dev) (failing : List Nat) : Dev :=
  if !(d.coreUp 15) || d.get Reg.TIER_CTL_SVC_MODE != 0 then d else
  let d := d.each (failing.filter (fun p => d.isRole p 1)) (fun d p =>
    let d := d.set (Reg.LINK_CTL_DISABLE p) 1
    let d := d.when (d.linkState p != 0) (fun d => d.fallDown p)
    ((d.set Reg.GSTAT_LASTING_FAULT 1).bump (Reg.LASTING 5)).post [0] 0x20 [5, p])
  d.set Reg.TIER_CTL_SVC_MODE 1

/-- The policy of a source (R540): the larger of TAMPER_POL and TAMPER_FLOOR, code 3 acting as ERASE. -/
def Dev.tamperPolicy (d : Dev) (z : Fuses) (src : Nat) : Nat :=
  min 2 (max (fieldOf (d.get Reg.TAMPER_POL_POL) (2 * src) 2) (fieldOf (z.field 4) (2 * src) 2))

/-- The FENCE policy (R540): every requester and target port is dead, uplinks are disabled and no heat is admitted. -/
def Dev.tamperFence (d : Dev) : Dev :=
  let dead := ((rangeFrom 0 512).filter d.isGlois).map (fun p => (p, 3))
  let d := { d with ras := { d.ras with dead := d.ras.dead ++ dead } }
  let d := d.each ((rangeFrom 0 512).filter (fun p => d.isRole p 2)) (fun d p =>
    (d.set (Reg.LINK_CTL_DISABLE p) 1).uplink p false)
  d.set Reg.HEAT_CTL_HOLD_ADMIT 1

/-- Both key slots of every domain zeroized (R532, R540). -/
def Dev.zeroizeAll (d : Dev) : Dev := d.each (d.store.keys.map Prod.fst) Dev.zeroizeKeys

/-- Whether VOLT is masked (R555): VIN as last measured is below the come-up point. -/
def Dev.voltMasked (d : Dev) : Bool := d.get Reg.PWR_STAT_VIN_MV != 0 && decide (d.get Reg.PWR_STAT_VIN_MV < 40000)

/-- TAMPER_ALARM (R540): the alarm latches, counts, and acts by its policy: 0 LOG, 1 FENCE, 2 ERASE. -/
def Dev.tamperAlarm (d : Dev) (z : Fuses) (src : Nat) : Dev :=
  if !d.boot.rails || (src == 0 && d.voltMasked) then d else
  let policy := d.tamperPolicy z src
  let d := ({ d with boot := { d.boot with active := addOnce d.boot.active src } }).showActive
  let d := d.set Reg.TAMPER_STAT_LATCHED (Nat.lor (d.get Reg.TAMPER_STAT_LATCHED) (2 ^ src))
  let d := (d.set Reg.GSTAT_ALARM 1).bump Reg.TAMPER_EVENTS
  match policy with
  | 0 => d.post [0] 0x60 [src, 0]
  | 1 => (d.post [0] 0x60 [src, 1]).tamperFence
  | _ => (({ d with boot := { d.boot with holds := addOnce d.boot.holds src } }).zeroizeAll).startReset 5 src

/-- ERASE_HOLD_RELEASE (R541): the source has read inactive for 100 ms. -/
def Dev.eraseHoldRelease (d : Dev) (z : Fuses) (src : Nat) : Dev :=
  if !d.boot.rails then d else
  (({ d with boot := { d.boot with
    active := d.boot.active.filter (fun s => s != src), holds := d.boot.holds.filter (fun s => s != src) } }).showActive).tryRelease z

/-- TAMPER_STAT_CLEAR (R540): `active` holds the sources as they read now; a latch clears only when its source does not. -/
def Dev.tamperClear (d : Dev) (bits active : Nat) : Dev :=
  if !d.pcieUp then d else
  let d := ({ d with boot := { d.boot with active := (rangeFrom 0 4).filter (bitOf active) } }).showActive
  let old := d.get Reg.TAMPER_STAT_LATCHED
  let gone := (rangeFrom 0 4).filter (fun s => bitOf old s && bitOf bits s && !bitOf active s)
  let left := old - sumBy (fun s => 2 ^ s) gone
  let d := (d.set Reg.TAMPER_STAT_LATCHED left).set Reg.GSTAT_ALARM (if left = 0 then 0 else 1)
  d.each gone (fun d s => d.post [0] 0x61 [s])

end Sys2Proof.Machine
end

