-- ==== Sys2Proof/Machine/Security.lean ====
section
/-! DEFINITION. Fuses, lifecycle, tokens and debug (R527 to R533), attestation (R534, R535), and KEY_LOAD (R536 to R538). -/
namespace Sys2Proof.Machine

/-- LC_ERR (R543). -/
def Dev.lcErr (d : Dev) (code : Nat) : Dev := d.set Reg.LC_STAT_LC_ERR code

/-- A refusal for which R522 names no code: LC_ERR takes a free value (assumption log 3). -/
def Dev.lcErrOpen (d : Dev) : Dev :=
  let (v, d) := d.fresh 8
  d.lcErr v

/-- Fuse fields set to burn, one after the other (R528, R530). -/
def Dev.startBurn (d : Dev) (l : List (Nat × Nat)) : Dev :=
  (({ d with boot := { d.boot with burns := l } }).lcErr 0).set Reg.FUSE_STAT_BUSY 1

/-- The value in FUSE_DATA. -/
def Dev.fuseValue (d : Dev) : Nat := sumBy (fun k => Tab.get 0 d.boot.fuseData k * 2 ^ (64 * k)) (rangeFrom 0 4)

/-- A write of FUSE_DATA_k. -/
def Dev.fuseWord (d : Dev) (k v : Nat) : Dev :=
  { d with boot := { d.boot with fuseData := Tab.put 0 d.boot.fuseData k (v % 2 ^ 64) } }

/-- The TAMPER_FLOOR bits that raise a source's floor (R528). -/
def floorBits (old new : Nat) : Nat :=
  sumBy (fun s => if min 2 (fieldOf old (2 * s) 2) < min 2 (fieldOf new (2 * s) 2) then fieldOf new (2 * s) 2 * 2 ^ (2 * s) else 0) (rangeFrom 0 4)

/-- Whether the lifecycle state allows a field to be programmed (R527). -/
def fuseAllowed (lc f : Nat) : Bool := if f < 3 then lc == 0 else if f = 3 then lc == 1 else lc == 1 || lc == 2

/-- FUSE_PROG.GO (R528): a field burns from FUSE_DATA, or is refused. While a burn is under way it is refused. -/
def Dev.fuseProg (d : Dev) (z : Fuses) (f : Nat) : Dev :=
  if !d.pcieUp then d
  else if d.boot.burns != [] || 4 < f then d.lcErrOpen
  else if !fuseAllowed (d.get Reg.LC_STAT_STATE) f then d.lcErr 0x0C
  else if f = 4 then d.startBurn [(4, floorBits (z.field 4) d.fuseValue)]
  else if z.programmed f then d.lcErrOpen
  else d.startBurn [(f, d.fuseValue)]

/-- SVN_RAISE (R529). -/
def Dev.svnRaise (d : Dev) (z : Fuses) (floor : Nat) : Dev :=
  let lc := d.get Reg.LC_STAT_STATE
  let bundle := (d.boot.bundle.map BundleRecord.svn).getD 0
  let image := (d.boot.image.map ImageRecord.svn).getD 0
  if !d.pcieUp then d
  else if lc != 1 && lc != 2 then d.lcErr 0x0C
  else if d.boot.burns != [] || floor ≤ z.floor || bundle < floor || image < floor || 64 < floor then d.lcErrOpen
  else d.startBurn [(5, 2 ^ floor - 1)]

/-- Whether the token at LC_TOKEN serves this part from its state to `to` (R531). -/
def Dev.tokenOk (d : Dev) (z : Fuses) (target : Nat) : Bool :=
  let a := d.get Reg.LC_TOKEN_ADDR
  let bs := d.readMem a 7920
  match d.boot.bundle with
  | none => false
  | some b =>
    (d.readable a 7920).2 && decide (bs.take 8 = asciiBytes "GLT9LCTK") && decide ((bs.drop 8).take 16 = z.uid) &&
      fieldBytes bs 24 1 == d.get Reg.LC_STAT_STATE && fieldBytes bs 25 1 == target && (fieldBytes bs 26 38 == 0) &&
      decide (sha256 b.pk = natBytes 32 (z.field 1)) && Config.slhVerify b.pk (bs.take 64) (asciiBytes "GLT9-LC") (bs.drop 64)

/-- The token has been read: what its words' ECC met is counted (R448, R531). -/
def Dev.tokenRead (d : Dev) : Dev := (d.readable (d.get Reg.LC_TOKEN_ADDR) 7920).1

/-- Whether a lifecycle transition is permitted (R530). -/
def Dev.transitionOk (d : Dev) (z : Fuses) (target : Nat) : Bool :=
  match d.get Reg.LC_STAT_STATE, target with
  | 0, 1 => z.programmed 0 && z.programmed 1 && z.programmed 2
  | 1, 2 => z.programmed 3
  | 1, 3 => d.tokenOk z 3
  | 2, 3 => d.tokenOk z 3
  | _, 4 => true
  | _, _ => false

/-- LC_CTL.GO (R530): SECRET_OFF burns first and the LC fuses last; the part resets once these are burned. -/
def Dev.lcGo (d : Dev) (z : Fuses) (target : Nat) : Dev :=
  if !d.pcieUp then d
  else
    let ok := d.boot.burns == [] && d.transitionOk z target
    let d := d.when (target == 3) Dev.tokenRead
    if !ok then d.lcErr 0x0F else
    let d := { d with boot := { d.boot with target := some target } }
    d.startBurn ((if 3 ≤ target then [(6, 1)] else []) ++ [(7, 2 ^ target - 1)])

/-- FUSE_BURN_DONE, the part beside the fuse array (R528 to R530, R542): what burned shows, and a finished transition resets the part. -/
def Dev.burnShown (d : Dev) (z : Fuses) : Dev :=
  match d.boot.burns with
  | [] => d
  | (f, _) :: rest =>
    let d := ({ d with boot := { d.boot with burns := rest } }).showFuses z
    let d := d.when (rest == []) (fun d => d.set Reg.FUSE_STAT_BUSY 0)
    let d := d.when (f == 5) (fun d => d.post [0] 0x65 [z.floor])
    if f = 7 then d.startReset 4 0 else d

/-- The fuses once the field at the head of the burns has burned. -/
def Dev.burned (d : Dev) (z : Fuses) : Fuses :=
  match d.boot.burns with
  | [] => z
  | (f, v) :: _ => z.burn f v

/-- DBG_CTL.UNLOCK (R532). -/
def Dev.debugUnlock (d : Dev) (z : Fuses) : Dev :=
  if !d.pcieUp then d
  else if d.get Reg.LC_STAT_STATE != 1 then d.lcErr 0x0C
  else if !d.tokenOk z 0x10 then (d.tokenRead).lcErr 0x0F
  else (((d.tokenRead).openDebug).zeroizeAll).lcErr 0

/-- A halted core continues (R533). -/
def Dev.resumeCore (d : Dev) (c : Nat) : Dev :=
  if d.boot.halted.any (fun h => h.1 == c) then
    (({ d with boot := { d.boot with halted := d.boot.halted.filter (fun h => h.1 != c) } }).setCore c 1).sramChanged c
  else d

/-- DBG_CTL.LOCK (R532, R533): debug closes and every halted core resumes. -/
def Dev.debugLock (d : Dev) : Dev :=
  if !d.pcieUp then d else
  ((d.set Reg.LC_STAT_DEBUG_OPEN 0).each (d.boot.halted.map Prod.fst) Dev.resumeCore).lcErr 0

/-- The 512 PORT_BIND images and 256 DOM_PART images that BIND_DIGEST covers (R535). -/
def Dev.bindBytes (d : Dev) : List Byte :=
  (rangeFrom 0 512).flatMap (fun p => natBytes 8 (Tab.get 0 d.ten.live.bind p)) ++
    (rangeFrom 0 256).flatMap (fun k => natBytes 8 (d.reg (Reg.DOM_PART k)))

/-- The live range-table entries that RT_DIGEST covers (R535). -/
def Dev.rtBytes (d : Dev) : List Byte :=
  d.ten.live.rt.flatMap (fun x => natBytes 4 x.1 ++ natBytes 8 x.2.w0 ++ natBytes 8 x.2.w1 ++ natBytes 8 x.2.w2 ++ natBytes 8 x.2.w3)

/-- Bytes 0 to 783 of the attestation report (R535). -/
def Dev.reportBody (d : Dev) (z : Fuses) (fn : Nat) (nonce : List Byte) : List Byte :=
  let lc := d.get Reg.LC_STAT_STATE
  let img := d.boot.image
  let bun := d.boot.bundle
  let zero := List.replicate 32 0#8
  let coreDigest := fun (c : Nat) =>
    ((bun.bind (fun b => b.images.find? (fun i => i.core == c))).map CoreImage.digest).getD zero
  asciiBytes "GLT9ATST" ++ natBytes 2 1 ++ natBytes 2 fn ++ natBytes 4 8640 ++ padBytes 32 nonce ++ z.uid ++ padBytes 32 d.boot.idKey ++
    natBytes 8 (d.reg Reg.IDENT) ++ natBytes 1 lc ++
    natBytes 1 (d.get Reg.LC_STAT_DEBUG_OPEN + d.get Reg.LC_STAT_DEBUG_EVER * 2 + (if z.secretsOff then 4 else 0)) ++
    natBytes 1 z.floor ++ natBytes 1 (z.field 4) ++ natBytes 4 (z.burnt % 256) ++ natBytes 8 ((d.time - d.boot.released) / 1000) ++
    natBytes 1 (d.get Reg.RESET_CAUSE_CAUSE) ++ natBytes 1 ((img.map ImageRecord.slot).getD 0) ++ natBytes 2 0 ++
    natBytes 4 ((img.map ImageRecord.svn).getD 0) ++ padBytes 32 ((img.map ImageRecord.digest).getD []) ++
    (rangeFrom 0 16).flatMap coreDigest ++ natBytes 4 ((bun.map BundleRecord.svn).getD 0) ++ natBytes 4 0 ++
    natBytes 32 (z.field 1) ++ natBytes 2 d.epoch ++ natBytes 6 0 ++ sha256 d.bindBytes ++ sha256 d.rtBytes

/-- The report with its signature: zero bytes in MANUFACTURE and RMA (R530, R535). -/
def Dev.report8640 (d : Dev) (z : Fuses) (fn : Nat) (nonce : List Byte) : List Byte :=
  let body := d.reportBody z fn nonce
  let lc := d.get Reg.LC_STAT_STATE
  body ++ padBytes 7856 (if lc = 1 || lc = 2 then Config.slhSign z.idSeeds body (asciiBytes "GLT9-ATT") else [])

/-- The ATTEST command (R491, R535): it waits while core 0 does not run. -/
def Dev.attest (d : Dev) (z : Fuses) (c : RingCmd) : Dev :=
  let fn := c.fn.val
  let a := c.arg 8 8
  if !(d.coreUp 0) then d
  else if d.get Reg.LC_STAT_STATE = 4 then d.completeErr c 3
  else if !(taSpace a == 1 || taSpace a == 3) || !d.typedOk fn [] a 8640 true then d.completeErr c 2
  else
    let rep := d.report8640 z fn ((c.args.drop 8).take 32)
    let d := if taSpace a = 1 then d.writeMem (taAddr a) rep else d.toHost (.write fn (taAddr a) rep)
    ((d.bump Reg.ATTESTS).fwRecords 0).completeOk c (natBytes 4 8640)

/-- Whether KEY_LOAD is allowed (R530). -/
def Dev.keyLoadAllowed (d : Dev) (z : Fuses) : Bool :=
  !z.secretsOff && (match d.get Reg.LC_STAT_STATE with
    | 1 => !d.flag Reg.LC_STAT_DEBUG_OPEN && z.programmed 3
    | 2 => true
    | _ => false)

/-- The key-encryption key of a domain and generation (R536). -/
def Fuses.kek (z : Fuses) (dom gen : Nat) : List Byte :=
  hkdfExpand (z.secret 3) (asciiBytes "GLT9-KW" ++ z.uid ++ natBytes 2 dom ++ natBytes 2 gen) 32

/-- The generation after another, 0 skipped (R370). -/
def nextGen (g : Nat) : Nat := if g = 65535 then 1 else g + 1

/-- A record that unwraps, applied by its SLOT (R538); none where the domain's state refuses it. -/
def Dev.applyKey (d : Dev) (dom slot gen : Nat) (key : List Byte) : Option Dev :=
  let cur := d.get (Reg.KEYGEN_CUR_GEN dom)
  let live := d.flag (Reg.KEYGEN_PREV_LIVE dom)
  let pair := d.keyPair dom
  let put := fun (d : Dev) (p : KeyPair) => { d with store := { d.store with keys := Tab.ins d.store.keys dom p } }
  if slot = 0 && cur = 0 && gen != 0 then some ((put d ⟨key, pair.prev⟩).set (Reg.KEYGEN_CUR_GEN dom) gen)
  else if slot = 0 && cur != 0 && gen = nextGen cur && !live then
    let d := ((put d ⟨key, pair.cur⟩).set (Reg.KEYGEN_CUR_GEN dom) gen).set (Reg.KEYGEN_PREV_GEN dom) cur
    let d := { d with boot := { d.boot with rotated := addOnce d.boot.rotated dom } }
    some ((d.set (Reg.KEYGEN_PREV_LIVE dom) 1).startSweep dom)
  else if slot = 1 && cur != 0 && !live && nextGen gen = cur && gen != 0 && decide (dom ∉ d.boot.rotated) then
    let d := ((put d ⟨pair.cur, key⟩).set (Reg.KEYGEN_PREV_GEN dom) gen).set (Reg.KEYGEN_PREV_LIVE dom) 1
    some (d.startSweep dom)
  else none

/-- A wrapped-key record of KEY_LOAD (R536 to R538). -/
def Dev.keyRecord (d : Dev) (z : Fuses) (c : RingCmd) (r : List Byte) : Dev :=
  let dom := c.arg 16 2
  let f := fieldBytes r
  let slot := f 1 1
  let gen := f 4 2
  let reject := fun (d : Dev) (err : Nat) => (d.bump Reg.KEY_REJECTS).completeErr c err
  if f 0 1 != 1 || 1 < slot || f 6 2 != 0 || f 80 16 != 0 || f 2 2 != dom then reject d 2 else
  match kwUnwrap (z.kek dom gen) ((r.drop 8).take 72) with
  | none => reject (d.post [dom, 0] 0x64 [dom, gen]) 2
  | some key =>
    match d.applyKey dom slot gen key with
    | some d => ((d.bump Reg.KEY_LOADS).post [dom, 0] 0x63 [dom, slot, gen]).completeOk c (natBytes 2 (d.get (Reg.KEYGEN_CUR_GEN dom)))
    | none =>
      let rotation := slot = 0 && d.flag (Reg.KEYGEN_PREV_LIVE dom) && gen = nextGen (d.get (Reg.KEYGEN_CUR_GEN dom))
      reject (d.when rotation (fun d => d.bump Reg.ROTATE_REFUSED)) 3

/-- A command's record of `n` bytes at a typed address (R491): device memory gives it at once, a HOST record comes with its read.
Any other address is out of range, and one that cannot be read (R450) counts as such (assumption log 162). -/
def Dev.withRecord (d : Dev) (c : RingCmd) (op a n : Nat) (f : Dev → List Byte → Dev) : Dev :=
  if !d.typedOk c.fn.val [] a n false then d.completeErr c 2
  else if taSpace a = 1 then (match d.readEcc (taAddr a) n with
    | (d, some r) => f d r
    | (d, none) => d.completeErr c 2)
  else if taSpace a = 3 then (d.beginCmd c).hostAsk c.fn.val (taAddr a) n (.record c op)
  else d.completeErr c 2

/-- The KEY_LOAD command (R491, R530, R536 to R538): it waits while core 0 does not run. -/
def Dev.keyLoad (d : Dev) (z : Fuses) (c : RingCmd) : Dev :=
  let fn := c.fn.val
  let dom := c.arg 16 2
  if !(d.coreUp 0) then d
  else if fn != 0 && dom != fn then d.completeErr c 1
  else if !d.keyLoadAllowed z then d.completeErr c 3
  else if 4095 < dom then d.completeErr c 2
  else d.withRecord c 0x10 (c.arg 8 8) 96 (fun d r => d.keyRecord z c r)

end Sys2Proof.Machine
end

