-- ==== Sys2Proof/Machine/RingCmds.lean ====
section
/-! DEFINITION. The ring commands of R491 that no other file gives: composition, leases, GRT registrations and contexts, shadow spans,
pushes, REVERT, ports, extents, windows and the host backing. Every one runs with its command already taken from its ring. -/
namespace Sys2Proof.Machine

/-- A DPA in ARGS (R51, R491): a typed address of SPACE 0x2, or the 52 bits alone where the table names the field a DPA. -/
def dpaArg (v : Nat) : Option Nat :=
  if fieldOf v 52 12 = 0 || fieldOf v 52 12 = 0x200 then some (v % 2 ^ 52) else none

/-- RT_STAGE (R415, R420, R491): a VF stages entries of its own domain, over entries that are INVALID or its own. -/
def Dev.rtStage (d : Dev) (c : RingCmd) : Dev :=
  let fn := c.fn.val
  let ix := c.arg 8 4
  let e : RtEntry := ⟨c.arg 16 8, c.arg 24 8, c.arg 32 8, c.arg 40 8⟩
  let mine := e.dom == fn && (match Tab.find? d.ten.live.rt ix with
    | some x => x.kind == 0 || x.dom == fn
    | none => true)
  if d.get Reg.RT_CAP_TOTAL ≤ ix then d.completeErr c 2
  else if fn != 0 && !mine then d.completeErr c 1
  else (d.stage fn (.entry ix e)).completeOk c []

/-- A COMMIT whose time has come (R421, R428, R491). -/
def Dev.commitNow (d : Dev) (c : RingCmd) : Dev :=
  let (d, ok) := d.commit c.fn.val
  if ok then d.completeOk c (natBytes 2 d.epoch) else d.completeErr c 5

/-- COMMIT (R429, R491): it waits while an old epoch is live. -/
def Dev.commitCmd (d : Dev) (c : RingCmd) : Dev := if d.ten.old.isSome then d.beginCmd c else d.commitNow c

/-- COMMIT commands that waited for the old epoch go on, one for each epoch retired (R429), while their cores run (R502). -/
def Dev.commitWaits (d : Dev) : Dev :=
  if d.ten.old.isSome then d else
  match d.host.started.find? (fun s => s.op == 3 && s.begun && d.coreUp (fabricCore s.cmd.fn.val)) with
  | some s => d.commitNow s.cmd
  | none => d

/-- POOL_SET (R415, R446, R491). -/
def Dev.poolSet (d : Dev) (c : RingCmd) : Dev :=
  let fn := c.fn.val
  let k := c.arg 8 1
  let j := c.arg 9 1
  let dom := c.arg 24 2
  let mine := dom == fn && (match d.poolDom k with
    | some x => x == fn
    | none => true)
  if 7 < j || 4095 < dom || 1 < c.arg 26 1 then d.completeErr c 2
  else if fn != 0 && !mine then d.completeErr c 1
  else ((d.stage fn (.pool (k * 8 + j) (c.arg 16 8))).stage fn (.poolDom k (dom + c.arg 26 1 * 4096))).completeOk c []

/-- LEASE_CLAIM (R439, R440, R491). -/
def Dev.leaseClaim (d : Dev) (c : RingCmd) : Dev :=
  let (d, status, err, epoch) := d.claim c.fn.val (c.args.take 32)
  d.complete c status err 0 (natBytes 4 epoch)

/-- LEASE_RELEASE (R440, R491). -/
def Dev.leaseRelease (d : Dev) (c : RingCmd) : Dev :=
  let (d, status, err) := d.release c.fn.val (c.arg 8 8) (c.arg 16 4) (c.arg 20 1)
  d.complete c status err 0 []

/-- REG_CREATE (R404, R491): the lowest free handle, VALID under its current REG_EPOCH, for the function's domain. -/
def Dev.regCreate (d : Dev) (c : RingCmd) : Dev :=
  let len := c.arg 16 8
  let acc := c.arg 24 1
  match dpaArg (c.arg 8 8) with
  | none => d.completeErr c 2
  | some base =>
    if len = 0 || 2 ^ 52 < base + len || acc = 0 || 3 < acc then d.completeErr c 2 else
    let used := d.grt.regs.map Prod.fst
    let h := freshNumber used 0 (used.length + 1)
    if 65536 ≤ h then d.completeErr c 4 else
    let r : RegRange := ⟨base, len, 0, 0, false⟩
    let d := { d with grt := { d.grt with regs := Tab.ins d.grt.regs h r } }
    let d := ((d.set (Reg.GRT_REG_STATE h) 1).set (Reg.GRT_REG_DOMAIN h) c.fn.val).set (Reg.GRT_REG_ACCESS h) acc
    (d.set (Reg.GRT_REG_INFLIGHT h) 0).completeOk c (natBytes 2 h ++ natBytes 2 (d.get (Reg.GRT_REG_REG_EPOCH h)))

/-- REG_REVOKE (R406, R491): by the owner or PF0. -/
def Dev.regRevoke (d : Dev) (c : RingCmd) : Dev :=
  let h := c.arg 8 2
  if c.fn.val != 0 && d.get (Reg.GRT_REG_DOMAIN h) != c.fn.val then d.completeErr c 1
  else if d.get (Reg.GRT_REG_STATE h) != 1 then d.completeErr c 3
  else
    let e := (d.get (Reg.GRT_REG_REG_EPOCH h) + 1) % 65536
    (((d.set (Reg.GRT_REG_REG_EPOCH h) e).set (Reg.GRT_REG_STATE h) 2).completeOk c (natBytes 2 e)).regFreed h

/-- CTX_ALLOC (R491): the lowest context that is FREE and not reserved. -/
def Dev.ctxAlloc (d : Dev) (c : RingCmd) : Dev :=
  let dom := c.arg 8 2
  let used := d.grt.ctxs.map Prod.fst ++ d.grt.reserved.map Prod.fst
  let k := freshNumber used 0 (used.length + 1)
  if 4095 < dom then d.completeErr c 2
  else if c.fn.val != 0 && dom != c.fn.val then d.completeErr c 1
  else if d.get Reg.GRT_CAP_CTX_MAX ≤ k then d.completeErr c 4
  else ({ d with grt := { d.grt with reserved := Tab.ins d.grt.reserved k dom } }).completeOk c (natBytes 4 k)

/-- Whether every field of a context record lies in its range (R390, R391). -/
def Dev.ctxRecordOk (d : Dev) (r : List Byte) : Bool :=
  let f := fieldBytes r
  let up := f 2 2
  decide (f 0 2 < 4096) && decide (up < 512) && d.isRole up 2 && bitOf (d.get (Reg.UPL_PFC_PFC_EN up)) (fieldOf (f 30 2) 12 3) &&
  decide (f 4 4 < 2 ^ 20) && decide (f 30 2 < 2 ^ 15) && decide (f 32 1 < 64) && decide (f 33 1 < 8) &&
  decide (1 ≤ f 34 2) && decide (f 34 2 ≤ 4096) && decide (f 36 4 < 2 ^ 24) && decide (f 40 4 < 2 ^ 24) && decide (1 ≤ f 44 2) &&
  decide (1 ≤ f 46 1) && decide (f 46 1 ≤ 15) && decide (1 ≤ f 48 2) && decide (1 ≤ f 50 1) && decide (f 50 1 ≤ 16) &&
  f 51 1 == 0 && f 52 76 == 0

/-- The ERR that refuses a context record (R391, R491); 0 none. -/
def Dev.ctxRefused (d : Dev) (fn : Nat) (r : List Byte) : Nat :=
  if fn != 0 && fieldBytes r 0 2 != fn then 1
  else if !d.ctxRecordOk r then 2
  else if bitOf (fieldBytes r 33 1) 2 && !((d.host.backing.map (fun b => decide (d.get Reg.GRT_CAP_CTX_MAX * 128 ≤ b.2))).getD false) then 3
  else 0

/-- CTX_CREATE (R390, R391, R491): a FREE context, not reserved for another domain, becomes READY, its record in its backing. -/
def Dev.ctxCreate (d : Dev) (c : RingCmd) (r : List Byte) : Dev :=
  let k := c.arg 8 4
  let foreign := match Tab.find? d.grt.reserved k with
    | some dom => dom != fieldBytes r 0 2
    | none => false
  if (d.startedOf c).isNone then d
  else if d.ctxRefused c.fn.val r != 0 then d.completeErr c (d.ctxRefused c.fn.val r)
  else if d.get Reg.GRT_CAP_CTX_MAX ≤ k then d.completeErr c 2
  else if foreign then d.completeErr c 1
  else if (d.gctx k).isSome then d.completeErr c 3
  else
    let x := GCtx.fresh r d.time
    let d := { d with grt := { d.grt with ctxs := Tab.ins d.grt.ctxs k x, reserved := Tab.del d.grt.reserved k } }
    (d.ctxStore k x).completeOk c []

/-- CTX_MODIFY (R391, R399, R491): a READY context takes the record, its PSNs kept; a cached one stays cached, in the other die's cache if
its uplink lies there and that cache has room (R392). -/
def Dev.ctxModify (d : Dev) (c : RingCmd) (r : List Byte) : Dev :=
  let k := c.arg 8 4
  if (d.startedOf c).isNone then d
  else if d.ctxRefused c.fn.val r != 0 then d.completeErr c (d.ctxRefused c.fn.val r)
  else
    match d.gctx k with
    | none => d.completeErr c 3
    | some x =>
      if c.fn.val != 0 && x.dom != c.fn.val then d.completeErr c 1
      else if x.state != 1 then d.completeErr c 3
      else
        let y := { x with rec_ := r.take 36 ++ (x.rec_.drop 36).take 8 ++ r.drop 44 }
        let d := d.giveFetch k
        let (d, room) := if x.cached && d.portDie x.uplink != d.portDie y.uplink then d.ctxRoom (d.portDie y.uplink) else (d, true)
        let stay := x.cached && room
        let d := d.onCtx k (fun _ => { y with cached := stay, fetching := none })
        let d := if stay then d else d.ctxStore k y
        (d.completeOk c []).showGrt

/-- CTX_DESTROY (R395, R399, R491): the context drains and its parked packets are discarded; one that was only reserved is released. -/
def Dev.ctxDestroy (d : Dev) (c : RingCmd) : Dev :=
  let k := c.arg 8 4
  match d.gctx k, Tab.find? d.grt.reserved k with
  | some x, _ =>
    if c.fn.val != 0 && x.dom != c.fn.val then d.completeErr c 1
    else if x.state = 2 then d.completeErr c 3
    else
      let d := (d.beginCmd c).onCtx k (fun x => { x with drain := some d.time, cmd := some c, queue := [] })
      let d := (d.ctxState k 2).dropParked k
      if x.quiet then d.freeCtx k else d
  | none, some dom =>
    if c.fn.val != 0 && dom != c.fn.val then d.completeErr c 1
    else ({ d with grt := { d.grt with reserved := Tab.del d.grt.reserved k } }).completeOk c []
  | none, none => d.completeErr c (if d.get Reg.GRT_CAP_CTX_MAX ≤ k then 2 else 3)

/-- Whether the DPAs `[a, e)` of a domain all lie in SHADOWED regions (R354); `k` bounds the entries passed. -/
def Dev.shadowedAll (d : Dev) (dom : Nat) : Nat → Nat → Nat → Bool
  | 0, _, _ => false
  | k + 1, a, e =>
    if e ≤ a then true else
    match d.ten.live.byDpa dom a with
    | some (_, r) => r.kind == 1 && r.shadowed && d.shadowedAll dom k ((r.dpaPage + r.pages) * 0x20_0000) e
    | none => false

/-- Whether a span record is well-formed (R354). -/
def spanOk (r : List Byte) : Bool :=
  let f := fieldBytes r
  let page := 2 ^ f 16 1
  decide (12 ≤ f 16 1) && decide (f 16 1 ≤ 21) && decide (f 0 8 + f 8 8 ≤ 2 ^ 52) && f 0 8 % page == 0 && f 8 8 % page == 0 &&
  f 8 8 != 0 && decide (1 ≤ f 17 1) && decide (f 17 1 ≤ 7) && decide (32 ≤ f 18 2) && decide (f 18 2 ≤ 512) && f 18 2 % 32 == 0 &&
  (if f 20 1 = 0 then f 21 1 == 0 else f 20 1 == 1 && decide (1 ≤ f 21 1) && decide (f 21 1 ≤ 128)) && f 22 10 == 0

/-- The shadows and builds of a span go (R354). -/
def Dev.dropSpanPages (d : Dev) (s : Span) : Dev :=
  let inside := fun (ppa : Nat) => match d.spanPage ppa with
    | some (_, _, x) => decide (x = s)
    | none => false
  { d with store := { d.store with
    shadows := d.store.shadows.filter (fun x => !inside x.ppa), builds := d.store.builds.filter (fun b => !inside b.ppa) } }

/-- The span of a domain with a base. -/
def Dev.spanAt (d : Dev) (dom base : Nat) : Option (Nat × Span) := d.store.spans.find? (fun x => x.2.dom == dom && x.2.base == base)

/-- A span removed with its shadows. -/
def Dev.removeSpan (d : Dev) (x : Nat × Span) : Dev :=
  let d := d.dropSpanPages x.2
  { d with store := { d.store with spans := Tab.del d.store.spans x.1 } }

/-- SHADOW_ADD (R354, R491): the span of the function's domain is recorded; one of the same BASE is replaced. -/
def Dev.shadowAdd (d : Dev) (c : RingCmd) (r : List Byte) : Dev :=
  let f := fieldBytes r
  let fn := c.fn.val
  if (d.startedOf c).isNone then d
  else if !spanOk r || !d.shadowedAll fn (d.ten.live.rt.length + 1) (f 0 8) (f 0 8 + f 8 8) then d.completeErr c 2
  else
    let d := match d.spanAt fn (f 0 8) with
      | some x => d.removeSpan x
      | none => d
    if 65536 ≤ d.store.spans.length then d.completeErr c 4 else
    let key := freshNumber (d.store.spans.map Prod.fst) 0 (d.store.spans.length + 1)
    let s : Span := ⟨fn, f 0 8, f 8 8, f 16 1, f 17 1, f 18 2, f 20 1, f 21 1⟩
    ({ d with store := { d.store with spans := Tab.ins d.store.spans key s } }).completeOk c []

/-- SHADOW_DEL (R491). -/
def Dev.shadowDel (d : Dev) (c : RingCmd) : Dev :=
  match (dpaArg (c.arg 8 8)).bind (d.spanAt c.fn.val) with
  | some x => (d.removeSpan x).completeOk c []
  | none => d.completeErr c 2

/-- WPUSH (R358, R491): a VF pushes from its own windows to its own ports. -/
def Dev.wpushCmd (d : Dev) (c : RingCmd) : Dev :=
  let fn := c.fn.val
  let a := c.arg 8 8
  let n := c.arg 24 8
  let g := c.arg 32 2
  if g < 8192 || 16383 < g || taSpace a != 1 || !(taFormed a) || 2 ^ 52 < c.arg 16 8 + n || !(d.dmaNamed (taAddr a) n) then d.completeErr c 2
  else if fn != 0 && (!(d.inWindow fn (taAddr a) (max 1 n) false) || (d.groupPorts g).any (fun p => d.boundDom p != some fn)) then
    d.completeErr c 1
  else if d.flag Reg.WPUSH_STAT_BUSY then d.completeErr c 3
  else (d.beginCmd c).startPush (some c) (taAddr a) (c.arg 16 8) n g

/-- A REVERT completes when done (R491): at once, or after the requests that reached its lines first (R158). -/
def Dev.revertBegun (d : Dev) (c : RingCmd) : Dev := if d.recalling 6 none then d.beginCmd c else d.completeOk c []

/-- REVERT (R157, R491): the pages of the range that LOCAL entries of the function's domain map. -/
def Dev.revertCmd (d : Dev) (c : RingCmd) : Dev :=
  match dpaArg (c.arg 8 8) with
  | none => d.completeErr c 2
  | some a =>
    let first := pageOf a
    let n := c.arg 16 4
    let mine := d.ten.live.rt.filter (fun x => x.2.kind == 1 && x.2.dom == c.fn.val && meets x.2.dpaPage x.2.pages first n)
    (d.each mine (fun d x =>
      let lo := max first x.2.dpaPage
      let hi := min (first + n) (x.2.dpaPage + x.2.pages)
      d.revert (x.2.ppaPage + (lo - x.2.dpaPage)) (hi - lo) (fun _ => true))).revertBegun c

/-- REVERT commands complete once no line of a REVERT waits any longer (R157, R491). -/
def Dev.revertsOver (d : Dev) : Dev :=
  if d.recalling 6 none then d
  else d.each (d.host.started.filter (fun s => s.op == 18 && s.begun)) (fun d s => d.completeOk s.cmd [])

/-- ADMIT (R465, R491). -/
def Dev.admitCmd (d : Dev) (c : RingCmd) : Dev :=
  let p := c.arg 8 2
  if 511 < p || !(d.isGlois p) then d.completeErr c 2
  else if c.fn.val != 0 && !(d.isRole p 0 && d.boundDom p == some c.fn.val) then d.completeErr c 1
  else if !(d.fenced p) then d.completeErr c 3
  else (d.admitPort p).completeOk c []

/-- FENCE (R464, R491): a port already FENCED is declared already. -/
def Dev.fenceCmd (d : Dev) (c : RingCmd) : Dev :=
  let p := c.arg 8 2
  if c.fn.val != 0 then d.completeErr c 1
  else if 511 < p || !(d.isGlois p) then d.completeErr c 2
  else
    let d := d.declareDead p 3
    d.completeOk c (natBytes 2 (d.get (Reg.PORT_FENCE_FENCE_EPOCH p)))

/-- EXTENT (R426, R432, R491). -/
def Dev.extentCmd (d : Dev) (c : RingCmd) : Dev :=
  let op := fieldOf (c.arg 8 8) 16 2
  if c.fn.val != 0 then d.completeErr c 1
  else if op = 0 || op = 3 then d.completeErr c 2
  else
    let (d, ok) := d.extCmd (c.arg 8 8)
    if ok then d.completeOk c [] else d.completeErr c 3

/-- A window as a register holds it: domain, base and size in 2 MiB (R446). -/
def winOf (v : Nat) : Nat × Nat × Nat := (fieldOf v 34 12, fieldOf v 0 17, fieldOf v 17 17)

/-- WIN_w (R424): a write that changes a window of a domain with an admitted heat, or that would make windows of different domains
overlap, is ignored and counted. The result says whether it was applied. -/
def Dev.winWrite (d : Dev) (w v : Nat) : Dev × Bool :=
  let v := v % 2 ^ 47
  let old := d.reg (Reg.WIN w)
  let (dom, base, size) := winOf v
  let busy := fun (x : Nat) => let (k, _, n) := winOf x; n != 0 && d.heats.list.any (fun h => h.fn == k)
  let clash := size != 0 && (d.regs.filter (fun p => decide (0x114_0000 ≤ p.1) && decide (p.1 < 0x114_0000 + 8 * 8192))).any (fun p =>
    let (k, b, n) := winOf p.2
    p.1 != (Reg.WIN w).addr && k != dom && n != 0 && meets b n base size)
  if v = old then (d, true)
  else if busy old || busy v || clash then (d.bump Reg.WIN_REFUSED, false)
  else (d.setReg (Reg.WIN w) v, true)

/-- WINDOW (R424, R491). -/
def Dev.windowCmd (d : Dev) (c : RingCmd) : Dev :=
  let w := c.arg 8 2
  if c.fn.val != 0 then d.completeErr c 1
  else if 8191 < w || 2 ^ 47 ≤ c.arg 16 8 then d.completeErr c 2
  else
    let (d, ok) := d.winWrite w (c.arg 16 8)
    if ok then d.completeOk c [] else d.completeErr c 3

/-- HOST_BACKING (R392, R491): the region is recorded. -/
def Dev.hostBacking (d : Dev) (c : RingCmd) : Dev :=
  let a := c.arg 8 8
  if c.fn.val != 0 then d.completeErr c 1
  else if taSpace a != 3 || !(taFormed a) || 2 ^ 57 < taAddr a + c.arg 16 8 then d.completeErr c 2
  else ({ d with host := { d.host with backing := some (taAddr a, c.arg 16 8) } }).completeOk c []

/-- A command whose record has come from the host goes on (R490, R491). -/
def Dev.recordCame (d : Dev) (z : Fuses) (c : RingCmd) (op : Nat) (r : List Byte) : Dev :=
  match op with
  | 0x0B => d.ctxCreate c r
  | 0x0C => d.ctxModify c r
  | 0x0E => d.shadowAdd c r
  | _ => if (d.startedOf c).isSome then d.keyRecord z c r else d

/-- A command goes on if the core that serves it runs, with core 0 for KEY_LOAD (R497); else it is to run again (R502). -/
def Dev.servedOr (d : Dev) (c : RingCmd) (op : Nat) (f : Dev → Dev) : Dev :=
  if d.coreUp (fabricCore c.fn.val) && (op != 0x10 || d.coreUp 0) then f d else d.againCmd c

/-- HOST_READ_COMPLETION (R477), with the records that commands name in host memory. -/
def Dev.hostCompletion (d : Dev) (z : Fuses) (tag : Nat) (answer : Option (List Byte)) : Dev :=
  match d.host.reads.find? (fun r => r.tag == tag), answer with
  | some r, some bs => (match r.use with
    | .record c op => (d.hostReadDone tag answer).servedOr c op (fun d => d.recordCame z c op (padBytes r.len bs))
    | _ => d.hostReadDone tag answer)
  | _, _ => d.hostReadDone tag answer

end Sys2Proof.Machine
end

