-- ==== Sys2Proof/Machine/Settle.lean ====
section
/-! DEFINITION. What a command sets going in the part beyond its own block, carried on until nothing is left to do: discarded and
failed frames are answered (R121, R192), lasting faults declared and spared (R452, R453), ports declared dead (R463), the homes'
completions handed to the engines that asked, and waiting work resumed. -/
namespace Sys2Proof.Machine

/-- A result that will not be delivered (R192, R330, R464): its descriptor takes the code and REASON, a push drops the member. -/
def Dev.resultLost (d : Dev) (r : ResOut) (code reason : Nat) : Dev :=
  let d := d.dropResult r
  match r.use with
  | .push n _ => d.pushAnswered n r.port true
  | .anvil t tag =>
    let ix := (d.heats.list.findSome? (fun h => (h.acks.find? (fun a => a.tag == tag)).map Ack.ix)).getD 0
    let d := d.onStage t ix (fun s => if s.wrote || reason = 0 then s else { s with reason := reason })
    let d := d.ackDone tag code
    d.when (reason = 5) (fun d => d.failStage t ix code reason)

/-- A discarded OPS_RESULT (R192, R330, R358): sent again up to three times. -/
def Dev.resultDropped (d : Dev) (src : Endpoint) (p : Nat) (m : Msg) (f : Frame) : Dev :=
  match d.resultOf p m.tag with
  | none => d
  | some r =>
    if d.fenced p then d.resultLost r 3 0
    else if r.tries < 3 then
      let results := mapFirst (fun x => decide (x = r)) (fun x => { x with tries := x.tries + 1 }) d.results
      ({ d with results := results }).send src (.port p) 4 m.tc { f with born := d.time }
    else d.resultLost r 1 5

/-- A request of a home or of Quench to a tray has been discarded (R192): its engine is told POISON. -/
def Dev.requestDropped (d : Dev) (p : Nat) (m : Msg) : Dev :=
  match d.outOf p m.tag with
  | none => d
  | some o =>
    let d := d.dropOut o
    match o.use with
    | .fill e => d.fillAnswered e o.line p 1
    | .read _ => d.readFailed o.line 1
    | .write _ | .flush _ => d.copyDone o.line p 1
    | .memside => d.memsideNext o.line 1 []

/-- A line's work with every request of a read taken from its port: what the home still does for it goes to no one. -/
def Work.orphan (p tag : Nat) (w : Work) : Work :=
  let f := fun r : HomeReq => if decide (r.who = .port p) && r.tag == tag then { r with who := .takeBack 0 } else r
  { w with req := f w.req, members := w.members.map f }

/-- Whether a frame is DATA of a TAG. -/
def isData (tag : Nat) (f : Frame) : Bool := (bodyMsg f.body).any (fun m => m.cls == 1 && m.opcode == 0 && m.tag == tag)

/-- One RSP CMP ends every line of a read not yet returned (R105, R192): its DATA leaves the queues, and no later line is sent. -/
def Dev.endRead (d : Dev) (p tag : Nat) : Dev :=
  let lines := d.home.lines.map (fun x : Nat × Line => (x.1, { x.2 with
    busy := x.2.busy.map (fun b => { b with work := b.work.orphan p tag }), queue := x.2.queue.map (Work.orphan p tag) }))
  let d := { d with home := { d.home with lines := lines } }
  let d := d.each (d.sw.cells.filter (fun c => c.dst == .port p && c.frames.any (isData tag))) (fun d c =>
    let rest := c.frames.filter (fun f => !isData tag f)
    if rest = [] then d.dropCell c
    else { d with sw := { d.sw with cells := mapFirst (fun x => decide (x = c)) (fun x => { x with frames := rest }) d.sw.cells } })
  d.endFlight (.port p) tag

/-- Of several DATA of one read discarded together the first stands for all (R105). -/
def firstDrops (l : List Arrival) : List Arrival :=
  l.foldl (fun acc a =>
    let again := match bodyMsg a.frame.body with
      | some m => m.cls == 1 && m.opcode == 0 && acc.any (fun b => decide (b.at_ = a.at_) && isData m.tag b.frame)
      | none => false
    if again then acc else acc ++ [a]) []

/-- A frame discarded by ageing, push-out or a fence (R192, R464). Toward a fenced tray the fence has settled the request. -/
def Dev.answerDropped (d : Dev) (a : Arrival) : Dev :=
  match a.at_, bodyMsg a.frame.body with
  | .port p, some m =>
    if m.cls = 4 && d.isRole p 0 then d.resultDropped a.src p m a.frame
    else if d.fenced p then d
    else if m.cls = 1 then (d.endRead p m.tag).sendMsg a.src p (rspMsg 0 m.tag m.tc 1) a.frame.dom
    else if m.cls = 3 || m.cls = 4 then d.requestDropped p m
    else d
  | _, _ => d

/-- A frame from a port whose parity failed in the core (R121): a request draws RSP REPLAY three times and then POISON; a tray is
asked again. -/
def Dev.answerFailed (d : Dev) (a : Arrival) : Dev :=
  match a.src, bodyMsg a.frame.body with
  | .port p, some m =>
    if m.cls = 1 then (if m.opcode = 0 then d.trayData p m true else d.trayAtomic p m true)
    else
      let d := d.bump (Reg.E2E_REPLAY p)
      let n := if m.replay then Tab.get 0 (d.link p).replays m.tag else 0
      if 3 ≤ n then d.cmpTo p m 1
      else
        let d := (d.waitReissue (.port p) m.tag).sendMsg .core p (rspMsg 3 m.tag m.tc 0) m.domain
        d.onLink p (fun l => { l with replays := Tab.put 0 l.replays m.tag (n + 1) })
  | _, _ => d

/-- A lasting fault declared; with AUTO_SPARE a spare takes over (R452, R453). -/
def Dev.actOnFault (d : Dev) (cls res : Nat) : Dev :=
  let d := d.declareLasting cls res
  let d := match cls, d.laneUser res with
    | 0, some (p, l) => d.set (Reg.LANE_FAILED p l) 1
    | _, _ => d
  if !d.flag Reg.RAS_CTL_AUTO_SPARE then d
  else match cls with
  | 0 => (match d.laneUser res with
    | some (p, l) => d.spareLane p l
    | none => d)
  | 1 => d.tileFault res
  | 2 => d.drainBank res
  | 3 => d.sparePlane res
  | 4 =>
    let page := ((d.store.frames.find? (fun f => d.areaBase 7 / 0x20_0000 + f.slot == res)).map TierFrame.page)
    let d := d.retireFrame res
    (match page with
     | some k => d.tierNext k
     | none => d)
  | _ => d

/-- The faults whose die has a RAS core running (R497). -/
def Dev.dueNow (d : Dev) : List (Nat × Nat) :=
  d.ras.due.filter (fun x => d.rasServes (d.faultDie x.1 x.2))

/-- A home's completion for an engine that is neither a tile nor GRT. -/
def Dev.engineMail (d : Dev) (m : Mail) : Dev :=
  match m.who with
  | .takeBack 1 => d.modeChanged m.tag
  | .takeBack 2 => d.roomMade m.tag
  | .takeBack 3 => d.roomMade m.tag
  | .resync i => (d.resyncDone i m.tag m.status).endResyncs
  | .sweep dom => d.sweepMail dom m.tag m.status
  | .tier page => d.tierMail page m.tag m.op m.status
  | .shadow page => d.shadowMail page m.status m.data
  | _ => d

/-- Whether a completion is for a tile or for GRT. -/
def Mail.direct (m : Mail) : Bool :=
  match m.who with
  | .tile _ => true
  | .grt _ => true
  | _ => false

/-- The homes' completions handed out. -/
def Dev.mailOut (d : Dev) : Dev :=
  let d := (d.tileMails).grtMails
  let mine := d.home.mail.filter (fun m => !m.direct)
  let d := { d with home := { d.home with mail := d.home.mail.filter Mail.direct } }
  d.each mine Dev.engineMail

/-- Whether the T9 answers a request of its tier manager or key sweep without serving it: the extent of its line has been fenced since it
was sent (R419, R434). -/
def Dev.tooLate (d : Dev) (r : HomeReq) : Bool :=
  match r.who, d.extentOf r.ppa with
  | .sweep _, some e => d.extState e == 2 || d.extState e == 3
  | .tier _, some e => d.extState e == 3
  | .shadow _, some e => d.extState e == 3
  | _, _ => false

/-- A frame between two engines has crossed (R165, R567). -/
def Dev.innerCame (d : Dev) (a : Arrival) (w : Inner) : Dev :=
  match w with
  | .ask r => if d.tooLate r then d.mailTo r 0 [] else d.homeArrive r
  | .answer m => { d with home := { d.home with mail := d.home.mail ++ [m] } }
  | .land t f => d.landSpa t f
  | .store tag addr ctr dom gen bytes => d.forgeStore a.at_ a.src tag addr ctr dom gen bytes
  | .fetch tag addr len => d.forgeFetch a.at_ a.src tag addr len a.frame.dom
  | .came tag status bytes => (match a.at_ with
    | .tile t => d.tileMail t tag status bytes
    | _ => d)
  | .done tag => (match a.at_ with
    | .tile t => d.tileMail t tag 0 []
    | _ => d)
  | .host fn addr len bytes use => (d.when (bytes != []) (fun d => d.toHost (.write fn addr bytes))).hostAsk fn addr len use
  | .context c got => d.ctxCame c got
  | .remote r => { d with grt := { d.grt with asks := d.grt.asks ++ [r] } }
  | .part tag off bytes => (match a.at_ with
    | .tile t => d.tilePart t tag off bytes
    | _ => d)
  | .piece => d

/-- What a frame between two engines stands for. -/
def Arrival.inner (a : Arrival) : Option Inner :=
  match a.frame.body with
  | .inner _ w => some w
  | _ => none

/-- The frames between engines that the crossbar has brought. -/
def Dev.innerArrivals (d : Dev) : Dev :=
  let mine := d.sw.arrived.filter (fun a => a.inner.isSome)
  let d := { d with sw := { d.sw with arrived := d.sw.arrived.filter (fun a => a.inner.isNone) } }
  d.each mine (fun d a => match a.inner with
    | some w => d.innerCame a w
    | none => d)

/-- Frames discarded and frames failed are answered. -/
def Dev.answerFrames (d : Dev) : Dev :=
  let drops := firstDrops d.sw.dropped
  let fails := d.sw.failed
  let d := { d with sw := { d.sw with dropped := [], failed := [] } }
  (d.each drops Dev.answerDropped).each fails Dev.answerFailed

/-- Lasting faults and declarations are acted on; results to a port that is FENCED are lost (R464). -/
def Dev.faultsOut (d : Dev) : Dev :=
  let d := d.temperOn
  let due := d.dueNow
  let dead := d.ras.dead
  let d := { d with ras := { d.ras with due := d.ras.due.filter (fun x => decide (x ∉ due)), dead := [] } }
  let d := (d.each due (fun d x => d.actOnFault x.1 x.2)).each dead (fun d x => d.declareDead x.1 x.2)
  d.each (d.results.filter (fun r => d.fenced r.port)) (fun d r => d.resultLost r 3 0)

/-- Waiting work goes on: release holds, tiles, GRT, pushes, ring commands, the old epoch, sweeps with nothing left. -/
def Dev.workOn (d : Dev) : Dev :=
  let d := d.each (d.links.map Prod.fst) Dev.passHolds
  let d := ((((d.fencedReduces).tilesOn).retirePlacements).grtOn).pushesOn
  let d := d.each d.pfcPorts (fun d p => d.pfcOn false p)
  let d := d.each ((d.store.sweeps.filter (fun s => s.pages == [] && s.out == [])).map Sweep.dom) Dev.retireKey
  let d := (d.set Reg.DIR_STAT_MODE_CHANGE_BUSY (if d.recalling 1 none then 1 else 0)).showReverts
  (((((d.recallsGoOn).retireEpoch 0).commitWaits).revertsOver).endMalformed (d.host.started.length + 1)).journalOut

/-- Whether anything is left that another round could carry on at once. -/
def Dev.stirring (d : Dev) : Bool :=
  d.home.mail != [] || d.sw.dropped != [] || d.sw.failed != [] || d.ras.dead != [] || d.dueNow != [] || d.temperNow != [] ||
  d.links.any (fun l => l.2.holds.any (fun h => h.after == []))

/-- Rounds until nothing is left to do at once. -/
def Dev.rounds (d : Dev) : Nat → Dev
  | 0 => d
  | n + 1 =>
    let d := (((((d.innerArrivals).grtArrivals).answerFrames).faultsOut).mailOut).workOn
    if d.stirring then d.rounds n else d

/-- Whether an arrival is for GRT, or a frame between engines. -/
def Arrival.atOnce (a : Arrival) : Bool :=
  match a.at_ with
  | .grt _ => true
  | _ => a.inner.isSome

/-- Whether the part holds no work that a round could carry on: no completion, declaration or held message waits, no tile, context, push,
sweep, ring command, old epoch or drain is active, no frame waits where PFC or GRT watches, and MODE_CHANGE_BUSY and REVERT_BUSY show the recalls and REVERTs under way. -/
def Dev.calm (d : Dev) : Bool :=
  !d.stirring && !(d.sw.arrived.any Arrival.atOnce) && (d.sw.cells == [] || d.pfcPorts == []) && d.heats.runs == [] && d.heats.gens == [] &&
  d.grt.ctxs == [] && d.grt.asks == [] && d.grt.xoff == [] && d.grt.missq == [] && d.results == [] && d.store.pushes == [] &&
  d.store.sweeps == [] && d.host.started == [] && d.ten.old.isNone && !(d.ten.scrubs.any (fun s => d.extState s.ext == 2)) && (d.flag Reg.DIR_STAT_MODE_CHANGE_BUSY == d.recalling 1 none) &&
  (d.flag Reg.DIR_STAT_REVERT_BUSY == d.recalling 6 none)

/-- The end of every command: what it has set going is carried on as far as it goes at once. -/
def Dev.settle (d : Dev) : Dev := if d.calm then d else d.rounds 64

/-- A command takes effect at `t`, and what it has set going is carried on. -/
def act (s : State) (t : Nat) (f : Dev → Dev) : Host.Outcome State Fault Refusal := onDev s t (fun d => (f d).settle)

/-- A register written by PF0 through BAR0: the host reaches it once the reset is released (R478, R513). -/
def Dev.viaBar (d : Dev) (f : Dev → Dev) : Dev := if d.pcieUp then f d else d

end Sys2Proof.Machine
end

