-- ==== Sys2Proof/Machine/CommandCmds.lean ====
section
/-! DEFINITION. The meanings of the commands of the command rings (R491), each at its start: its opcode, and what it does. -/
namespace Sys2Proof.Machine

/-- NOP (R491). -/
def execNop (c : RingCmd) (t : Nat) (s : State) : Host.Outcome State Fault Refusal :=
  act s t (fun d => d.ringOp c 0 (fun d => d.completeOk c []))

/-- RT_STAGE (R491). -/
def execRtStage (c : RingCmd) (t : Nat) (s : State) : Host.Outcome State Fault Refusal :=
  act s t (fun d => d.ringOp c 2 (fun d => d.rtStage c))

/-- COMMIT (R428). -/
def execCommit (c : RingCmd) (t : Nat) (s : State) : Host.Outcome State Fault Refusal :=
  act s t (fun d => d.ringOp c 3 (fun d => d.commitCmd c))

/-- DISCARD (R491). -/
def execDiscard (c : RingCmd) (t : Nat) (s : State) : Host.Outcome State Fault Refusal :=
  act s t (fun d => d.ringOp c 4 (fun d => (d.unstage c.fn.val).completeOk c []))

/-- POOL_SET (R491). -/
def execPoolSet (c : RingCmd) (t : Nat) (s : State) : Host.Outcome State Fault Refusal :=
  act s t (fun d => d.ringOp c 5 (fun d => d.poolSet c))

/-- LEASE_CLAIM (R440). -/
def execLeaseClaim (c : RingCmd) (t : Nat) (s : State) : Host.Outcome State Fault Refusal :=
  act s t (fun d => d.ringOp c 6 (fun d => d.leaseClaim c))

/-- LEASE_RELEASE (R440). -/
def execLeaseRelease (c : RingCmd) (t : Nat) (s : State) : Host.Outcome State Fault Refusal :=
  act s t (fun d => d.ringOp c 7 (fun d => d.leaseRelease c))

/-- REG_CREATE (R404). -/
def execRegCreate (c : RingCmd) (t : Nat) (s : State) : Host.Outcome State Fault Refusal :=
  act s t (fun d => d.ringOp c 8 (fun d => d.regCreate c))

/-- REG_REVOKE (R406). -/
def execRegRevoke (c : RingCmd) (t : Nat) (s : State) : Host.Outcome State Fault Refusal :=
  act s t (fun d => d.ringOp c 9 (fun d => d.regRevoke c))

/-- CTX_ALLOC (R491). -/
def execCtxAlloc (c : RingCmd) (t : Nat) (s : State) : Host.Outcome State Fault Refusal :=
  act s t (fun d => d.ringOp c 10 (fun d => d.ctxAlloc c))

/-- CTX_CREATE (R391). -/
def execCtxCreate (c : RingCmd) (t : Nat) (s : State) : Host.Outcome State Fault Refusal :=
  act s t (fun d => d.ringOp c 11 (fun d => d.withRecord c 0x0B (c.arg 16 8) 128 (fun d r => d.ctxCreate c r)))

/-- CTX_MODIFY (R491). -/
def execCtxModify (c : RingCmd) (t : Nat) (s : State) : Host.Outcome State Fault Refusal :=
  act s t (fun d => d.ringOp c 12 (fun d => d.withRecord c 0x0C (c.arg 16 8) 128 (fun d r => d.ctxModify c r)))

/-- CTX_DESTROY (R399). -/
def execCtxDestroy (c : RingCmd) (t : Nat) (s : State) : Host.Outcome State Fault Refusal :=
  act s t (fun d => d.ringOp c 13 (fun d => d.ctxDestroy c))

/-- SHADOW_ADD (R354). -/
def execShadowAdd (c : RingCmd) (t : Nat) (s : State) : Host.Outcome State Fault Refusal :=
  act s t (fun d => d.ringOp c 14 (fun d => d.withRecord c 0x0E (c.arg 8 8) 32 (fun d r => d.shadowAdd c r)))

/-- SHADOW_DEL (R491). -/
def execShadowDel (c : RingCmd) (t : Nat) (s : State) : Host.Outcome State Fault Refusal :=
  act s t (fun d => d.ringOp c 15 (fun d => d.shadowDel c))

/-- KEY_LOAD (R538). -/
def execKeyLoad (c : RingCmd) (t : Nat) (s : State) : Host.Outcome State Fault Refusal :=
  act s t (fun d => d.ringOp c 16 (fun d => d.keyLoad s.fuse c))

/-- WPUSH (R358). -/
def execWpush (c : RingCmd) (t : Nat) (s : State) : Host.Outcome State Fault Refusal :=
  act s t (fun d => d.ringOp c 17 (fun d => d.wpushCmd c))

/-- REVERT (R157). -/
def execRevert (c : RingCmd) (t : Nat) (s : State) : Host.Outcome State Fault Refusal :=
  act s t (fun d => d.ringOp c 18 (fun d => d.revertCmd c))

/-- ADMIT (R465). -/
def execAdmit (c : RingCmd) (t : Nat) (s : State) : Host.Outcome State Fault Refusal :=
  act s t (fun d => d.ringOp c 19 (fun d => d.admitCmd c))

/-- FENCE (R464). -/
def execFence (c : RingCmd) (t : Nat) (s : State) : Host.Outcome State Fault Refusal :=
  act s t (fun d => d.ringOp c 20 (fun d => d.fenceCmd c))

/-- EXTENT (R491). -/
def execExtent (c : RingCmd) (t : Nat) (s : State) : Host.Outcome State Fault Refusal :=
  act s t (fun d => d.ringOp c 21 (fun d => d.extentCmd c))

/-- WINDOW (R424). -/
def execWindow (c : RingCmd) (t : Nat) (s : State) : Host.Outcome State Fault Refusal :=
  act s t (fun d => d.ringOp c 22 (fun d => d.windowCmd c))

/-- HOST_BACKING (R491). -/
def execHostBacking (c : RingCmd) (t : Nat) (s : State) : Host.Outcome State Fault Refusal :=
  act s t (fun d => d.ringOp c 23 (fun d => d.hostBacking c))

/-- ATTEST (R535). -/
def execAttest (c : RingCmd) (t : Nat) (s : State) : Host.Outcome State Fault Refusal :=
  act s t (fun d => d.ringOp c 24 (fun d => d.attest s.fuse c))

/-- CORE_RESTART (R501). -/
def execCoreRestart (c : RingCmd) (t : Nat) (s : State) : Host.Outcome State Fault Refusal :=
  act s t (fun d => d.ringOp c 25 (fun d => d.coreRestart c))

end Sys2Proof.Machine
end

