-- ==== Sys2Proof/Machine/Registers.lean ====
section
/-! DEFINITION. BAR0 (R14, R15, R38 to R40, R478): what a register reads as, and what a write of one does. -/
namespace Sys2Proof.Machine

/-- The 64-bit word of four stripe ports (R379). -/
def stripeWord (ports : List Nat) (k : Nat) : Nat := sumBy (fun i => ports.getD (4 * k + i) 0 * 2 ^ (16 * i)) (rangeFrom 0 4)

/-- The registers that show the live map (R379, R439, R444, R446). -/
def Dev.mapView (d : Dev) (r : RegRow) (is : List Nat) (v : Nat) : Nat :=
  let i := is.getD 0 0
  let j := is.getD 1 0
  if r.base = (Reg.PORT_BIND 0).addr then (if d.isRole i 0 then Tab.get 0 d.ten.live.bind i else 0)
  else if r.base = (Reg.POOL 0 0).addr then Tab.get 0 d.ten.live.pools (i * 8 + j)
  else if r.base = (Reg.POOL_DOM 0).addr then Tab.get 0 d.ten.live.poolDom i
  else if r.base = (Reg.STRIPE_HDR 0).addr then (d.ten.live.set i).length
  else if r.base = (Reg.STRIPE_PORTS 0 0).addr then stripeWord (d.ten.live.set i) j
  else if r.base = (Reg.OWN 0 0).addr then d.leaseWord i j
  else v

/-- The registers of a function block that show the ring RING_SEL names, and FN_STAT (R506). -/
def Dev.fnView (d : Dev) (r : RegRow) (f v : Nat) : Nat :=
  let ring := match d.selected f with
    | some (kind, index) => d.ring f kind index
    | none => Ring.idle
  if r.base = (Reg.RING_CFG0 0).addr then ring.cfg0
  else if r.base = (Reg.RING_CFG1 0).addr then ring.cfg1
  else if r.base = (Reg.RING_STAT 0).addr then ring.pi + ring.ci * 2 ^ 16 + (if ring.phase then 2 ^ 32 else 0)
  else if r.base = (Reg.FN_STAT 0).addr then
    fieldOf v 1 3 * 2 + (if d.running && (f == 0 || d.host.vfEnable) then 1 else 0) + d.regionSize f / 65536 % 65536 * 16
  else v

/-- The registers that show a token bucket as it stands now (R220, R221, R223). -/
def Dev.bucketView (d : Dev) (r : RegRow) (is : List Nat) (v : Nat) : Nat :=
  let p := is.getD 0 0
  let t := is.getD 1 0
  if r.base = (Reg.SHAPE_STAT 0 0).addr then (d.setShaper p t (d.shaper p t)).reg (Reg.SHAPE_STAT p t)
  else if r.base = (Reg.POL_STAT 0).addr then (d.setPolicer p (d.policer p)).reg (Reg.POL_STAT p)
  else if r.base = (Reg.QSHAPE_STAT 0).addr then (if d.isRole p 1 then (d.setQuencher p (d.quencher p)).reg (Reg.QSHAPE_STAT p) else 0)
  else v

/-- Whether a register reads 0 and ignores writes on its port (R128, R223, R413). -/
def Dev.deadPort (d : Dev) (r : RegRow) (is : List Nat) : Bool :=
  let p := is.getD 0 0
  let o := r.base - 0x10_0000
  if 0x10_0000 ≤ r.base && r.base < 0x10_0200 then
    (d.isRole p 2 || d.isRole p 3) &&
      !(decide (o = 0) || decide (o = 8) || decide (o = 0x10) || decide (o = 0x90) || decide (0x100 ≤ o ∧ o < 0x180))
  else if 0xB1_0000 ≤ r.base && r.base < 0xB1_0010 then !(d.isRole p 1)
  else if 0x130_1000 ≤ r.base && r.base < 0x130_1040 then !(d.isRole p 2)
  else false

/-- What the 64-bit register at a BAR0 address reads as (R14, R15, R39, R508): write-only fields and reserved bits read 0, counters
read their frozen value under TEL_SNAP.HOLD, and the trace buffer lies in device memory. -/
def Dev.regRead (d : Dev) (a : Nat) : Nat :=
  if a % 8 != 0 then 0
  else if 0x300_0000 ≤ a && a < 0x400_0000 then bytesNat (d.readMem (d.traceBase + (a - 0x300_0000)) 8)
  else match Reg.find a with
  | none => 0
  | some (r, is) =>
    if d.deadPort r is then 0 else
    let now := d.reg ⟨a, r.rst⟩
    let cnt := r.mask (fun x => x == .cnt)
    let held := match d.snap with
      | some old => Nat.lor (Nat.land now (2 ^ 64 - 1 - cnt)) (Nat.land ((Tab.find? old a).getD r.rst) cnt)
      | none => now
    let v := d.bucketView r is (d.fnView r (is.getD 0 0) (d.mapView r is held))
    Nat.land v (r.mask (fun x => x != .wo))

/-- A register's own bits after a write of `v` under the byte mask `m` (R15): RW fields take it, a 1 clears an RW1C bit. -/
def RegRow.written (r : RegRow) (old v m : Nat) : Nat :=
  let rw := Nat.land m (r.mask (fun x => x == .rw))
  let clear := Nat.land (Nat.land v m) (r.mask (fun x => x == .w1c))
  let kept := Nat.land old (2 ^ 64 - 1 - rw)
  Nat.lor (Nat.land kept (2 ^ 64 - 1 - clear)) (Nat.land v rw)

/-- The plain effect of a write: RW and RW1C fields. -/
def Dev.plainWrite (d : Dev) (r : RegRow) (a v m : Nat) : Dev :=
  let ref : RegRef := ⟨a, r.rst⟩
  d.setReg ref (r.written (d.reg ref) v m)

/-- Writes of the port, switch and Bellows registers that do more than their fields say (R126, R128, R200, R213, R220 to R223). -/
def Dev.portWrite (d : Dev) (r : RegRow) (is : List Nat) (a v m : Nat) : Option Dev :=
  let p := is.getD 0 0
  let w := Nat.land v m
  let put := fun (old : Nat) => r.written old v m
  if r.base = Reg.PWR_CTL.addr then
    let now := put (d.reg Reg.PWR_CTL)
    let d := if fieldOf now 0 12 = d.get Reg.PWR_CTL_VCORE_MV then d else d.vcoreWrite (fieldOf now 0 12)
    some (d.setReg Reg.PWR_CTL now)
  else if r.base = (Reg.LINK_CTL 0).addr then
    let was := d.get (Reg.LINK_CTL_DISABLE p)
    let d := d.plainWrite r a v m
    let on := d.get (Reg.LINK_CTL_DISABLE p)
    let d := if on = was then d else d.linkCtlDisable p (on == 1)
    some (if bitOf w 0 then d.linkCtlRetrain p else d)
  else if r.base = (Reg.LANE_CTL 0).addr then some (if bitOf w 5 then d.laneCtlGo p (fieldOf w 0 4) (fieldOf w 4 1) else d)
  else if r.base = (Reg.MCAST_RW 0 0).addr then
    let ok := sumBy (fun i => if d.isGlois (is.getD 1 0 * 64 + i) then 2 ^ i else 0) (rangeFrom 0 64)
    some (d.plainWrite r a v (Nat.land m ok))
  else if r.base = (Reg.SHAPE_CFG 0 0).addr then some (d.writeShape p (is.getD 1 0) (put (d.reg ⟨a, r.rst⟩)))
  else if r.base = (Reg.POL_CFG 0).addr then some (d.writePolicer p (put (d.reg ⟨a, r.rst⟩)))
  else if r.base = (Reg.QSHAPE_CFG 0).addr then some (d.writeQshape p (put (d.reg ⟨a, r.rst⟩)))
  else if r.base = (Reg.TEL_CLR 0).addr then some (if bitOf w 0 then d.clearTelemetry p else d)
  else none

/-- REVERT_GO (R157, R163): PAGES pages of pool address from REVERT_BASE; nothing while a REVERT runs. -/
def Dev.revertGo (d : Dev) (pages : Nat) : Dev :=
  if pages = 0 || d.flag Reg.DIR_STAT_REVERT_BUSY then d else d.revert (d.get Reg.REVERT_BASE_PAGE) pages (fun _ => true)

/-- PARK_CTL written (R161, R163): the limit applies at once to requests already parked. -/
def Dev.parkCtl (d : Dev) (v : Nat) : Dev := (d.setReg Reg.PARK_CTL v).parkExpired

/-- Writes of the directory, tier and composition registers (R157, R161, R163, R350, R378, R424, R444, R446): a write of half a register
of the map leaves the other half as PF0 has it staged. -/
def Dev.mapWrite (d : Dev) (r : RegRow) (is : List Nat) (a v m : Nat) : Option Dev :=
  let i := is.getD 0 0
  let j := is.getD 1 0
  let w := Nat.land v m
  let put := fun (old : Nat) => r.written old v m
  if r.base = Reg.PARK_CTL.addr then some (d.parkCtl (put (d.reg Reg.PARK_CTL)))
  else if r.base = Reg.REVERT_GO.addr then some (d.revertGo (fieldOf w 0 32))
  else if r.base = Reg.TIER_CTL.addr then
    let d := d.plainWrite r a v m
    some (if bitOf w 2 then d.flushTier else d)
  else if r.base = Reg.WPUSH_GO.addr then some (if bitOf w 0 then d.wpushGo else d)
  else if r.base = Reg.COMP_CTL.addr then
    let d := d.plainWrite r a v m
    let d := if bitOf w 0 then d.registerCommit else d
    some (if bitOf w 1 then d.unstage 0 else d)
  else if r.base = Reg.RT_GO.addr then
    let d := if bitOf w 0 then d.rtGoWrite else d
    some (if bitOf w 1 then d.rtGoRead else d)
  else if r.base = Reg.EXT_CMD.addr then some (if bitOf w 31 then (d.extCmd w).1 else d)
  else if r.base = (Reg.PORT_BIND 0).addr then
    some (if d.isRole i 0 then d.stage 0 (.bind i (put (Tab.get 0 (d.nextBank 0).bind i))) else d)
  else if r.base = (Reg.POOL 0 0).addr then some (d.stage 0 (.pool (i * 8 + j) (put (Tab.get 0 (d.nextBank 0).pools (i * 8 + j)))))
  else if r.base = (Reg.POOL_DOM 0).addr then some (d.stage 0 (.poolDom i (put (Tab.get 0 (d.nextBank 0).poolDom i))))
  else if r.base = (Reg.WIN 0).addr then some (d.winWrite i (put (d.reg (Reg.WIN i)))).1
  else none

/-- Writes of the fault, security, firmware and telemetry registers (R462 to R467, R471, R507 to R509, R528 to R532, R540, R543). -/
def Dev.secWrite (d : Dev) (z : Fuses) (r : RegRow) (is : List Nat) (v m : Nat) : Option Dev :=
  let w := Nat.land v m
  if r.base = Reg.FENCE_CTL.addr then
    let p := fieldOf w 0 9
    let d := if bitOf w 9 then d.declareDead p 3 else d
    some (if bitOf w 10 then d.admitPort p else d)
  else if r.base = Reg.PART_CTL.addr then
    let k := fieldOf w 0 4
    let d := if bitOf w 4 then d.fencePart k (bitOf w 5) else d
    some (if bitOf w 6 then d.releasePart k else d)
  else if r.base = Reg.MIRROR_MARK.addr then some (if bitOf w 30 then d.markMirror (fieldOf w 0 29) (fieldOf w 29 1) else d)
  else if r.base = Reg.DEV_RESET.addr then some (d.devReset (w % 65536))
  else if r.base = Reg.LC_CTL.addr then some (if bitOf w 3 then d.lcGo z (fieldOf w 0 3) else d)
  else if r.base = Reg.DBG_CTL.addr then
    let d := if bitOf w 0 then d.debugUnlock z else d
    some (if bitOf w 1 then d.debugLock else d)
  else if r.base = Reg.FUSE_PROG.addr then some (if bitOf w 3 then d.fuseProg z (fieldOf w 0 3) else d)
  else if r.base = (Reg.FUSE_DATA 0).addr then
    let k := is.getD 0 0
    let old := Tab.get 0 d.boot.fuseData k
    some (d.fuseWord k (Nat.lor (Nat.land old (2 ^ 64 - 1 - m)) w))
  else if r.base = Reg.SVN_RAISE.addr then some (if fieldOf m 0 7 = 0 then d else d.svnRaise z (fieldOf w 0 7))
  else if r.base = Reg.TAMPER_STAT.addr then some (d.tamperClear (fieldOf w 0 4) (d.get Reg.TAMPER_STAT_ACTIVE))
  else if r.base = Reg.FW_GO.addr then some (if bitOf w 0 then d.fwGo else d)
  else if r.base = Reg.CORE_CTL.addr then some (if bitOf w 4 then d.coreCtlRestart (fieldOf w 0 4) else d)
  else if r.base = Reg.TEL_SNAP.addr then some (if bitOf m 0 then d.telSnap (bitOf w 0) else d)
  else none

/-- Writes of a function block's doorbells and ring registers (R485, R489, R506). -/
def Dev.fnWrite (d : Dev) (r : RegRow) (is : List Nat) (v m : Nat) : Option Dev :=
  let f := is.getD 0 0
  let i := is.getD 1 0
  let w := Nat.land v m
  let low := fieldOf m 0 16 != 0
  let ring := match d.selected f with
    | some (kind, index) => d.ring f kind index
    | none => Ring.idle
  if r.base = (Reg.CMD_DB 0 0).addr then some (if low then d.cmdDb f i (w % 65536) else d)
  else if r.base = (Reg.CPL_DB 0 0).addr then some (if low then d.cplDb f i (w % 65536) else d)
  else if r.base = (Reg.EVT_DB 0).addr then some (if low then d.evtDb f (w % 65536) else d)
  else if r.base = (Reg.RING_CFG0 0).addr then some (d.ringCfg0 f (r.written ring.cfg0 v m))
  else if r.base = (Reg.RING_CFG1 0).addr then some (d.ringCfg1 f (r.written ring.cfg1 v m))
  else none

/-- A write of the register at a BAR0 address as PF0 sees BAR0, under a byte mask (R15, R39): reserved bits are ignored. -/
def Dev.regWrite (d : Dev) (z : Fuses) (a v m : Nat) : Dev :=
  match Reg.find a with
  | none => d
  | some (r, is) =>
    if d.deadPort r is then d else
    let m := Nat.land m (r.mask (fun _ => true))
    match ((d.portWrite r is a v m).orElse (fun _ => d.mapWrite r is a v m)).orElse
        (fun _ => (d.secWrite z r is v m).orElse (fun _ => d.fnWrite r is v m)) with
    | some d => d
    | none => d.plainWrite r a v m

/-- The register that an address of a function's BAR0 names (R40, R478): PF0 sees all, a VF the identity registers and its own block at
0x1000. -/
def barAddr (fn a : Nat) : Option Nat :=
  if fn = 0 || a < 0x18 then some a else if 0x1000 ≤ a && a < 0x1200 then some (0x1E0_0000 + fn * 0x200 + (a - 0x1000)) else none

/-- Whether an access is one that BAR0 knows (R14): aligned, of 32 or 64 bits. -/
def barSized (a bytes : Nat) : Bool := (bytes == 8 && a % 8 == 0) || (bytes == 4 && a % 4 == 0)

/-- Whether a function's accesses of BAR0 reach the part (R478). -/
def Dev.barOpen (d : Dev) (fn : Nat) : Bool := d.pcieUp && (fn == 0 || d.host.vfEnable)

/-- What a host's read of BAR0 by a function returns (R14, R40): the register's bytes, low ones first; any other access reads 0 in every
byte. -/
def Dev.barRead (d : Dev) (fn a bytes : Nat) : List Byte :=
  match d.barOpen fn && barSized a bytes, barAddr fn a with
  | true, some b => ((natBytes 8 (d.regRead (b / 8 * 8))).drop (b % 8)).take bytes
  | _, _ => List.replicate bytes 0#8

/-- REGISTER_WRITE (R14, R478): an aligned 32-bit or 64-bit write by a function; any other access changes nothing. -/
def Dev.registerWrite (d : Dev) (z : Fuses) (fn a bytes v : Nat) : Dev :=
  match d.barOpen fn && barSized a bytes, barAddr fn a with
  | true, some b =>
    if bytes = 8 then d.regWrite z b (v % 2 ^ 64) (2 ^ 64 - 1)
    else
      let sh := b % 8 * 8
      d.regWrite z (b / 8 * 8) (v % 2 ^ 32 * 2 ^ sh) ((2 ^ 32 - 1) * 2 ^ sh)
  | _, _ => d

end Sys2Proof.Machine
end

