-- ==== Sys2Proof/Machine/FabricCmds.lean ====
section
/-! DEFINITION. The meanings of the commands of pool coherence and of the switch core (chapters 4 to 6): requests at their homes,
messages of partners, the homes' and the switch's timers. -/
namespace Sys2Proof.Machine

/-- A request that has not come through the switch fails at the ingress checks: its agent is told (R418). -/
def Dev.turnAway (d : Dev) (r : HomeReq) (status : Nat) : Dev :=
  match r.who with
  | .port p => d.reply r.ppa p (rspMsg 0 r.tag r.tc status) r.dom
  | _ => d.mailTo r status []

/-- A request is served at its home (R130): one that the switch delivered, under the number of its admission, or one that reaches its
home now, which passes the checks of R418 and is admitted. -/
def Dev.atHome (d : Dev) (r : HomeReq) : Dev :=
  match d.sw.arrived.findSome? (arrivedNo r) with
  | some n => (d.consume (arrivedReq r)).homeArrive { r with no := n }
  | none =>
    match d.homeChecks r with
    | (d, .pass _) =>
      let d := d.admitFlight r.who r.tag r.ppa r.op.writes
      d.homeArrive (d.numbered r)
    | (d, .fail c) => d.turnAway r c
    | (d, .remote _) => (d.bump Reg.REMOTE_REQ_REFUSED).turnAway r 1

/-- A message of a partner at its engine: one that the switch delivered, or one that reaches its engine now; a fenced port's is
discarded (R464). -/
def Dev.fromPort (d : Dev) (p : Nat) (m : Msg) (f : Dev → Dev) : Dev :=
  if d.sw.arrived.any (arrivedMsg p m) then f (d.consume (arrivedMsg p m))
  else if d.fenced p then d.bump Reg.FENCED_RX
  else f d

/-- RD_SHARED (R140). -/
def execRdShared (r : HomeReq) (t : Nat) (s : State) : Host.Outcome State Fault Refusal := act s t (fun d => d.atHome { r with op := .rdShared })

/-- RD_NOALLOC (R144). -/
def execRdNoalloc (r : HomeReq) (t : Nat) (s : State) : Host.Outcome State Fault Refusal := act s t (fun d => d.atHome { r with op := .rdNoalloc })

/-- RD_OWN (R140). -/
def execRdOwn (r : HomeReq) (t : Nat) (s : State) : Host.Outcome State Fault Refusal := act s t (fun d => d.atHome { r with op := .rdOwn })

/-- WR_LINE (R140). -/
def execWrLine (r : HomeReq) (t : Nat) (s : State) : Host.Outcome State Fault Refusal := act s t (fun d => d.atHome { r with op := .wrLine })

/-- WR_PART (R140). -/
def execWrPart (r : HomeReq) (t : Nat) (s : State) : Host.Outcome State Fault Refusal := act s t (fun d => d.atHome { r with op := .wrPart })

/-- WB_DIRTY (R140). -/
def execWbDirty (r : HomeReq) (t : Nat) (s : State) : Host.Outcome State Fault Refusal := act s t (fun d => d.atHome { r with op := .wbDirty })

/-- INVAL (R141). -/
def execInval (r : HomeReq) (t : Nat) (s : State) : Host.Outcome State Fault Refusal := act s t (fun d => d.atHome { r with op := .inval })

/-- EVICT (R140). -/
def execEvict (r : HomeReq) (t : Nat) (s : State) : Host.Outcome State Fault Refusal := act s t (fun d => d.atHome { r with op := .evict })

/-- FADD (R147). -/
def execFadd (r : HomeReq) (t : Nat) (s : State) : Host.Outcome State Fault Refusal := act s t (fun d => d.atHome { r with op := .atomic .fadd })

/-- MIN (R147). -/
def execMin (r : HomeReq) (t : Nat) (s : State) : Host.Outcome State Fault Refusal := act s t (fun d => d.atHome { r with op := .atomic .min })

/-- MAX (R147). -/
def execMax (r : HomeReq) (t : Nat) (s : State) : Host.Outcome State Fault Refusal := act s t (fun d => d.atHome { r with op := .atomic .max })

/-- SWAP (R147). -/
def execSwap (r : HomeReq) (t : Nat) (s : State) : Host.Outcome State Fault Refusal := act s t (fun d => d.atHome { r with op := .atomic .swap })

/-- CAS (R147). -/
def execCas (r : HomeReq) (t : Nat) (s : State) : Host.Outcome State Fault Refusal := act s t (fun d => d.atHome { r with op := .atomic .cas })

/-- An operator write of a requester lands (R62, R64, R72, R108): in the scratchpad of a tile, or in device memory with its counter; it
is answered OK, also where its placement generation is no longer live. `no` is the number of its admission. -/
def Dev.opsLand (d : Dev) (p : Nat) (m : Msg) (gen no : Nat) : Dev :=
  let bytes := chunksBytes m.data
  let id := counterId m.ctrKind m.ctr
  if m.space = 0 then
    let f : HeldFrame := { off := m.addr % spaBytes, bytes := bytes, ctr := (id.map (fun k => k + 1)).getD 0, dom := m.domain, gen := gen,
                           src := .port p, ix := 0, answer := some (p, m.tag, m.tc, no), ack := none }
    d.landSpa (fieldOf m.addr 21 8) f
  else
    let d := match id with
      | some k =>
        if d.genLive k gen then (d.writeMem m.addr bytes).countArrival k m.domain gen ⟨256, none, bytes.length⟩ else d.bump Reg.SLAG_PLACEMENT
      | none => d.writeMem m.addr bytes
    d.opsAnswer (.forge (stackOf m.addr)) p m.tag m.tc m.domain no

/-- OPS_WR (R62, R418): a message that did not come through the switch passes the ingress checks of its port first, and waits for the
port's earlier writes if it is a release (R77, R146). -/
def Dev.opsWrite (d : Dev) (p : Nat) (m : Msg) (gen : Nat) : Dev :=
  match d.sw.arrived.findSome? (arrivedOps p m) with
  | some (gen, no) => (d.consume (arrivedMsg p m)).opsLand p m gen no
  | none =>
  if d.fenced p then (d.bump Reg.FENCED_RX).cmpTo p m 3
  else if d.boundDom p != some m.domain then (d.bump Reg.DOMAIN_MISMATCH).cmpTo p m 1
  else if d.mustHold p m then d.holdRelease p m m.tc d.time
  else if !(d.opsAllowed m.domain m) then (d.bump Reg.FOREIGN_OPS).cmpTo p m 1
  else
    let d := d.admitOps p m.tag
    d.opsLand p m gen (d.flightNo (.port p) m.tag)

/-- OPS_WR (R62). -/
def execOpsWr (p : Port) (m : Msg) (gen : Nat) (t : Nat) (s : State) : Host.Outcome State Fault Refusal :=
  act s t (fun d => d.opsWrite p.val m gen)

/-- A parity failure in the core that a message's own row reports (R121): its Temper event is of a Hearth bank of the die of its port (R451),
and which bank is a free value (assumption log 179). -/
def Dev.coreParity (d : Dev) (p : Nat) : Dev :=
  let (b, d) := d.fresh 6
  d.temperEvent 2 (64 * d.portDie p + b)

/-- DATA (R105). -/
def execData (p : Port) (m : Msg) (par : Bool) (t : Nat) (s : State) : Host.Outcome State Fault Refusal :=
  act s t (fun d => d.fromPort p.val m (fun d => (d.when par (fun d => d.coreParity p.val)).trayData p.val m par))

/-- ATOMIC_RET (R120). -/
def execAtomicRet (p : Port) (m : Msg) (par : Bool) (t : Nat) (s : State) : Host.Outcome State Fault Refusal :=
  act s t (fun d => d.fromPort p.val m (fun d => (d.when par (fun d => d.coreParity p.val)).trayAtomic p.val m par))

/-- SNP_DATA (R143, R140). -/
def execSnpData (p : Port) (m : Msg) (t : Nat) (s : State) : Host.Outcome State Fault Refusal :=
  act s t (fun d => d.fromPort p.val m (fun d => d.snpData p.val m))

/-- A tray's CMP (R105, R140, R436): for a home, or for a zero-fill write of Quench. -/
def Dev.cmpCame (d : Dev) (p : Nat) (m : Msg) : Dev :=
  match d.outOf p m.tag with
  | none => d
  | some o => match o.use with
    | .fill e => (d.trayCmp o m).fillAnswered e o.line p m.status
    | _ => d.trayCmp o m

/-- CMP (R140). -/
def execCmp (p : Port) (m : Msg) (t : Nat) (s : State) : Host.Outcome State Fault Refusal :=
  act s t (fun d => d.fromPort p.val m (fun d => d.cmpCame p.val m))

/-- SNP_ACK (R134, R140). -/
def execSnpAck (p : Port) (m : Msg) (t : Nat) (s : State) : Host.Outcome State Fault Refusal :=
  act s t (fun d => d.fromPort p.val m (fun d => d.snpAck p.val m.tag))

/-- A RESULT_ACK (R298, R330, R358): for a write of a tile or for a piece of a weight push. -/
def Dev.resultAcked (d : Dev) (p : Nat) (m : Msg) : Dev :=
  match d.resultOf p m.tag with
  | none => d
  | some r => match r.use with
    | .push n _ => (d.dropResult r).pushAnswered n p false
    | .anvil _ tag => (d.dropResult r).ackDone tag m.status

/-- RESULT_ACK (R298). -/
def execResultAck (p : Port) (m : Msg) (t : Nat) (s : State) : Host.Outcome State Fault Refusal :=
  act s t (fun d => d.fromPort p.val m (fun d => d.resultAcked p.val m))

/-- MGT_NOP (R104): received and ignored. -/
def execMgtNop (p : Port) (m : Msg) (t : Nat) (s : State) : Host.Outcome State Fault Refusal :=
  act s t (fun d => d.consume (arrivedMsg p.val m))

/-- HEARTBEAT (R463). -/
def execHeartbeat (p : Port) (m : Msg) (t : Nat) (s : State) : Host.Outcome State Fault Refusal :=
  act s t (fun d => (d.consume (arrivedMsg p.val m)).takeHeartbeat p.val m)

/-- TRAY_EVENT (R107). -/
def execTrayEvent (p : Port) (m : Msg) (t : Nat) (s : State) : Host.Outcome State Fault Refusal :=
  act s t (fun d =>
    let d := d.consume (arrivedMsg p.val m)
    if d.isRole p.val 1 then d.trayEvent p.val m else d)

/-- HOLD_LIMIT_EXPIRY (R141). -/
def execHoldLimitExpiry (line t : Nat) (s : State) : Host.Outcome State Fault Refusal := act s t (fun d => d.holdExpired line)

/-- SNP_TIMEOUT (R142). -/
def execSnpTimeout (line t : Nat) (s : State) : Host.Outcome State Fault Refusal := act s t (fun d => d.snoopLate line)

/-- ATOMIC_IDLE_WRITEBACK (R150). -/
def execAtomicIdleWriteback (line t : Nat) (s : State) : Host.Outcome State Fault Refusal := act s t (fun d => d.atomicIdle line)

/-- COMBINE_WINDOW_CLOSE (R152, R151). -/
def execCombineWindowClose (line t : Nat) (s : State) : Host.Outcome State Fault Refusal := act s t (fun d => d.closeGroups line)

/-- PARK_LIMIT_EXPIRY (R161). -/
def execParkLimitExpiry (t : Nat) (s : State) : Host.Outcome State Fault Refusal := act s t (fun d => d.parkExpired)

/-- PARK_CTL_WRITE (R161, R163). -/
def execParkCtlWrite (limit : BitVec 32) (t : Nat) (s : State) : Host.Outcome State Fault Refusal :=
  act s t (fun d => d.viaBar (fun d => d.parkCtl limit.toNat))

/-- REVERT_GO (R157, R163). -/
def execRevertGo (pages : BitVec 32) (t : Nat) (s : State) : Host.Outcome State Fault Refusal :=
  act s t (fun d => d.viaBar (fun d => d.revertGo pages.toNat))

/-- CELL_EPOCH (R176, R173). -/
def execCellEpoch (ps : Nat) (hits : List ParityHit) (t : Nat) (s : State) : Host.Outcome State Fault Refusal :=
  act s t (fun d => d.cellEpoch ps hits)

/-- AGE_SWEEP (R190). -/
def execAgeSweep (t : Nat) (s : State) : Host.Outcome State Fault Refusal := act s t (fun d => d.ageSweep)

/-- TELEMETRY_SAMPLE (R212). -/
def execTelemetrySample (t : Nat) (s : State) : Host.Outcome State Fault Refusal := act s t (fun d => d.sampleAll)

/-- TEL_CLR (R221). -/
def execTelClr (p : Port) (t : Nat) (s : State) : Host.Outcome State Fault Refusal :=
  act s t (fun d => d.viaBar (fun d => d.clearTelemetry p.val))

end Sys2Proof.Machine
end

