-- ==== Sys2Proof/Machine/GrtCmds.lean ====
section
/-! DEFINITION. The meanings of the commands of Glois Remote Transport (chapter 11). -/
namespace Sys2Proof.Machine

/-- GRT_FRAME_RECEIVE (R384). -/
def execGrtFrameReceive (p : Port) (frame : List Byte) (bad : Bool) (t : Nat) (s : State) : Host.Outcome State Fault Refusal :=
  act s t (fun d => d.grtFrameReceive p.val frame bad)

/-- PFC_FRAME (R408). -/
def execPfcFrame (p : Port) (frame : List Byte) (t : Nat) (s : State) : Host.Outcome State Fault Refusal :=
  act s t (fun d => d.grtFrameReceive p.val frame false)

/-- PFC_PAUSE_EXPIRY (R408). -/
def execPfcPauseExpiry (p : Port) (prio : Fin 8) (t : Nat) (s : State) : Host.Outcome State Fault Refusal :=
  act s t (fun d => d.pauseExpiry p.val prio.val)

/-- GRT_WRITE (R400). -/
def execGrtWrite (c : Ctx) (t : Nat) (s : State) : Host.Outcome State Fault Refusal := act s t (fun d => d.grtWrite c.val)

/-- READ_REQ (R403). -/
def execReadReq (c : Ctx) (t : Nat) (s : State) : Host.Outcome State Fault Refusal := act s t (fun d => d.grtReadReq c.val)

/-- READ_RESP (R403). -/
def execReadResp (c : Ctx) (t : Nat) (s : State) : Host.Outcome State Fault Refusal := act s t (fun d => d.grtReadResp c.val)

/-- GRT_ACK (R398). -/
def execGrtAck (c : Ctx) (t : Nat) (s : State) : Host.Outcome State Fault Refusal := act s t (fun d => d.takeAck c.val)

/-- GRT_NAK (R398). -/
def execGrtNak (c : Ctx) (t : Nat) (s : State) : Host.Outcome State Fault Refusal := act s t (fun d => d.takeNakG c.val)

/-- GRT_PACKET_SEND (R396). -/
def execGrtPacketSend (c : Ctx) (t : Nat) (s : State) : Host.Outcome State Fault Refusal := act s t (fun d => d.packetSend c.val)

/-- CONTEXT_FETCH_DONE (R393). -/
def execContextFetchDone (c : Ctx) (t : Nat) (s : State) : Host.Outcome State Fault Refusal := act s t (fun d => d.contextFetchDone c.val)

/-- HOST_FETCH_LIMIT (R393). -/
def execHostFetchLimit (c : Ctx) (t : Nat) (s : State) : Host.Outcome State Fault Refusal := act s t (fun d => d.hostFetchLimit c.val)

/-- RTO_EXPIRY (R399). -/
def execRtoExpiry (c : Ctx) (t : Nat) (s : State) : Host.Outcome State Fault Refusal := act s t (fun d => d.rtoExpiry c.val)

/-- SEQ_NAK_RESEND (R397). -/
def execSeqNakResend (c : Ctx) (t : Nat) (s : State) : Host.Outcome State Fault Refusal := act s t (fun d => d.seqNakResend c.val)

/-- ACK_DELAY_EXPIRY (R398). -/
def execAckDelayExpiry (c : Ctx) (t : Nat) (s : State) : Host.Outcome State Fault Refusal := act s t (fun d => d.ackDelayExpiry c.val)

/-- RNR_WAIT_EXPIRY (R398). -/
def execRnrWaitExpiry (c : Ctx) (t : Nat) (s : State) : Host.Outcome State Fault Refusal := act s t (fun d => d.rnrExpiry c.val)

/-- CTX_DRAIN_TIMEOUT (R399). -/
def execCtxDrainTimeout (c : Ctx) (t : Nat) (s : State) : Host.Outcome State Fault Refusal := act s t (fun d => d.drainTimeout c.val)

/-- XOFF_REFRESH (R408). -/
def execXoffRefresh (p : Port) (t : Nat) (s : State) : Host.Outcome State Fault Refusal := act s t (fun d => d.pfcOn true p.val)

/-- PFC_WATCHDOG (R409). -/
def execPfcWatchdog (p : Port) (prio : Fin 8) (t : Nat) (s : State) : Host.Outcome State Fault Refusal :=
  act s t (fun d => d.pfcWatchdog p.val prio.val)

/-- UPLINK_UP (R381). -/
def execUplinkUp (p : Port) (t : Nat) (s : State) : Host.Outcome State Fault Refusal := act s t (fun d => d.uplink p.val true)

/-- UPLINK_DOWN (R381). -/
def execUplinkDown (p : Port) (t : Nat) (s : State) : Host.Outcome State Fault Refusal := act s t (fun d => d.uplink p.val false)

end Sys2Proof.Machine
end

