-- ==== Sys2Proof/Machine/HeatCmds.lean ====
section
/-! DEFINITION. The meanings of the commands of heats and operators (chapters 2, 7 to 9). Every operator's command carries its descriptor on
tile `tile` one step on; `par` says which words it meets fail their parity or their ECC. -/
namespace Sys2Proof.Machine

/-- HEAT_SUBMIT (R258). -/
def execHeatSubmit (c : RingCmd) (t : Nat) (s : State) : Host.Outcome State Fault Refusal :=
  act s t (fun d => d.ringOp c 1 (fun d => d.heatSubmit c))

/-- HEAT_START (R260). -/
def execHeatStart (h : HeatKey) (t : Nat) (s : State) : Host.Outcome State Fault Refusal :=
  act s t (fun d => d.heatStart h.fn.val h.ring.val h.no)

/-- HEAT_COMPLETE (R262). -/
def execHeatComplete (h : HeatKey) (t : Nat) (s : State) : Host.Outcome State Fault Refusal :=
  act s t (fun d => d.heatComplete h.fn.val h.ring.val h.no)

/-- WATCHDOG_EXPIRY (R263). -/
def execWatchdogExpiry (h : HeatKey) (t : Nat) (s : State) : Host.Outcome State Fault Refusal :=
  act s t (fun d => d.watchdogExpiry h.fn.val h.ring.val h.no)

/-- WAIT_TIMEOUT (R269). -/
def execWaitTimeout (tile : Tile) (t : Nat) (s : State) : Host.Outcome State Fault Refusal := act s t (fun d => d.waitTimeout tile.val)

/-- DEADLINE (R277). -/
def execDeadline (tile : Tile) (t : Nat) (s : State) : Host.Outcome State Fault Refusal := act s t (fun d => d.deadline tile.val)

/-- OP_NOP (R267). -/
def execOpNop (tile : Tile) (par : Upset) (t : Nat) (s : State) : Host.Outcome State Fault Refusal :=
  act s t (fun d => d.opStep tile.val 0 par (fun d x => d.nopStep tile.val x))

/-- FILL (R285). -/
def execFill (tile : Tile) (par : Upset) (t : Nat) (s : State) : Host.Outcome State Fault Refusal :=
  act s t (fun d => d.opStep tile.val 1 par (fun d x => d.fillStep tile.val x))

/-- COPY (R286). -/
def execCopy (tile : Tile) (par : Upset) (t : Nat) (s : State) : Host.Outcome State Fault Refusal :=
  act s t (fun d => d.opStep tile.val 2 par (fun d x => d.copyStep tile.val x))

/-- COMPARE (R287). -/
def execCompare (tile : Tile) (par : Upset) (t : Nat) (s : State) : Host.Outcome State Fault Refusal :=
  act s t (fun d => d.opStep tile.val 3 par (fun d x => d.compareStep tile.val x))

/-- REDUCE (R298). -/
def execReduce (tile : Tile) (par : Upset) (t : Nat) (s : State) : Host.Outcome State Fault Refusal :=
  act s t (fun d => d.opStep tile.val 4 par (fun d x => d.reduceStep tile.val x))

/-- GATHER (R288). -/
def execGather (tile : Tile) (par : Upset) (t : Nat) (s : State) : Host.Outcome State Fault Refusal :=
  act s t (fun d => d.opStep tile.val 5 par (fun d x => d.gatherStep tile.val x))

/-- SCATTER (R289). -/
def execScatter (tile : Tile) (par : Upset) (t : Nat) (s : State) : Host.Outcome State Fault Refusal :=
  act s t (fun d => d.opStep tile.val 6 par (fun d x => d.scatterStep tile.val x))

/-- FILTER (R290). -/
def execFilter (tile : Tile) (par : Upset) (t : Nat) (s : State) : Host.Outcome State Fault Refusal :=
  act s t (fun d => d.opStep tile.val 7 par (fun d x => d.filterStep tile.val x))

/-- A step on the matrix unit (R224): above the trip point matrix units issue no waves, and the descriptor waits (R560). -/
def Dev.matrixStep (d : Dev) (f : Dev → Dev) : Dev := if d.flag Reg.THERM_STAT_TRIP then d else f d

/-- TOPK (R292), whose scores are dot products. -/
def execTopk (tile : Tile) (par : Upset) (t : Nat) (s : State) : Host.Outcome State Fault Refusal :=
  act s t (fun d => d.matrixStep (fun d => d.opStep tile.val 8 par (fun d x => d.topkStep tile.val x)))

/-- ATTEND (R326). -/
def execAttend (tile : Tile) (par : Upset) (t : Nat) (s : State) : Host.Outcome State Fault Refusal :=
  act s t (fun d => d.matrixStep (fun d => d.opStep tile.val 9 par (fun d x => d.attendStep tile.val x)))

/-- COMBINE (R304). -/
def execCombine (tile : Tile) (par : Upset) (t : Nat) (s : State) : Host.Outcome State Fault Refusal :=
  act s t (fun d => d.opStep tile.val 10 par (fun d x => d.combineStep tile.val x))

/-- RESHARD (R306). -/
def execReshard (tile : Tile) (par : Upset) (t : Nat) (s : State) : Host.Outcome State Fault Refusal :=
  act s t (fun d => d.opStep tile.val 11 par (fun d x => d.reshardStep tile.val x))

/-- PACK (R308). -/
def execPack (tile : Tile) (par : Upset) (t : Nat) (s : State) : Host.Outcome State Fault Refusal :=
  act s t (fun d => d.opStep tile.val 12 par (fun d x => d.packStep tile.val x))

/-- UNPACK (R308). -/
def execUnpack (tile : Tile) (par : Upset) (t : Nat) (s : State) : Host.Outcome State Fault Refusal :=
  act s t (fun d => d.opStep tile.val 13 par (fun d x => d.unpackStep tile.val x))

/-- MIGRATION (R71). -/
def execMigration (tile : Tile) (readable : Bool) (t : Nat) (s : State) : Host.Outcome State Fault Refusal :=
  act s t (fun d => d.migrate tile.val readable)

/-- MIGRATION_DONE (R71). -/
def execMigrationDone (tile : Tile) (t : Nat) (s : State) : Host.Outcome State Fault Refusal := act s t (fun d => d.migrationDone tile.val)

end Sys2Proof.Machine
end

