-- ==== Sys2Proof/Machine/Pins.lean ====
section
/-! DEFINITION. The sideband pins, the I3C management interface with its flash bridge, trace and debug commands (R533, R547 to R553),
configuration space (R475, R513), power (R556 to R558) and cooling (R559, R560). -/
namespace Sys2Proof.Machine

/-- The reply that the next private read takes (R551). -/
def Dev.replyWith (d : Dev) (bs : List Byte) : Dev := { d with boot := { d.boot with reply := bs } }

/-- A status byte as the reply (R551): 0x00 done, 0x01 busy, 0x02 refused, 0x03 flash error. -/
def Dev.status (d : Dev) (code : Nat) : Dev := d.replyWith (natBytes 1 code)

/-- A management command: the interface is live whenever RAILS_OK_N is low, in reset too (R551). -/
def Dev.i3c (d : Dev) (f : Dev → Dev) : Dev := if d.boot.rails then f d else d

/-- STRAP_FLASH_WE as it reads now (R553, R562). -/
def Dev.strapWe (d : Dev) (we : Bool) : Dev := d.set Reg.STRAP_STAT_FLASH_WE (if we then 1 else 0)

/-- STATUS (R551): six register images, 8 bytes each. -/
def Dev.statusReply (d : Dev) : Dev :=
  d.replyWith ([Reg.GSTAT, Reg.PWR_STAT, Reg.THERM_STAT, Reg.STRAP_STAT, Reg.LC_STAT, Reg.RESET_CAUSE].flatMap (fun r => natBytes 8 (d.reg r)))

/-- TEMP_ALL (R551): the 64 sensor readings, one byte each. -/
def Dev.tempAll (d : Dev) : Dev := d.replyWith ((padBytes 64 (d.boot.temps.map (BitVec.ofNat 8))))

/-- The bytes of the flash (R1): 256 MiB. -/
def flashBytes : Nat := 0x1000_0000

/-- Whether the flash bridge takes a command (R551): RESET_N is low and no command is under way. -/
def Dev.bridgeFree (d : Dev) : Bool := d.boot.resetLow && d.boot.bridge.isNone

/-- FLASH_READ (R551): up to 256 bytes. -/
def Dev.flashRead (d : Dev) (flash : List Host.Cell) (addr len : Nat) : Dev :=
  if d.bridgeFree && decide (len ≤ 256) && decide (addr + len ≤ flashBytes) then d.replyWith (Memory.readN 0xFF#8 flash addr len)
  else d.status 2

/-- A flash command that changes the flash is accepted and runs, or is refused (R551, R553). -/
def Dev.flashCmd (d : Dev) (op : FlashOp) (ok we : Bool) : Dev :=
  let d := d.strapWe we
  if d.bridgeFree && we && ok then ({ d with boot := { d.boot with bridge := some op } }).status 1 else d.status 2

/-- FLASH_ERASE (R551): a 64 KiB sector. -/
def Dev.flashErase (d : Dev) (addr : Nat) (we : Bool) : Dev :=
  d.flashCmd (.erase addr) (addr % 0x1_0000 == 0 && decide (addr < flashBytes)) we

/-- FLASH_PROGRAM (R551): 256 bytes at an offset aligned to 256. -/
def Dev.flashProgram (d : Dev) (addr : Nat) (bytes : List Byte) (we : Bool) : Dev :=
  d.flashCmd (.program addr bytes) (addr % 256 == 0 && bytes.length == 256 && decide (addr < flashBytes)) we

/-- FLASH_STATUS (R551): BUSY in bit 0. -/
def Dev.flashStatus (d : Dev) : Dev := if d.boot.resetLow then d.status (if d.boot.bridge.isSome then 1 else 0) else d.status 2

/-- Whether programming a byte over another gives the byte the command names: over an erased byte, or over the same byte. Over any
other the spec states no result (assumption log 3). -/
def plainProgram (old new : Byte) : Bool := old == 0xFF#8 || old == new

/-- A page programmed into the flash, byte by byte, with free values from `free` on where the spec states no result. -/
def programFlash (flash : List Host.Cell) (free : Nat) (a : Nat) : List Byte → List Host.Cell
  | [] => flash
  | b :: bs =>
    let v := if plainProgram (Memory.read 0xFF#8 flash a) b then b else Config.freeBits 8 free
    programFlash (Memory.write 0xFF#8 flash a v) (free + 1) (a + 1) bs

/-- The flash after a bridge command (R551): an erased sector reads 0xFF (assumption log 8). -/
def FlashOp.apply (op : FlashOp) (flash : List Host.Cell) (free : Nat) : List Host.Cell :=
  match op with
  | .erase a => Memory.clear flash a 0x1_0000
  | .program a bs => programFlash flash free a bs

/-- The flash once the command on the bridge has ended. -/
def Dev.flashAfter (d : Dev) (flash : List Host.Cell) : List Host.Cell :=
  match d.boot.bridge with
  | some op => op.apply flash d.free
  | none => flash

/-- FLASH_OP_DONE, the part beside the flash (R551, R561): the bridge is free, and a reset that waited for it may end. -/
def Dev.flashDone (d : Dev) (z : Fuses) : Dev :=
  if d.boot.bridge.isSome then
    ({ d with free := d.free + 256, boot := { d.boot with bridge := none } }).tryRelease z
  else d

/-- TRACE_READ (R551, R552): a count byte, then that many records, which leave the queue. -/
def Dev.traceRead (d : Dev) (n : Nat) : Dev :=
  if d.running && d.flag Reg.TRACE_CTL_PIN_OUT then
    let k := min (min n 16) d.host.pins.length
    let recs := d.host.pins.take k
    ({ d with host := { d.host with pins := d.host.pins.drop k } }).replyWith (natBytes 1 k ++ recs.flatMap id)
  else d.status 2

/-- Whether a core is halted by debug (R533). -/
def Dev.dbgHalted (d : Dev) (c : Nat) : Bool := d.boot.halted.any (fun h => h.1 == c)

/-- DBG_STATUS (R533): LC_STAT and the halted cores. -/
def Dev.dbgStatus (d : Dev) : Dev :=
  d.replyWith (natBytes 8 (d.reg Reg.LC_STAT) ++ natBytes 2 (sumBy (fun c => if d.dbgHalted c then 2 ^ c else 0) (rangeFrom 0 16)))

/-- A debug command (R533): refused while debug is closed. -/
def Dev.debugCmd (d : Dev) (f : Dev → Dev) : Dev := if d.flag Reg.LC_STAT_DEBUG_OPEN then f d else d.status 2

/-- `n` free words of 32 bits. -/
def Dev.freshWords (d : Dev) : Nat → List Nat × Dev
  | 0 => ([], d)
  | n + 1 =>
    let (v, d) := d.fresh 32
    let (vs, d) := d.freshWords n
    (v :: vs, d)

/-- DBG_HALT (R533): the core's 32 general registers and its program counter are what its firmware made them (assumption log 3). -/
def Dev.dbgHalt (d : Dev) (c : Nat) : Dev :=
  if d.dbgHalted c then d.status 0
  else if !(d.coreUp c) then d.status 2
  else
    let (vs, d) := d.freshWords 33
    (({ d with boot := { d.boot with halted := Tab.ins d.boot.halted c vs } }).setCore c 0).status 0

/-- DBG_RESUME (R533): the core continues where it halted. -/
def Dev.dbgResume (d : Dev) (c : Nat) : Dev := if d.dbgHalted c then (d.resumeCore c).status 0 else d.status 2

/-- A byte of a core's SRAM: zero after the wipe, what a debug write put there, or what firmware made of it (assumption log 3). -/
def Dev.sramByte (d : Dev) (c a : Nat) : Byte × Dev :=
  match Tab.find? d.boot.sram (c * 0x20_0000 + a) with
  | some b => (b, d)
  | none =>
    if c ∉ d.boot.changed then (0#8, d)
    else
      let (v, d) := d.fresh 8
      let b := BitVec.ofNat 8 v
      (b, if d.dbgHalted c then { d with boot := { d.boot with sram := Tab.ins d.boot.sram (c * 0x20_0000 + a) b } } else d)

/-- `n` bytes of a core's SRAM. -/
def Dev.sramRead (d : Dev) (c a : Nat) : Nat → List Byte × Dev
  | 0 => ([], d)
  | n + 1 =>
    let (b, d) := d.sramByte c a
    let (bs, d) := d.sramRead c (a + 1) n
    (b :: bs, d)

/-- DBG_MEM_READ (R533): up to 256 bytes of the core's 2 MiB SRAM. -/
def Dev.dbgMemRead (d : Dev) (c a len : Nat) : Dev :=
  if decide (len ≤ 256) && decide (a + len ≤ 0x20_0000) then
    let (bs, d) := d.sramRead c a len
    d.replyWith bs
  else d.status 2

/-- DBG_MEM_WRITE (R533): while firmware runs on the core, the bytes do not stay known. -/
def Dev.dbgMemWrite (d : Dev) (c a : Nat) (bs : List Byte) : Dev :=
  if decide (bs.length ≤ 256) && decide (a + bs.length ≤ 0x20_0000) then
    if d.dbgHalted c || decide (c ∉ d.boot.changed) then
      let at_ := fun (i : Nat) => c * 0x20_0000 + a + i
      let sram := (bs.zip (rangeFrom 0 bs.length)).foldl (fun (m : List (Nat × Byte)) (x : Byte × Nat) => Tab.ins m (at_ x.2) x.1) d.boot.sram
      ({ d with boot := { d.boot with sram := sram } }).status 0
    else d.status 0
  else d.status 2

/-- DBG_REG_READ (R533): the register at a BAR0 offset aligned to 8. -/
def Dev.dbgRegRead (d : Dev) (a : Nat) : Dev := if a % 8 = 0 then d.replyWith (natBytes 8 (d.regRead a)) else d.status 2

/-- DBG_REG_WRITE (R533): a write by PF0. -/
def Dev.dbgRegWrite (d : Dev) (z : Fuses) (a v : Nat) : Dev :=
  if a % 8 = 0 then (d.regWrite z a v (2 ^ 64 - 1)).status 0 else d.status 2

/-- DBG_CORE_REGS (R533): 33 words of a halted core. -/
def Dev.dbgCoreRegs (d : Dev) (c : Nat) : Dev :=
  match d.boot.halted.find? (fun h => h.1 == c) with
  | some h => d.replyWith (h.2.flatMap (natBytes 4))
  | none => d.status 2

/-- A dynamic address assigned by ENTDAA or SETDASA (R550, R562). -/
def Dev.dynAddr (d : Dev) (a : Nat) : Dev := (d.set Reg.STRAP_STAT_DYN_ADDR a).set Reg.STRAP_STAT_DYN_VALID 1

/-- The static I3C address (R549). -/
def Dev.staticAddr (d : Dev) : Nat := 0x58 + d.get Reg.STRAP_STAT_ADDR

/-- The limiter's cap in mW (R557, R562): values outside 1,200 to 1,650 W act as the nearest bound. -/
def Dev.capMw (d : Dev) : Nat := clampTo 1200 1650 (d.get Reg.PWR_CTL_CAP_W) * 1000

/-- The limiter engages or releases (R557): THROTTLE follows it. -/
def Dev.limiterTo (d : Dev) (l : Limiter) : Dev :=
  ({ d with boot := { d.boot with limiter := l } }).set Reg.THERM_STAT_THROTTLE (if l.on then 1 else 0)

/-- The µs spent with the limiter engaged since they were last counted (R563). -/
def Dev.countThrottle (d : Dev) : Dev :=
  let l := d.boot.limiter
  if l.on then
    let us := (d.time - l.counted) / 1000
    ({ d with boot := { d.boot with limiter := { l with counted := l.counted + us * 1000 } } }).bumpBy Reg.THROTTLE_US us
  else d

/-- POWER_SAMPLE (R557, R562): one measurement of the input every 10 µs; the limiter acts on it. -/
def Dev.powerSample (d : Dev) (mv ma : Nat) : Dev :=
  if !d.boot.rails then d else
  let d := d.countThrottle
  let now := mv * ma / 1000
  let samples := (now :: d.boot.limiter.samples).take 10
  let mean := sumBy id samples / samples.length
  let l := { d.boot.limiter with samples := samples }
  let d := (d.set Reg.PWR_STAT_VIN_MV (min 65535 mv)).set Reg.PWR_STAT_IIN_10MA (min 65535 (ma / 10))
  let d := (d.set Reg.PWR_STAT_PIN_W (min 65535 (mean / 1000))).set Reg.PWR_STAT_VCORE_NOW_MV d.vcoreNow
  let above := if d.capMw < now then some (l.above.getD d.time) else none
  let below := if now * 100 < d.capMw * 95 then some (l.below.getD d.time) else none
  let long := match above with
    | some t0 => decide (t0 + 8_000_000 ≤ d.time)
    | none => false
  let calm := match below with
    | some t0 => decide (t0 + 1_000_000 ≤ d.time)
    | none => false
  let past := (samples.length == 10) && decide (1_850_000 < mean)
  let on := if l.on then !calm else long || past
  d.limiterTo { l with above := above, below := below, on := on, counted := if on && !l.on then d.time else l.counted }

/-- The hottest reading and the first sensor that has it (R560). -/
def hottest (temps : List Int) : Int × Nat :=
  (temps.zip (rangeFrom 0 temps.length)).foldl (fun (b : Int × Nat) (x : Int × Nat) => if b.1 < x.1 then x else b) (temps.headD 0, 0)

/-- THERMAL_SAMPLE (R559, R560, R562): THERM_STAT reports the hottest of the 64 sensors; the warning and the trip point act. -/
def Dev.thermalSample (d : Dev) (temps : List Nat) : Dev :=
  if !d.boot.rails then d else
  let bs := (padBytes 64 (temps.map (BitVec.ofNat 8))).map BitVec.toNat
  let (tj, sensor) := hottest (bs.map (signedOf 8))
  let d := { d with boot := { d.boot with temps := bs } }
  let d := (d.set Reg.THERM_STAT_TJ_MAX (unsignedOf 8 tj)).set Reg.THERM_STAT_HOT_SENSOR sensor
  let warn : Int := ((clampTo 60 105 (d.get Reg.THERM_CFG_WARN_C) : Nat) : Int)
  let d := if warn < tj then d.set Reg.GSTAT_THERMAL_WARN 1 else if tj ≤ warn - 3 then d.set Reg.GSTAT_THERMAL_WARN 0 else d
  if 115 < tj then (d.when (!d.flag Reg.THERM_STAT_TRIP) (fun d => d.bump Reg.TRIP_COUNT)).set Reg.THERM_STAT_TRIP 1
  else if tj < 110 then d.set Reg.THERM_STAT_TRIP 0 else d

/-- CONFIGURATION_REQUEST (R475, R477, R481, R513): Request Retry Status until the image has been applied; a VF answers while VF Enable is
set; a field the spec does not name reads as a free value. -/
def Dev.configRequest (d : Dev) (fn : Nat) (field : CfgField) (write : Option Nat) : Dev :=
  if !d.pcieUp then d
  else if !d.flag Reg.IMG_STAT_APPLIED then d.toHost (.retry fn)
  else if fn != 0 && !d.host.vfEnable then d
  else
    match field, write with
    | .vendorId, none => d.toHost (.reply fn (natBytes 2 (d.get Reg.IDENT_VENDOR_CODE)))
    | .deviceId, none => d.toHost (.reply fn (natBytes 2 (if fn = 0 then 0x0A09 else 0x0A19)))
    | .classCode, none => d.toHost (.reply fn (natBytes 3 0x12_0000))
    | .vfEnable, none => d.toHost (.reply fn (natBytes 1 (if d.host.vfEnable then 1 else 0)))
    | .completionTimeout, none => d.toHost (.reply fn (natBytes 1 (Tab.get 0 d.boot.config fn)))
    | .other _, none =>
      let (v, d) := d.fresh 32
      d.toHost (.reply fn (natBytes 4 v))
    | .vfEnable, some v =>
      (d.when (fn == 0) (fun d => { d with host := { d.host with vfEnable := v % 2 == 1 } })).toHost (.reply fn [])
    | .completionTimeout, some v =>
      ({ d with boot := { d.boot with config := Tab.put 0 d.boot.config fn (v % 16) } }).toHost (.reply fn [])
    | _, some _ => d.toHost (.reply fn [])

/-- Whether RAILS_OK_N is low (R547). -/
def Dev.railsOkLow (d : Dev) : Bool := d.boot.rails

/-- Whether READY_N is low: while GSTAT.RUNNING is 1 (R547). -/
def Dev.readyLow (d : Dev) : Bool := d.boot.rails && d.running

/-- Whether THERM_N is low: above the trip point (R547, R559). -/
def Dev.thermLow (d : Dev) : Bool := d.boot.rails && d.flag Reg.THERM_STAT_TRIP

/-- Whether ALERT_N is low (R547, R564): a condition that ALERT_MASK enables holds, and the part is running. -/
def Dev.alertLow (d : Dev) : Bool :=
  d.boot.rails && d.running &&
    ((d.flag Reg.ALERT_MASK_THERMAL_WARN && d.flag Reg.GSTAT_THERMAL_WARN) || (d.flag Reg.ALERT_MASK_ALARM && d.flag Reg.GSTAT_ALARM) ||
      (d.flag Reg.ALERT_MASK_LASTING_FAULT && d.flag Reg.GSTAT_LASTING_FAULT) ||
      (d.flag Reg.ALERT_MASK_SPARES_EXHAUSTED && d.flag Reg.GSTAT_SPARES_EXHAUSTED) ||
      (d.flag Reg.ALERT_MASK_THROTTLE && d.flag Reg.THERM_STAT_THROTTLE))

end Sys2Proof.Machine
end

