-- ==== Sys2Proof/Machine/HostCmds.lean ====
section
/-! DEFINITION. The meanings of the commands of the host interface, its rings and registers, and of firmware (chapter 14). -/
namespace Sys2Proof.Machine

/-- CMD_DB (R485). -/
def execCmdDb (fn : Dom) (ring : Fin 16) (pi : BitVec 16) (t : Nat) (s : State) : Host.Outcome State Fault Refusal :=
  act s t (fun d => d.cmdDb fn.val ring.val pi.toNat)

/-- CPL_DB (R485). -/
def execCplDb (fn : Dom) (ring : Fin 16) (ci : BitVec 16) (t : Nat) (s : State) : Host.Outcome State Fault Refusal :=
  act s t (fun d => d.viaBar (fun d => d.cplDb fn.val ring.val ci.toNat))

/-- EVT_DB (R489). -/
def execEvtDb (fn : Dom) (ci : BitVec 16) (t : Nat) (s : State) : Host.Outcome State Fault Refusal :=
  act s t (fun d => d.viaBar (fun d => d.evtDb fn.val ci.toNat))

/-- RING_CFG0_WRITE (R484). -/
def execRingCfg0Write (fn : Dom) (v : Word) (t : Nat) (s : State) : Host.Outcome State Fault Refusal :=
  act s t (fun d => d.viaBar (fun d => d.ringCfg0 fn.val v.toNat))

/-- COMMAND_FETCH (R485). -/
def execCommandFetch (fn : Dom) (ring : Fin 16) (t : Nat) (s : State) : Host.Outcome State Fault Refusal :=
  act s t (fun d => d.commandFetch fn ring)

/-- IRQ_US_EXPIRY (R496). -/
def execIrqUsExpiry (fn : Dom) (kind : Fin 4) (ring : Fin 16) (t : Nat) (s : State) : Host.Outcome State Fault Refusal :=
  act s t (fun d => d.irqExpiry fn.val kind.val ring.val)

/-- FUNCTION_LEVEL_RESET (R481). -/
def execFunctionLevelReset (fn : Dom) (t : Nat) (s : State) : Host.Outcome State Fault Refusal := act s t (fun d => d.functionReset fn.val)

/-- BAR2_ACCESS (R479). -/
def execBar2Access (fn : Dom) (addr len : Nat) (write : Option (List Byte)) (t : Nat) (s : State) : Host.Outcome State Fault Refusal :=
  act s t (fun d => d.bar2 fn.val addr len write)

/-- HOST_READ_COMPLETION (R477). -/
def execHostReadCompletion (tag : Nat) (answer : Option (List Byte)) (t : Nat) (s : State) : Host.Outcome State Fault Refusal :=
  act s t (fun d => d.hostCompletion s.fuse tag answer)

/-- FW_GO (R498). -/
def execFwGo (t : Nat) (s : State) : Host.Outcome State Fault Refusal := act s t (fun d => d.fwGo)

/-- FW_COPY_DONE (R498). -/
def execFwCopyDone (t : Nat) (s : State) : Host.Outcome State Fault Refusal := act s t (fun d => d.fwCopyDone)

/-- FW_VERIFY_DONE (R499). -/
def execFwVerifyDone (t : Nat) (s : State) : Host.Outcome State Fault Refusal := act s t (fun d => d.fwVerifyDone s.fuse)

/-- CORE_CTL_RESTART (R501). -/
def execCoreCtlRestart (core : Fin 16) (t : Nat) (s : State) : Host.Outcome State Fault Refusal := act s t (fun d => d.coreCtlRestart core.val)

/-- CORE_WATCHDOG (R501). -/
def execCoreWatchdog (core : Fin 16) (parity : Bool) (t : Nat) (s : State) : Host.Outcome State Fault Refusal :=
  act s t (fun d => d.coreWatchdog core.val parity)

/-- CORE_RESTART_DONE (R502). -/
def execCoreRestartDone (core : Fin 16) (t : Nat) (s : State) : Host.Outcome State Fault Refusal := act s t (fun d => d.coreRestartDone core.val)

/-- TEL_SNAP (R508). -/
def execTelSnap (hold : Bool) (t : Nat) (s : State) : Host.Outcome State Fault Refusal :=
  act s t (fun d => d.viaBar (fun d => d.telSnap hold))

/-- REGISTER_WRITE (R15). -/
def execRegisterWrite (fn : Dom) (addr bytes : Nat) (v : Word) (t : Nat) (s : State) : Host.Outcome State Fault Refusal :=
  act s t (fun d => d.registerWrite s.fuse fn.val addr bytes v.toNat)

/-- CONFIGURATION_REQUEST (R513). -/
def execConfigurationRequest (fn : Dom) (field : CfgField) (write : Option Nat) (t : Nat) (s : State) : Host.Outcome State Fault Refusal :=
  act s t (fun d => d.configRequest fn.val field write)

end Sys2Proof.Machine
end

