-- ==== Sys2Proof/Machine/LinkCmds.lean ====
section
/-! DEFINITION. The meanings of the commands of Glois Link ports (chapter 3): flits, link states, lanes. -/
namespace Sys2Proof.Machine

/-- FLIT_RECEIVE (R89, R117): the bit streams of the running lanes. -/
def execFlitReceive (p : Port) (lanes : List (List Bool)) (corrected uncorrectable : List Nat) (cuts : List CutFate) (t : Nat) (s : State) :
    Host.Outcome State Fault Refusal :=
  act s t (fun d => d.flitReceive p.val lanes corrected uncorrectable cuts)

/-- FLIT_TRANSMIT (R113). -/
def execFlitTransmit (p : Port) (t : Nat) (s : State) : Host.Outcome State Fault Refusal := act s t (fun d => d.transmit p.val)

/-- NAK_RESEND_TIMEOUT (R117). -/
def execNakResendTimeout (p : Port) (t : Nat) (s : State) : Host.Outcome State Fault Refusal := act s t (fun d => d.nakResend p.val)

/-- ACK_MAX_NS_TIMEOUT (R116). -/
def execAckMaxNsTimeout (p : Port) (t : Nat) (s : State) : Host.Outcome State Fault Refusal := act s t (fun d => d.ackLimit p.val)

/-- HEARTBEAT_SEND (R107). -/
def execHeartbeatSend (p : Port) (t : Nat) (s : State) : Host.Outcome State Fault Refusal := act s t (fun d => d.heartbeatSend p.val)

/-- PARTNER_SIGNAL_DETECT (R122). -/
def execPartnerSignalDetect (p : Port) (t : Nat) (s : State) : Host.Outcome State Fault Refusal := act s t (fun d => d.partnerSignal p.val)

/-- EQUALIZE_DONE (R122). -/
def execEqualizeDone (p : Port) (t : Nat) (s : State) : Host.Outcome State Fault Refusal := act s t (fun d => d.equalizeDone p.val)

/-- EQUALIZE_TIMEOUT (R122). -/
def execEqualizeTimeout (p : Port) (t : Nat) (s : State) : Host.Outcome State Fault Refusal := act s t (fun d => d.equalizeTimeout p.val)

/-- ALIGN_TIMEOUT (R122). -/
def execAlignTimeout (p : Port) (t : Nat) (s : State) : Host.Outcome State Fault Refusal := act s t (fun d => d.alignTimeout p.val)

/-- HELLO (R124): the partner's HELLO payload. -/
def execHello (p : Port) (payload : List Byte) (t : Nat) (s : State) : Host.Outcome State Fault Refusal :=
  act s t (fun d => d.takeHello p.val payload)

/-- HELLO_TIMEOUT (R122). -/
def execHelloTimeout (p : Port) (t : Nat) (s : State) : Host.Outcome State Fault Refusal := act s t (fun d => d.helloTimeout p.val)

/-- REMAP_ACK (R126). -/
def execRemapAck (p : Port) (t : Nat) (s : State) : Host.Outcome State Fault Refusal := act s t (fun d => d.takeRemapAck p.val)

/-- REMAP_TIMEOUT (R126). -/
def execRemapTimeout (p : Port) (t : Nat) (s : State) : Host.Outcome State Fault Refusal := act s t (fun d => d.remapTimeout p.val)

/-- RETRAIN_LIMIT_TIMEOUT (R122). -/
def execRetrainLimitTimeout (p : Port) (t : Nat) (s : State) : Host.Outcome State Fault Refusal := act s t (fun d => d.retrainLimit p.val)

/-- LINK_CTL_RETRAIN (R128). -/
def execLinkCtlRetrain (p : Port) (t : Nat) (s : State) : Host.Outcome State Fault Refusal :=
  act s t (fun d => d.viaBar (fun d => d.linkCtlRetrain p.val))

/-- LINK_CTL_DISABLE (R128). -/
def execLinkCtlDisable (p : Port) (on : Bool) (t : Nat) (s : State) : Host.Outcome State Fault Refusal :=
  act s t (fun d => d.viaBar (fun d => d.linkCtlDisable p.val on))

/-- LANE_CTL_GO (R126). -/
def execLaneCtlGo (p : Port) (lane : Fin 16) (spare : Fin 2) (t : Nat) (s : State) : Host.Outcome State Fault Refusal :=
  act s t (fun d => d.viaBar (fun d => d.laneCtlGo p.val lane.val spare.val))

/-- PARTNER_SIGNAL_LOSS (R463, R122). -/
def execPartnerSignalLoss (p : Port) (t : Nat) (s : State) : Host.Outcome State Fault Refusal := act s t (fun d => d.partnerSignalLoss p.val)

/-- LANE_SER_INTERVAL (R451). -/
def execLaneSerInterval (p : Port) (lane : Fin 18) (symbols : Nat) (t : Nat) (s : State) : Host.Outcome State Fault Refusal :=
  act s t (fun d => d.laneInterval p.val lane.val symbols)

end Sys2Proof.Machine
end

