-- ==== Sys2Proof/Machine/PinCmds.lean ====
section
/-! DEFINITION. The meanings of the commands of the I3C management interface, and of power and thermal measurement (chapter 16). -/
namespace Sys2Proof.Machine

/-- STATUS (R551). -/
def execStatus (we : Bool) (t : Nat) (s : State) : Host.Outcome State Fault Refusal :=
  act s t (fun d => d.i3c (fun d => (d.strapWe we).statusReply))

/-- TEMP_ALL (R551). -/
def execTempAll (t : Nat) (s : State) : Host.Outcome State Fault Refusal := act s t (fun d => d.i3c (fun d => d.tempAll))

/-- FLASH_READ (R551). -/
def execFlashRead (addr len t : Nat) (s : State) : Host.Outcome State Fault Refusal :=
  act s t (fun d => d.i3c (fun d => d.flashRead s.flash addr len))

/-- FLASH_ERASE (R553). -/
def execFlashErase (addr : Nat) (we : Bool) (t : Nat) (s : State) : Host.Outcome State Fault Refusal :=
  act s t (fun d => d.i3c (fun d => d.flashErase addr we))

/-- FLASH_PROGRAM (R553). -/
def execFlashProgram (addr : Nat) (bytes : List Byte) (we : Bool) (t : Nat) (s : State) : Host.Outcome State Fault Refusal :=
  act s t (fun d => d.i3c (fun d => d.flashProgram addr bytes we))

/-- FLASH_STATUS (R551). -/
def execFlashStatus (t : Nat) (s : State) : Host.Outcome State Fault Refusal := act s t (fun d => d.i3c (fun d => d.flashStatus))

/-- FLASH_OP_DONE (R551): the one command that changes the flash. -/
def execFlashOpDone (t : Nat) (s : State) : Host.Outcome State Fault Refusal :=
  act { s with flash := s.dev.flashAfter s.flash } t (fun d => d.flashDone s.fuse)

/-- TRACE_READ (R552). -/
def execTraceRead (n t : Nat) (s : State) : Host.Outcome State Fault Refusal := act s t (fun d => d.i3c (fun d => d.traceRead n))

/-- DBG_STATUS (R533). -/
def execDbgStatus (t : Nat) (s : State) : Host.Outcome State Fault Refusal := act s t (fun d => d.i3c (fun d => d.dbgStatus))

/-- DBG_HALT (R533). -/
def execDbgHalt (core : Fin 16) (t : Nat) (s : State) : Host.Outcome State Fault Refusal :=
  act s t (fun d => d.i3c (fun d => d.debugCmd (fun d => d.dbgHalt core.val)))

/-- DBG_RESUME (R533). -/
def execDbgResume (core : Fin 16) (t : Nat) (s : State) : Host.Outcome State Fault Refusal :=
  act s t (fun d => d.i3c (fun d => d.debugCmd (fun d => d.dbgResume core.val)))

/-- DBG_MEM_READ (R533). -/
def execDbgMemRead (core : Fin 16) (addr len t : Nat) (s : State) : Host.Outcome State Fault Refusal :=
  act s t (fun d => d.i3c (fun d => d.debugCmd (fun d => d.dbgMemRead core.val addr len)))

/-- DBG_MEM_WRITE (R533). -/
def execDbgMemWrite (core : Fin 16) (addr : Nat) (bytes : List Byte) (t : Nat) (s : State) : Host.Outcome State Fault Refusal :=
  act s t (fun d => d.i3c (fun d => d.debugCmd (fun d => d.dbgMemWrite core.val addr bytes)))

/-- DBG_REG_READ (R533). -/
def execDbgRegRead (addr t : Nat) (s : State) : Host.Outcome State Fault Refusal :=
  act s t (fun d => d.i3c (fun d => d.debugCmd (fun d => d.dbgRegRead addr)))

/-- DBG_REG_WRITE (R533). -/
def execDbgRegWrite (addr : Nat) (v : Word) (t : Nat) (s : State) : Host.Outcome State Fault Refusal :=
  act s t (fun d => d.i3c (fun d => d.debugCmd (fun d => d.dbgRegWrite s.fuse addr v.toNat)))

/-- DBG_CORE_REGS (R533). -/
def execDbgCoreRegs (core : Fin 16) (t : Nat) (s : State) : Host.Outcome State Fault Refusal :=
  act s t (fun d => d.i3c (fun d => d.debugCmd (fun d => d.dbgCoreRegs core.val)))

/-- ENTDAA (R550). -/
def execEntdaa (addr : BitVec 7) (t : Nat) (s : State) : Host.Outcome State Fault Refusal :=
  act s t (fun d => d.i3c (fun d => d.dynAddr addr.toNat))

/-- SETDASA (R550). -/
def execSetdasa (addr : BitVec 7) (t : Nat) (s : State) : Host.Outcome State Fault Refusal :=
  act s t (fun d => d.i3c (fun d => d.dynAddr addr.toNat))

/-- POWER_SAMPLE (R557). -/
def execPowerSample (mv ma t : Nat) (s : State) : Host.Outcome State Fault Refusal := act s t (fun d => d.powerSample mv ma)

/-- THERMAL_SAMPLE (R560). -/
def execThermalSample (temps : List Nat) (t : Nat) (s : State) : Host.Outcome State Fault Refusal := act s t (fun d => d.thermalSample temps)

/-- VCORE_MV_WRITE (R556). -/
def execVcoreMvWrite (mv : BitVec 12) (t : Nat) (s : State) : Host.Outcome State Fault Refusal :=
  act s t (fun d => d.viaBar (fun d => d.vcoreWrite mv.toNat))

end Sys2Proof.Machine
end

