-- ==== Sys2Proof/Machine/StartCmds.lean ====
section
/-! DEFINITION. The meanings of the commands of power, resets, start-up, lifecycle and fuses (chapters 15 and 16). -/
namespace Sys2Proof.Machine

/-- POWER_ON (R554). -/
def execPowerOn (mv straps t : Nat) (s : State) : Host.Outcome State Fault Refusal := act s t (fun d => d.powerOn mv straps)

/-- POWER_DOWN (R554). -/
def execPowerDown (mv t : Nat) (s : State) : Host.Outcome State Fault Refusal := act s t (fun d => d.powerDown mv)

/-- RESET_N (R509). -/
def execResetN (t : Nat) (s : State) : Host.Outcome State Fault Refusal := act s t (fun d => d.resetPin)

/-- PERST_N (R509). -/
def execPerstN (t : Nat) (s : State) : Host.Outcome State Fault Refusal := act s t (fun d => d.perstPin)

/-- DEV_RESET (R509). -/
def execDevReset (code : BitVec 16) (t : Nat) (s : State) : Host.Outcome State Fault Refusal := act s t (fun d => d.devReset code.toNat)

/-- RESET_RELEASE (R512). -/
def execResetRelease (t : Nat) (s : State) : Host.Outcome State Fault Refusal := act s t (fun d => d.resetRelease s.fuse)

/-- WIPE_DONE (R511). -/
def execWipeDone (t : Nat) (s : State) : Host.Outcome State Fault Refusal := act s t (fun d => d.wipeDone)

/-- IMAGE_APPLIED (R512): `unread` names the slots of which a byte cannot be read. -/
def execImageApplied (unread : List (Fin 2)) (t : Nat) (s : State) : Host.Outcome State Fault Refusal :=
  act s t (fun d => d.imageApplied s.fuse s.flash (unread.map Fin.val))

/-- STORE_ENGINE_TEST (R514). -/
def execStoreEngineTest (failing : List Port) (t : Nat) (s : State) : Host.Outcome State Fault Refusal :=
  act s t (fun d => d.storeTest (failing.map Fin.val))

/-- TAMPER_ALARM (R540). -/
def execTamperAlarm (src : Fin 4) (t : Nat) (s : State) : Host.Outcome State Fault Refusal := act s t (fun d => d.tamperAlarm s.fuse src.val)

/-- ERASE_HOLD_RELEASE (R541). -/
def execEraseHoldRelease (src : Fin 4) (t : Nat) (s : State) : Host.Outcome State Fault Refusal :=
  act s t (fun d => d.eraseHoldRelease s.fuse src.val)

/-- TAMPER_STAT_CLEAR (R540). -/
def execTamperStatClear (bits active : BitVec 4) (t : Nat) (s : State) : Host.Outcome State Fault Refusal :=
  act s t (fun d => d.tamperClear bits.toNat active.toNat)

/-- LC_CTL_GO (R530). -/
def execLcCtlGo (target : BitVec 3) (t : Nat) (s : State) : Host.Outcome State Fault Refusal := act s t (fun d => d.lcGo s.fuse target.toNat)

/-- DBG_CTL_UNLOCK (R532). -/
def execDbgCtlUnlock (t : Nat) (s : State) : Host.Outcome State Fault Refusal := act s t (fun d => d.debugUnlock s.fuse)

/-- DBG_CTL_LOCK (R532). -/
def execDbgCtlLock (t : Nat) (s : State) : Host.Outcome State Fault Refusal := act s t (fun d => d.debugLock)

/-- FUSE_PROG_GO (R528). -/
def execFuseProgGo (field : Fin 8) (t : Nat) (s : State) : Host.Outcome State Fault Refusal := act s t (fun d => d.fuseProg s.fuse field.val)

/-- SVN_RAISE (R529). -/
def execSvnRaise (floor : BitVec 7) (t : Nat) (s : State) : Host.Outcome State Fault Refusal := act s t (fun d => d.svnRaise s.fuse floor.toNat)

/-- FUSE_BURN_DONE (R528): the one command that changes the fuses. -/
def execFuseBurnDone (t : Nat) (s : State) : Host.Outcome State Fault Refusal :=
  let z := s.dev.burned s.fuse
  act { s with fuse := z } t (fun d => d.burnShown z)

end Sys2Proof.Machine
end

