-- ==== Sys2Proof/Machine/TenancyCmds.lean ====
section
/-! DEFINITION. The meanings of the commands of composition, extents and leases (chapter 12) and of faults, fencing, partitions and mirrors
(chapter 13). -/
namespace Sys2Proof.Machine

/-- COMP_COMMIT (R428). -/
def execCompCommit (t : Nat) (s : State) : Host.Outcome State Fault Refusal := act s t (fun d => d.viaBar (fun d => d.registerCommit))

/-- COMP_DISCARD (R444). -/
def execCompDiscard (t : Nat) (s : State) : Host.Outcome State Fault Refusal := act s t (fun d => d.viaBar (fun d => d.unstage 0))

/-- RT_GO_WRITE (R444). -/
def execRtGoWrite (t : Nat) (s : State) : Host.Outcome State Fault Refusal := act s t (fun d => d.viaBar (fun d => d.rtGoWrite))

/-- RT_GO_READ (R444). -/
def execRtGoRead (t : Nat) (s : State) : Host.Outcome State Fault Refusal := act s t (fun d => d.viaBar (fun d => d.rtGoRead))

/-- EXT_ASSIGN (R426). -/
def execExtAssign (e : Ext) (dom : Dom) (t : Nat) (s : State) : Host.Outcome State Fault Refusal :=
  act s t (fun d => d.viaBar (fun d => (d.extAssign e.val dom.val).1))

/-- EXT_REVOKE (R432). -/
def execExtRevoke (e : Ext) (erase : Bool) (t : Nat) (s : State) : Host.Outcome State Fault Refusal :=
  act s t (fun d => d.viaBar (fun d => (d.extRevoke e.val erase).1))

/-- TRANSITION_LIMIT (R429). -/
def execTransitionLimit (t : Nat) (s : State) : Host.Outcome State Fault Refusal := act s t (fun d => d.transitionLimit)

/-- EXTENT_DRAIN_DONE (R432). -/
def execExtentDrainDone (e : Ext) (t : Nat) (s : State) : Host.Outcome State Fault Refusal := act s t (fun d => d.extentDrained e.val)

/-- QUENCH_ZERO_FILL (R436). -/
def execQuenchZeroFill (e : Ext) (t : Nat) (s : State) : Host.Outcome State Fault Refusal := act s t (fun d => d.zeroFill e.val)

/-- LEASE_EXPIRY (R440). -/
def execLeaseExpiry (entry : Fin 16384) (t : Nat) (s : State) : Host.Outcome State Fault Refusal :=
  act s t (fun d => d.leaseExpired entry.val)

/-- WIN_WRITE (R424). -/
def execWinWrite (w : Fin 8192) (v : Word) (t : Nat) (s : State) : Host.Outcome State Fault Refusal :=
  act s t (fun d => d.viaBar (fun d => (d.winWrite w.val v.toNat).1))

/-- HEARTBEAT_TIMEOUT (R463). -/
def execHeartbeatTimeout (p : Port) (t : Nat) (s : State) : Host.Outcome State Fault Refusal := act s t (fun d => d.heartbeatTimeout p.val)

/-- FENCE_CTL_FENCE (R463). -/
def execFenceCtlFence (p : Port) (t : Nat) (s : State) : Host.Outcome State Fault Refusal :=
  act s t (fun d => d.viaBar (fun d => d.declareDead p.val 3))

/-- FENCE_CTL_ADMIT (R465). -/
def execFenceCtlAdmit (p : Port) (t : Nat) (s : State) : Host.Outcome State Fault Refusal :=
  act s t (fun d => d.viaBar (fun d => d.admitPort p.val))

/-- PART_CTL_FENCE (R467). -/
def execPartCtlFence (k : Fin 16) (electrical : Bool) (t : Nat) (s : State) : Host.Outcome State Fault Refusal :=
  act s t (fun d => d.viaBar (fun d => d.fencePart k.val electrical))

/-- PART_CTL_RELEASE (R467). -/
def execPartCtlRelease (k : Fin 16) (t : Nat) (s : State) : Host.Outcome State Fault Refusal :=
  act s t (fun d => d.viaBar (fun d => d.releasePart k.val))

/-- MIRROR_MARK (R462). -/
def execMirrorMark (index : Nat) (survivor : Fin 2) (t : Nat) (s : State) : Host.Outcome State Fault Refusal :=
  act s t (fun d => d.viaBar (fun d => d.markMirror index survivor.val))

/-- RESYNC_COPY (R460). -/
def execResyncCopy (index t : Nat) (s : State) : Host.Outcome State Fault Refusal := act s t (fun d => d.resyncStep index)

/-- BANK_DRAIN_DONE (R454). -/
def execBankDrainDone (b : Fin 128) (t : Nat) (s : State) : Host.Outcome State Fault Refusal := act s t (fun d => d.bankDrained b.val)

end Sys2Proof.Machine
end

