-- ==== Sys2Proof/Machine/TierCmds.lean ====
section
/-! DEFINITION. The meanings of the commands of tiers, compression and keys (chapter 10). -/
namespace Sys2Proof.Machine

/-- TIER_PROMOTION (R346, R347). -/
def execTierPromotion (t : Nat) (s : State) : Host.Outcome State Fault Refusal := act s t (fun d => d.tierPromotion)

/-- COUNTER_DECAY (R345). -/
def execCounterDecay (t : Nat) (s : State) : Host.Outcome State Fault Refusal := act s t (fun d => d.counterDecay)

/-- CLEAN_WRITEBACK (R348). -/
def execCleanWriteback (line t : Nat) (s : State) : Host.Outcome State Fault Refusal := act s t (fun d => d.cleanWriteback line)

/-- FLUSH (R350, R348). -/
def execFlush (t : Nat) (s : State) : Host.Outcome State Fault Refusal := act s t (fun d => d.viaBar (fun d => d.flushTier))

/-- SHADOW_BUILD (R355). -/
def execShadowBuild (ppa t : Nat) (s : State) : Host.Outcome State Fault Refusal := act s t (fun d => d.shadowBuild ppa)

/-- WPUSH_GO (R358). -/
def execWpushGo (t : Nat) (s : State) : Host.Outcome State Fault Refusal := act s t (fun d => d.viaBar (fun d => d.wpushGo))

/-- KEY_SWEEP_LINE (R373). -/
def execKeySweepLine (dom : Dom) (t : Nat) (s : State) : Host.Outcome State Fault Refusal := act s t (fun d => d.keySweepLine dom.val)

end Sys2Proof.Machine
end

