-- ==== Sys2Proof/Machine/Dispatch.lean ====
section
/-! DEFINITION. One arm for every command: its one direct call of its meaning. -/
namespace Sys2Proof.Machine

/-- The effect of a command on everything but the queue. -/
def exec (i : Instr) (s : State) : Host.Outcome State Fault Refusal :=
  match i with
  | .flitReceive port lanes corrected uncorrectable cuts t => Sys2Proof.Machine.execFlitReceive port lanes corrected uncorrectable cuts t s
  | .flitTransmit port t => Sys2Proof.Machine.execFlitTransmit port t s
  | .nakResendTimeout port t => Sys2Proof.Machine.execNakResendTimeout port t s
  | .ackMaxNsTimeout port t => Sys2Proof.Machine.execAckMaxNsTimeout port t s
  | .heartbeatSend port t => Sys2Proof.Machine.execHeartbeatSend port t s
  | .partnerSignalDetect port t => Sys2Proof.Machine.execPartnerSignalDetect port t s
  | .equalizeDone port t => Sys2Proof.Machine.execEqualizeDone port t s
  | .equalizeTimeout port t => Sys2Proof.Machine.execEqualizeTimeout port t s
  | .alignTimeout port t => Sys2Proof.Machine.execAlignTimeout port t s
  | .hello port payload t => Sys2Proof.Machine.execHello port payload t s
  | .helloTimeout port t => Sys2Proof.Machine.execHelloTimeout port t s
  | .remapAck port t => Sys2Proof.Machine.execRemapAck port t s
  | .remapTimeout port t => Sys2Proof.Machine.execRemapTimeout port t s
  | .retrainLimitTimeout port t => Sys2Proof.Machine.execRetrainLimitTimeout port t s
  | .linkCtlRetrain port t => Sys2Proof.Machine.execLinkCtlRetrain port t s
  | .linkCtlDisable port on t => Sys2Proof.Machine.execLinkCtlDisable port on t s
  | .laneCtlGo port lane spare t => Sys2Proof.Machine.execLaneCtlGo port lane spare t s
  | .rdShared r t => Sys2Proof.Machine.execRdShared r t s
  | .rdNoalloc r t => Sys2Proof.Machine.execRdNoalloc r t s
  | .rdOwn r t => Sys2Proof.Machine.execRdOwn r t s
  | .wrLine r t => Sys2Proof.Machine.execWrLine r t s
  | .wrPart r t => Sys2Proof.Machine.execWrPart r t s
  | .wbDirty r t => Sys2Proof.Machine.execWbDirty r t s
  | .inval r t => Sys2Proof.Machine.execInval r t s
  | .evict r t => Sys2Proof.Machine.execEvict r t s
  | .fadd r t => Sys2Proof.Machine.execFadd r t s
  | .min r t => Sys2Proof.Machine.execMin r t s
  | .max r t => Sys2Proof.Machine.execMax r t s
  | .swap r t => Sys2Proof.Machine.execSwap r t s
  | .cas r t => Sys2Proof.Machine.execCas r t s
  | .opsWr port m gen t => Sys2Proof.Machine.execOpsWr port m gen t s
  | .data port m par t => Sys2Proof.Machine.execData port m par t s
  | .atomicRet port m par t => Sys2Proof.Machine.execAtomicRet port m par t s
  | .snpData port m t => Sys2Proof.Machine.execSnpData port m t s
  | .cmp port m t => Sys2Proof.Machine.execCmp port m t s
  | .snpAck port m t => Sys2Proof.Machine.execSnpAck port m t s
  | .resultAck port m t => Sys2Proof.Machine.execResultAck port m t s
  | .mgtNop port m t => Sys2Proof.Machine.execMgtNop port m t s
  | .heartbeat port m t => Sys2Proof.Machine.execHeartbeat port m t s
  | .trayEvent port m t => Sys2Proof.Machine.execTrayEvent port m t s
  | .holdLimitExpiry line t => Sys2Proof.Machine.execHoldLimitExpiry line t s
  | .snpTimeout line t => Sys2Proof.Machine.execSnpTimeout line t s
  | .atomicIdleWriteback line t => Sys2Proof.Machine.execAtomicIdleWriteback line t s
  | .combineWindowClose line t => Sys2Proof.Machine.execCombineWindowClose line t s
  | .parkLimitExpiry t => Sys2Proof.Machine.execParkLimitExpiry t s
  | .parkCtlWrite limit t => Sys2Proof.Machine.execParkCtlWrite limit t s
  | .revertGo pages t => Sys2Proof.Machine.execRevertGo pages t s
  | .cellEpoch ps hits t => Sys2Proof.Machine.execCellEpoch ps hits t s
  | .ageSweep t => Sys2Proof.Machine.execAgeSweep t s
  | .telemetrySample t => Sys2Proof.Machine.execTelemetrySample t s
  | .telClr port t => Sys2Proof.Machine.execTelClr port t s
  | .heatSubmit c t => Sys2Proof.Machine.execHeatSubmit c t s
  | .heatStart h t => Sys2Proof.Machine.execHeatStart h t s
  | .heatComplete h t => Sys2Proof.Machine.execHeatComplete h t s
  | .watchdogExpiry h t => Sys2Proof.Machine.execWatchdogExpiry h t s
  | .waitTimeout tile t => Sys2Proof.Machine.execWaitTimeout tile t s
  | .deadline tile t => Sys2Proof.Machine.execDeadline tile t s
  | .opNop tile par t => Sys2Proof.Machine.execOpNop tile par t s
  | .fill tile par t => Sys2Proof.Machine.execFill tile par t s
  | .copy tile par t => Sys2Proof.Machine.execCopy tile par t s
  | .compare tile par t => Sys2Proof.Machine.execCompare tile par t s
  | .reduce tile par t => Sys2Proof.Machine.execReduce tile par t s
  | .gather tile par t => Sys2Proof.Machine.execGather tile par t s
  | .scatter tile par t => Sys2Proof.Machine.execScatter tile par t s
  | .filter tile par t => Sys2Proof.Machine.execFilter tile par t s
  | .topk tile par t => Sys2Proof.Machine.execTopk tile par t s
  | .attend tile par t => Sys2Proof.Machine.execAttend tile par t s
  | .combine tile par t => Sys2Proof.Machine.execCombine tile par t s
  | .reshard tile par t => Sys2Proof.Machine.execReshard tile par t s
  | .pack tile par t => Sys2Proof.Machine.execPack tile par t s
  | .unpack tile par t => Sys2Proof.Machine.execUnpack tile par t s
  | .migration tile readable t => Sys2Proof.Machine.execMigration tile readable t s
  | .tierPromotion t => Sys2Proof.Machine.execTierPromotion t s
  | .counterDecay t => Sys2Proof.Machine.execCounterDecay t s
  | .cleanWriteback line t => Sys2Proof.Machine.execCleanWriteback line t s
  | .flush t => Sys2Proof.Machine.execFlush t s
  | .shadowBuild ppa t => Sys2Proof.Machine.execShadowBuild ppa t s
  | .wpushGo t => Sys2Proof.Machine.execWpushGo t s
  | .keySweepLine dom t => Sys2Proof.Machine.execKeySweepLine dom t s
  | .grtFrameReceive port frame bad t => Sys2Proof.Machine.execGrtFrameReceive port frame bad t s
  | .pfcFrame port frame t => Sys2Proof.Machine.execPfcFrame port frame t s
  | .pfcPauseExpiry port prio t => Sys2Proof.Machine.execPfcPauseExpiry port prio t s
  | .grtWrite ctx t => Sys2Proof.Machine.execGrtWrite ctx t s
  | .readReq ctx t => Sys2Proof.Machine.execReadReq ctx t s
  | .readResp ctx t => Sys2Proof.Machine.execReadResp ctx t s
  | .grtAck ctx t => Sys2Proof.Machine.execGrtAck ctx t s
  | .grtNak ctx t => Sys2Proof.Machine.execGrtNak ctx t s
  | .grtPacketSend ctx t => Sys2Proof.Machine.execGrtPacketSend ctx t s
  | .contextFetchDone ctx t => Sys2Proof.Machine.execContextFetchDone ctx t s
  | .hostFetchLimit ctx t => Sys2Proof.Machine.execHostFetchLimit ctx t s
  | .rtoExpiry ctx t => Sys2Proof.Machine.execRtoExpiry ctx t s
  | .seqNakResend ctx t => Sys2Proof.Machine.execSeqNakResend ctx t s
  | .ackDelayExpiry ctx t => Sys2Proof.Machine.execAckDelayExpiry ctx t s
  | .rnrWaitExpiry ctx t => Sys2Proof.Machine.execRnrWaitExpiry ctx t s
  | .ctxDrainTimeout ctx t => Sys2Proof.Machine.execCtxDrainTimeout ctx t s
  | .xoffRefresh port t => Sys2Proof.Machine.execXoffRefresh port t s
  | .pfcWatchdog port prio t => Sys2Proof.Machine.execPfcWatchdog port prio t s
  | .uplinkUp port t => Sys2Proof.Machine.execUplinkUp port t s
  | .uplinkDown port t => Sys2Proof.Machine.execUplinkDown port t s
  | .compCommit t => Sys2Proof.Machine.execCompCommit t s
  | .compDiscard t => Sys2Proof.Machine.execCompDiscard t s
  | .rtGoWrite t => Sys2Proof.Machine.execRtGoWrite t s
  | .rtGoRead t => Sys2Proof.Machine.execRtGoRead t s
  | .extAssign ext dom t => Sys2Proof.Machine.execExtAssign ext dom t s
  | .extRevoke ext erase t => Sys2Proof.Machine.execExtRevoke ext erase t s
  | .transitionLimit t => Sys2Proof.Machine.execTransitionLimit t s
  | .extentDrainDone ext t => Sys2Proof.Machine.execExtentDrainDone ext t s
  | .quenchZeroFill ext t => Sys2Proof.Machine.execQuenchZeroFill ext t s
  | .leaseExpiry entry t => Sys2Proof.Machine.execLeaseExpiry entry t s
  | .winWrite w v t => Sys2Proof.Machine.execWinWrite w v t s
  | .heartbeatTimeout port t => Sys2Proof.Machine.execHeartbeatTimeout port t s
  | .fenceCtlFence port t => Sys2Proof.Machine.execFenceCtlFence port t s
  | .fenceCtlAdmit port t => Sys2Proof.Machine.execFenceCtlAdmit port t s
  | .partCtlFence part electrical t => Sys2Proof.Machine.execPartCtlFence part electrical t s
  | .partCtlRelease part t => Sys2Proof.Machine.execPartCtlRelease part t s
  | .mirrorMark index survivor t => Sys2Proof.Machine.execMirrorMark index survivor t s
  | .resyncCopy index t => Sys2Proof.Machine.execResyncCopy index t s
  | .laneSerInterval port lane symbols t => Sys2Proof.Machine.execLaneSerInterval port lane symbols t s
  | .bankDrainDone bank t => Sys2Proof.Machine.execBankDrainDone bank t s
  | .nop c t => Sys2Proof.Machine.execNop c t s
  | .rtStage c t => Sys2Proof.Machine.execRtStage c t s
  | .commit c t => Sys2Proof.Machine.execCommit c t s
  | .discard c t => Sys2Proof.Machine.execDiscard c t s
  | .poolSet c t => Sys2Proof.Machine.execPoolSet c t s
  | .leaseClaim c t => Sys2Proof.Machine.execLeaseClaim c t s
  | .leaseRelease c t => Sys2Proof.Machine.execLeaseRelease c t s
  | .regCreate c t => Sys2Proof.Machine.execRegCreate c t s
  | .regRevoke c t => Sys2Proof.Machine.execRegRevoke c t s
  | .ctxAlloc c t => Sys2Proof.Machine.execCtxAlloc c t s
  | .ctxCreate c t => Sys2Proof.Machine.execCtxCreate c t s
  | .ctxModify c t => Sys2Proof.Machine.execCtxModify c t s
  | .ctxDestroy c t => Sys2Proof.Machine.execCtxDestroy c t s
  | .shadowAdd c t => Sys2Proof.Machine.execShadowAdd c t s
  | .shadowDel c t => Sys2Proof.Machine.execShadowDel c t s
  | .keyLoad c t => Sys2Proof.Machine.execKeyLoad c t s
  | .wpush c t => Sys2Proof.Machine.execWpush c t s
  | .revert c t => Sys2Proof.Machine.execRevert c t s
  | .admitCmd c t => Sys2Proof.Machine.execAdmit c t s
  | .fence c t => Sys2Proof.Machine.execFence c t s
  | .extent c t => Sys2Proof.Machine.execExtent c t s
  | .window c t => Sys2Proof.Machine.execWindow c t s
  | .hostBacking c t => Sys2Proof.Machine.execHostBacking c t s
  | .attest c t => Sys2Proof.Machine.execAttest c t s
  | .coreRestart c t => Sys2Proof.Machine.execCoreRestart c t s
  | .cmdDb fn ring pi t => Sys2Proof.Machine.execCmdDb fn ring pi t s
  | .cplDb fn ring ci t => Sys2Proof.Machine.execCplDb fn ring ci t s
  | .evtDb fn ci t => Sys2Proof.Machine.execEvtDb fn ci t s
  | .ringCfg0Write fn v t => Sys2Proof.Machine.execRingCfg0Write fn v t s
  | .commandFetch fn ring t => Sys2Proof.Machine.execCommandFetch fn ring t s
  | .irqUsExpiry fn kind ring t => Sys2Proof.Machine.execIrqUsExpiry fn kind ring t s
  | .functionLevelReset fn t => Sys2Proof.Machine.execFunctionLevelReset fn t s
  | .bar2Access fn addr len write t => Sys2Proof.Machine.execBar2Access fn addr len write t s
  | .hostReadCompletion tag answer t => Sys2Proof.Machine.execHostReadCompletion tag answer t s
  | .fwGo t => Sys2Proof.Machine.execFwGo t s
  | .fwCopyDone t => Sys2Proof.Machine.execFwCopyDone t s
  | .fwVerifyDone t => Sys2Proof.Machine.execFwVerifyDone t s
  | .coreCtlRestart core t => Sys2Proof.Machine.execCoreCtlRestart core t s
  | .coreWatchdog core parity t => Sys2Proof.Machine.execCoreWatchdog core parity t s
  | .coreRestartDone core t => Sys2Proof.Machine.execCoreRestartDone core t s
  | .telSnap hold t => Sys2Proof.Machine.execTelSnap hold t s
  | .registerWrite fn addr bytes v t => Sys2Proof.Machine.execRegisterWrite fn addr bytes v t s
  | .powerOn mv straps t => Sys2Proof.Machine.execPowerOn mv straps t s
  | .powerDown mv t => Sys2Proof.Machine.execPowerDown mv t s
  | .resetN t => Sys2Proof.Machine.execResetN t s
  | .perstN t => Sys2Proof.Machine.execPerstN t s
  | .devReset code t => Sys2Proof.Machine.execDevReset code t s
  | .wipeDone t => Sys2Proof.Machine.execWipeDone t s
  | .imageApplied unread t => Sys2Proof.Machine.execImageApplied unread t s
  | .storeEngineTest failing t => Sys2Proof.Machine.execStoreEngineTest failing t s
  | .tamperAlarm src t => Sys2Proof.Machine.execTamperAlarm src t s
  | .eraseHoldRelease src t => Sys2Proof.Machine.execEraseHoldRelease src t s
  | .tamperStatClear bits active t => Sys2Proof.Machine.execTamperStatClear bits active t s
  | .lcCtlGo target t => Sys2Proof.Machine.execLcCtlGo target t s
  | .dbgCtlUnlock t => Sys2Proof.Machine.execDbgCtlUnlock t s
  | .dbgCtlLock t => Sys2Proof.Machine.execDbgCtlLock t s
  | .fuseProgGo field t => Sys2Proof.Machine.execFuseProgGo field t s
  | .fuseBurnDone t => Sys2Proof.Machine.execFuseBurnDone t s
  | .svnRaise floor t => Sys2Proof.Machine.execSvnRaise floor t s
  | .status we t => Sys2Proof.Machine.execStatus we t s
  | .tempAll t => Sys2Proof.Machine.execTempAll t s
  | .flashRead addr len t => Sys2Proof.Machine.execFlashRead addr len t s
  | .flashErase addr we t => Sys2Proof.Machine.execFlashErase addr we t s
  | .flashProgram addr bytes we t => Sys2Proof.Machine.execFlashProgram addr bytes we t s
  | .flashStatus t => Sys2Proof.Machine.execFlashStatus t s
  | .flashOpDone t => Sys2Proof.Machine.execFlashOpDone t s
  | .traceRead n t => Sys2Proof.Machine.execTraceRead n t s
  | .dbgStatus t => Sys2Proof.Machine.execDbgStatus t s
  | .dbgHalt core t => Sys2Proof.Machine.execDbgHalt core t s
  | .dbgResume core t => Sys2Proof.Machine.execDbgResume core t s
  | .dbgMemRead core addr len t => Sys2Proof.Machine.execDbgMemRead core addr len t s
  | .dbgMemWrite core addr bytes t => Sys2Proof.Machine.execDbgMemWrite core addr bytes t s
  | .dbgRegRead addr t => Sys2Proof.Machine.execDbgRegRead addr t s
  | .dbgRegWrite addr v t => Sys2Proof.Machine.execDbgRegWrite addr v t s
  | .dbgCoreRegs core t => Sys2Proof.Machine.execDbgCoreRegs core t s
  | .entdaa addr t => Sys2Proof.Machine.execEntdaa addr t s
  | .setdasa addr t => Sys2Proof.Machine.execSetdasa addr t s
  | .powerSample mv ma t => Sys2Proof.Machine.execPowerSample mv ma t s
  | .thermalSample temps t => Sys2Proof.Machine.execThermalSample temps t s
  | .vcoreMvWrite mv t => Sys2Proof.Machine.execVcoreMvWrite mv t s
  | .partnerSignalLoss port t => Sys2Proof.Machine.execPartnerSignalLoss port t s
  | .resetRelease t => Sys2Proof.Machine.execResetRelease t s
  | .configurationRequest fn field write t => Sys2Proof.Machine.execConfigurationRequest fn field write t s
  | .migrationDone tile t => Sys2Proof.Machine.execMigrationDone tile t s

end Sys2Proof.Machine
end

