-- ==== Sys2Proof/WellFormed.lean ====
section
/-! DEFINITION. The operands that a command can bear: lengths of flits, records and payloads, and the ranges of addresses and numbers
that its row's rule gives. Operands whose type already bounds them need no check. -/
namespace Sys2Proof

open Machine

/-- A message (R99, R103): as many data chunks as LEN says, of at most 14. -/
def Machine.Msg.wf (m : Msg) : Bool := m.data.length == m.hdr.toNat / 2 ^ 8 % 2 ^ 4 && decide (m.data.length ≤ 14)

/-- A request at a home (R100 to R104): a 14-bit TAG of a port, a 52-bit address, at most four lines of one aligned block of 256 bytes, byte
enables and data for one line. -/
def Machine.HomeReq.wf (r : HomeReq) : Bool :=
  (match r.who with
   | .port p => decide (p < 512) && decide (r.tag < 2 ^ 14)
   | _ => true) && decide (r.ppa / 64 % 4 + r.count < 4) && decide (r.dom < 4096) && decide (r.ppa < 2 ^ 52) && decide (r.count < 4) && decide (r.mask < 2 ^ 64) && decide (r.tc < 8) &&
    decide (r.data.length ≤ 64)

/-- Words of device memory (R46, R447): each once, below 192 GiB. -/
def Machine.Upset.wf (u : Upset) : Bool :=
  u.words.all (fun w => decide (w.1 < 0x30_0000_0000 / 32)) && decide ((u.words.map Prod.fst).Pairwise (· ≠ ·))

/-- Whether the operands of a command lie in their ranges. -/
def Instr.wf (i : Instr) : Bool :=
  match i with
  | .flitReceive _ lanes corrected uncorrectable _ _ => decide (lanes.length ≤ 16) && corrected.all (fun l => decide (l < 18)) && uncorrectable.all (fun l => decide (l < 18))
  | .flitTransmit _ _ => true
  | .nakResendTimeout _ _ => true
  | .ackMaxNsTimeout _ _ => true
  | .heartbeatSend _ _ => true
  | .partnerSignalDetect _ _ => true
  | .equalizeDone _ _ => true
  | .equalizeTimeout _ _ => true
  | .alignTimeout _ _ => true
  | .hello _ payload _ => payload.length == 240
  | .helloTimeout _ _ => true
  | .remapAck _ _ => true
  | .remapTimeout _ _ => true
  | .retrainLimitTimeout _ _ => true
  | .linkCtlRetrain _ _ => true
  | .linkCtlDisable _ _ _ => true
  | .laneCtlGo _ _ _ _ => true
  | .rdShared r _ => r.wf
  | .rdNoalloc r _ => r.wf
  | .rdOwn r _ => r.wf
  | .wrLine r _ => r.wf
  | .wrPart r _ => r.wf
  | .wbDirty r _ => r.wf
  | .inval r _ => r.wf
  | .evict r _ => r.wf
  | .fadd r _ => r.wf
  | .min r _ => r.wf
  | .max r _ => r.wf
  | .swap r _ => r.wf
  | .cas r _ => r.wf
  | .opsWr _ m gen _ => m.wf && decide (gen < 2 ^ 16)
  | .data _ m _ _ => m.wf
  | .atomicRet _ m _ _ => m.wf
  | .snpData _ m _ => m.wf
  | .cmp _ m _ => m.wf
  | .snpAck _ m _ => m.wf
  | .resultAck _ m _ => m.wf
  | .mgtNop _ m _ => m.wf
  | .heartbeat _ m _ => m.wf
  | .trayEvent _ m _ => m.wf
  | .holdLimitExpiry line _ => decide (line < 2 ^ 46)
  | .snpTimeout line _ => decide (line < 2 ^ 46)
  | .atomicIdleWriteback line _ => decide (line < 2 ^ 46)
  | .combineWindowClose line _ => decide (line < 2 ^ 46)
  | .parkLimitExpiry _ => true
  | .parkCtlWrite _ _ => true
  | .revertGo _ _ => true
  | .cellEpoch _ _ _ => true
  | .ageSweep _ => true
  | .telemetrySample _ => true
  | .telClr _ _ => true
  | .heatSubmit c _ => c.args.length == 56
  | .heatStart h _ => decide (h.no < 2 ^ 48)
  | .heatComplete h _ => decide (h.no < 2 ^ 48)
  | .watchdogExpiry h _ => decide (h.no < 2 ^ 48)
  | .waitTimeout _ _ => true
  | .deadline _ _ => true
  | .opNop _ u _ => u.wf
  | .fill _ u _ => u.wf
  | .copy _ u _ => u.wf
  | .compare _ u _ => u.wf
  | .reduce _ u _ => u.wf
  | .gather _ u _ => u.wf
  | .scatter _ u _ => u.wf
  | .filter _ u _ => u.wf
  | .topk _ u _ => u.wf
  | .attend _ u _ => u.wf
  | .combine _ u _ => u.wf
  | .reshard _ u _ => u.wf
  | .pack _ u _ => u.wf
  | .unpack _ u _ => u.wf
  | .migration _ _ _ => true
  | .tierPromotion _ => true
  | .counterDecay _ => true
  | .cleanWriteback line _ => decide (line < 2 ^ 46)
  | .flush _ => true
  | .shadowBuild ppa _ => decide (ppa < 2 ^ 52)
  | .wpushGo _ => true
  | .keySweepLine _ _ => true
  | .grtFrameReceive _ frame _ _ => decide (14 ≤ frame.length)
  | .pfcFrame _ frame _ => decide (14 ≤ frame.length)
  | .pfcPauseExpiry _ _ _ => true
  | .grtWrite _ _ => true
  | .readReq _ _ => true
  | .readResp _ _ => true
  | .grtAck _ _ => true
  | .grtNak _ _ => true
  | .grtPacketSend _ _ => true
  | .contextFetchDone _ _ => true
  | .hostFetchLimit _ _ => true
  | .rtoExpiry _ _ => true
  | .seqNakResend _ _ => true
  | .ackDelayExpiry _ _ => true
  | .rnrWaitExpiry _ _ => true
  | .ctxDrainTimeout _ _ => true
  | .xoffRefresh _ _ => true
  | .pfcWatchdog _ _ _ => true
  | .uplinkUp _ _ => true
  | .uplinkDown _ _ => true
  | .compCommit _ => true
  | .compDiscard _ => true
  | .rtGoWrite _ => true
  | .rtGoRead _ => true
  | .extAssign _ _ _ => true
  | .extRevoke _ _ _ => true
  | .transitionLimit _ => true
  | .extentDrainDone _ _ => true
  | .quenchZeroFill _ _ => true
  | .leaseExpiry _ _ => true
  | .winWrite _ _ _ => true
  | .heartbeatTimeout _ _ => true
  | .fenceCtlFence _ _ => true
  | .fenceCtlAdmit _ _ => true
  | .partCtlFence _ _ _ => true
  | .partCtlRelease _ _ => true
  | .mirrorMark index _ _ => decide (index < 2 ^ 29)
  | .resyncCopy _ _ => true
  | .laneSerInterval _ _ _ _ => true
  | .bankDrainDone _ _ => true
  | .nop c _ => c.args.length == 56
  | .rtStage c _ => c.args.length == 56
  | .commit c _ => c.args.length == 56
  | .discard c _ => c.args.length == 56
  | .poolSet c _ => c.args.length == 56
  | .leaseClaim c _ => c.args.length == 56
  | .leaseRelease c _ => c.args.length == 56
  | .regCreate c _ => c.args.length == 56
  | .regRevoke c _ => c.args.length == 56
  | .ctxAlloc c _ => c.args.length == 56
  | .ctxCreate c _ => c.args.length == 56
  | .ctxModify c _ => c.args.length == 56
  | .ctxDestroy c _ => c.args.length == 56
  | .shadowAdd c _ => c.args.length == 56
  | .shadowDel c _ => c.args.length == 56
  | .keyLoad c _ => c.args.length == 56
  | .wpush c _ => c.args.length == 56
  | .revert c _ => c.args.length == 56
  | .admitCmd c _ => c.args.length == 56
  | .fence c _ => c.args.length == 56
  | .extent c _ => c.args.length == 56
  | .window c _ => c.args.length == 56
  | .hostBacking c _ => c.args.length == 56
  | .attest c _ => c.args.length == 56
  | .coreRestart c _ => c.args.length == 56
  | .cmdDb _ _ _ _ => true
  | .cplDb _ _ _ _ => true
  | .evtDb _ _ _ => true
  | .ringCfg0Write _ _ _ => true
  | .commandFetch _ _ _ => true
  | .irqUsExpiry _ _ _ _ => true
  | .functionLevelReset _ _ => true
  | .bar2Access _ addr len write _ => decide (addr + len ≤ 2 ^ 30) && (write.map List.length).getD len == len
  | .hostReadCompletion _ _ _ => true
  | .fwGo _ => true
  | .fwCopyDone _ => true
  | .fwVerifyDone _ => true
  | .coreCtlRestart _ _ => true
  | .coreWatchdog _ _ _ => true
  | .coreRestartDone _ _ => true
  | .telSnap _ _ => true
  | .registerWrite _ addr bytes _ _ => decide (addr < 2 ^ 26) && decide (1 ≤ bytes) && decide (bytes ≤ 8)
  | .powerOn _ straps _ => decide (straps < 8)
  | .powerDown _ _ => true
  | .resetN _ => true
  | .perstN _ => true
  | .devReset _ _ => true
  | .wipeDone _ => true
  | .imageApplied _ _ => true
  | .storeEngineTest _ _ => true
  | .tamperAlarm _ _ => true
  | .eraseHoldRelease _ _ => true
  | .tamperStatClear _ _ _ => true
  | .lcCtlGo _ _ => true
  | .dbgCtlUnlock _ => true
  | .dbgCtlLock _ => true
  | .fuseProgGo _ _ => true
  | .fuseBurnDone _ => true
  | .svnRaise _ _ => true
  | .status _ _ => true
  | .tempAll _ => true
  | .flashRead addr len _ => decide (addr < 2 ^ 32) && decide (len < 2 ^ 16)
  | .flashErase addr _ _ => decide (addr < 2 ^ 32)
  | .flashProgram addr bytes _ _ => decide (addr < 2 ^ 32) && bytes.length == 256
  | .flashStatus _ => true
  | .flashOpDone _ => true
  | .traceRead n _ => decide (n ≤ 16)
  | .dbgStatus _ => true
  | .dbgHalt _ _ => true
  | .dbgResume _ _ => true
  | .dbgMemRead _ addr len _ => decide (addr < 2 ^ 32) && decide (len < 2 ^ 16)
  | .dbgMemWrite _ addr bytes _ => decide (addr < 2 ^ 32) && decide (bytes.length ≤ 256)
  | .dbgRegRead addr _ => decide (addr < 2 ^ 32)
  | .dbgRegWrite addr _ _ => decide (addr < 2 ^ 32)
  | .dbgCoreRegs _ _ => true
  | .entdaa _ _ => true
  | .setdasa _ _ => true
  | .powerSample _ _ _ => true
  | .thermalSample temps _ => temps.length == 64 && temps.all (fun x => decide (x < 256))
  | .vcoreMvWrite _ _ => true
  | .partnerSignalLoss _ _ => true
  | .resetRelease _ => true
  | .configurationRequest _ _ _ _ => true
  | .migrationDone _ _ => true

end Sys2Proof
end

