-- ==== Sys2Proof/Safety.lean ====
section
/-! DEFINITION. What claims mean by a sound state (the canonical forms of the memories that outlive a reset, and fuses that only burn), and
how they say what a command does. -/
namespace Sys2Proof.Machine

/-- What every step keeps: the flash and the fuse table stand in canonical form. -/
def State.Sound (s : State) : Prop := Memory.wf 0xFF#8 s.flash = true ∧ Tab.wf 0 s.fuse.fields = true

/-- Every fuse burned in `z` is burned in `z'` (R527). -/
def Fuses.KeptIn (z z' : Fuses) : Prop :=
  (∀ f i, bitOf (z.field f) i = true → bitOf (z'.field f) i = true) ∧ (∀ f, z.programmed f = true → z'.programmed f = true)

/-- Whether every command waiting bears operands in their ranges. -/
def State.wellFormed (s : State) : Bool := s.pending.all Instr.wf

/-- Command `c` on `s` answers a next state in which the queue, the fuses and the flash are as before and the part is what `e` settles
to: `e` is the command's own effect, and settling carries on what it has set going as far as it goes at once (a part at rest stays as
it is: `Dev.settle`). -/
def Settles (c : Instr) (s : State) (e : Dev) : Prop := exec c s = .next { s with dev := e.settle }

/-- The registers listed stand in rising order of their addresses: the form in which `Dev.setReg` keeps them. -/
def Dev.Rising (d : Dev) : Prop := (d.regs.map Prod.fst).Pairwise (· < ·)

/-- The request that its home serves for a single-line request of kind `op` (R130, R419): under the live epoch and the number of its
admission, its line's address in a read or an INVAL (R103). -/
def Dev.turnReq (d : Dev) (r : HomeReq) (op : HomeOp) : HomeReq :=
  let whole := op.reads || decide (op = .inval)
  let base := r.ppa / 64 * 64
  { r with op := op, epoch := d.epoch, no := d.ten.admissions + 1, first := if whole then base else r.first, ppa := if whole then base else r.ppa }

/-- That request as its line's work. -/
def Dev.turnWork (d : Dev) (r : HomeReq) (op : HomeOp) : Work := ⟨d.turnReq r op, d.time, [], false⟩

/-- A single-line request admitted, and come to its turn on its line (R138, R418). -/
def Dev.turn (d : Dev) (r : HomeReq) (op : HomeOp) : Dev :=
  let k := r.ppa / 64
  ((d.admitFlight r.who r.tag r.ppa op.writes).queueWork k (d.turnReq r op)).onLine k (fun l => { l with
    queue := [], busy := some ⟨d.turnWork r op, .acks [], d.time, [], false, 0, 0⟩ })

/-- A single-line request of a counted requester reaches its home with nothing under way that concerns it: it passes the checks at its
ingress (R418), no message waits at an engine, none of its TAG is in flight, no parity failure is met, no hold of its line has run out on
its requester (R142), and, once it is admitted, the tray of its line lives and no mode change is under way (R130, R136, R138, R159). -/
def Dev.FirstAtHome (d : Dev) (r : HomeReq) (op : HomeOp) : Prop :=
  d.sw.arrived = [] ∧ (∃ a, d.homeChecks { r with op := op } = (d, .pass a)) ∧ r.who.counted = true ∧
  d.ten.flight.any (fun f => f.isOf r.who r.tag) = false ∧ r.count = 0 ∧ r.parity = 0 ∧
  (∀ p, r.who = .port p → (r.ppa / 64, p) ∉ d.home.lateHolds) ∧
  (d.admitFlight r.who r.tag r.ppa op.writes).deadTray d.epoch r.ppa = none ∧
  (d.admitFlight r.who r.tag r.ppa op.writes).flag Reg.DIR_STAT_MODE_CHANGE_BUSY = false

/-- Ring command `c` of opcode `op` comes to its start at `d` (R485, R487, R490, R502), and `e` is `d` with it taken from its ring: its
function's core runs; COMMAND_FETCH has taken it and it has not started, or its completion slot is free and it is taken now; no earlier
command of its ring holds it up; and its FLAGS are defined. -/
def Dev.Starts (d : Dev) (c : RingCmd) (op : Nat) (e : Dev) : Prop :=
  d.coreUp (fabricCore c.fn.val) = true ∧
  ((d.startedOf c = none ∧ d.slotFree c.fn.val c.ring.val = true ∧ e = d.takeCmd c op) ∨
    ((d.startedOf c).map Started.begun = some false ∧ e = d)) ∧
  e.mustWait c op = false ∧ c.flags.toNat < 2

/-- Tile `t` may take the next step of its descriptor of operator `op`, which is stage `s` of its run (R270): the tile is not frozen,
the descriptor's wait has held and its steps have not ended. -/
def Dev.AtStep (d : Dev) (t op : Nat) (s : Stage) : Prop :=
  Tab.find? d.heats.frozen t = none ∧ d.stageAt t s.ix = some s ∧
  (d.runAt t).bind (fun r => r.stages.find? (fun x => dOp x.w == op && x.waited && !x.fin)) = some s

/-- The `n` bytes at typed address `a` have landed as an operand or table of descriptor `ix` on tile `t`, and are `bs` (R252). -/
def Dev.Landed (d : Dev) (t ix a n : Nat) (bs : List Byte) : Prop :=
  ∃ h, d.heatOn t = some h ∧ d.collect t (opKey ix) (d.piecesOf h.fn a n) = .ok bs

/-- A step in which no word fails its parity or its ECC (R273, R447, R449). -/
def noUpset : Upset := ⟨false, [], []⟩

end Sys2Proof.Machine
end

