-- ==== Sys2Proof/Certificates/Slice0/Obligations.lean ====
section
/-! DEFINITION. The statements for the provers. -/
open Sys2Proof Sys2Proof.Machine

/-! ### Glois Link (chapter 3) -/

/-- R122, the way up: DOWN to EQUALIZE when the partner signals, EQUALIZE to ALIGN when equalization has ended, back to EQUALIZE 1 ms
into ALIGN; in RETRAIN the end of training is noted and the SYNC count starts again. -/
def Obligations.TrainingRises : Prop :=
  (∀ (s : State) (p : Port) (t : Nat) (d : Dev), s.dev.at t = d →
    d.isGlois p.val = true → d.linkState p.val = 0 → d.mayRise p.val = true →
    Settles (.partnerSignalDetect p t) s (d.enter p.val 1)) ∧
  (∀ (s : State) (p : Port) (t : Nat) (d : Dev), s.dev.at t = d →
    d.isGlois p.val = true → d.linkState p.val = 1 → Settles (.equalizeDone p t) s (d.enter p.val 2)) ∧
  (∀ (s : State) (p : Port) (t : Nat) (d : Dev), s.dev.at t = d →
    d.isGlois p.val = true → d.linkState p.val = 6 →
    Settles (.equalizeDone p t) s (d.onLink p.val (fun l => { l with trained := true, syncs := 0 }))) ∧
  (∀ (s : State) (p : Port) (t : Nat) (d : Dev), s.dev.at t = d →
    d.linkState p.val = 2 → (d.link p.val).since + 1_000_000 ≤ d.time → Settles (.alignTimeout p t) s (d.enter p.val 1)) ∧
  (∀ (d : Dev) (p st : Nat), d.enter p st =
    let e := (d.set (Reg.LINK_STAT_STATE p) st).onLink p (fun l => { l with since := d.time, syncs := 0, hbSeen := d.heldTimer p (d.link p) })
    e.set (Reg.LINK_STAT_WIDTH_NOW p) (if st = 4 then codeOf (e.link p).run else 0))

/-- R122, the ways down: 100 ms in EQUALIZE, the RETRAIN limit, LINK_CTL.DISABLE and a lost partner signal take a Glois port to DOWN;
100 µs in HELLO set HELLO_FAIL and leave the port there; LINK_CTL.RETRAIN takes an ACTIVE port to RETRAIN. -/
def Obligations.TrainingFalls : Prop :=
  (∀ (s : State) (p : Port) (t : Nat) (d : Dev), s.dev.at t = d →
    d.linkState p.val = 1 → (d.link p.val).since + 100_000_000 ≤ d.time → Settles (.equalizeTimeout p t) s (d.fallDown p.val)) ∧
  (∀ (s : State) (p : Port) (t : Nat) (d : Dev), s.dev.at t = d →
    d.linkState p.val = 3 → (d.link p.val).since + 100_000 ≤ d.time →
    Settles (.helloTimeout p t) s (d.set (Reg.LINK_STAT_HELLO_FAIL p.val) 1)) ∧
  (∀ (s : State) (p : Port) (t : Nat) (d : Dev), s.dev.at t = d →
    d.linkState p.val = 6 → (d.link p.val).since + max 1 (d.get (Reg.LINK_CTL_RETRAIN_LIMIT_MS p.val)) * 1_000_000 ≤ d.time →
    Settles (.retrainLimitTimeout p t) s (d.fallDown p.val)) ∧
  (∀ (s : State) (p : Port) (t : Nat) (d : Dev), s.dev.at t = d →
    d.isGlois p.val = true → d.linkState p.val = 4 → Settles (.partnerSignalLoss p t) s (d.fallDown p.val)) ∧
  (∀ (s : State) (p : Port) (t : Nat) (d : Dev), s.dev.at t = d →
    d.pcieUp = true → d.isGlois p.val = true → d.linkState p.val = 4 → Settles (.linkCtlRetrain p t) s (d.goRetrain p.val)) ∧
  (∀ (s : State) (p : Port) (t : Nat) (d : Dev), s.dev.at t = d →
    d.pcieUp = true → Settles (.linkCtlDisable p false t) s (d.set (Reg.LINK_CTL_DISABLE p.val) 0)) ∧
  (∀ (s : State) (p : Port) (t : Nat) (d : Dev), s.dev.at t = d →
    ∀ e, e = d.set (Reg.LINK_CTL_DISABLE p.val) 1 →
    d.pcieUp = true → e.isRole p.val 2 = false → e.linkState p.val ≠ 0 → Settles (.linkCtlDisable p true t) s (e.fallDown p.val))

/-- R124: a HELLO of the right kind and version 3 with a common width makes the port ACTIVE under the partner's credits; a HELLO of another
version only sets HELLO_FAIL. -/
def Obligations.HelloDecides : Prop :=
  (∀ (s : State) (p : Port) (bs : List Byte) (t w : Nat) (d : Dev), s.dev.at t = d →
    ∀ e, e = d.set (Reg.LINK_STAT_PARTNER_VERSION p.val) (fieldBytes bs 1 1) →
    ∀ credits, credits = (rangeFrom 0 6).map (fun c => (fieldBytes bs (20 + 4 * c) 2, fieldBytes bs (22 + 4 * c) 2)) →
    d.linkState p.val = 3 → fieldBytes bs 1 1 = 3 →
    ((e.isRole p.val 0 = true ∧ fieldBytes bs 2 1 = 1) ∨ (e.isRole p.val 1 = true ∧ fieldBytes bs 2 1 = 2)) →
    commonWidth (e.width p.val) (lanesOf (e.get (Reg.PORT_CFG_MIN_WIDTH_CODE p.val))) (fieldBytes bs 3 1) (fieldBytes bs 4 1) = some w →
    Settles (.hello p bs t) s
      ((((e.set (Reg.LINK_STAT_HELLO_FAIL p.val) 0).each (rangeFrom 0 6) (fun d c =>
        (d.set (Reg.CREDIT_TX_H p.val c) (pairAt credits c).1).set (Reg.CREDIT_TX_D p.val c) (pairAt credits c).2)).onLink p.val (fun l => { l with
            hbSeen := d.time, helloOk := true, run := w, partnerMin := fieldBytes bs 4 1, credits := credits, base := 0 })).goActive p.val)) ∧
  (∀ (s : State) (p : Port) (bs : List Byte) (t : Nat) (d : Dev), s.dev.at t = d →
    d.linkState p.val = 3 → fieldBytes bs 1 1 ≠ 3 →
    Settles (.hello p bs t) s
      ((d.set (Reg.LINK_STAT_PARTNER_VERSION p.val) (fieldBytes bs 1 1)).set (Reg.LINK_STAT_HELLO_FAIL p.val) 1))

/-- R126 and R451, the lanes: LANE_CTL.GO starts a REMAP onto a free assigned spare; REMAP_ACK moves the logical lane onto it, counts it and
lowers the free spares, and the next lane that waits for a swap follows; 2 µs without an answer take the port through RETRAIN for one further try; a lane with too many corrected symbols
in an interval is a LANE event. -/
def Obligations.LanesSpared : Prop :=
  (∀ (s : State) (p : Port) (lane : Fin 16) (k : Fin 2) (t : Nat) (d : Dev), s.dev.at t = d →
    d.pcieUp = true → d.isGlois p.val = true → d.linkState p.val = 4 → (d.link p.val).base ≤ lane.val →
    lane.val < (d.link p.val).base + (d.link p.val).run → d.spareFree p.val k.val = true →
    ∀ e, e = (d.enter p.val 5).ctrl p.val (natBytes 1 3 ++ natBytes 1 lane.val ++ natBytes 1 k.val) →
    Settles (.laneCtlGo p lane k t) s (e.onLink p.val (fun l => { l with remap := some ⟨lane.val, k.val, e.time, false⟩ }))) ∧
  (∀ (s : State) (p : Port) (r : Remap) (t : Nat) (d : Dev), s.dev.at t = d →
    d.linkState p.val = 5 → (d.link p.val).remap = some r →
    ∀ phys, phys = (d.link p.val).spares.getD r.spare (128 + r.spare) →
    ∀ e, e = (d.set (Reg.LANE_PHYS p.val r.lane) phys).set (Reg.LANE_ON_SPARE p.val r.lane) 1 →
    ∀ f, f = (e.bump (Reg.LANE_REMAPS p.val)).onLink p.val (fun l => { l with
      remap := none, spareUsed := l.spareUsed ++ [r.spare], faulty := l.faulty.filter (fun x => x != r.lane) }) →
    ∀ die, die = f.get (Reg.PORT_CFG_IO_DIE p.val) →
    Settles (.remapAck p t) s
      (((f.useLaneSpare die).logSwap 0 (die * 256 + d.get (Reg.LANE_PHYS p.val r.lane)) phys).goActive p.val)) ∧
  (∀ (d : Dev) (p : Nat), d.goActive p =
    let e := (d.enter p 4).onLink p (fun l => { l with trained := false, admitSend := false })
    (if (d.link p).admitSend then e.sendMsg .core p (mgtMsg 3 (e.get (Reg.PORT_FENCE_FENCE_EPOCH p))) 0 else e).swapNext p) ∧
  (∀ (d : Dev) (p lane : Nat), (d.link p).retry = none →
    (d.link p).faulty.find? (fun k => decide ((d.link p).base ≤ k) && decide (k < (d.link p).base + (d.link p).run)) = some lane →
    ∀ i, d.spareFor p lane = some i → d.swapNext p = d.startRemap p lane i false) ∧
  (∀ (d : Dev) (die n : Nat), Tab.get 0 d.ras.laneSpares die = n →
    ∀ e, e = ({ d with ras := { d.ras with laneSpares := Tab.put 0 d.ras.laneSpares die (n + 1) } } : Dev).set Reg.CAPS_LANE_SPARES_FREE
      (d.get Reg.CAPS_LANE_SPARES_FREE - 1) →
    (n ≠ 7 → d.useLaneSpare die = e) ∧ (n = 7 → d.useLaneSpare die = e.sparesGone 0 die)) ∧
  (∀ (s : State) (p : Port) (r : Remap) (t : Nat) (d : Dev), s.dev.at t = d →
    d.linkState p.val = 5 → (d.link p.val).remap = some r → r.again = false → r.since + 2000 ≤ d.time →
    Settles (.remapTimeout p t) s ((d.goRetrain p.val).onLink p.val (fun l => { l with retry := some (r.lane, r.spare) }))) ∧
  (∀ (s : State) (p : Port) (lane : Fin 18) (n t : Nat) (d : Dev), s.dev.at t = d →
    d.isGlois p.val = true → d.get Reg.RAS_CTL_LANE_SER_16 * 16 < n →
    Settles (.laneSerInterval p lane n t) s
      (d.temperEvent 0 (d.get (Reg.PORT_CFG_IO_DIE p.val) * 256 + d.get (Reg.LANE_PHYS p.val lane.val))))

/-- R107, R116 and R117, the timers of an ACTIVE link: a NAK unanswered for 1 µs is sent again and counted; an ACK is owed ACK_MAX_NS after
the first unacknowledged MSG flit; a heartbeat carries the next number and the port's FENCE_EPOCH. -/
def Obligations.LinkTimersFire : Prop :=
  (∀ (s : State) (p : Port) (t t0 : Nat) (d : Dev), s.dev.at t = d →
    (d.link p.val).nakAt = some t0 → t0 + 1000 ≤ d.time →
    Settles (.nakResendTimeout p t) s ((d.bump (Reg.NAK_TX p.val)).onLink p.val (fun l => { l with nakAt := some d.time, nakDue := true }))) ∧
  (∀ (s : State) (p : Port) (t t0 : Nat) (d : Dev), s.dev.at t = d →
    (d.link p.val).ackFrom = some t0 → t0 + clampTo 50 1000 (d.get (Reg.LINK_CTL_ACK_MAX_NS p.val)) ≤ d.time →
    Settles (.ackMaxNsTimeout p t) s (d.onLink p.val (fun l => { l with ackDue := true }))) ∧
  (∀ (s : State) (p : Port) (t : Nat) (d : Dev), s.dev.at t = d →
    d.isGlois p.val = true → d.linkState p.val = 4 →
    ((d.link p.val).hbCount = 0 ∨ (d.link p.val).hbAt + clampTo 1 1000 (d.get (Reg.LINK_CTL_HB_PERIOD_US p.val)) * 1000 ≤ d.time) →
    ∀ n, n = ((d.link p.val).hbCount + 1) % 2 ^ 32 →
    Settles (.heartbeatSend p t) s
      ((d.onLink p.val (fun l => { l with hbAt := d.time, hbCount := n })).sendMsg .core p.val
        (heartbeatMsg n (d.get (Reg.PORT_FENCE_FENCE_EPOCH p.val))) 0))

/-- R89, R97, R113, R115 and R117, flits: with nothing to send a port in ACTIVE sends an IDLE flit; the messages that fit go as one numbered MSG
flit kept for replay; the streams of the running lanes give a flit, and one with a bad CRC counts in CRC_ERR and asks for replay; a good MSG flit in sequence hands in its messages. -/
def Obligations.FlitsMove : Prop :=
  (∀ (s : State) (p : Port) (t : Nat) (d : Dev), s.dev.at t = d →
    d.isGlois p.val = true → d.linkState p.val = 4 → (d.link p.val).ctrl = [] → (d.link p.val).resend = [] → (d.link p.val).staged = [] →
    Settles (.flitTransmit p t) s (d.emit p.val (d.outHeader p.val 0 0 0) [] false)) ∧
  (∀ (s : State) (p : Port) (t : Nat) (m : Msg) (ms : List Msg) (e : Dev) (d : Dev), s.dev.at t = d →
    d.isGlois p.val = true → d.linkState p.val = 4 → (d.link p.val).ctrl = [] → (d.link p.val).resend = [] →
    (d.link p.val).replay.length < 128 * d.width p.val →
    d.fillFlit p.val (sortBy (d.stagedKey p.val) (d.link p.val).staged).length (sortBy (d.stagedKey p.val) (d.link p.val).staged) [] 0 =
      (e, m :: ms) →
    Settles (.flitTransmit p t) s (e.sendMsgs p.val (m :: ms) ((m :: ms).map (fun _ => false)))) ∧
  (∀ (s : State) (p : Port) (t : Nat) (lanes : List (List Bool)) (flit : List Byte) (corr : List Nat) (d e : Dev), s.dev.at t = d →
    d.isGlois p.val = true → 2 ≤ d.linkState p.val → e = d.laneEvents p.val corr [] → lanesFlit (e.lanesNow p.val) lanes = some flit →
    flitVerdict flit false = .bad →
    Settles (.flitReceive p lanes corr [] [] t) s
      (((e.bump (Reg.CRC_ERR p.val)).onLink p.val (fun l => { l with syncs := 0 })).sendNak p.val)) ∧
  (∀ (s : State) (p : Port) (t : Nat) (lanes : List (List Bool)) (flit : List Byte) (ms : List Msg) (d c : Dev), s.dev.at t = d →
    ∀ h, h = linkHeader (fieldBytes flit 0 8) → c = d.laneEvents p.val [] [] → lanesFlit (c.lanesNow p.val) lanes = some flit →
    ∀ e, e = (c.takeHeader p.val h).onLink p.val (fun l => { l with syncs := 0 }) →
    d.isGlois p.val = true → 2 ≤ d.linkState p.val → flitVerdict flit false = .good → h.ftype = 1 → e.linkState p.val = 4 →
    h.seq = (e.link p.val).rxE → flitMsgs flit = some ms →
    Settles (.flitReceive p lanes [] [] [] t) s
      ((e.onLink p.val (fun l => { l with
        rxE := ((e.link p.val).rxE + 1) % 4096, nakAt := none, nakDue := false, ackDue := decide (63 ≤ l.ackCount) || l.ackDue,
        ackCount := l.ackCount + 1,
        ackFrom := some (l.ackFrom.getD e.time) })).each ms (fun d m => d.takeMsg p.val m e.time)))

/-! ### The homes (chapter 4) -/

/-- R130 and R138: a single-line request that reaches a home with nothing under way is admitted and comes to its turn at once. Each of the
thirteen: on an idle line (I) the three reads, a WR_PART and the five atomics read the pool, a WR_LINE is written and then answered, an EVICT
is answered OK, and an INVAL leaves the line HELD and is answered INV_DONE (R140, R141); a WB_DIRTY of the owner is written; and on a line in
ATOMIC an atomic is applied in the buffer and returns the old value (R147, R150). -/
def Obligations.RequestsServed : Prop :=
  (∀ (s : State) (r : HomeReq) (t : Nat) (d : Dev), s.dev.at t = d → d.FirstAtHome r .rdShared → d.home.lines = [] →
    Settles (.rdShared r t) s (((d.turn r .rdShared).poolRead (r.ppa / 64)).pump (r.ppa / 64) 3)) ∧
  (∀ (s : State) (r : HomeReq) (t : Nat) (d : Dev), s.dev.at t = d → d.FirstAtHome r .rdNoalloc → d.home.lines = [] →
    Settles (.rdNoalloc r t) s (((d.turn r .rdNoalloc).poolRead (r.ppa / 64)).pump (r.ppa / 64) 3)) ∧
  (∀ (s : State) (r : HomeReq) (t : Nat) (d : Dev), s.dev.at t = d → d.FirstAtHome r .rdOwn → d.home.lines = [] →
    Settles (.rdOwn r t) s (((d.turn r .rdOwn).poolRead (r.ppa / 64)).pump (r.ppa / 64) 3)) ∧
  (∀ (s : State) (r : HomeReq) (t : Nat) (d : Dev), s.dev.at t = d → d.FirstAtHome r .wrLine → d.home.lines = [] →
    d.roRefuses { r with op := .wrLine, epoch := d.epoch } = false →
    ∀ x, x = (d.turn r .wrLine).poolWrite (r.ppa / 64) 1 r.data →
    Settles (.wrLine r t) s ((if x.2 then x.1.wrote (r.ppa / 64) (d.turnWork r .wrLine) else x.1).pump (r.ppa / 64) 3)) ∧
  (∀ (s : State) (r : HomeReq) (t : Nat) (d : Dev), s.dev.at t = d → d.FirstAtHome r .wrPart → d.home.lines = [] →
    d.roRefuses { r with op := .wrPart, epoch := d.epoch } = false →
    (∀ x, d.region d.epoch r.ppa = some x → x.2.memside = false) →
    Settles (.wrPart r t) s (((d.turn r .wrPart).poolRead (r.ppa / 64)).pump (r.ppa / 64) 3)) ∧
  (∀ (s : State) (r : HomeReq) (t p made : Nat) (d : Dev), s.dev.at t = d → d.FirstAtHome r .wbDirty → r.who = .port p →
    d.home.lines = [(r.ppa / 64, ⟨.owned p, made, none, []⟩)] → (d.turn r .wbDirty).fenced p = false →
    d.roRefuses { r with op := .wbDirty, epoch := d.epoch } = false →
    ∀ x, x = (d.turn r .wbDirty).poolWrite (r.ppa / 64) 1 r.data →
    Settles (.wbDirty r t) s ((if x.2 then x.1.wrote (r.ppa / 64) (d.turnWork r .wbDirty) else x.1).pump (r.ppa / 64) 3)) ∧
  (∀ (s : State) (r : HomeReq) (t p : Nat) (d : Dev), s.dev.at t = d → d.FirstAtHome r .inval → r.who = .port p → d.home.lines = [] →
    ∀ k, k = r.ppa / 64 →
    Settles (.inval r t) s
      ((((({ d.turn r .inval with home := { (d.turn r .inval).home with
        invals := d.home.invals ++ [⟨p, r.tag, [k], [k], { r with op := .inval, epoch := d.epoch, no := d.ten.admissions + 1 }, 0⟩] } } : Dev).setState k
          (.held p none)).clearBusy k).invalDone k (d.turnReq r .inval) 0).pump k 3)) ∧
  (∀ (s : State) (r : HomeReq) (t : Nat) (d : Dev), s.dev.at t = d → d.FirstAtHome r .evict → d.home.lines = [] →
    Settles (.evict r t) s (((d.turn r .evict).wrote (r.ppa / 64) (d.turnWork r .evict)).pump (r.ppa / 64) 3)) ∧
  (∀ x ∈ ([(.fadd, .fadd), (.min, .min), (.max, .max), (.swap, .swap), (.cas, .cas)] : List ((HomeReq → Nat → Instr) × AtomicOp)),
    ∀ (s : State) (r : HomeReq) (t : Nat) (d : Dev), s.dev.at t = d → d.FirstAtHome r (.atomic x.2) →
    ∀ k, k = r.ppa / 64 → ∀ ix e, d.region d.epoch (k * 64) = some (ix, e) → d.region d.epoch r.ppa = some (ix, e) → e.memside = false → e.tier ≠ 2 →
    (d.home.lines = [] → d.home.abuf = [] → Settles (x.1 r t) s (((d.turn r (.atomic x.2)).poolRead k).pump k 3)) ∧
    (∀ (made : Nat) (a : AtomicLine), d.home.lines = [(k, ⟨.atomic, made, none, []⟩)] → d.buffered k = some a →
      (d.turn r (.atomic x.2)).get (Reg.KEYGEN_CUR_GEN e.dom) ≠ 0 →
      Settles (x.1 r t) s (((d.turn r (.atomic x.2)).applyGroup k (d.turnWork r (.atomic x.2)) a.data).pump k 3)))

/-- R103, R130, R138 and R141: whatever its kind and the state of its line, a single-line request that reaches a line nothing else waits at
is admitted, stamped with the live epoch, and served there and then; an INVAL is noted with its lines. -/
def Obligations.InvalServed : Prop :=
  (∀ x ∈ ([(.rdShared, .rdShared), (.rdNoalloc, .rdNoalloc), (.rdOwn, .rdOwn), (.wrLine, .wrLine), (.wrPart, .wrPart),
      (.wbDirty, .wbDirty), (.evict, .evict), (.fadd, .atomic .fadd), (.min, .atomic .min), (.max, .atomic .max),
      (.swap, .atomic .swap), (.cas, .atomic .cas)] : List ((HomeReq → Nat → Instr) × HomeOp)),
    ∀ (s : State) (r : HomeReq) (t made : Nat) (st : LineState) (d : Dev), s.dev.at t = d → d.FirstAtHome r x.2 →
    ∀ k, k = r.ppa / 64 → (d.home.lines = [] ∨ (d.home.lines = [(k, ⟨st, made, none, []⟩)] ∧ isHold st = false)) →
    Settles (x.1 r t) s (((d.turn r x.2).serve k).pump k 3)) ∧
  (∀ (s : State) (r : HomeReq) (p t : Nat) (d : Dev), s.dev.at t = d → d.FirstAtHome r .inval → r.who = .port p → d.home.lines = [] →
    ∀ k, k = r.ppa / 64 →
    Settles (.inval r t) s
      ((({ d.turn r .inval with home := { (d.turn r .inval).home with
        invals := d.home.invals ++ [⟨p, r.tag, [k], [k], { r with op := .inval, epoch := d.epoch, no := d.ten.admissions + 1 }, 0⟩] } } : Dev).serve k).pump k 3))

/-- R140, how a home answers by the state of the line: from I a read goes to the pool, a WR_LINE is written, an INVAL leaves the line HELD
and a WB_DIRTY gets POISON and counts; a HELD line makes all but its holder wait; a shared line is invalidated before an ownership read
of an OWNED-WB region; an owned line is recalled first; LOST-DIRTY reads get POISON and count (R156). -/
def Obligations.HomeTable : Prop :=
  ∀ (d : Dev) (k : Nat) (b : Busy), d.busyOf k = some b → d.roRefuses b.work.req = false → b.work.req.parity ≠ 2 →
    (∀ id, b.work.req.who ≠ .takeBack id) →
    ((d.lineAt k).st = .inv → b.work.req.op = .rdNoalloc → d.serve k = d.poolRead k) ∧
    ((d.lineAt k).st = .inv → b.work.req.op = .wrLine →
      d.serve k = if (d.poolWrite k 1 b.work.req.data).2 then (d.poolWrite k 1 b.work.req.data).1.wrote k b.work
        else (d.poolWrite k 1 b.work.req.data).1) ∧
    (∀ p, (d.lineAt k).st = .inv → b.work.req.op = .inval → b.work.req.who = .port p → d.dirFull (homeSlice (k * 64)) k = false →
      d.serve k = ((d.setState k (.held p none)).clearBusy k).invalDone k b.work.req 0) ∧
    ((d.lineAt k).st = .inv → b.work.req.op = .wbDirty →
      d.serve k = ((d.bump Reg.SLAG_WB_NOT_OWNER).clearBusy k).endReq b.work.req 1) ∧
    (∀ p q since, (d.lineAt k).st = .held p since → b.work.req.who = .port q → q ≠ p → b.work.req.op ∈ ([.rdShared, .rdNoalloc, .rdOwn, .wrLine, .wrPart, .wbDirty] : List HomeOp) → d.serve k = d) ∧
    (∀ v i e, (d.lineAt k).st = .shared v → b.work.req.op = .rdOwn → d.region b.work.req.epoch (k * 64) = some (i, e) →
      e.ownedWb = true → e.tier ≠ 2 →
      d.serve k = d.snoopThen k 0 ((d.sharerPorts v).filter (fun p => !decide (b.work.req.who = .port p))) false) ∧
    (∀ p, (d.lineAt k).st = .owned p → d.fenced p = false → b.work.req.op ∈ ([.rdShared, .rdNoalloc, .rdOwn, .wrLine, .wrPart, .inval] : List HomeOp) →
      d.serve k = d.snoopThen k 1 [p] true) ∧
    ((d.lineAt k).st = .lost → b.work.req.op ∈ ([.rdShared, .rdNoalloc, .rdOwn, .wrPart] : List HomeOp) →
      d.serve k = (d.bumpBy Reg.LOST_DIRTY_POISON (1 + b.work.members.length)).failWork k b.work 1)

/-- R62 and R146: an operator write to device memory that names no counter is admitted, written at its address, answered OK by the cache
of that stack, and leaves flight; one of a foreign domain changes nothing but DOMAIN_MISMATCH and is answered POISON (R418). -/
def Obligations.OperatorWriteLands : Prop :=
  (∀ (s : State) (p : Port) (m : Msg) (gen t : Nat) (d : Dev), s.dev.at t = d →
    d.sw.arrived = [] → d.fenced p.val = false → d.boundDom p.val = some m.domain → m.ord ≠ 1 → d.opsAllowed m.domain m = true →
    m.space ≠ 0 → counterId m.ctrKind m.ctr = none →
    Settles (.opsWr p m gen t) s
      ((((d.admitOps p.val m.tag).writeMem m.addr (chunksBytes m.data)).sendMsg (.forge (stackOf m.addr)) p.val
        (rspMsg 0 m.tag m.tc 0) m.domain).endFlight (.port p.val) m.tag)) ∧
  (∀ (s : State) (p : Port) (m : Msg) (gen t : Nat) (d : Dev), s.dev.at t = d →
    d.sw.arrived = [] → d.fenced p.val = false → d.boundDom p.val ≠ some m.domain →
    Settles (.opsWr p m gen t) s ((d.bump Reg.DOMAIN_MISMATCH).cmpTo p.val m 1))

/-- R105, R120 and R121, what a tray answers: DATA and ATOMIC_RET go to the request whose TAG they carry, which is then no longer
outstanding; one whose parity failed in the core is an event of a bank of its die, counts in E2E_REPLAY and is asked for again; a CMP ends a write or settles a zero-fill. -/
def Obligations.TrayAnswers : Prop :=
  (∀ (s : State) (p : Port) (m : Msg) (t : Nat) (o : Out) (mirror : Bool) (d : Dev), s.dev.at t = d →
    d.sw.arrived = [] → d.fenced p.val = false → d.outOf p.val m.tag = some o → o.use = .read mirror →
    Settles (.data p m false t) s ((d.dropOut o).trayLine o mirror m)) ∧
  (∀ (s : State) (p : Port) (m : Msg) (t : Nat) (o : Out) (mirror : Bool) (d : Dev), s.dev.at t = d →
    d.sw.arrived = [] → d.fenced p.val = false →
    ∀ e, e = (d.fresh 6).2.temperEvent 2 (64 * (d.fresh 6).2.portDie p.val + (d.fresh 6).1) → d.outOf p.val m.tag = some o → o.use = .read mirror → o.tries < 3 →
    Settles (.data p m true t) s ((e.bump (Reg.E2E_REPLAY p.val)).resend o o.msg)) ∧
  (∀ (s : State) (p : Port) (m : Msg) (t : Nat) (o : Out) (d : Dev), s.dev.at t = d →
    d.sw.arrived = [] → d.fenced p.val = false → d.outOf p.val m.tag = some o → o.use = .memside → m.status = 0 →
    Settles (.atomicRet p m false t) s ((d.dropOut o).memsideDone o.line p.val (chunksBytes (m.data.take 1)))) ∧
  (∀ (s : State) (p : Port) (m : Msg) (t copy : Nat) (o : Out) (d : Dev), s.dev.at t = d →
    d.sw.arrived = [] → d.fenced p.val = false → d.outOf p.val m.tag = some o → o.use = .write copy → m.status = 0 →
    Settles (.cmp p m t) s ((d.dropOut o).copyDone o.line o.port 0))

/-- R134, R140 and R298, what a requester answers: SNP_ACK and SNP_DATA end the snoop their TAG names (its record goes, where no other snoop
waits for a TAG of that port), and the line SNP_DATA brings is to be written first; RESULT_ACK ends the write or the push piece its TAG names. -/
def Obligations.RequesterAnswers : Prop :=
  (∀ (s : State) (p : Port) (m : Msg) (t : Nat) (x : Nat × Nat × Nat) (d : Dev), s.dev.at t = d →
    d.sw.arrived = [] → d.fenced p.val = false → d.snoopOf p.val m.tag = some x →
    Settles (.snpAck p m t) s ((d.dropSnoop x).portAnswered x.2.2 p.val)) ∧
  (∀ (d : Dev) (x : Nat × Nat × Nat), (∀ y ∈ d.home.snoops, y.2.1 < tagSpace) →
    d.dropSnoop x = { d with home := { d.home with snoops := dropFirst (fun y => decide (y = x)) d.home.snoops } }) ∧
  (∀ (s : State) (p : Port) (m : Msg) (t : Nat) (x : Nat × Nat × Nat) (b : Busy) (d : Dev), s.dev.at t = d →
    d.sw.arrived = [] → d.fenced p.val = false → d.snoopOf p.val m.tag = some x → (d.dropSnoop x).busyOf x.2.2 = some b →
    (∃ ports, b.wait = .acks ports ∨ b.wait = .takeBack ports) →
    Settles (.snpData p m t) s
      (((d.dropSnoop x).onBusy x.2.2 (fun b => { b with line := chunksBytes m.data, stage := 2 })).portAnswered x.2.2 p.val)) ∧
  (∀ (s : State) (p : Port) (m : Msg) (t tile tag : Nat) (r : ResOut) (d : Dev), s.dev.at t = d →
    d.sw.arrived = [] → d.fenced p.val = false → d.resultOf p.val m.tag = some r → r.use = .anvil tile tag →
    Settles (.resultAck p m t) s ((d.dropResult r).ackDone tag m.status)) ∧
  (∀ (s : State) (p : Port) (m : Msg) (t n stack : Nat) (r : ResOut) (d : Dev), s.dev.at t = d →
    d.sw.arrived = [] → d.fenced p.val = false → d.resultOf p.val m.tag = some r → r.use = .push n stack →
    Settles (.resultAck p m t) s ((d.dropResult r).pushAnswered n p.val false))

/-- R104, R107, R463 and R466, MGT of a partner: a NOP is taken and ignored; a heartbeat of the port's epoch restarts its timer, one of
another epoch counts in HB_STALE, and one after its timeout in LATE_ITEMS; a tray's event 1 counts in its Temper window, and every event is posted. -/
def Obligations.ManagementTaken : Prop :=
  (∀ (s : State) (p : Port) (m : Msg) (t : Nat) (d : Dev), s.dev.at t = d →
    Settles (.mgtNop p m t) s { d with sw := { d.sw with arrived := dropFirst (arrivedMsg p.val m) d.sw.arrived } }) ∧
  (∀ (s : State) (p : Port) (m : Msg) (t : Nat) (d e : Dev), s.dev.at t = d →
    e = d.consume (arrivedMsg p.val m) → e.isGlois p.val = true →
    ∀ f, f = (e.when (e.link p.val).hbLate (fun d => d.bump Reg.LATE_ITEMS)).onLink p.val (fun l => { l with hbLate := false }) →
    m.fenceEpoch = f.get (Reg.PORT_FENCE_FENCE_EPOCH p.val) → (f.onLink p.val (fun l => { l with hbSeen := f.time })).fenced p.val = false →
    Settles (.heartbeat p m t) s (f.onLink p.val (fun l => { l with hbSeen := f.time }))) ∧
  (∀ (s : State) (p : Port) (m : Msg) (t : Nat) (d e : Dev), s.dev.at t = d →
    e = d.consume (arrivedMsg p.val m) → e.isGlois p.val = true →
    ∀ f, f = (e.when (e.link p.val).hbLate (fun d => d.bump Reg.LATE_ITEMS)).onLink p.val (fun l => { l with hbLate := false }) →
    m.fenceEpoch ≠ f.get (Reg.PORT_FENCE_FENCE_EPOCH p.val) → Settles (.heartbeat p m t) s (f.bump Reg.HB_STALE)) ∧
  (∀ (s : State) (p : Port) (m : Msg) (t : Nat) (d e : Dev), s.dev.at t = d →
    e = d.consume (arrivedMsg p.val m) → e.isRole p.val 1 = true → m.field 32 8 = 1 →
    Settles (.trayEvent p m t) s ((e.temperEvent 5 p.val).post [0] 0x2B [p.val, 1, m.field 44 52]))

/-- R141, R142, R150, R151 and R161, the homes' timers: a hold at its limit is counted, its line enters I and the next request goes on; a
snoop answer overdue at one port is counted and posted once; an idle atomic line is queued to be written back; a read group's window
closes; requests parked for the limit get POISON. R157, R161 and R163: PARK_CTL takes the limit written, which holds for requests already
parked; REVERT_GO of a page count, with no reversion under way, takes every LOST-DIRTY line of those pages, from REVERT_BASE on, to I. -/
def Obligations.HomeTimersFire : Prop :=
  (∀ (s : State) (k t p since : Nat) (d : Dev), s.dev.at t = d →
    (d.lineAt k).st = .held p (some since) → d.busyOf k = none → since + max 100 (d.get Reg.DIR_CTL_HOLD_LIMIT_NS) ≤ d.time →
    Settles (.holdLimitExpiry k t) s
      (((({ d with home := { d.home with lateHolds := addOnce d.home.lateHolds (k, p) } }).bump Reg.HOLD_EXPIRED).setState k .inv).pumpLine k)) ∧
  (∀ (s : State) (k t p : Nat) (b : Busy) (d : Dev), s.dev.at t = d →
    d.busyOf k = some b → b.wait = .acks [p] → b.told = false →
    b.since + max 1 (d.get Reg.DIR_CTL_SNP_TIMEOUT_US) * 1000 ≤ d.time →
    Settles (.snpTimeout k t) s
      (((d.onBusy k (fun b => { b with told := true })).bump Reg.SNP_TIMEOUTS).post [0] 0x2A [p, k * 64])) ∧
  (∀ (s : State) (k t : Nat) (a : AtomicLine) (d : Dev), s.dev.at t = d →
    d.buffered k = some a → d.busyOf k = none → a.used + d.get Reg.DIR_CTL_ATOMIC_IDLE_NS ≤ d.time →
    Settles (.atomicIdleWriteback k t) s ((d.queueWork k (recallReq d k 4 k)).pumpLine k)) ∧
  (∀ (s : State) (k t : Nat) (b : Busy) (d : Dev), s.dev.at t = d →
    d.busyOf k = some b → (d.lineAt k).queue = [] → b.work.opened + d.combineWin ≤ d.time →
    Settles (.combineWindowClose k t) s
      (d.onLine k (fun l => { l with queue := [], busy := some { b with work := { b.work with closed := true } } }))) ∧
  (∀ (s : State) (k t p since : Nat) (l : Line) (b : Busy) (d : Dev), s.dev.at t = d →
    d.home.lines = [(k, l)] → d.home.park = [] → l.busy = some b → b.work.members = [] → b.wait = .parked p since →
    d.get Reg.PARK_CTL_PARK_LIMIT_US ≠ 0 → since + d.get Reg.PARK_CTL_PARK_LIMIT_US * 1000 ≤ d.time →
    Settles (.parkLimitExpiry t) s
      (((({ d with home := { d.home with lateParks := d.home.lateParks ++ [(p, k)] } }).bumpBy Reg.PARK_POISON 1).dropLine k 1).showParked)) ∧
  (∀ (s : State) (v : BitVec 32) (t : Nat) (d : Dev), s.dev.at t = d → d.pcieUp = true →
    Settles (.parkCtlWrite v t) s ((d.setReg Reg.PARK_CTL v.toNat).parkExpired)) ∧
  (∀ (s : State) (n : BitVec 32) (t k : Nat) (l : Line) (d : Dev), s.dev.at t = d → d.pcieUp = true →
    d.flag Reg.DIR_STAT_REVERT_BUSY = false → d.home.lines = [(k, l)] → l.st = .lost → l.busy = none → l.queue = [] → d.get Reg.REVERT_BASE_PAGE ≤ pageOf (k * 64) →
    pageOf (k * 64) < d.get Reg.REVERT_BASE_PAGE + n.toNat →
    Settles (.revertGo n t) s ((d.setState k .inv).showReverts))

/-! ### The switch core (chapter 5) -/

/-- R173 and R176, a cell epoch: its duration is shown, frames that waited for a cell try again, and every pair that the matcher's rounds
leave moves one cell; a pair moves the cell chosen for it, charged to its shapers and delivered whole, out of the queue, and the pair's
class pointer passes on (with fewer than eight planes in its second epoch); an epoch with nothing asked for moves nothing. R190, R212 and
R221, the switch's other events: the ageing sweep notes its time and, with no cell aged, discards none; a sample takes every traffic class
of each port placed; TEL_CLR clears the highest samples and the histogram of its port. -/
def Obligations.SwitchMoves : Prop :=
  (∀ (s : State) (ps : Nat) (hits : List ParityHit) (t : Nat) (d e f : Dev) (pairs : List Ask), s.dev.at t = d →
    e = ((d.set Reg.MATCH_STAT_EPOCH_PS (min 65535 ps)).set Reg.MATCH_STAT_EPOCH_PS_MAX
      (max ((d.set Reg.MATCH_STAT_EPOCH_PS (min 65535 ps)).get Reg.MATCH_STAT_EPOCH_PS_MAX) (min 65535 ps))).retryWaiting →
    e.matchRounds (((heads e.sw.cells).filter e.eligible).flatMap
        (fun c => (e.slotsOf c.src).flatMap (fun i => (e.slotsOf c.dst).map (fun o => (⟨i, o, e.rankOf c⟩ : Ask)))))
      (clampTo 1 4 (e.get Reg.MATCH_CTL_ROUNDS)) true [] = (f, pairs) →
    Settles (.cellEpoch ps hits t) s (f.movePairs e.rankOf ((heads e.sw.cells).filter e.eligible) hits pairs)) ∧
  (∀ (d : Dev) (rank : Cell → Nat) (live : List Cell) (hits : List ParityHit) (moved : List Nat) (a : Ask) (c : Cell), d.chooseCell rank live moved a = some c →
    hits.find? (fun h => h.slot.val == a.i) = none → c.more = 0 →
    ∀ e, e = ({ d with sw := { d.sw with classPtr := Tab.put 0 d.sw.classPtr (a.i * 1344 + a.o) ((c.tc + 1) % 8) } } : Dev).chargeCell c →
    (e.planesShort = false ∨ c.half = true) → d.movePair rank live hits moved a = ((e.deliver c).dropCell c, moved ++ [c.store])) ∧
  (∀ (s : State) (ps : Nat) (hits : List ParityHit) (t : Nat) (d : Dev), s.dev.at t = d → d.sw.cells = [] → d.sw.waiting = [] →
    Settles (.cellEpoch ps hits t) s ((d.set Reg.MATCH_STAT_EPOCH_PS (min 65535 ps)).set Reg.MATCH_STAT_EPOCH_PS_MAX
      (max ((d.set Reg.MATCH_STAT_EPOCH_PS (min 65535 ps)).get Reg.MATCH_STAT_EPOCH_PS_MAX) (min 65535 ps)))) ∧
  (∀ (s : State) (ps : Nat) (hits : List ParityHit) (t : Nat) (d : Dev), s.dev.at t = d →
    ∀ e, e = ((d.set Reg.MATCH_STAT_EPOCH_PS (min 65535 ps)).set Reg.MATCH_STAT_EPOCH_PS_MAX
      (max ((d.set Reg.MATCH_STAT_EPOCH_PS (min 65535 ps)).get Reg.MATCH_STAT_EPOCH_PS_MAX) (min 65535 ps))).retryWaiting →
    ∀ x, x = e.matchRounds (((heads e.sw.cells).filter e.eligible).flatMap
        (fun c => (e.slotsOf c.src).flatMap (fun i => (e.slotsOf c.dst).map (fun o => (⟨i, o, e.rankOf c⟩ : Ask)))))
      (clampTo 1 4 (e.get Reg.MATCH_CTL_ROUNDS)) true [] →
    Settles (.cellEpoch ps hits t) s (x.1.movePairs e.rankOf ((heads e.sw.cells).filter e.eligible) hits x.2)) ∧
  (∀ (d : Dev) (n : Nat) (first : Bool), d.matchRounds [] n first [] = (d, [])) ∧
  (∀ (s : State) (t : Nat) (d : Dev), s.dev.at t = d → (∀ c ∈ d.sw.cells, d.aged c = false) →
    Settles (.ageSweep t) s { d with sw := { d.sw with sweptAt := d.time } }) ∧
  (∀ (s : State) (t p : Nat) (d : Dev), s.dev.at t = d → (rangeFrom 0 512).filter d.placed = [p] → d.sw.sampledAt + d.samplePeriod ≤ d.time →
    ∀ e, e = { d with sw := { d.sw with sampledAt := d.time } } →
    Settles (.telemetrySample t) s (e.each (rangeFrom 0 8) (fun d tc => d.sampleQueue p tc))) ∧
  (∀ (s : State) (p : Port) (t : Nat) (d : Dev), s.dev.at t = d → d.pcieUp = true →
    Settles (.telClr p t) s (d.each (rangeFrom 0 8) (fun d tc =>
      ((d.set (Reg.TEL_DEPTH_MAX p.val tc) 0).set (Reg.TEL_DLY_DELAY_MAX_NS p.val tc) 0).each (rangeFrom 0 8)
        (fun d b => d.setReg (Reg.TEL_HIST p.val tc b) 0))))

/-- R173 and R176: the pairs of an epoch are one-to-one (no input slot and no output slot stands in two of them), and each was asked for. R190
and R191: what ages, and what an aged cell's frames become: a cell toward a port of no RSP, SNP or MGT frame that has not begun to cross
is aged once its oldest frame is older than its class's limit, and an aged cell is never eligible for a grant. -/
def Obligations.GrantsAreSound : Prop :=
  (∀ (d : Dev) (asks : List Ask) (n : Nat) (first : Bool),
    ((d.matchRounds asks n first []).2.map Ask.i).Nodup ∧ ((d.matchRounds asks n first []).2.map Ask.o).Nodup ∧
    ∀ a ∈ (d.matchRounds asks n first []).2, a ∈ asks) ∧
  (∀ (d : Dev) (c : Cell), d.aged c = true → d.eligible c = false) ∧
  (∀ (d : Dev) (c : Cell), c.cls = 0 ∨ c.cls = 2 ∨ c.cls = 5 ∨ c.moving = true ∨ portOf c.dst = none → d.aged c = false) ∧
  (∀ (d : Dev) (c : Cell) (p : Nat) (f : Frame), c.dst = .port p → c.cls = 1 ∨ c.cls = 3 ∨ c.cls = 4 → c.moving = false → c.frames = [f] →
    f.born + clampTo 10 100000 (d.get (Reg.AGE_CTL_AGE_LIMIT c.tc)) * 100 < d.time → d.aged c = true)

/-! ### Heats, operators and counters (chapters 2, 7 to 9) -/

/-- R258 and R491, the admission of a heat: with HOLD_ADMIT it stays queued; one whose record, descriptors or dependency is wrong is
refused whole with its ERR; any other joins the heats of its function, last in its stream. -/
def Obligations.HeatAdmitted : Prop :=
  (∀ (s : State) (c : RingCmd) (t : Nat) (d e : Dev), s.dev.at t = d → d.Starts c 1 e →
    e.flag Reg.HEAT_CTL_HOLD_ADMIT = true → Settles (.heatSubmit c t) s e) ∧
  (∀ (s : State) (c : RingCmd) (t err : Nat) (bs : List Byte) (d e : Dev), s.dev.at t = d → d.Starts c 1 e →
    e.flag Reg.HEAT_CTL_HOLD_ADMIT = false → e.upset = [] → taSpace (c.arg 8 8) = 1 → e.typedOk c.fn.val [] (c.arg 8 8) 64 false = true →
    bs = e.readMem (taAddr (c.arg 8 8)) 64 → e.recordFault c bs = err → err ≠ 0 →
    Settles (.heatSubmit c t) s ((e.bump Reg.HEATS_REFUSED).complete c 1 err 0 (natBytes 6 (fieldBytes bs 0 6)))) ∧
  (∀ (s : State) (c : RingCmd) (t ix err : Nat) (bs : List Byte) (ctrs : List (Nat × Nat)) (d e : Dev), s.dev.at t = d → d.Starts c 1 e →
    e.flag Reg.HEAT_CTL_HOLD_ADMIT = false → e.upset = [] → taSpace (c.arg 8 8) = 1 → e.typedOk c.fn.val [] (c.arg 8 8) 64 false = true →
    bs = e.readMem (taAddr (c.arg 8 8)) 64 → e.recordFault c bs = 0 →
    e.readCtrs (taAddr (fieldBytes bs 24 8)) (fieldBytes bs 20 2) = some ctrs →
    ∀ descs, descs = e.readDescs (taAddr (fieldBytes bs 8 8)) (fieldBytes bs 16 4) →
    e.firstFault c.fn.val ((descs.map dTile).foldl addOnce []) (ctrs.map Prod.fst) descs = some (ix, err) →
    Settles (.heatSubmit c t) s ((e.bump Reg.HEATS_REFUSED).complete c 1 err ix (natBytes 6 (fieldBytes bs 0 6)))) ∧
  (∀ (s : State) (c : RingCmd) (t : Nat) (bs : List Byte) (ctrs : List (Nat × Nat)) (d e : Dev), s.dev.at t = d → d.Starts c 1 e →
    e.flag Reg.HEAT_CTL_HOLD_ADMIT = false → e.upset = [] → taSpace (c.arg 8 8) = 1 → e.typedOk c.fn.val [] (c.arg 8 8) 64 false = true →
    bs = e.readMem (taAddr (c.arg 8 8)) 64 → e.recordFault c bs = 0 →
    e.readCtrs (taAddr (fieldBytes bs 24 8)) (fieldBytes bs 20 2) = some ctrs →
    ∀ descs, descs = e.readDescs (taAddr (fieldBytes bs 8 8)) (fieldBytes bs 16 4) →
    e.firstFault c.fn.val ((descs.map dTile).foldl addOnce []) (ctrs.map Prod.fst) descs = none →
    (fieldBytes bs 22 2 = 1 → e.depOk c.fn.val (fieldBytes bs 40 2) (fieldBytes bs 42 6) = true) →
    ∀ h : Heat, h = { fn := c.fn.val, ring := c.ring.val, no := fieldBytes bs 0 6, cmd := c, descs := descs, ctrs := ctrs,
                      status := taAddr (fieldBytes bs 32 8),
                      dep := if fieldBytes bs 22 2 = 1 then
                        some (fieldBytes bs 40 2, fieldBytes bs 42 6, e.streamGen c.fn.val (fieldBytes bs 40 2)) else none,
                      wdog := fieldBytes bs 48 4, running := false, start := 0, codes := [], acks := [], landed := [], mute := false } →
    ∀ f, f = e.beginCmd c →
    Settles (.heatSubmit c t) s
      (({ f with heats := { f.heats with
        list := f.heats.list ++ [h],
        streams := Tab.ins f.heats.streams (c.fn.val * 16 + c.ring.val)
          (f.streamGen c.fn.val c.ring.val, ((f.stream c.fn.val c.ring.val).map Prod.fst).getD (fieldBytes bs 0 6),
            (fieldBytes bs 0 6 + 1) % 2 ^ 48) } } : Dev).showHeats))

/-- R260, R262 and R263: a heat that may start takes its tiles and its counters together and runs; a heat all of whose status words are
written and whose writes are acknowledged completes, its tiles and counters are free, and the code completed is the first of R19; at its
watchdog a running heat ends, counted. -/
def Obligations.HeatsRun : Prop :=
  (∀ (s : State) (k : HeatKey) (t : Nat) (h : Heat) (d : Dev), s.dev.at t = d →
    d.heatOf k.fn.val k.ring.val k.no = some h → d.heatReady h = true →
    (∀ w ∈ h.descs, (d.flag (Reg.TILE_RES_RESERVED (dTile w)) && d.get (Reg.TILE_RES_DOMAIN (dTile w)) != k.fn.val) = false ∧
      d.flag (Reg.TILE_MAP_FAILED (dTile w)) = false) →
    Settles (.heatStart k t) s
      ((((((d.onHeat k.fn.val k.ring.val k.no (fun h => { h with running := true, start := d.time })).each h.tiles
          (fun d t => d.takeTile h t)).each h.ctrs (fun d c => d.takeCtr c.1 c.2
            (if ((h.descs.find? (fun w => dWait w == some c.1 || dSig w == some c.1)).map dFollow).getD false then 1 else 0) (d.startGen h c.1)
            ⟨k.fn.val, k.fn.val, k.ring.val, k.no, [], []⟩)).trace 0 0xF (k.no + k.fn.val * 2 ^ 48)).checkWaits).showHeats)) ∧
  (∀ (s : State) (k : HeatKey) (t : Nat) (h : Heat) (d : Dev), s.dev.at t = d →
    d.heatOf k.fn.val k.ring.val k.no = some h → h.running = true → h.codes.length = h.descs.length → h.acks = [] → h.mute = false →
    ∀ e, e = ((d.each h.tiles (fun d t => (({ d with heats := { d.heats with runs := Tab.del d.heats.runs t } } : Dev).set
      (Reg.TILE_RES_HELD t) 0).set (Reg.TILE_STAT_BUSY t) 0)).each h.ctrs (fun d c => d.dropCtr c.1)) →
    ∀ code, code = (h.codes.map Prod.snd).foldl worse 0 →
    Settles (.heatComplete k t) s
      ((((({ e with heats := { e.heats with list := dropFirst (fun x => x.isOf h.fn h.ring h.no) e.heats.list } } : Dev).bump
        Reg.HEATS_DONE).trace 1 0xF (h.no + code * 2 ^ 48)).complete h.cmd code 0 0 (natBytes 6 h.no)).showHeats)) ∧
  (∀ (s : State) (k : HeatKey) (t : Nat) (h : Heat) (d : Dev), s.dev.at t = d →
    d.heatOf k.fn.val k.ring.val k.no = some h → h.running = true → d.watchdogOf h ≠ 0 → h.start + d.watchdogOf h * 1000000 ≤ d.time →
    Settles (.watchdogExpiry k t) s ((d.bump Reg.WATCHDOG_EXPIRED).endHeat k.fn.val k.ring.val k.no)) ∧
  (∀ a ∈ codeOrder, ∀ b ∈ codeOrder, ∀ c ∈ codeOrder,
    worse a b = worse b a ∧ worse (worse a b) c = worse a (worse b c) ∧ worse 0 a = a ∧ worse 3 a = 3)

/-- R269, R277 and R71, the tile's timers and moves: a wait past its limit ends its descriptor with POISON and REASON WAIT_TIMEOUT and
every later stage with REASON CHAIN, and its count is noted at the counter it waited for; the deadline parts the pages landed from those missed; a migration freezes a tile whose group has a
free spare, and its end points the tile at that spare under the next generation. -/
def Obligations.TilesTimed : Prop :=
  (∀ (s : State) (p : Tile) (t : Nat) (r : Run) (x : Stage) (d e : Dev), s.dev.at t = d → e = d.checkWaits → e.runAt p.val = some r →
    r.stages.find? (fun s => !s.waited && !s.fin && dWaitLimit s.w != 0 && decide (r.since + dWaitLimit s.w * 1000 ≤ e.time)) = some x →
    ∀ f, f = (match dWait x.w with
      | some c => (match Tab.find? e.ctrs c with
        | some z => { e with ctrs := Tab.ins e.ctrs c { z with late := addOnce z.late (dWaitN x.w) } }
        | none => e)
      | none => e) →
    Settles (.waitTimeout p t) s
      (f.onRun p.val (fun r => { r with stages := r.stages.map (fun s =>
        if s.fin then s
        else if s.ix = x.ix then { s with fin := true, code := worse 1 s.code, reason := 3 }
        else if x.ix < s.ix then { s with fin := true, code := worse 1 s.code, reason := 9 }
        else s) }))) ∧
  (∀ (s : State) (p : Tile) (t : Nat) (r : Run) (h : Heat) (x : Stage) (d : Dev), s.dev.at t = d → d.runAt p.val = some r →
    d.heatOn p.val = some h → r.stages.head? = some x → r.todo = [] → r.deadlined = false → d.isDue h x.w = true →
    ∀ keys, keys = ((r.items.filter (fun i => decide (i.page < 2 ^ 64))).map Item.page).foldl addOnce [] →
    ∀ landed, landed = keys.filter (fun k => r.items.all (fun i => i.page != k || i.status.isSome)) →
    ∀ left, left = (if x.fin then [] else (d.pagesAhead p.val x).filter (fun k => decide (k ∉ landed))) →
    ∀ e, e = (d.onRun p.val (fun r => { r with
      deadlined := true, inTime := if dOp x.w = 9 then landed else landed ++ rangeFrom 1 x.step,
      missed := r.missed ++ left })).countMissed p.val left.length →
    Settles (.deadline p t) s (if dMiss x.w = 0 then e else
      e.each (keys.filter (fun k => decide (k ∉ landed))) (fun d k => d.dropPage p.val x.ix k))) ∧
  (∀ (s : State) (p : Tile) (readable : Bool) (t : Nat) (d : Dev), s.dev.at t = d → Tab.find? d.heats.frozen p.val = none →
    (d.spareTile p.val).isSome = true →
    Settles (.migration p readable t) s
      { d with heats := { d.heats with frozen := Tab.ins d.heats.frozen p.val ⟨d.time, readable, []⟩ } }) ∧
  (∀ (s : State) (p : Tile) (t spare : Nat) (z : Frozen) (d : Dev), s.dev.at t = d → Tab.find? d.heats.frozen p.val = some z →
    d.spareTile p.val = some spare → d.runAt p.val = none → d.heatOn p.val = none → z.readable = true → z.frames = [] →
    d.get (Reg.TILE_MAP_PHYS p.val) ∉ d.ras.badTiles →
    ∀ gen, gen = (d.tileGen p.val + 1) % 65536 →
    ∀ g : Dev, g = { d.bumpBy Reg.SLAG_PLACEMENT 0 with heats := { d.heats with
      gens := Tab.put 0 (Tab.put 0 d.heats.gens p.val gen) (256 + p.val) 1, frozen := Tab.del d.heats.frozen p.val } } →
    Settles (.migrationDone p t) s
      ((((g.set (Reg.TILE_MAP_PHYS p.val) spare).set (Reg.TILE_MAP_DIE p.val) (spare / 144)).set (Reg.TILE_MAP_ON_SPARE p.val) 1).trace 7 0xF
        (p.val + gen * 256))) ∧
  (∀ (d : Dev) (t : Nat) (gone kept : List (Nat × Nat)), (d.copyPlacement t true gone kept).spa = Memory.clear d.spa (t * spaBytes) spaBytes ∧
    (d.copyPlacement t false [] kept).spa = d.spa) ∧
  (∀ (d : Dev) (id : Nat) (follow : Bool), d.Rising → (ctrCur id).addr ≠ (ctrPrev id).addr → d.ctrGen id = fieldOf (d.reg (ctrCur id)) 48 16 →
    fieldOf ((d.moveCtr follow id).reg (ctrCur id)) 0 44 = 0 ∧ (d.moveCtr follow id).ctrGen id = (d.ctrGen id + 1) % 65536 ∧
    bitOf ((d.moveCtr follow id).reg (ctrPrev id)) 46 = follow ∧
    (follow = true → fieldOf ((d.moveCtr follow id).reg (ctrPrev id)) 0 44 = fieldOf (d.reg (ctrCur id)) 0 44))

/-- R270 and R273, the steps of the fourteen operators: a step that its operator takes stands, and its failed attempts are forgotten;
one whose parity fails leaves nothing but its count, and is replayed, the fourth failure ending the descriptor with POISON and PARITY;
above the trip point TOPK and ATTEND, which work on the matrix unit, do nothing (R560; assumption log 173). -/
def Obligations.OperatorsStep : Prop :=
  (∀ x ∈ ([(.opNop, 0, Dev.nopStep), (.fill, 1, Dev.fillStep), (.copy, 2, Dev.copyStep), (.compare, 3, Dev.compareStep),
      (.reduce, 4, Dev.reduceStep), (.gather, 5, Dev.gatherStep), (.scatter, 6, Dev.scatterStep), (.filter, 7, Dev.filterStep),
      (.topk, 8, Dev.topkStep), (.attend, 9, Dev.attendStep), (.combine, 10, Dev.combineStep), (.reshard, 11, Dev.reshardStep),
      (.pack, 12, Dev.packStep), (.unpack, 13, Dev.unpackStep)] :
      List ((Tile → Upset → Nat → Instr) × Nat × (Dev → Nat → Stage → Dev × Bool))),
    ∀ (s : State) (p : Tile) (t : Nat) (y : Stage) (d e : Dev), s.dev.at t = d → d.flag Reg.THERM_STAT_TRIP = false → d.AtStep p.val x.2.1 y →
    x.2.2 d p.val y = (e, true) →
    Settles (x.1 p noUpset t) s (d.stepDone e p.val y.ix) ∧ Settles (x.1 p { noUpset with parity := true } t) s (d.parityFailed p.val y.ix)) ∧
  (∀ (s : State) (p : Tile) (par : Upset) (t : Nat) (d : Dev), s.dev.at t = d → d.flag Reg.THERM_STAT_TRIP = true →
    Settles (.topk p par t) s d ∧ Settles (.attend p par t) s d) ∧
  (∀ (base d : Dev) (t ix : Nat),
    ((d.runAt t).map (fun r => Tab.get 0 r.tries ix)) = ((base.runAt t).map (fun r => Tab.get 0 r.tries ix)) →
    base.stepDone d t ix = d.onRun t (fun r => { r with tries := Tab.del r.tries ix })) ∧
  (∀ (d e : Dev) (t ix : Nat) (r : Run), e = d.temperEvent 1 (d.get (Reg.TILE_MAP_PHYS t)) → e.runAt t = some r → 3 ≤ Tab.get 0 r.tries ix →
    d.parityFailed t ix = (e.bump Reg.STEP_POISON).failStage t ix 1 4)

/-- R267 and R285 to R308, what one step of each operator does once the operands it needs have landed: NOP only ends; FILL, COPY and PACK
write; COMPARE finds the first difference; REDUCE adds the contributions to its slice and sends the sum; GATHER lands a page; SCATTER writes
out; FILTER and TOPK take a page of records; ATTEND takes a page of keys and values; COMBINE merges a head; RESHARD moves the rows of a page;
UNPACK decodes a page in place. -/
def Obligations.OperatorsComplete : Prop :=
  (∀ (s : State) (p : Tile) (t : Nat) (y : Stage) (d : Dev), s.dev.at t = d → d.AtStep p.val 0 y →
    Settles (.opNop p noUpset t) s (d.stepDone (d.stepTo p.val y.ix 0 id).1 p.val y.ix)) ∧
  (∀ (s : State) (p : Tile) (t len off n : Nat) (y : Stage) (d : Dev), s.dev.at t = d → d.AtStep p.val 1 y →
    len = dBits y.w 1 0 48 → off = 4096 * y.step → n = min 4096 (len - off) →
    Settles (.fill p noUpset t) s (d.stepDone
      ((d.write p.val y.ix none (dF y.w 0 + off) ((rangeFrom off n).map (fun x => BitVec.ofNat 8 (fieldOf (dF y.w 2) (8 * (x % 8)) 8)))).stepTo
        p.val y.ix (ceilDiv len 4096) (fun s => { s with result := s.result + n })).1 p.val y.ix)) ∧
  (∀ (s : State) (p : Tile) (t len rows x n : Nat) (y : Stage) (f : Nat × Nat → List Byte) (parts : List (Nat × Nat)) (d : Dev),
    s.dev.at t = d → d.AtStep p.val 2 y → bitOf (dF y.w 2) 48 = false → len = dBits y.w 2 0 48 → rows = max 1 (dBits y.w 3 0 32) →
    x = 4096 * y.step → n = min 4096 (rows * len - x) → parts = rowParts (dF y.w 0) len (dBits y.w 4 0 32) (n + 1) x n →
    (∀ a ∈ parts, d.Landed p.val y.ix a.1 a.2 (f a)) →
    Settles (.copy p noUpset t) s (d.stepDone
      ((d.writeParts p.val y.ix (rowParts (dF y.w 1) len (dBits y.w 4 32 32) (n + 1) x n) (parts.flatMap f)).stepTo p.val y.ix
        (ceilDiv (rows * len) 4096) (fun s => { s with result := s.result + n })).1 p.val y.ix)) ∧
  (∀ (s : State) (p : Tile) (t len x n : Nat) (y : Stage) (a b : List Byte) (d : Dev), s.dev.at t = d → d.AtStep p.val 3 y → y.nums = [] →
    len = dBits y.w 2 0 48 → x = 4096 * y.step → n = min 4096 (len - x) → d.Landed p.val y.ix (dF y.w 0 + x) n a →
    d.Landed p.val y.ix (dF y.w 1 + x) n b →
    Settles (.compare p noUpset t) s (d.stepDone
      (d.stepTo p.val y.ix (ceilDiv len 4096) (fun s => match firstDiff x a b with
        | some i => { s with nums := [i], result := i }
        | none => { s with result := 2 ^ 49 - 1 })).1 p.val y.ix)) ∧
  (∀ (s : State) (p : Tile) (t count n : Nat) (y : Stage) (h : Heat) (rows : List (List Byte)) (cs : List Crucible) (slot : Nat → Nat)
    (d e : Dev), s.dev.at t = d → d.AtStep p.val 4 y → d.heatOn p.val = some h → taSpace (dF y.w 1) = 0 → count = dBits y.w 2 0 9 →
    n = dBits y.w 3 0 9 → (∀ k, slot k = y.step % max 1 (dBits y.w 2 16 8) * count + k) → (p.val, y.ix, overrunMark) ∉ h.landed →
    d.fencedWait h p.val y.ix y.step = false → (∀ k ∈ rangeFrom 0 count, (p.val, y.ix, slot k) ∈ h.landed) →
    rows = (rangeFrom 0 count).map (fun k => d.readSpa p.val (taAddr (dF y.w 0) + slot k * 256) (dataBytes (dIn y.w) n)) →
    rows.foldl (fun (a : Option (List Crucible)) r => a.bind (fun a => addContribution (dIn y.w) n (dScale y.w) a r))
      (some (List.replicate n Crucible.clear)) = some cs →
    bitOf (dF y.w 3) 9 = false → bitOf (dF y.w 3) 10 = true →
    e = ((d.onHeat h.fn h.ring h.no (fun h => { h with
        landed := h.landed.filter (fun x => decide (x ∉ (rangeFrom 0 count).map (fun k => (p.val, y.ix, slot k)))) })).onRun p.val (fun r => { r with
        frames := r.frames.filter (fun f => !(decide (taAddr (dF y.w 0) ≤ f.off) &&
          decide ((p.val, y.ix, (f.off - taAddr (dF y.w 0)) / 256) ∈ (rangeFrom 0 count).map (fun k => (p.val, y.ix, slot k))))) })).keepCruc p.val cs →
    Settles (.reduce p noUpset t) s (d.stepDone
      ((e.write p.val y.ix none (dF y.w 4 + y.step * (sliceOut (dOut y.w) cs).1.length) (sliceOut (dOut y.w) cs).1).stepTo p.val y.ix
        (dBits y.w 2 32 32) (fun s => { s with result := s.result + 1, flags := Nat.lor s.flags (Nat.lor
          (if dIn y.w = 0xFE then 0 else (rows.map (fun r => readFlags (readRow (dIn y.w) n r))).foldl Nat.lor 0)
          (sliceOut (dOut y.w) cs).2) })).1 p.val y.ix)) ∧
  (∀ (s : State) (p : Tile) (t log a lo hi : Nat) (y : Stage) (h : Heat) (r : Run) (line b : List Byte) (d e : Dev), s.dev.at t = d →
    d.AtStep p.val 5 y → d.heatOn p.val = some h → d.runAt p.val = some r → r.stages = [y] → r.deadlined = false → r.lost = [] →
    r.hardCode (y.step + 1) = none → dMiss y.w = 0 → log = dBits y.w 1 32 5 → y.step + 1 = dBits y.w 1 0 32 →
    a = dF y.w 0 + 8 * y.step → lo = max (dF y.w 0) (a - taAddr a % 64) → hi = min (dF y.w 0 + 8 * (y.step + 1)) (a - taAddr a % 64 + 64) →
    d.Landed p.val y.ix lo (hi - lo) line → ∀ q, entryOf (dBits y.w 1 37 3) log ((line.drop (a - lo)).take 8) = .page q →
    d.collect p.val (y.step + 1) (d.piecesOf h.fn q (2 ^ log)) = .ok b →
    e = d.clearKey p.val (y.step + 1) →
    Settles (.gather p noUpset t) s (d.stepDone
      ((e.writeHere p.val (taAddr (dF y.w 2) + (if dBits y.w 3 0 16 = 0 then y.step else y.step % dBits y.w 3 0 16) * 2 ^ log) y
        (padBytes (2 ^ log) b)).stepTo p.val y.ix (y.step + 1) (fun s => { s with result := s.result + 1 })).1 p.val y.ix)) ∧
  (∀ (s : State) (p : Tile) (t len x n : Nat) (y : Stage) (a : List Byte) (d : Dev), s.dev.at t = d → d.AtStep p.val 6 y →
    d.prevStage p.val y.ix = none → bitOf (dF y.w 2) 48 = false → len = dBits y.w 2 0 48 → x = 4096 * y.step → n = min 4096 (len - x) →
    d.Landed p.val y.ix (dF y.w 0 + x) n a →
    Settles (.scatter p noUpset t) s (d.stepDone
      ((d.write p.val y.ix none (dF y.w 1 + x) a).stepTo p.val y.ix (ceilDiv len 4096) (fun s => { s with result := s.result + n })).1
        p.val y.ix)) ∧
  (∀ (s : State) (p : Tile) (t size per : Nat) (y z : Stage) (pred bs : List Byte) (terms recs : List (List Byte)) (hits : List Nat) (d : Dev),
    s.dev.at t = d → d.AtStep p.val 7 y → d.prevStage p.val y.ix = some z → y.step < d.stagePages p.val y → size = max 1 (dBits y.w 1 40 16) →
    d.Landed p.val y.ix (dF y.w 2) (dBits y.w 3 0 4 * 16) pred → terms = filterTerms (dBits y.w 3 0 4) pred →
    d.chainPage p.val y y.step = .here bs → per = 2 ^ d.stageLog p.val y / size → recs = recordsOf size per bs →
    hits = (rangeFrom 0 recs.length).filter (fun j => recordPasses terms (recs.getD j [])) → dBits y.w 3 4 2 = 0 →
    Settles (.filter p noUpset t) s (d.stepDone
      (d.stepTo p.val y.ix (d.stagePages p.val y) (fun s => { s with
        result := s.result + hits.length,
        flags := Nat.lor s.flags ((recs.flatMap (fun r => terms.map (termFlags r))).foldl Nat.lor 0), pass := s.pass ++ [(s.step, hits)] })).1
        p.val y.ix)) ∧
  (∀ (s : State) (p : Tile) (t size nq : Nat) (y z : Stage) (qs bs : List Byte) (queries : List (List Sys2Proof.Machine.Num))
    (recs : List (List Byte)) (acc : List (List (Nat × Nat)) × Nat) (d : Dev), s.dev.at t = d → d.flag Reg.THERM_STAT_TRIP = false →
    d.AtStep p.val 8 y → d.prevStage p.val y.ix = some z → dOp z.w ≠ 7 → y.step + 1 < d.stagePages p.val y → y.rank ≠ [] →
    nq = dBits y.w 2 43 4 + 1 → size = max 1 (dBits y.w 1 40 16) →
    d.Landed p.val y.ix (dF y.w 3) (nq * rowBytes (if bitOf (dF y.w 2) 49 then 0 else 1) (dBits y.w 2 16 16)) qs →
    queries = queryRows (if bitOf (dF y.w 2) 49 then 0 else 1) (dBits y.w 2 16 16) nq qs → d.chainPage p.val y y.step = .here bs →
    recs = recordsOf size (2 ^ d.stageLog p.val y / size) bs → recs ≠ [] →
    acc = (rangeFrom 0 recs.length).foldl
      (fun acc j => scoreRecord y.w queries acc (y.step * (2 ^ d.stageLog p.val y / size) + j) (recs.getD j []))
      (y.rank, (queries.map readFlags).foldl Nat.lor 0) →
    Settles (.topk p noUpset t) s (d.stepDone
      (d.stepTo p.val y.ix (d.stagePages p.val y) (fun s => { s with
        rank := acc.1, result := s.result + recs.length, flags := Nat.lor s.flags acc.2 })).1 p.val y.ix)) ∧
  (∀ (s : State) (p : Tile) (t q i : Nat) (y z x : Stage) (e : LenEntry) (toks : List (Nat × Nat)) (bs : List Byte) (d g : Dev), s.dev.at t = d →
    d.flag Reg.THERM_STAT_TRIP = false → d.AtStep p.val 9 y → d.prevStage p.val y.ix = some z →
    g = d.onStage p.val y.ix (fun s => { s with flags := Nat.lor s.flags (readFlags [f32Num (dBits s.w 3 0 32)]) }) →
    g.stageAt p.val y.ix = some x → y.blobs ≠ [] → e = lenEntry (y.blobs.headD []) →
    (entryPages y.w e)[y.nums.getD 1 0]? = some q → i = y.nums.headD 0 → toks = pageTokens y.w e (y.blobs.getD 1 []) q → toks ≠ [] →
    i < g.stagePages p.val x → g.chainPage p.val x i = .here bs → g.outcomeOf p.val (i + 1) ≠ 1 →
    Settles (.attend p noUpset t) s (d.stepDone
      (((g.bumpBy Reg.ATTEND_OVERREAD (bs.length - toks.length * attRow y.w)).attCompute p.val x true
        (toks.map (fun x => (bs.drop (x.2 * attRow y.w)).take (attRow y.w))) (attRow y.w)).attPassed p.val y.ix true
        (entryPages y.w e).length toks.length).1 p.val y.ix)) ∧
  (∀ (s : State) (p : Tile) (t n : Nat) (y : Stage) (tab : List Byte) (f : Nat → Nat × Nat → List Byte) (d : Dev), s.dev.at t = d → d.AtStep p.val 10 y →
    d.prevStage p.val y.ix = none → n = dBits y.w 1 0 9 → d.Landed p.val y.ix (dF y.w 0) (8 * n) tab →
    (∀ i ∈ rangeFrom 0 n, ∀ q ∈ combineParts y.w y.step, d.Landed p.val y.ix (fieldBytes tab (8 * i) 8 + q.1) q.2 (f i q)) →
    Settles (.combine p noUpset t) s (d.stepDone
      (d.combineHead p.val y y.step ((rangeFrom 0 n).map (fun i => (combineParts y.w y.step).flatMap (f i)))).1 p.val y.ix)) ∧
  (∀ (s : State) (p : Tile) (t log space rb total a lo hi : Nat) (y : Stage) (line : List Byte) (tos : Nat × (Nat × Nat) → Nat)
    (d : Dev), s.dev.at t = d → d.AtStep p.val 11 y → log = dBits y.w 2 42 5 → space = dBits y.w 2 47 3 → rb = dBits y.w 3 0 16 →
    total = reshardPages y.w (dBits y.w 2 40 1) → y.step < total → reshardRows y.w y.step ≠ [] →
    a = dF y.w 0 + 8 * y.step → lo = max (dF y.w 0) (a - taAddr a % 64) → hi = min (dF y.w 0 + 8 * total) (a - taAddr a % 64 + 64) →
    d.Landed p.val y.ix lo (hi - lo) line → entryOf space log ((line.drop (a - lo)).take 8) = .hole →
    (∀ r ∈ reshardRows y.w y.step, ∀ b l m, b = dF y.w 1 + 8 * (reshardTo y.w r.2.1 r.2.2).1 → l = max (dF y.w 1) (b - taAddr b % 64) →
      m = min (dF y.w 1 + 8 * reshardPages y.w (dBits y.w 2 41 1)) (b - taAddr b % 64 + 64) →
      ∃ bs, (d.noteHole p.val (y.step + 1)).Landed p.val y.ix l (m - l) bs ∧ entryOf space log ((bs.drop (b - l)).take 8) = .page (tos r)) →
    Settles (.reshard p noUpset t) s (d.stepDone
      (((d.noteHole p.val (y.step + 1)).each (reshardRows y.w y.step) (fun d r =>
        d.write p.val y.ix none (tos r + (reshardTo y.w r.2.1 r.2.2).2 * rb) (((List.replicate (2 ^ log) 0#8).drop (r.1 * rb)).take rb))).stepTo
          p.val y.ix total (fun s => { s with result := s.result + (reshardRows y.w y.step).length })).1 p.val y.ix)) ∧
  (∀ (s : State) (p : Tile) (t len x n : Nat) (y : Stage) (bs out : List Byte) (d : Dev), s.dev.at t = d → d.AtStep p.val 12 y →
    len = dataBytes (dIn y.w) (dBits y.w 2 0 48) → x = 4096 * y.step → n = min 4096 (len - x) → d.Landed p.val y.ix (dF y.w 0 + x) n bs →
    (∀ l ∈ linesOf 64 bs, (packLine (dIn y.w) (bitOf (dF y.w 2) 48) l).isSome = true) →
    out = (linesOf 64 bs).flatMap (fun l => (packLine (dIn y.w) (bitOf (dF y.w 2) 48) l).getD []) → y.result + out.length ≤ dBits y.w 3 0 32 →
    Settles (.pack p noUpset t) s (d.stepDone
      ((d.write p.val y.ix none (dF y.w 1 + y.result) out).stepTo p.val y.ix (ceilDiv len 4096)
        (fun s => { s with result := s.result + out.length, flags := Nat.lor s.flags (if x + n < len then 0 else d.packFlags p.val y) })).1
        p.val y.ix)) ∧
  (∀ (s : State) (p : Tile) (t len : Nat) (y z : Stage) (b out : List Byte) (d : Dev), s.dev.at t = d → d.AtStep p.val 13 y →
    d.prevStage p.val y.ix = some z → len = dataBytes (dOut y.w) (dBits y.w 2 0 48) → y.step < d.stagePages p.val y →
    d.chainPage p.val y y.step = .here b → d.outcomeOf p.val (y.step + 1) ≠ 1 → len ≤ 2 ^ d.stageLog p.val y →
    unpackAll (dOut y.w) (bitOf (dF y.w 2) 48) (ceilDiv len 64) b = some out →
    Settles (.unpack p noUpset t) s (d.stepDone
      ((d.writeHere p.val (d.slotAddr p.val y.step) y (out.take len)).stepTo p.val y.ix (d.stagePages p.val y)
        (fun s => { s with result := s.result + len })).1 p.val y.ix))

/-- R62 to R67, R72 and R73, arrival counters: a write that names a counter held by no running heat, or by a heat of another domain,
is counted in SLAG_ORPHAN_ARRIVAL alone; COUNT rises by the bytes, or by one in PACKETS mode, saturating at 2^44 − 1 with SAT; a wait
holds from the count of its descriptor's FOLLOW setting, and always on a saturated counter. -/
def Obligations.CountersCount : Prop :=
  (∀ (d : Dev) (id dom gen : Nat) (x : Counted), (∀ h, d.ctrHold id = some h → h.dom ≠ dom) →
    d.countArrival id dom gen x = d.bump Reg.SLAG_ORPHAN_ARRIVAL) ∧
  (∀ (d : Dev) (id : Nat) (x : Counted) (h : CtrHold), d.Rising → d.ctrHold id = some h → h.late = [] →
    fieldOf ((d.countArrival id h.dom (d.ctrGen id) x).reg (ctrCur id)) 0 44 =
      min (2 ^ 44 - 1) (fieldOf (d.reg (ctrCur id)) 0 44 + if bitOf (d.reg (ctrCur id)) 44 then 1 else x.bytes)) ∧
  (∀ (d : Dev) (r : RegRef) (n : Nat), d.Rising →
    bitOf ((d.addCount r n).reg r) 45 = (bitOf (d.reg r) 45 || decide (2 ^ 44 ≤ fieldOf (d.reg r) 0 44 + n)) ∧
    fieldOf ((d.addCount r n).reg r) 46 18 = fieldOf (d.reg r) 46 18 ∧
    ∀ q : RegRef, q.addr ≠ r.addr → (d.addCount r n).reg q = d.reg q) ∧
  (∀ (d : Dev) (id n : Nat), d.waitHolds false id n = (decide (n ≤ fieldOf (d.reg (ctrCur id)) 0 44) || bitOf (d.reg (ctrCur id)) 45)) ∧
  (∀ (d : Dev) (id n : Nat), bitOf (d.reg (ctrPrev id)) 46 = true →
    d.waitHolds true id n = (decide (n ≤ fieldOf (d.reg (ctrCur id)) 0 44 + fieldOf (d.reg (ctrPrev id)) 0 44) ||
      bitOf (d.reg (ctrCur id)) 45))

/-- R276, the 32 bytes of a status word: CODE, NUMFLAGS, DONE, DL_MISS, REPLAYED and REASON, then the counts, the result, the time, the
placement generation and the discards, each at its place and the elapsed time and SLAG saturating. -/
def Obligations.StatusWordLaid : Prop :=
  ∀ (x : Stage) (start now pgen : Nat), x.code ∈ codeOrder → x.reason < 32 →
    ∀ b, b = x.word start now pgen → ∀ v, v = fieldBytes b 0 4 →
    b.length = 32 ∧ fieldOf v 0 8 = x.finalCode ∧ fieldOf v 8 8 = x.flags % 256 ∧ bitOf v 16 = true ∧ bitOf v 17 = x.dl ∧
    bitOf v 18 = x.replayed ∧ fieldOf v 19 13 = x.reason ∧ fieldBytes b 4 4 = x.shadows % 2 ^ 32 ∧ fieldBytes b 8 4 = x.skips % 2 ^ 32 ∧
    fieldBytes b 12 4 = x.firstSkip % 2 ^ 32 ∧ fieldBytes b 16 8 = x.result % 2 ^ 64 ∧
    fieldBytes b 24 4 = min (2 ^ 32 - 1) ((now - start) / 10) ∧ fieldBytes b 28 2 = pgen % 65536 ∧ fieldBytes b 30 2 = min 65535 x.slag

/-- R246: up to 2^63 addends V is the exact sum; with more, the value is NaN with OVF whatever V is; and the contents of a Crucible, hence its
flags, its value and its result, depend neither on the order of what is placed in it nor on how the addends are split over Crucibles that are
then merged. -/
def Obligations.CrucibleOrder : Prop :=
  (∀ xs ys : List Sys2Proof.Machine.Num, xs.Perm ys → xs.foldl Crucible.place Crucible.clear = ys.foldl Crucible.place Crucible.clear) ∧
  (∀ xs ys : List Sys2Proof.Machine.Num, (xs ++ ys).foldl Crucible.place Crucible.clear =
    (xs.foldl Crucible.place Crucible.clear).merge (ys.foldl Crucible.place Crucible.clear)) ∧
  (∀ a b c : Crucible, a.merge b = b.merge a ∧ (a.merge b).merge c = a.merge (b.merge c)) ∧
  (∀ xs : List (Int × Int), xs.length ≤ 2 ^ 63 → (∀ x ∈ xs, -160 ≤ x.2 ∧ (Nat.log2 x.1.natAbs : Int) + x.2 < 160) →
    ((xs.map (fun x => Sys2Proof.Machine.Num.fin x.1 x.2)).foldl Crucible.place Crucible.clear).v.toInt =
      (xs.map (fun x => x.1 * (2 : Int) ^ (x.2 + 160).toNat)).sum) ∧
  (∀ (c : Crucible) (isInt : Bool), 2 ^ 63 < c.addends → c.value = .nan ∧ Nat.land (c.flags isInt) nfOvf = nfOvf)

/-- R248: a Crucible read from its own image is the Crucible, and an image whose zero bytes are not zero is refused. -/
def Obligations.CrucibleImage : Prop :=
  (∀ c : Crucible, c.addends < 2 ^ 64 → c.rangeBits < 4 → Crucible.ofImage c.image = some c ∧ c.image.length = 64) ∧
  (∀ bs : List Byte, fieldBytes bs 58 6 ≠ 0 ∨ 16 ≤ fieldBytes bs 56 1 ∨ 4 ≤ fieldBytes bs 57 1 → Crucible.ofImage bs = none)

/-- R298 and R305: the sum that REDUCE and COMBINE in mode SUM write does not depend on the order in which the rows come. -/
def Obligations.SumsOrderFree : Prop :=
  ∀ (w : List Nat) (n : Nat) (xs ys : List (List Byte)), xs.Perm ys → sumRows w n xs = sumRows w n ys

/-- R294, the ranking of TOPK: a rank of at most K entries stays one, its entries run from the highest score down, and a record joins behind
every record of the same score. R291, a term of FILTER over an integer field: each comparison is that of the numbers, unsigned or signed
by TYPE, and the mask tests are those of the bits. R306, the layouts of RESHARD: every row of a head and a token has a place inside its
layout, and two rows never have the same. -/
def Obligations.RanksTermsPlaces : Prop :=
  (∀ (k : Nat) (e : Nat × Nat) (r : List (Nat × Nat)), r.length ≤ k → r.Pairwise (fun a b => scoreBefore b.1 a.1 = false) →
    (rankIn k e r).length = min k (r.length + 1) ∧
    (rankIn k e r).Pairwise (fun a b => scoreBefore b.1 a.1 = false) ∧
    rankIn k e r = (r.takeWhile (fun x => !scoreBefore e.1 x.1) ++ e :: r.dropWhile (fun x => !scoreBefore e.1 x.1)).take k) ∧
  (∀ (typ field const : Nat), typ = 0 ∨ typ = 2 →
    (termHolds typ 0 field const = decide (field = const)) ∧ (termHolds typ 1 field const = decide (field ≠ const)) ∧
    (termHolds typ 2 field const = decide (field < const)) ∧ (termHolds typ 3 field const = decide (field ≤ const)) ∧
    (termHolds typ 4 field const = decide (const < field)) ∧ (termHolds typ 5 field const = decide (const ≤ field))) ∧
  (∀ (field const : Nat), field < 2 ^ 32 → const < 2 ^ 32 →
    (termHolds 1 2 field const = decide ((BitVec.ofNat 32 field).toInt < (BitVec.ofNat 32 const).toInt))) ∧
  (∀ (cmp field const : Nat), decodeFloat fmtFP32 field = .nan → termHolds 4 cmp field const = decide (cmp = 1)) ∧
  (∀ (w : List Nat), 1 ≤ dBits w 2 32 8 → 1 ≤ dBits w 3 0 16 → dBits w 3 0 16 ≤ 2 ^ dBits w 2 42 5 →
    ∀ h t, h < dBits w 2 32 8 → t < dBits w 2 0 32 →
      (reshardTo w h t).1 < reshardPages w (dBits w 2 41 1) ∧ (reshardTo w h t).2 < 2 ^ dBits w 2 42 5 / dBits w 3 0 16 ∧
      ∀ h' t', h' < dBits w 2 32 8 → t' < dBits w 2 0 32 → reshardTo w h t = reshardTo w h' t' → h = h' ∧ t = t')

/-- R362, a coded line: its header, its element codes in order, its length and its zero padding, and that decoding reverses the code exactly;
so does reading a line of a PACK stream, whose header gives its length. -/
def Obligations.LineCoderExact : Prop :=
  (∀ (c dw : Nat) (f : CodeFmt) (line : List Byte), codeFmt c = some f → line.length = 64 → dw ≤ 8 →
    codeSpread f (lineElements f line) < 2 ^ dw →
    ∀ xs base b v, xs = lineElements f line → base = codeBase f xs → b = codeLine f dw line → v = bytesNat b →
    (∀ x ∈ xs, base ≤ f.exp x) ∧ (∃ x ∈ xs, f.exp x = base) ∧ b.length = 16 * ceilDiv (16 + 512 / f.w * (1 + f.m + dw)) 128 ∧
    v < 2 ^ (16 + 512 / f.w * (1 + f.m + dw)) ∧ fieldOf v 0 4 = dw ∧ fieldOf v 4 8 = base ∧ fieldOf v 12 4 = 0 ∧
    (∀ i x, xs[i]? = some x → fieldOf v (16 + i * (1 + f.m + dw)) (1 + f.m + dw) =
      (x / 2 ^ (f.w - 1)) * 2 ^ (f.m + dw) + (f.exp x - base) * 2 ^ f.m + x % 2 ^ f.m) ∧
    decodeCoded f b = some line) ∧
  (∀ (c : Nat) (fixed : Bool) (line coded rest : List Byte), line.length = 64 → packLine c fixed line = some coded →
    unpackLine c coded = some line ∧ codedLength c fixed (coded ++ rest) = some coded.length)

/-- R207, a token bucket, in units of 1/8000 byte (1 Mbit/s for 1 ns): it gains its rate continuously up to its burst, in however many
refills; a charge subtracts what was sent, down to the floor; a rate of 0 turns the shaper or policer off. -/
def Obligations.BucketsBounded : Prop :=
  (∀ (b : Bucket) (s : Shape) (t : Nat),
    (b.refill s t).tok = min ((s.burst * 64 * 8000 : Nat) : Int) (b.tok + ((s.rate * (t - b.at_) : Nat) : Int)) ∧ (b.refill s t).at_ = max b.at_ t) ∧
  (∀ (b : Bucket) (s : Shape) (u v : Nat), b.at_ ≤ u → u ≤ v → (b.refill s u).refill s v = b.refill s v) ∧
  (∀ (b : Bucket) (s : Shape) (n m : Nat),
    (b.charge s n).tok = max (-(((s.burst * 64 + 16384) * 8000 : Nat) : Int)) (b.tok - ((n * 8000 : Nat) : Int)) ∧
    (b.charge s n).charge s m = b.charge s (n + m)) ∧
  (∀ (d : Dev) (p tc n : Nat), (shapeOf (d.reg (Reg.SHAPE_CFG p tc))).rate = 0 → d.inProfile p tc = true ∧ d.chargeShaper p tc n = d) ∧
  (∀ (d : Dev) (p n : Nat), (shapeOf (d.reg (Reg.POL_CFG p))).rate = 0 → p ∉ d.sw.polHold → d.police p n = (0, d))

/-! ### Tiers, shadows, pushes and key sweeps (chapter 10) -/

/-- R345 to R350, the tier: the first candidate that fits and is not resident is promoted into a free frame from its first line on; every
counter of a page the area lists is halved at a decay; a line dirty for CLEAN_MS goes to its home to be written back; FLUSH asks this of
every dirty line not yet asked for. R346, R347 and R348, one line of a frame set to move: the frame holds it out, and its home is asked
for it under the page's agent by a message through the switch (R165), in the class of TIER_TC. -/
def Obligations.TierMoves : Prop :=
  (∀ (s : State) (t page slot : Nat) (rest : List Nat) (d : Dev), s.dev.at t = d → d.coreUp 15 = true →
    d.store.frames.filter (fun f => f.mode == 2 && f.out == []) = [] →
    d.flag Reg.TIER_CTL_PROMOTE_EN = true → d.store.cands = page :: rest →
    ∀ e, e = ({ d with store := { d.store with cands := rest } } : Dev).showTier →
    (∃ ix x, e.ten.live.byPpa (page * 0x20_0000) = some (ix, x) ∧ (x.tier = 1 ∨ x.tier = 2)) →
    e.frameOf page = none → e.freeSlot = some slot →
    Settles (.tierPromotion t) s (e.startPromotion page slot)) ∧
  (∀ (s : State) (t : Nat) (d : Dev), s.dev.at t = d → d.store.decayAt + max 1 (d.get Reg.TIER_THR_DECAY_MS) * 1000000 ≤ d.time →
    Settles (.counterDecay t) s
      (({ d with store := { d.store with decayAt := d.time } } : Dev).each
        (((d.dmem.filter (fun c => decide (d.areaBase 4 ≤ c.1) && decide (c.1 < d.areaBase 4 + d.areaSize 4))).map
          (fun c => (c.1 - d.areaBase 4) / 2)).foldl addOnce [])
        (fun e page => e.writeMem (d.areaBase 4 + page * 2) (natBytes 2 (e.accessCounter page / 2))))) ∧
  (∀ (s : State) (k t since : Nat) (f : TierFrame) (x : Nat × Nat) (d : Dev), s.dev.at t = d → d.frameOf (k / 32768) = some f →
    f.dirty.find? (fun x => x.1 == k % 32768) = some x → x.2 = since → k % 32768 ∉ f.out →
    since + max 1 (d.get Reg.TIER_THR_CLEAN_MS) * 1000000 ≤ d.time →
    Settles (.cleanWriteback k t) s (d.moveTierLine (k / 32768) (k % 32768) .clean)) ∧
  (∀ (s : State) (t : Nat) (d : Dev), s.dev.at t = d → d.pcieUp = true →
    ∀ fresh, fresh = (d.store.frames.flatMap (fun f => f.dirty.map (fun x => (f.page, x.1)))).filter (fun x => decide (x ∉ d.store.flush)) →
    Settles (.flush t) s
      ((({ d with store := { d.store with flush := d.store.flush ++ fresh } } : Dev).showTier).each fresh (fun d x => d.flushLine x))) ∧
  (∀ (d : Dev) (page ix : Nat) (op : HomeOp), ix < 32768 →
    ∀ r : HomeReq, r =
        { who := .tier page, tag := page * 32768 + ix, op := op, dom := 0, ppa := page * 0x20_0000 + 64 * ix, count := 0,
          first := page * 0x20_0000 + 64 * ix, data := [], mask := 0, tc := d.get Reg.TIER_CTL_TIER_TC, ctrKind := 0, ctr := 0,
          epoch := d.epoch, no := d.flightNo (.tier page) (page * 32768 + ix), parity := 0, gen := none } →
    d.moveTierLine page ix op =
      (d.onFrame page (fun f => { f with out := f.out ++ [ix] })).sendInner .tier (.slice (homeSlice (page * 0x20_0000 + 64 * ix)))
        (askMsg r) 0 (.ask r))

/-- R355, R358, R373 and R378: a page of a span whose shadow is absent is read anew from its first line, once it is quiet; WPUSH_GO
starts the push that WPUSH_CFG, WPUSH_SRC and WPUSH_DST name; a sweep asks the home of the next line of its page. -/
def Obligations.EnginesStart : Prop :=
  (∀ (s : State) (ppa t page len : Nat) (x : Span) (d : Dev), s.dev.at t = d → d.coreUp 15 = true → d.spanPage ppa = some (page, len, x) →
    (∀ y ∈ d.store.shadows, y.ppa = page → y.valid = false) → (∀ b ∈ d.store.builds, b.ppa ≠ page) → d.store.quiet = [] →
    shadowLen len x.fmt x.d ≤ d.areaSize 6 →
    Settles (.shadowBuild ppa t) s
      (({ d with store := { d.store with builds := d.store.builds ++ [⟨page, len, x.fmt, x.d, [], false⟩] } } : Dev).askHome
        (d.shadowReq page (page / 64)))) ∧
  (∀ (s : State) (t : Nat) (d : Dev), s.dev.at t = d → d.pcieUp = true → d.flag Reg.WPUSH_STAT_BUSY = false →
    8192 ≤ d.get Reg.WPUSH_CFG_GROUP → d.dmaNamed (d.get Reg.WPUSH_SRC_ADDR) (d.get Reg.WPUSH_CFG_LENGTH) = true →
    Settles (.wpushGo t) s (d.startPush none (d.get Reg.WPUSH_SRC_ADDR) (d.get Reg.WPUSH_DST_ADDR) (d.get Reg.WPUSH_CFG_LENGTH)
      (d.get Reg.WPUSH_CFG_GROUP))) ∧
  (∀ (s : State) (dom : Dom) (t page : Nat) (rest : List Nat) (x : Sweep) (d : Dev), s.dev.at t = d → d.sweepOf dom.val = some x →
    x.pages = page :: rest → x.next < 32768 →
    Settles (.keySweepLine dom t) s
      (({ d with store := { d.store with sweeps := d.store.sweeps.map (fun (y : Sweep) =>
        if y.dom = dom.val then { y with next := y.next + 1, out := y.out ++ [page * 32768 + x.next] } else y) } } : Dev).askHome
        (d.sweepReq dom.val (page * 32768 + x.next))))

/-! ### Glois Remote Transport (chapter 11) -/

/-- R384 and R408, frames of an uplink: a PFC frame with a sound FCS pauses its priorities, one without counts in SLAG_GRT_BAD; any other
frame is dropped and counted where the port's policer says so (R213), or else, under the class the policer gives it, goes through the
switch to the engine of its uplink's core die, which counts one whose FCS does not hold in SLAG_GRT_BAD and one not addressed to it in
SLAG_REJECT, and takes a sound packet to its context. R408 to R410, the pauses and the state of an uplink: a pause ends when its quanta
have run out, and the timers of its contexts have stood still meanwhile; the watchdog of a priority paused for PFC_WD_MS posts its event
and counts; an XOFF is refreshed after 10 µs; an uplink whose PCS aligns is ACTIVE at its width, and one that loses it is DOWN, each with
its event. -/
def Obligations.UplinksWork : Prop :=
  (∀ (s : State) (p : Port) (frame bs : List Byte) (t : Nat) (d : Dev), s.dev.at t = d → d.isRole p.val 2 = true → d.linkState p.val = 4 →
    4 ≤ frame.length → bs = frame.take (frame.length - 4) → isPfc bs = true →
    (bytesNat (frame.drop (frame.length - 4)) = crc32 bs → Settles (.pfcFrame p frame t) s ((d.bump (Reg.FRAMES_IN p.val)).takePfc p.val bs)) ∧
    (bytesNat (frame.drop (frame.length - 4)) ≠ crc32 bs →
      Settles (.pfcFrame p frame t) s ((d.bump (Reg.FRAMES_IN p.val)).bump Reg.SLAG_GRT_BAD))) ∧
  (∀ (s : State) (p : Port) (frame bs : List Byte) (t act tc : Nat) (d e : Dev), s.dev.at t = d → d.isRole p.val 2 = true → d.linkState p.val = 4 →
    4 ≤ frame.length → bs = frame.take (frame.length - 4) → isPfc bs = false → act = ((d.bump (Reg.FRAMES_IN p.val)).police p.val frame.length).1 →
    e = ((d.bump (Reg.FRAMES_IN p.val)).police p.val frame.length).2 →
    tc = (if act = 2 then e.get (Reg.POL_CFG_REMARK_TC p.val) else if etherAt bs = 16 then wireNat bs 14 2 / 8192 else 0) →
    Settles (.grtFrameReceive p frame false t) s (if act = 3 then e.bump (Reg.SLAG_POLICED p.val) else
      e.send (.port p.val) (.grt (e.portDie p.val)) 6 tc
        ⟨.grtIn bs (decide (bytesNat (frame.drop (frame.length - 4)) = crc32 bs)), e.time, 0, false, 0⟩)) ∧
  (∀ (d : Dev) (p : Nat) (bs : List Byte), d.engineFrame p bs false = d.bump Reg.SLAG_GRT_BAD ∧
    (d.grtAddressed p bs = false → d.engineFrame p bs true = d.bump (Reg.SLAG_REJECT p)) ∧
    (d.grtAddressed p bs = true → grtSound bs = true →
      gHeadOk ((bs.drop (etherAt bs + 2)).drop 48) (grtPacket p bs).payload.length = true →
      d.engineFrame p bs true = d.enginePacket p (grtReceived bs))) ∧
  (∀ (s : State) (p : Port) (i : Fin 8) (t : Nat) (x : Nat × Nat) (d : Dev), s.dev.at t = d →
    Tab.find? d.grt.pauses (p.val * 8 + i.val) = some x → x.2 ≤ d.time →
    Settles (.pfcPauseExpiry p i t) s
      { d with grt := { d.grt with pauses := Tab.del d.grt.pauses (p.val * 8 + i.val),
                                   storms := d.grt.storms.filter (fun k => k != p.val * 8 + i.val),
                                   ctxs := d.grt.ctxs.map (fun c => if c.2.uplink == p.val && c.2.tc == i.val then
                                     (c.1, { c.2 with times := c.2.times.map (fun u => (u.1, u.2 + (x.2 - max x.1 u.2))) }) else c) } }) ∧
  (∀ (s : State) (p : Port) (i : Fin 8) (t : Nat) (x : Nat × Nat) (d : Dev), s.dev.at t = d →
    Tab.find? d.grt.pauses (p.val * 8 + i.val) = some x → d.paused p.val i.val = true → d.get Reg.GRT_CFG_PFC_WD_MS ≠ 0 →
    x.1 + d.get Reg.GRT_CFG_PFC_WD_MS * 1000000 ≤ d.time → p.val * 8 + i.val ∉ d.grt.storms →
    ∀ e, e = (d.post [0] 0x44 [p.val, i.val]).bump Reg.PFC_STORMS →
    ∀ f : Dev, f = { e with grt := { e.grt with storms := e.grt.storms ++ [p.val * 8 + i.val] } } →
    f.flag Reg.GRT_CFG_PFC_WD_DROP = false →
    Settles (.pfcWatchdog p i t) s f) ∧
  (∀ (s : State) (p : Port) (i t since : Nat) (d : Dev), s.dev.at t = d →
    (rangeFrom 0 8).filter (fun i => bitOf (d.get (Reg.UPL_PFC_PFC_EN p.val)) i) = [i] →
    Tab.find? d.grt.xoff (p.val * 8 + i) = some since → d.get (Reg.UPL_PFC_XON_CELLS p.val) < d.pfcCells p.val i → since + 10000 ≤ d.time →
    ∀ e, e = d.sendPfc p.val i 0xFFFF →
    Settles (.xoffRefresh p t) s { e with grt := { e.grt with xoff := Tab.ins e.grt.xoff (p.val * 8 + i) e.time } }) ∧
  (∀ (s : State) (p : Port) (t : Nat) (d : Dev), s.dev.at t = d → d.isRole p.val 2 = true → d.linkState p.val ≠ 4 → d.running = true →
    d.boot.halt = false → d.flag (Reg.LINK_CTL_DISABLE p.val) = false →
    ∀ e, e = d.set (Reg.LINK_STAT_WIDTH_NOW p.val) (d.get (Reg.PORT_CFG_WIDTH_CODE p.val)) →
    Settles (.uplinkUp p t) s ((e.set (Reg.LINK_STAT_STATE p.val) 4).post (e.uplinkFns p.val) 0x41 [p.val])) ∧
  (∀ (s : State) (p : Port) (t : Nat) (d : Dev), s.dev.at t = d → d.isRole p.val 2 = true → d.linkState p.val = 4 →
    ∀ e, e = d.set (Reg.LINK_STAT_WIDTH_NOW p.val) 0 →
    Settles (.uplinkDown p t) s ((e.set (Reg.LINK_STAT_STATE p.val) 0).post (e.uplinkFns p.val) 0x40 [p.val]))

/-- R396 to R399, the sender of a context: its next new packet goes out under NEXT and is kept until acknowledged; an ACK acknowledges
all up to its PSN; a NAK of kind SEQ resends from its PSN; an RNR wait that has run out resends from the RNR PSN, or from an earlier one still to be sent again; the RTO resends from
UNA, or uses up the retries and the context enters ERROR. -/
def Obligations.GrtSends : Prop :=
  (∀ (s : State) (c : Ctx) (t : Nat) (x : GCtx) (p : GPacket) (d : Dev), s.dev.at t = d → d.gctx c.val = some x →
    x.cached = true → x.state = 1 → x.rnr = none → d.linkState x.uplink = 4 → x.resend = none → x.head = some p →
    d.mayStart x p = true →
    ∀ q : GPacket, q = { p with psn := x.next, flags :=
      if x.sent.length + 1 == max 1 (x.window / 2) || bitOf p.flags 1 then Nat.lor p.flags 4 else p.flags } →
    Settles (.grtPacketSend c t) s
      (((d.bump Reg.GRT_TX_PKTS).sendPacket c.val x q (x.f 24 6)).onCtx c.val (fun y => { y with
        used := d.time, times := Tab.ins y.times q.psn d.time,
        queue := dropFirst (fun z => decide (z = p)) y.queue, open_ := if bitOf q.flags 1 then none else some q.message, sent := y.sent ++ [q], next := (y.next + 1) % 2 ^ 24, resend := none,
        reads := y.reads.map (fun r => if q.op = 2 && r.msg = q.msg then { r with psn := some q.psn } else r) }))) ∧
  (∀ (s : State) (c : Ctx) (t : Nat) (x : GCtx) (p : GPacket) (rest : List GPacket) (d : Dev), s.dev.at t = d → d.gctx c.val = some x →
    x.answers = p :: rest → p.op = 0x10 → x.retries = 0 →
    Settles (.grtAck c t) s
      (((d.onCtx c.val (fun y => { y with answers := rest, used := d.time })).ackUpTo c.val p.psn).messagesDone c.val)) ∧
  (∀ (s : State) (c : Ctx) (t : Nat) (x : GCtx) (p : GPacket) (rest : List GPacket) (d : Dev), s.dev.at t = d → d.gctx c.val = some x →
    x.answers = p :: rest → p.op = 0x11 → p.msg = 0 → x.rnr = none → x.sent.any (fun q => q.psn == p.psn) = true →
    Settles (.grtNak c t) s
      ((d.onCtx c.val (fun y => { y with answers := rest, used := d.time })).onCtx c.val (fun y => { y with resend := some p.psn }))) ∧
  (∀ (s : State) (c : Ctx) (t psn until_ : Nat) (d : Dev), s.dev.at t = d → (d.gctx c.val).bind GCtx.rnr = some (psn, until_) →
    until_ ≤ d.time → Settles (.rnrWaitExpiry c t) s (d.onCtx c.val (fun x => { x with rnr := none, resend := match x.resend with
      | some q => if psnBehind q psn then some q else some psn
      | none => some psn }))) ∧
  (∀ (s : State) (c : Ctx) (t : Nat) (x : GCtx) (d : Dev), s.dev.at t = d → d.gctx c.val = some x → x.sent ≠ [] → x.state ≠ 3 →
    Tab.find? d.grt.pauses (x.uplink * 8 + x.tc) = none → x.unaAt + x.rto ≤ d.time → x.retries + 1 ≤ x.f 46 1 →
    Settles (.rtoExpiry c t) s ((d.bump Reg.GRT_RTO).onCtx c.val (fun y => { y with
      retries := y.retries + 1, resend := some y.una, times := Tab.ins y.times y.una d.time }))) ∧
  (∀ (s : State) (c : Ctx) (t : Nat) (x : GCtx) (d : Dev), s.dev.at t = d → d.gctx c.val = some x → x.sent ≠ [] → x.state ≠ 3 →
    Tab.find? d.grt.pauses (x.uplink * 8 + x.tc) = none → x.unaAt + x.rto ≤ d.time → x.f 46 1 < x.retries + 1 →
    Settles (.rtoExpiry c t) s (d.ctxError c.val 1))

/-- R393, R395, R397 to R399, the receiver's timers and the fetch: a context's record comes from its backing and its parked packets are
sequenced; a host fetch past its limit is given up and puts the context in ERROR; a SEQ NAK is sent again after 10 µs, an ACK owed goes after ACK_DELAY,
and a draining context is freed after RTO × RETRY_LIMIT. -/
def Obligations.GrtTimers : Prop :=
  (∀ (s : State) (c : Ctx) (t : Nat) (x : GCtx) (d : Dev), s.dev.at t = d → d.gctx c.val = some x → x.fetching.isSome = true →
    x.hosted = false → d.upset = [] → Settles (.contextFetchDone c t) s (d.installCtx c.val (d.readMem (d.areaBase 3 + 128 * c.val) 128))) ∧
  (∀ (s : State) (c : Ctx) (t since : Nat) (x : GCtx) (d : Dev), s.dev.at t = d → d.gctx c.val = some x → x.fetching = some since →
    x.hosted = true → since + max 1 (d.get Reg.GRT_CFG2_HOST_FETCH_LIMIT_US) * 1000 ≤ d.time →
    Settles (.hostFetchLimit c t) s
      ((({ d with host := { d.host with reads := d.host.reads.map (fun r =>
        if r.use = HostUse.context c.val then { r with use := .given c.val } else r) } } : Dev).dropParked c.val).ctxError c.val 3)) ∧
  (∀ (s : State) (c : Ctx) (t since : Nat) (x : GCtx) (d : Dev), s.dev.at t = d → d.gctx c.val = some x → x.nakAt = some since →
    x.cached = true → since + 10000 ≤ d.time →
    ∀ e, e = (d.sendPacket c.val x (answerPacket 0x11 0 0 x.epsn) x.mac).bump Reg.GRT_SEQ_NAK_TX →
    Settles (.seqNakResend c t) s (e.onCtx c.val (fun y => { y with nakAt := some d.time }))) ∧
  (∀ (s : State) (c : Ctx) (t since : Nat) (x : GCtx) (d : Dev), s.dev.at t = d → d.gctx c.val = some x → x.ackFrom = some since → x.cached = true →
    since + max 100 (d.get Reg.GRT_CFG_ACK_DELAY_NS) ≤ d.time →
    Settles (.ackDelayExpiry c t) s ((d.sendPacket c.val x (answerPacket 0x10 0 0 x.cpsn) x.mac).onCtx c.val (fun y => { y with
      since := 0, ackFrom := none }))) ∧
  (∀ (s : State) (c : Ctx) (t since : Nat) (x : GCtx) (d : Dev), s.dev.at t = d → d.gctx c.val = some x → x.drain = some since →
    since + x.rto * x.f 46 1 ≤ d.time → Settles (.ctxDrainTimeout c t) s (d.freeCtx c.val))

/-- R400 to R403, the receiver's packets: the next WRITE goes line by line to its homes at its registration's base; the next READ_REQ is
served once every earlier packet has committed; what a READ_RESP brings goes on to the tile of the
read it names, and one that names none is discarded. -/
def Obligations.GrtServes : Prop :=
  (∀ (s : State) (c : Ctx) (t : Nat) (x : GCtx) (y : GRx) (d : Dev), s.dev.at t = d → d.gctx c.val = some x → x.nextRx = some y →
    y.pkt.op = 1 → fieldOf y.pkt.flags 4 2 ≠ 1 → (d.onRx c.val y.pkt.psn (fun e => { e with stage := 1 })).regLost y.pkt.reg = false →
    Settles (.grtWrite c t) s
      (((d.onRx c.val y.pkt.psn (fun e => { e with stage := 1 })).writeLines c.val x y.pkt.psn (y.pkt.payload.length + 1)
        (((Tab.find? d.grt.regs y.pkt.reg).map RegRange.base).getD 0 + y.pkt.offset) y.pkt.payload).writeDone c.val y.pkt.psn)) ∧
  (∀ (s : State) (c : Ctx) (t : Nat) (x : GCtx) (y : GRx) (d : Dev), s.dev.at t = d → d.gctx c.val = some x → x.nextRx = some y →
    y.pkt.op = 2 → x.alone y = true →
    ∀ e, e = ((d.onRx c.val y.pkt.psn (fun e => { e with stage := 2 })).onCtx c.val (fun z => { z with serves := z.serves ++
        [⟨y.pkt.psn + y.pkt.reg * 2 ^ 24, ((Tab.find? d.grt.regs y.pkt.reg).map RegRange.base).getD 0 + y.pkt.offset, y.pkt.length,
          [], 0, none⟩] })) →
    e.regLost y.pkt.reg = false → Settles (.readReq c t) s (e.serveNext c.val (y.pkt.psn + y.pkt.reg * 2 ^ 24) y.pkt.reg)) ∧
  (∀ (s : State) (c : Ctx) (t : Nat) (x : GCtx) (y : GRx) (d : Dev), s.dev.at t = d → d.gctx c.val = some x → x.nextRx = some y →
    y.pkt.op = 3 → x.reads.find? (fun r => r.psn == some y.pkt.reg && !r.done) = none →
    Settles (.readResp c t) s ((d.onRx c.val y.pkt.psn (fun e => { e with stage := 2 })).bump Reg.SLAG_GRT_FAILED_MSG)) ∧
  (∀ (s : State) (c : Ctx) (t : Nat) (x : GCtx) (y : GRx) (r : GRead) (m : GMessage) (d : Dev), s.dev.at t = d → d.gctx c.val = some x →
    x.nextRx = some y → y.pkt.op = 3 → x.reads.find? (fun r => r.psn == some y.pkt.reg && !r.done) = some r → y.pkt.status = 0 →
    bitOf y.pkt.flags 1 = false → y.pkt.payload ≠ [] → x.msgs.find? (fun m => m.id == r.msg) = some m →
    ∀ e, e = d.onRx c.val y.pkt.psn (fun e => { e with stage := 2 }) →
    Settles (.readResp c t) s
      (((e.sendLines (.grt (e.portDie x.uplink)) (.tile m.tile) (m.tag % tagSpace) (ownTc 2) x.dom 0 y.pkt.payload
        (.part m.tag y.pkt.offset y.pkt.payload)).onCtx c.val (fun z => { z with
          reads := z.reads.map (fun q => if q.msg = r.msg then { q with got := y.pkt.offset + y.pkt.payload.length, done := false } else q),
          msgs := z.msgs.map (fun m => if m.id = r.msg then { m with code := worse 0 m.code } else m) })).messagesDone c.val))

/-- R385, the GRT header: 40 bytes with each field at its place and zeros between; one read back from its bytes is the header. -/
def Obligations.GrtHeaderExact : Prop :=
  ∀ h : GHead, h.op < 256 → h.flags < 256 → h.status < 32 → h.nak < 8 → h.dst < 2 ^ 20 → h.src < 2 ^ 20 → h.psn < 2 ^ 24 →
    h.offset < 2 ^ 52 → h.length < 2 ^ 32 → h.reg < 2 ^ 24 → h.repoch < 65536 → h.ctr < 65536 → h.ctrKind < 4 →
    ∀ b, b = h.bytes → b.length = 40 ∧ fieldBytes b 0 1 = 1 ∧ fieldBytes b 1 1 = h.op ∧ fieldBytes b 2 1 = h.flags ∧
    fieldBytes b 3 1 = h.status + h.nak * 2 ^ 5 ∧ fieldBytes b 4 4 = h.dst ∧ fieldBytes b 8 4 = h.src ∧ fieldBytes b 12 4 = h.psn ∧
    fieldBytes b 16 8 = h.offset ∧ fieldBytes b 24 4 = h.length ∧ fieldBytes b 28 4 = h.reg ∧ fieldBytes b 32 2 = h.repoch ∧
    fieldBytes b 34 2 = h.ctr ∧ fieldBytes b 36 1 = h.ctrKind ∧ fieldBytes b 37 3 = 0 ∧ ∀ payload, gHead (b ++ payload) = h

/-- R397, the order of PSNs: of two different PSNs not 2^23 apart exactly one is behind the other, and moving both on keeps the order. -/
def Obligations.PsnsOrdered : Prop :=
  ∀ a b k : Nat, a < 2 ^ 24 → b < 2 ^ 24 →
    (psnBehind a a = false) ∧
    (a ≠ b → (b + 2 ^ 24 - a) % 2 ^ 24 ≠ 2 ^ 23 → psnBehind a b = !psnBehind b a) ∧
    psnBehind ((a + k) % 2 ^ 24) ((b + k) % 2 ^ 24) = psnBehind a b

/-! ### Domains, extents and composition (chapter 12) -/

/-- R421 and R428, a commit of PF0's staged changes: with a change that may not stand it is refused whole and COMP_ERR names the change; else
the map as changed is live under the next epoch, the old one stays live until nothing is in flight under it, and nothing is staged. R421,
a commit that is refused leaves the live map, the epoch and the staged changes as they were, for every function. -/
def Obligations.CommitsApply : Prop :=
  (∀ (s : State) (t : Nat) (d : Dev), s.dev.at t = d → d.pcieUp = true → d.ten.old.isSome = true →
    Settles (.compCommit t) s (d.bump Reg.COMMIT_REFUSED)) ∧
  (∀ (s : State) (t ix cause : Nat) (d : Dev), s.dev.at t = d → d.pcieUp = true → d.ten.old = none →
    (Tab.get [] d.ten.staged 0).findSome? (d.changeCause (d.nextBank 0)) = some (ix, cause) →
    Settles (.compCommit t) s
      ((((d.set Reg.COMP_ERR_INDEX ix).set Reg.COMP_ERR_CAUSE cause).set Reg.COMP_ERR_VALID 1).bump Reg.COMMIT_REFUSED)) ∧
  (∀ (s : State) (t : Nat) (d : Dev), s.dev.at t = d → d.pcieUp = true → d.ten.old = none →
    ∀ b, b = (Tab.get [] d.ten.staged 0).foldl Bank.apply d.ten.live →
    (Tab.get [] d.ten.staged 0).findSome? (d.changeCause b) = none →
    ∀ e : Dev, e = { d with ten := { d.ten with old := some d.ten.live, live := b, oldAt := d.time } } →
    ∀ f, f = (((e.set Reg.COMP_STAT_LIVE_EPOCH ((e.epoch + 1) % 65536)).set Reg.COMP_STAT_OLD_LIVE 1).set Reg.COMP_ERR_VALID 0) →
    ∀ g, g = (((f.unstage 0).showFlight 65536).each (touchedBy (Tab.get [] d.ten.staged 0)) (fun x i => x.entryChanged d.ten.live b i)).modeRecalls
      d.ten.live →
    ∀ h, h = g.set Reg.DIR_STAT_MODE_CHANGE_BUSY (if g.recalling 1 none then 1 else 0) →
    Settles (.compCommit t) s (((h.trace 2 0xF h.epoch).retireEpoch 0).reissueParked)) ∧
  (∀ (d : Dev) (fn : Nat), (d.commit fn).2 = false →
    (d.commit fn).1.ten = d.ten ∧ (d.commit fn).1.home = d.home ∧ (d.commit fn).1.sw = d.sw ∧ (d.commit fn).1.ras = d.ras ∧
    (d.commit fn).1.dmem = d.dmem)

/-- R428, R430 and R444, staging by PF0's registers: RT_GO.WRITE stages RT_DATA at entry INDEX, RT_GO.READ reads the live entry, DISCARD
drops what is staged; at the transition limit every request of the old epoch completes with STALE-EPOCH and the epoch retires. -/
def Obligations.StagingRegisters : Prop :=
  (∀ (s : State) (t : Nat) (d : Dev), s.dev.at t = d → d.pcieUp = true → d.get Reg.RT_SEL_INDEX < d.get Reg.RT_CAP_TOTAL →
    ∀ e : RtEntry, e = ⟨d.reg (Reg.RT_DATA 0), d.reg (Reg.RT_DATA 1), d.reg (Reg.RT_DATA 2), d.reg (Reg.RT_DATA 3)⟩ →
    Settles (.rtGoWrite t) s
      (({ d with ten := { d.ten with staged := Tab.ins d.ten.staged 0 (Tab.get [] d.ten.staged 0 ++
        [.entry (d.get Reg.RT_SEL_INDEX) e]) } } : Dev).set Reg.COMP_STAT_STAGED 1)) ∧
  (∀ (s : State) (t : Nat) (e : RtEntry) (d : Dev), s.dev.at t = d → d.pcieUp = true →
    Tab.find? d.ten.live.rt (d.get Reg.RT_SEL_INDEX) = some e →
    Settles (.rtGoRead t) s
      ((((d.setReg (Reg.RT_DATA 0) e.w0).setReg (Reg.RT_DATA 1) e.w1).setReg (Reg.RT_DATA 2) e.w2).setReg (Reg.RT_DATA 3) e.w3)) ∧
  (∀ (s : State) (t : Nat) (d : Dev), s.dev.at t = d → d.pcieUp = true →
    Settles (.compDiscard t) s
      (({ d with ten := { d.ten with staged := Tab.del d.ten.staged 0 } } : Dev).set Reg.COMP_STAT_STAGED 0)) ∧
  (∀ (s : State) (t : Nat) (d : Dev), s.dev.at t = d → d.ten.old.isSome = true →
    d.ten.oldAt + max 10 (d.get Reg.COMP_CTL_TRANS_LIMIT_US) * 1000 ≤ d.time →
    Settles (.transitionLimit t) s
      ((d.each (d.ten.flight.filter d.oldFlight) (fun d f => d.staleOne f)).retireEpoch 1))

/-- R425, R426, R432, R436 and R437, an extent's way: ASSIGN gives a FREE extent its owner; REVOKE fences it, ends its parked requests and
recalls its copies; drained it enters QUENCHING with every trace of it removed; its lines are zero-filled one by one; filled it is FREE.
A command that does not fit the extent's state is refused and counted. -/
def Obligations.ExtentsMove : Prop :=
  (∀ (s : State) (e : Ext) (dom : Dom) (t : Nat) (d : Dev), s.dev.at t = d → d.pcieUp = true → e.val ∈ d.ten.exts →
    (d.extState e.val = 0 ∨ e.val ∈ d.ras.lostExts) →
    ∀ f : Dev, f = { d with ras := { d.ras with lostExts := d.ras.lostExts.filter (fun x => x != e.val) } } →
    Settles (.extAssign e dom t) s
      (((f.set (Reg.EXT_STATE_STATE e.val) 1).trace 6 0xF (e.val + 65536)).set (Reg.EXT_STATE_OWNER e.val) dom.val)) ∧
  (∀ (s : State) (e : Ext) (dom : Dom) (t : Nat) (d : Dev), s.dev.at t = d → d.pcieUp = true → d.extState e.val ≠ 0 →
    e.val ∉ d.ras.lostExts →
    Settles (.extAssign e dom t) s (d.bump Reg.EXT_CMD_REFUSED)) ∧
  (∀ (s : State) (e : Ext) (erase : Bool) (t : Nat) (d : Dev), s.dev.at t = d → d.pcieUp = true → e.val ∈ d.ten.exts →
    d.extState e.val = 1 → e.val ∉ d.ras.lostExts →
    ∀ owner, owner = d.get (Reg.EXT_STATE_OWNER e.val) →
    ∀ gens, gens = d.get (Reg.KEYGEN_CUR_GEN owner) ::
      (if d.flag (Reg.KEYGEN_PREV_LIVE owner) then [d.get (Reg.KEYGEN_PREV_GEN owner)] else []) →
    ∀ f, f = (d.setExtState e.val 2).set (Reg.EXT_STATE_ERASE e.val) (if erase then 1 else 0) →
    ∀ g, g = ((({ f with ten := { f.ten with scrubs := f.ten.scrubs ++
      [⟨e.val, false, 0, 0, [], d.fillRanges e.val, if erase then gens else [], owner, (d.store.spans.filter (d.spanIn e.val)).map Prod.fst⟩] } } : Dev).revokeParked e.val).sweepSkips e.val) →
    Settles (.extRevoke e erase t) s
      (g.recallPages (g.get (Reg.EXT_BASE_PPA_PAGE e.val)) (g.extPages e.val) 5 e.val)) ∧
  (∀ (s : State) (e : Ext) (t : Nat) (x : Scrub) (d f : Dev), s.dev.at t = d → d.scrubOf e.val = some x → d.extState e.val = 2 →
    (∀ y ∈ d.ten.flight, y.ext ≠ e.val) → d.recalling 5 (some e.val) = false → d.linesHeld e.val = [] →
    f = ((d.setExtState e.val 3).post [0, x.owner] 0x31 [e.val]).removeTraces e.val → f.flag (Reg.EXT_STATE_ERASE e.val) = false →
    Settles (.extentDrainDone e t) s ((f.scrubReady e.val).showQuench)) ∧
  (∀ (s : State) (e : Ext) (t p ppa : Nat) (x : Scrub) (d f : Dev), s.dev.at t = d → d.scrubOf e.val = some x → e.val ∈ d.filling →
    d.fillsKept e.val x = [] → x.next < d.extPages e.val * 32768 →
    ppa = d.get (Reg.EXT_BASE_PPA_PAGE e.val) * 0x20_0000 + x.next * 64 → d.fillPorts x ppa = [p] →
    d.fenced p = false → d.linkState p = 4 → d.get (Reg.QSHAPE_CFG_RATE_MBPS p) ≠ 0 → f = d.onScrub e.val (fun y => { y with next := y.next + 1 }) →
    f.markFill ppa [p] [p] = f ∧
    Settles (.quenchZeroFill e t) s
      (((f.onScrub e.val (fun y => { y with out := y.out ++ [(ppa / 64, p, 0)] })).toTray p (ppa / 64) (.fill e.val)
        (zeroWrite ppa (d.get Reg.BELLOWS_CTL_QUENCH_TC))).showQuench.endFill e.val)) ∧
  (∀ (d : Dev) (e : Nat) (x : Scrub), d.scrubOf e = some x → x.ready = true → d.extPages e * 32768 ≤ x.next → x.out = [] →
    ∀ ten, ten = { d.ten with scrubs := d.ten.scrubs.filter (fun y => y.ext != e), unowned := d.ten.unowned.filter (fun y => y != e) } →
    d.endFill e = ((((({ d with ten := ten } : Dev).setExtState e 0).set (Reg.EXT_STATE_OWNER e) 0).set (Reg.EXT_STATE_ERASE e) 0).post [0, x.owner] 0x32 [e, x.failed]).showQuench)

/-- R440, a claim of an ownership lease wins over no entry, over a held one of a lower epoch or the same epoch and no lower pool number, and
over a released one of no higher epoch; R440, a held lease whose time is up is held no longer and counts. R424, a write of a window register:
what stands there already changes nothing; a new value is ignored and counted while a descriptor runs for the owner of a window that is or
becomes nonempty there, or when its window meets one of another domain; any other new value is stored. -/
def Obligations.LeasesAndWindows : Prop :=
  (∀ (epoch pool : Nat), claimWins none epoch pool = true) ∧
  (∀ (x : Lease) (epoch pool : Nat), claimWins (some x) epoch pool =
    if x.held then decide (x.epoch < epoch ∨ (x.epoch = epoch ∧ pool ≤ x.pool)) else decide (x.epoch ≤ epoch)) ∧
  (∀ (s : State) (i : Fin 16384) (t : Nat) (l : Lease) (d : Dev), s.dev.at t = d → Tab.find? d.ten.leases i.val = some l → l.held = true →
    l.lost = false → l.until_ ≤ d.time →
    Settles (.leaseExpiry i t) s
      (({ d with ten := { d.ten with leases := Tab.ins d.ten.leases i.val { l with held := false, expired := true } } } : Dev).bump
        Reg.LEASES_EXPIRED)) ∧
  (∀ (s : State) (w : Fin 8192) (v : Word) (t : Nat) (d : Dev), s.dev.at t = d → d.pcieUp = true →
    v.toNat % 2 ^ 47 = d.reg (Reg.WIN w.val) → Settles (.winWrite w v t) s d) ∧
  (∀ (s : State) (w : Fin 8192) (v : Word) (t : Nat) (d : Dev) (new old : Nat) (stopped : Prop), s.dev.at t = d → d.pcieUp = true →
    new = v.toNat % 2 ^ 47 → old = d.reg (Reg.WIN w.val) → new ≠ old →
    stopped = ((∃ x ∈ [old, new], fieldOf x 17 17 ≠ 0 ∧ ∃ h ∈ d.heats.list, h.fn = fieldOf x 34 12) ∨
      (fieldOf new 17 17 ≠ 0 ∧ ∃ r ∈ d.regs, 0x114_0000 ≤ r.1 ∧ r.1 < 0x114_0000 + 8 * 8192 ∧ r.1 ≠ (Reg.WIN w.val).addr ∧
        fieldOf r.2 34 12 ≠ fieldOf new 34 12 ∧ fieldOf r.2 17 17 ≠ 0 ∧
        fieldOf r.2 0 17 < fieldOf new 0 17 + fieldOf new 17 17 ∧ fieldOf new 0 17 < fieldOf r.2 0 17 + fieldOf r.2 17 17)) →
    (stopped → Settles (.winWrite w v t) s (d.bump Reg.WIN_REFUSED)) ∧
    (¬ stopped → Settles (.winWrite w v t) s (d.setReg (Reg.WIN w.val) new)))

/-! ### Faults, fencing, partitions and mirrors (chapter 13) -/

/-- R463, R464, R465 and R467, ports declared dead and admitted: a port of the declaration is FENCED under the next epoch with its cause,
announced, and its traffic settled; an ACTIVE port without a heartbeat for its limit is declared; ADMIT moves the epoch on and sends MGT
ADMIT; a partition's fence declares each of its ports and posts; its release ends the electrical hold. -/
def Obligations.PortsFenced : Prop :=
  (∀ (s : State) (p : Port) (t : Nat) (d : Dev), s.dev.at t = d → d.pcieUp = true → d.isGlois p.val = true → d.fenced p.val = false →
    Settles (.fenceCtlFence p t) s (((d.set (Reg.PORT_FENCE_FENCED p.val) 1).announceDead p.val 3).settleFence p.val)) ∧
  (∀ (d : Dev) (p cause epoch : Nat), epoch = (d.get (Reg.PORT_FENCE_FENCE_EPOCH p) + 1) % 65536 →
    ∀ e, e = (d.set (Reg.PORT_FENCE_FENCE_EPOCH p) epoch).set (Reg.PORT_FENCE_CAUSE p) cause →
    d.announceDead p cause = ((((e.bump Reg.PORTS_DEAD).set Reg.RAS_STAT_LAST_DEAD p).post (e.portFns p) 0x23 [p, cause, epoch]).trace 4 0xF
      (p + epoch * 65536)).sendFence p) ∧
  (∀ (s : State) (p : Port) (t : Nat) (d : Dev), s.dev.at t = d → d.isGlois p.val = true → d.fenced p.val = false → d.linkState p.val = 4 →
    (d.link p.val).hbSeen + max 1 (d.get Reg.RAS_CTL_HB_TIMEOUT_US) * 1000 ≤ d.time →
    Settles (.heartbeatTimeout p t) s
      ((((d.set (Reg.PORT_FENCE_FENCED p.val) 1).announceDead p.val 1).settleFence p.val).onLink p.val (fun l => { l with hbLate := true }))) ∧
  (∀ (s : State) (p : Port) (t epoch : Nat) (d f g : Dev), s.dev.at t = d → d.pcieUp = true → d.isGlois p.val = true → d.fenced p.val = true →
    epoch = (d.get (Reg.PORT_FENCE_FENCE_EPOCH p.val) + 1) % 65536 →
    g = (d.set (Reg.PORT_FENCE_FENCE_EPOCH p.val) epoch).set (Reg.PORT_FENCE_ADMIT_PENDING p.val) 1 →
    f = g.onLink p.val (fun l => { l with hbSeen := g.time }) → f.linkState p.val = 4 →
    Settles (.fenceCtlAdmit p t) s (f.sendMsg .core p.val (mgtMsg 3 epoch) 0)) ∧
  (∀ (s : State) (k : Fin 16) (t : Nat) (d : Dev), s.dev.at t = d → d.pcieUp = true → k.val ≠ 0 →
    ∀ e, e = d.each (d.partPorts k.val) (fun d p => d.declareDead p 4) →
    Settles (.partCtlFence k false t) s (e.post (0 :: e.partDoms k.val) 0x29 [k.val, 0])) ∧
  (∀ (s : State) (k : Fin 16) (t : Nat) (d : Dev), s.dev.at t = d → d.pcieUp = true → k.val ≠ 0 →
    Settles (.partCtlRelease k t) s (d.each (d.partPorts k.val) (fun d p => d.onLink p (fun l => { l with electrical := false }))))

/-- R454, R460 and R462: MIRROR_MARK puts a mirrored region into DEGRADED with every page marked and its resync under way, and does nothing to
an entry that is not one; the next line to copy of a resync goes to its home as an internal request; a drained bank with no cell left gives
way to a spare of its die, with the events of a swap, or is retired when none is free. -/
def Obligations.MirrorsAndBanks : Prop :=
  (∀ (s : State) (index : Nat) (survivor : Fin 2) (t : Nat) (e : RtEntry) (d : Dev), s.dev.at t = d → d.pcieUp = true →
    Tab.find? d.ten.live.rt index = some e → e.kind = 1 → e.mirror = true →
    ∀ back, back = (if survivor.val = 0 then d.ten.live.mirrorPort e (e.ppaPage * 0x20_0000)
      else d.ten.live.primary e (e.ppaPage * 0x20_0000)).getD 512 →
    Settles (.mirrorMark index survivor t) s
      (({ d with ras := { d.ras with degraded := d.ras.degraded.filter (fun (x : Degraded) => x.index != index) ++
        [⟨index, survivor.val, back, rangeFrom e.ppaPage e.pages, [], [], true, true, 0⟩] } } : Dev).showRas)) ∧
  (∀ (s : State) (index : Nat) (survivor : Fin 2) (t : Nat) (d : Dev), s.dev.at t = d → d.pcieUp = true →
    (∀ e, Tab.find? d.ten.live.rt index = some e → e.kind ≠ 1 ∨ e.mirror = false) → Settles (.mirrorMark index survivor t) s d) ∧
  (∀ (s : State) (index t k page : Nat) (rest : List Nat) (g : Degraded) (e : RtEntry) (d : Dev), s.dev.at t = d →
    d.ras.degraded.find? (fun x => x.index == index && x.resync) = some g → d.degradedOf g.key = some g →
    Tab.find? d.ten.live.rt (g.key / 1024) = some e → d.rasUp = true → g.marks = page :: rest →
    ((rangeFrom (page * 32768) 32768).filter (d.needsCopy g e)).find? (fun k => !(decide (k ∈ g.out)) && !d.fenced ((d.copyTarget g e k).getD 0)) =
      some k →
    ∀ f, f = d.onDegradedAt g.key (fun g => { g with out := g.out ++ [k] }) →
    Settles (.resyncCopy index t) s
      (f.askHome (resyncReq g k ((d.copyTarget g e k).getD 0) d.epoch (d.get Reg.BELLOWS_CTL_QUENCH_TC)))) ∧
  (∀ (s : State) (b : Fin 128) (t : Nat) (d : Dev), s.dev.at t = d → b.val ∈ d.sw.draining → (∀ c ∈ d.sw.cells, c.number / 8192 ≠ b.val) →
    d.get (if b.val < 64 then Reg.HEARTH_STAT_BANK_SPARES_A else Reg.HEARTH_STAT_BANK_SPARES_B) = 0 →
    Settles (.bankDrainDone b t) s
      (({ d with sw := { d.sw with draining := d.sw.draining.filter (fun x => x != b.val), retired := d.sw.retired ++ [b.val] } } : Dev).showCells
        .core (b.val / 64))) ∧
  (∀ (s : State) (b : Fin 128) (t free : Nat) (f : Fld) (d e g : Dev), s.dev.at t = d → b.val ∈ d.sw.draining →
    (∀ c ∈ d.sw.cells, c.number / 8192 ≠ b.val) → f = (if b.val < 64 then Reg.HEARTH_STAT_BANK_SPARES_A else Reg.HEARTH_STAT_BANK_SPARES_B) →
    free = d.get f → free ≠ 0 → e = { d with sw := { d.sw with draining := d.sw.draining.filter (fun x => x != b.val) } } →
    g = (e.set f (free - 1)).logSwap 2 b.val (b.val / 64 * 4 + (4 - free)) →
    Settles (.bankDrainDone b t) s ((if free = 1 then g.sparesGone 2 (b.val / 64) else g).showCells .core (b.val / 64)))

/-! ### The command rings (chapter 14) -/

/-- R485, R487, R491 and R502, when a ring command takes effect: while its function's core is down nothing happens, and no command without
a free completion slot leaves its ring; one that must wait for an earlier command of its ring is only taken; an undefined FLAGS bit completes
it with ERR 2; else its own effect takes place. R486 and R492: the completion goes into the slot the ring writes next, and gives back the
slot reserved; while the core is down its journal holds it (R502). -/
def Obligations.RingCommandsStart : Prop :=
  (∀ (d : Dev) (c : RingCmd) (op : Nat) (f : Dev → Dev), d.coreUp (fabricCore c.fn.val) = false → d.ringOp c op f = d) ∧
  (∀ (d : Dev) (c : RingCmd) (op : Nat) (f : Dev → Dev), d.startedOf c = none → d.slotFree c.fn.val c.ring.val = false → d.ringOp c op f = d) ∧
  (∀ (d : Dev) (c : RingCmd) (op : Nat) (f : Dev → Dev), d.coreUp (fabricCore c.fn.val) = true → d.startedOf c = none →
    d.slotFree c.fn.val c.ring.val = true → (d.takeCmd c op).mustWait c op = true → d.ringOp c op f = d.takeCmd c op) ∧
  (∀ (d : Dev) (c : RingCmd) (op : Nat) (f : Dev → Dev), d.coreUp (fabricCore c.fn.val) = true → d.startedOf c = none →
    d.slotFree c.fn.val c.ring.val = true → (d.takeCmd c op).mustWait c op = false → 2 ≤ c.flags.toNat →
    d.ringOp c op f = (d.takeCmd c op).completeErr c 2) ∧
  (∀ (d e : Dev) (c : RingCmd) (op : Nat) (f : Dev → Dev), d.Starts c op e → d.ringOp c op f = f e) ∧
  (∀ (d e : Dev) (c : RingCmd) (x : Started) (r : Ring) (status err index : Nat) (result : List Byte), d.startedOf c = some x →
    d.endWaits x = false → e = { d with host := { d.host with started := dropFirst (fun y => decide (y = x)) d.host.started } } →
    r = e.ring c.fn.val 1 c.ring.val → r.en = true → r.gen = x.gen →
    ∀ f, f = (e.setRing c.fn.val 1 c.ring.val { r with res := r.res - 1 }).putEntry c.fn.val 1 c.ring.val
      (completionEntry c x.op r.phase status err index ((d.time - x.at_) / 1000) result) →
    d.complete c status err index result = if x.op = 1 then f else f.fwRecords (fabricCore c.fn.val)) ∧
  (∀ (d : Dev) (c : RingCmd) (x : Started) (status err index : Nat) (result : List Byte), d.startedOf c = some x → x.op ≠ 1 →
    d.coreUp (fabricCore c.fn.val) = false → x.ended = none →
    ∀ held, held = mapFirst (fun y => decide (y = x)) (fun y => { y with
      begun := true, ended := some (y.ended.getD ⟨status, err, index, result⟩) }) d.host.started →
    d.complete c status err index result = { d with host := { d.host with started := held } })

/-- R491, the commands of composition that PF0 and every VF may send: NOP completes; RT_STAGE and POOL_SET stage a change of the function's
own; DISCARD drops what is staged; COMMIT waits for the old epoch, and then commits with OK and the new epoch, or is refused with ERR 5;
claims and releases of a lease answer as R440 has it. -/
def Obligations.CompositionCommands : Prop :=
  (∀ (s : State) (c : RingCmd) (t : Nat) (d e : Dev), s.dev.at t = d → d.Starts c 0 e → Settles (.nop c t) s (e.completeOk c [])) ∧
  (∀ (s : State) (c : RingCmd) (t : Nat) (d e : Dev), s.dev.at t = d → d.Starts c 2 e → c.fn.val = 0 → c.arg 8 4 < e.get Reg.RT_CAP_TOTAL →
    Settles (.rtStage c t) s
      ((e.stage 0 (.entry (c.arg 8 4) ⟨c.arg 16 8, c.arg 24 8, c.arg 32 8, c.arg 40 8⟩)).completeOk c [])) ∧
  (∀ (s : State) (c : RingCmd) (t : Nat) (x : RtEntry) (d e : Dev), s.dev.at t = d → d.Starts c 2 e → c.fn.val ≠ 0 →
    c.arg 8 4 < e.get Reg.RT_CAP_TOTAL → Tab.find? e.ten.live.rt (c.arg 8 4) = some x → x.kind ≠ 0 → x.dom ≠ c.fn.val →
    Settles (.rtStage c t) s (e.completeErr c 1)) ∧
  (∀ (s : State) (c : RingCmd) (t : Nat) (d e : Dev), s.dev.at t = d → d.Starts c 3 e → e.ten.old.isSome = true →
    Settles (.commit c t) s (e.beginCmd c)) ∧
  (∀ (s : State) (c : RingCmd) (t : Nat) (d e : Dev), s.dev.at t = d → d.Starts c 3 e → e.ten.old = none →
    ∀ r, r = e.commit c.fn.val →
    Settles (.commit c t) s (if r.2 then r.1.completeOk c (natBytes 2 r.1.epoch) else r.1.completeErr c 5)) ∧
  (∀ (s : State) (c : RingCmd) (t : Nat) (d e : Dev), s.dev.at t = d → d.Starts c 4 e →
    Settles (.discard c t) s ((e.unstage c.fn.val).completeOk c [])) ∧
  (∀ (s : State) (c : RingCmd) (t : Nat) (d e : Dev), s.dev.at t = d → d.Starts c 5 e → c.fn.val = 0 → c.arg 9 1 < 8 → c.arg 24 2 < 4096 →
    c.arg 26 1 < 2 →
    Settles (.poolSet c t) s
      (((e.stage 0 (.pool (c.arg 8 1 * 8 + c.arg 9 1) (c.arg 16 8))).stage 0 (.poolDom (c.arg 8 1) (c.arg 24 2 + c.arg 26 1 * 4096))).completeOk
        c [])) ∧
  (∀ (s : State) (c : RingCmd) (t : Nat) (d e : Dev), s.dev.at t = d → d.Starts c 6 e →
    ∀ r, r = e.claim c.fn.val (c.args.take 32) →
    Settles (.leaseClaim c t) s (r.1.complete c r.2.1 r.2.2.1 0 (natBytes 4 r.2.2.2))) ∧
  (∀ (s : State) (c : RingCmd) (t : Nat) (d e : Dev), s.dev.at t = d → d.Starts c 7 e →
    ∀ r, r = e.release c.fn.val (c.arg 8 8) (c.arg 16 4) (c.arg 20 1) →
    Settles (.leaseRelease c t) s (r.1.complete c r.2.1 r.2.2 0 []))

/-- R491, the commands that PF0 alone may send: EXTENT, WINDOW and HOST_BACKING do what their registers do, FENCE declares a port dead and
gives its epoch, CORE_RESTART starts the restart that will complete it; from a VF each is refused with ERR 1. ADMIT of a FENCED port admits
it; of a port that is not FENCED it is refused (ERR 3: the model's choice, assumption log 92). -/
def Obligations.AdministratorCommands : Prop :=
  (∀ (s : State) (c : RingCmd) (t : Nat) (d e : Dev), s.dev.at t = d → d.Starts c 21 e → c.fn.val = 0 →
    (fieldOf (c.arg 8 8) 16 2 = 1 ∨ fieldOf (c.arg 8 8) 16 2 = 2) →
    ∀ r, r = e.extCmd (c.arg 8 8) →
    Settles (.extent c t) s (if r.2 then r.1.completeOk c [] else r.1.completeErr c 3)) ∧
  (∀ (s : State) (c : RingCmd) (t : Nat) (d e : Dev), s.dev.at t = d → d.Starts c 22 e → c.fn.val = 0 → c.arg 8 2 < 8192 →
    c.arg 16 8 < 2 ^ 47 →
    ∀ r, r = e.winWrite (c.arg 8 2) (c.arg 16 8) →
    Settles (.window c t) s (if r.2 then r.1.completeOk c [] else r.1.completeErr c 3)) ∧
  (∀ (s : State) (c : RingCmd) (t : Nat) (d e : Dev), s.dev.at t = d → d.Starts c 23 e → c.fn.val = 0 → taSpace (c.arg 8 8) = 3 →
    taFormed (c.arg 8 8) = true → taAddr (c.arg 8 8) + c.arg 16 8 ≤ 2 ^ 57 →
    Settles (.hostBacking c t) s
      (({ e with host := { e.host with backing := some (taAddr (c.arg 8 8), c.arg 16 8) } } : Dev).completeOk c [])) ∧
  (∀ (s : State) (c : RingCmd) (t : Nat) (d e f : Dev), s.dev.at t = d → d.Starts c 20 e → c.fn.val = 0 → c.arg 8 2 < 512 →
    e.isGlois (c.arg 8 2) = true → f = e.declareDead (c.arg 8 2) 3 →
    Settles (.fence c t) s (f.completeOk c (natBytes 2 (f.get (Reg.PORT_FENCE_FENCE_EPOCH (c.arg 8 2)))))) ∧
  (∀ (s : State) (c : RingCmd) (t : Nat) (d e : Dev), s.dev.at t = d → d.Starts c 25 e → c.fn.val = 0 → c.arg 8 1 < 16 →
    Settles (.coreRestart c t) s ((e.beginCmd c).startRestart (c.arg 8 1) 3 (some c))) ∧
  (∀ (s : State) (c : RingCmd) (t : Nat) (d e : Dev), s.dev.at t = d → d.Starts c 19 e → c.fn.val = 0 → c.arg 8 2 < 512 →
    e.isGlois (c.arg 8 2) = true →
    Settles (.admitCmd c t) s (if e.fenced (c.arg 8 2) then (e.admitPort (c.arg 8 2)).completeOk c [] else e.completeErr c 3)) ∧
  (∀ (s : State) (c : RingCmd) (t op : Nat) (i : Instr) (d e : Dev), s.dev.at t = d → d.Starts c op e → c.fn.val ≠ 0 →
    (i, op) ∈ [(Instr.fence c t, 20), (.extent c t, 21), (.window c t, 22), (.hostBacking c t, 23), (.coreRestart c t, 25)] →
    Settles i s (e.completeErr c 1))

/-- R390, R391, R399, R404 and R406, the commands of GRT: a registration is created VALID at the lowest free handle, and revoked under the
next epoch; a context is allocated at the lowest number, created READY from its record, modified without touching its PSNs, and destroyed by
draining. -/
def Obligations.GrtCommandsRun : Prop :=
  (∀ (s : State) (c : RingCmd) (t base h : Nat) (d e f : Dev), s.dev.at t = d → d.Starts c 8 e → dpaArg (c.arg 8 8) = some base →
    c.arg 16 8 ≠ 0 → base + c.arg 16 8 ≤ 2 ^ 52 → c.arg 24 1 ≠ 0 → c.arg 24 1 < 4 →
    h = freshNumber (e.grt.regs.map Prod.fst) 0 ((e.grt.regs.map Prod.fst).length + 1) → h < 65536 →
    f = ((({ e with grt := { e.grt with regs := Tab.ins e.grt.regs h ⟨base, c.arg 16 8, 0, 0, false⟩ } } : Dev).set (Reg.GRT_REG_STATE h) 1).set
      (Reg.GRT_REG_DOMAIN h) c.fn.val).set (Reg.GRT_REG_ACCESS h) (c.arg 24 1) →
    Settles (.regCreate c t) s ((f.set (Reg.GRT_REG_INFLIGHT h) 0).completeOk c (natBytes 2 h ++ natBytes 2 (f.get (Reg.GRT_REG_REG_EPOCH h))))) ∧
  (∀ (s : State) (c : RingCmd) (t ep : Nat) (d e : Dev), s.dev.at t = d → d.Starts c 9 e → c.fn.val = 0 →
    e.get (Reg.GRT_REG_STATE (c.arg 8 2)) = 1 → ep = (e.get (Reg.GRT_REG_REG_EPOCH (c.arg 8 2)) + 1) % 65536 →
    Settles (.regRevoke c t) s
      ((((e.set (Reg.GRT_REG_REG_EPOCH (c.arg 8 2)) ep).set (Reg.GRT_REG_STATE (c.arg 8 2)) 2).completeOk c (natBytes 2 ep)).regFreed (c.arg 8 2))) ∧
  (∀ (s : State) (c : RingCmd) (t k : Nat) (used : List Nat) (d e : Dev), s.dev.at t = d → d.Starts c 10 e → c.arg 8 2 < 4096 → c.fn.val = 0 →
    used = e.grt.ctxs.map Prod.fst ++ e.grt.reserved.map Prod.fst → k = freshNumber used 0 (used.length + 1) → k < e.get Reg.GRT_CAP_CTX_MAX →
    Settles (.ctxAlloc c t) s
      (({ e with grt := { e.grt with reserved := Tab.ins e.grt.reserved k (c.arg 8 2) } } : Dev).completeOk c (natBytes 4 k))) ∧
  (∀ (s : State) (c : RingCmd) (t : Nat) (r : List Byte) (x : GCtx) (d e : Dev), s.dev.at t = d → d.Starts c 11 e →
    e.typedOk c.fn.val [] (c.arg 16 8) 128 false = true → taSpace (c.arg 16 8) = 1 → e.upset = [] → r = e.readMem (taAddr (c.arg 16 8)) 128 →
    (e.startedOf c).isSome = true → e.ctxRefused c.fn.val r = 0 → c.arg 8 4 < e.get Reg.GRT_CAP_CTX_MAX →
    (∀ dom ∈ Tab.find? e.grt.reserved (c.arg 8 4), dom = fieldBytes r 0 2) → e.gctx (c.arg 8 4) = none → x = GCtx.fresh r e.time →
    Settles (.ctxCreate c t) s
      ((({ e with grt := { e.grt with ctxs := Tab.ins e.grt.ctxs (c.arg 8 4) x, reserved := Tab.del e.grt.reserved (c.arg 8 4) } } : Dev).ctxStore
        (c.arg 8 4) x).completeOk c [])) ∧
  (∀ (s : State) (c : RingCmd) (t : Nat) (r : List Byte) (x y : GCtx) (d e : Dev), s.dev.at t = d → d.Starts c 12 e →
    e.typedOk c.fn.val [] (c.arg 16 8) 128 false = true → taSpace (c.arg 16 8) = 1 → e.upset = [] → r = e.readMem (taAddr (c.arg 16 8)) 128 →
    (e.startedOf c).isSome = true → e.ctxRefused c.fn.val r = 0 → e.gctx (c.arg 8 4) = some x → c.fn.val = 0 → x.state = 1 →
    y = { x with rec_ := r.take 36 ++ (x.rec_.drop 36).take 8 ++ r.drop 44 } →
    ∀ g, g = e.giveFetch (c.arg 8 4) →
    ∀ room, room = (if x.cached && g.portDie x.uplink != g.portDie y.uplink then g.ctxRoom (g.portDie y.uplink) else (g, true)) →
    ∀ stay, stay = (x.cached && room.2) →
    ∀ f, f = room.1.onCtx (c.arg 8 4) (fun _ => { y with cached := stay, fetching := none }) →
    Settles (.ctxModify c t) s (((if stay then f else f.ctxStore (c.arg 8 4) y).completeOk c []).showGrt)) ∧
  (∀ (s : State) (c : RingCmd) (t : Nat) (x : GCtx) (d e f : Dev), s.dev.at t = d → d.Starts c 13 e → e.gctx (c.arg 8 4) = some x → c.fn.val = 0 →
    x.state ≠ 2 → f = e.beginCmd c →
    ∀ g, g = ((f.onCtx (c.arg 8 4) (fun x => { x with drain := some f.time, cmd := some c, queue := [] })).ctxState (c.arg 8 4) 2).dropParked
      (c.arg 8 4) →
    Settles (.ctxDestroy c t) s (if x.quiet then g.freeCtx (c.arg 8 4) else g))

/-- R157, R354, R358 and R536 to R538, the commands over memory: SHADOW_ADD records a well-formed span of SHADOWED regions and SHADOW_DEL
removes it with its shadows; WPUSH begins its push; REVERT reverts every page the function's LOCAL entries map, and completes when no line is still to be reverted; KEY_LOAD hands over the
record that its address names, and from a VF for another domain it is refused with ERR 1. -/
def Obligations.StoreCommands : Prop :=
  (∀ (s : State) (c : RingCmd) (t key : Nat) (r : List Byte) (d e : Dev), s.dev.at t = d → d.Starts c 14 e →
    e.typedOk c.fn.val [] (c.arg 8 8) 32 false = true → taSpace (c.arg 8 8) = 1 → e.upset = [] → r = e.readMem (taAddr (c.arg 8 8)) 32 →
    (e.startedOf c).isSome = true → spanOk r = true →
    e.shadowedAll c.fn.val (e.ten.live.rt.length + 1) (fieldBytes r 0 8) (fieldBytes r 0 8 + fieldBytes r 8 8) = true →
    e.spanAt c.fn.val (fieldBytes r 0 8) = none → e.store.spans.length < 65536 →
    key = freshNumber (e.store.spans.map Prod.fst) 0 (e.store.spans.length + 1) →
    Settles (.shadowAdd c t) s
      (({ e with store := { e.store with spans := Tab.ins e.store.spans key ⟨c.fn.val, fieldBytes r 0 8, fieldBytes r 8 8, fieldBytes r 16 1,
        fieldBytes r 17 1, fieldBytes r 18 2, fieldBytes r 20 1, fieldBytes r 21 1⟩ } } : Dev).completeOk c [])) ∧
  (∀ (s : State) (c : RingCmd) (t : Nat) (base : Nat) (x : Nat × Span) (d e : Dev), s.dev.at t = d → d.Starts c 15 e →
    dpaArg (c.arg 8 8) = some base → e.spanAt c.fn.val base = some x →
    Settles (.shadowDel c t) s ((e.removeSpan x).completeOk c [])) ∧
  (∀ (s : State) (c : RingCmd) (t : Nat) (d e : Dev), s.dev.at t = d → d.Starts c 17 e → 8192 ≤ c.arg 32 2 → c.arg 32 2 < 16384 →
    taSpace (c.arg 8 8) = 1 → taFormed (c.arg 8 8) = true → c.arg 16 8 + c.arg 24 8 ≤ 2 ^ 52 → e.dmaNamed (taAddr (c.arg 8 8)) (c.arg 24 8) = true →
    c.fn.val = 0 → e.flag Reg.WPUSH_STAT_BUSY = false →
    Settles (.wpush c t) s ((e.beginCmd c).startPush (some c) (taAddr (c.arg 8 8)) (c.arg 16 8) (c.arg 24 8) (c.arg 32 2))) ∧
  (∀ (s : State) (c : RingCmd) (t a : Nat) (d e : Dev), s.dev.at t = d → d.Starts c 18 e → dpaArg (c.arg 8 8) = some a →
    ∀ mine, mine = e.ten.live.rt.filter (fun x => x.2.kind == 1 && x.2.dom == c.fn.val && meets x.2.dpaPage x.2.pages (pageOf a) (c.arg 16 4)) →
    ∀ f, f = e.each mine (fun d x => d.revert (x.2.ppaPage + (max (pageOf a) x.2.dpaPage - x.2.dpaPage))
      (min (pageOf a + c.arg 16 4) (x.2.dpaPage + x.2.pages) - max (pageOf a) x.2.dpaPage) (fun _ => true)) →
    Settles (.revert c t) s (if f.recalling 6 none then f.beginCmd c else f.completeOk c [])) ∧
  (∀ (s : State) (c : RingCmd) (t : Nat) (d e : Dev), s.dev.at t = d → d.Starts c 16 e → e.coreUp 0 = true → c.fn.val = 0 →
    e.keyLoadAllowed s.fuse = true → c.arg 16 2 < 4096 → e.typedOk c.fn.val [] (c.arg 8 8) 96 false = true → taSpace (c.arg 8 8) = 1 →
    e.upset = [] → Settles (.keyLoad c t) s (e.keyRecord s.fuse c (e.readMem (taAddr (c.arg 8 8)) 96))) ∧
  (∀ (s : State) (c : RingCmd) (t : Nat) (d e : Dev), s.dev.at t = d → d.Starts c 16 e → e.coreUp 0 = true → c.fn.val ≠ 0 →
    c.arg 16 2 ≠ c.fn.val → Settles (.keyLoad c t) s (e.completeErr c 1)) ∧
  (∀ (d : Dev) (z : Fuses) (c : RingCmd) (r : List Byte) (rotation : Bool), fieldBytes r 0 1 = 1 → fieldBytes r 1 1 < 2 →
    fieldBytes r 6 2 = 0 → fieldBytes r 80 16 = 0 → fieldBytes r 2 2 = c.arg 16 2 →
    rotation = (decide (fieldBytes r 1 1 = 0) && d.flag (Reg.KEYGEN_PREV_LIVE (c.arg 16 2)) &&
      decide (fieldBytes r 4 2 = nextGen (d.get (Reg.KEYGEN_CUR_GEN (c.arg 16 2))))) →
    d.keyRecord z c r = (kwUnwrap (z.kek (c.arg 16 2) (fieldBytes r 4 2)) ((r.drop 8).take 72)).elim
      (((d.post [c.arg 16 2, 0] 0x64 [c.arg 16 2, fieldBytes r 4 2]).bump Reg.KEY_REJECTS).completeErr c 2)
      (fun key => (d.applyKey (c.arg 16 2) (fieldBytes r 1 1) (fieldBytes r 4 2) key).elim
        (((if rotation then d.bump Reg.ROTATE_REFUSED else d).bump Reg.KEY_REJECTS).completeErr c 3)
        (fun f => ((f.bump Reg.KEY_LOADS).post [c.arg 16 2, 0] 0x63 [c.arg 16 2, fieldBytes r 1 1, fieldBytes r 4 2]).completeOk c
          (natBytes 2 (f.get (Reg.KEYGEN_CUR_GEN (c.arg 16 2))))))) ∧
  (∀ (s : State) (c : RingCmd) (t : Nat) (rep : List Byte) (d e : Dev), s.dev.at t = d → d.Starts c 24 e → e.coreUp 0 = true →
    e.get Reg.LC_STAT_STATE ≠ 4 → taSpace (c.arg 8 8) = 1 → e.typedOk c.fn.val [] (c.arg 8 8) 8640 true = true →
    rep = e.report8640 s.fuse c.fn.val ((c.args.drop 8).take 32) →
    Settles (.attest c t) s ((((e.writeMem (taAddr (c.arg 8 8)) rep).bump Reg.ATTESTS).fwRecords 0).completeOk c (natBytes 4 8640)))

/-! ### The host's side and firmware (chapter 14) -/

/-- R483 to R489 and R496, rings: a doorbell moves its ring's producer index on, and one that would pass the consumer index is an error of
its function; completion and event entries released free their slots; enabling a ring zeroes it and starts it afresh; COMMAND_FETCH takes
the next entry with its completion slot; after IRQ_US the oldest unsignalled entry's vector is signalled. -/
def Obligations.RingsTurn : Prop :=
  (∀ (s : State) (fn : Dom) (i : Fin 16) (pi : BitVec 16) (t : Nat) (r : Ring) (d : Dev), s.dev.at t = d → d.ring fn.val 0 i.val = r →
    r.en = true → (r.pi + r.size - r.ci) % r.size ≤ (pi.toNat % r.size + r.size - r.ci) % r.size → bitOf r.cfg0 25 = false →
    Settles (.cmdDb fn i pi t) s
      (d.setRing fn.val 0 i.val { r with pi := pi.toNat % r.size, avail := pi.toNat % r.size, held := !d.running })) ∧
  (∀ (s : State) (fn : Dom) (i : Fin 16) (pi : BitVec 16) (t : Nat) (r : Ring) (d : Dev), s.dev.at t = d → d.ring fn.val 0 i.val = r →
    (pi.toNat % r.size + r.size - r.ci) % r.size < (r.pi + r.size - r.ci) % r.size →
    Settles (.cmdDb fn i pi t) s ((d.set (Reg.FN_STAT_DB_ERR fn.val) 1).bump (Reg.DB_BAD fn.val))) ∧
  (∀ (s : State) (fn : Dom) (i : Fin 16) (ci : BitVec 16) (t step : Nat) (r : Ring) (d : Dev), s.dev.at t = d → d.pcieUp = true →
    d.ring fn.val 1 i.val = r → r.en = true → step = (ci.toNat % r.size + r.size - r.ci) % r.size → step ≠ 0 →
    Settles (.cplDb fn i ci t) s (d.setRing fn.val 1 i.val { r with ci := ci.toNat % r.size, used := r.used - step })) ∧
  (∀ (s : State) (fn : Dom) (ci : BitVec 16) (t step : Nat) (r : Ring) (d : Dev), s.dev.at t = d → d.pcieUp = true →
    d.ring fn.val 2 0 = r → r.en = true → step = (ci.toNat % r.size + r.size - r.ci) % r.size → step ≠ 0 →
    Settles (.evtDb fn ci t) s ((d.setRing fn.val 2 0 { r with ci := ci.toNat % r.size, used := r.used - step }).tellLost fn.val)) ∧
  (∀ (s : State) (fn : Dom) (v : Word) (t kind ix w : Nat) (r : Ring) (d : Dev), s.dev.at t = d → d.pcieUp = true →
    d.selected fn.val = some (kind, ix) → kind ≠ 0 → r = d.ring fn.val kind ix → r.en = false → w = cfg0Mask v.toNat → bitOf w 0 = true →
    ∀ want : Ring, want = { r with cfg0 := w } → fieldOf w 1 20 * 64 + want.size * ringEntry kind ≤ d.mapped fn.val →
    Settles (.ringCfg0Write fn v t) s
      ((d.zeroMem (d.ringAddr fn.val kind want 0) (want.size * ringEntry kind)).setRing fn.val kind ix
        { Ring.idle with cfg0 := w, cfg1 := r.cfg1, phase := true, gen := r.gen + 1 })) ∧
  (∀ (s : State) (fn : Dom) (i : Fin 16) (t : Nat) (r : Ring) (bs : List Byte) (d : Dev), s.dev.at t = d → d.ring fn.val 0 i.val = r →
    r.en = true → r.ci ≠ r.avail → d.coreUp (fabricCore fn.val) = true → d.slotFree fn.val i.val = true →
    d.upset = [] → bs = d.readMem (d.ringAddr fn.val 0 r r.ci) 64 → badEntry bs = false →
    Settles (.commandFetch fn i t) s
      ((d.setRing fn.val 0 i.val { r with ci := (r.ci + 1) % r.size, held := false }).takeCmd (entryCmd fn i bs) (fieldBytes bs 0 1))) ∧
  (∀ (s : State) (fn : Dom) (k : Fin 4) (i : Fin 16) (t : Nat) (r : Ring) (d : Dev), s.dev.at t = d → d.ring fn.val k.val i.val = r →
    r.en = true → r.unsig ≠ 0 → fieldOf r.cfg0 48 16 ≠ 0 → fieldOf r.cfg0 38 10 ≠ 0 → r.oldest + fieldOf r.cfg0 48 16 * 1000 ≤ d.time →
    Settles (.irqUsExpiry fn k i t) s
      ((d.setRing fn.val k.val i.val { r with unsig := 0 }).toHost (.irq fn.val (fieldOf r.cfg0 32 6))))

/-- R14, R15, R40, R477, R479 and R481: PF0 reaches its ring region through BAR2; data that HOST brings crosses the switch to the tile whose operator asked, and a failed read is
reported and answers that operator with an error; a Function Level Reset of a VF leaves none of its commands, disables its rings and no other function's, and
zeroes its region; a register write sets the RW bits written, clears the RW1C bits written with 1 and keeps the rest; a misaligned or
odd-sized access changes nothing and reads 0 in every byte, any other reads the register's bytes. -/
def Obligations.HostReaches : Prop :=
  (∀ (s : State) (fn : Dom) (a len t : Nat) (bs : List Byte) (d : Dev), s.dev.at t = d → d.pcieUp = true → fn.val = 0 →
    a + bs.length ≤ d.mapped 0 → a + bs.length ≤ 0x1000_0000 →
    Settles (.bar2Access fn a len (some bs) t) s (d.writeMem (d.regionBase 0 + a) bs)) ∧
  (∀ (s : State) (fn : Dom) (a len t : Nat) (d : Dev), s.dev.at t = d → d.pcieUp = true → fn.val = 0 → a + len ≤ d.mapped 0 →
    a + len ≤ 0x1000_0000 → d.upset = [] →
    Settles (.bar2Access fn a len none t) s (d.toHost (.reply 0 (padBytes len (d.readMem (d.regionBase 0 + a) len))))) ∧
  (∀ (s : State) (tag tile g t : Nat) (r : HostRead) (bs : List Byte) (d : Dev), s.dev.at t = d → d.host.reads.find? (fun r => r.tag == tag) = some r →
    r.use = .operator tile g →
    Settles (.hostReadCompletion tag (some bs) t) s
      (({ d with host := { d.host with reads := d.host.reads.filter (fun x => x.tag != tag) } } : Dev).sendLines .host (.tile tile) (g % tagSpace)
        (ownTc 2) r.fn 0 (padBytes r.len bs) (.came g 0 (padBytes r.len bs)))) ∧
  (∀ (s : State) (tag tile g t : Nat) (r : HostRead) (d : Dev), s.dev.at t = d → d.host.reads.find? (fun r => r.tag == tag) = some r →
    r.use = .operator tile g →
    Settles (.hostReadCompletion tag none t) s
      ((({ d with host := { d.host with reads := d.host.reads.filter (fun x => x.tag != tag) } } : Dev).hostFailed r.fn).sendLines .host (.tile tile)
        (g % tagSpace) (ownTc 2) r.fn 1 [] (.came g 1 []))) ∧
  (∀ (s : State) (fn : Dom) (t : Nat) (d e : Dev), s.dev.at t = d → fn.val ≠ 0 → d.heats.list = [] → e = d.functionReset fn.val →
    Settles (.functionLevelReset fn t) s e ∧ (∀ x ∈ e.host.started, x.cmd.fn.val ≠ fn.val) ∧
    (∀ x ∈ e.host.rings, x.1 / 64 = fn.val → x.2.en = false) ∧
    (∀ x ∈ d.host.rings, x.1 / 64 ≠ fn.val → x.2 ≠ Ring.idle → x ∈ e.host.rings) ∧
    (∀ a, d.regionBase fn.val ≤ a → a < d.regionBase fn.val + d.mapped fn.val → d.Rising → e.readMem a 1 = [0#8])) ∧
  (∀ (s : State) (fn : Dom) (a t : Nat) (v : Word) (r : RegRow) (is : List Nat) (d : Dev), s.dev.at t = d → d.pcieUp = true → fn.val = 0 →
    a % 8 = 0 → Reg.find a = some (r, is) → d.deadPort r is = false →
    ∀ m, m = Nat.land (2 ^ 64 - 1) (r.mask (fun _ => true)) → d.portWrite r is a v.toNat m = none →
    d.mapWrite r is a v.toNat m = none → d.secWrite s.fuse r is v.toNat m = none → d.fnWrite r is v.toNat m = none →
    Settles (.registerWrite fn a 8 v t) s (d.setReg ⟨a, r.rst⟩ (r.written (d.reg ⟨a, r.rst⟩) v.toNat m))) ∧
  (∀ (s : State) (fn : Dom) (a n t : Nat) (v : Word) (d : Dev), s.dev.at t = d → barSized a n = false → Settles (.registerWrite fn a n v t) s d) ∧
  (∀ (d : Dev) (fn a b n : Nat), d.pcieUp = true → (fn = 0 ∨ d.host.vfEnable = true) → (n = 4 ∨ n = 8) → a % n = 0 → barAddr fn a = some b →
    d.barRead fn a n = ((natBytes 8 (d.regRead (b / 8 * 8))).drop (b % 8)).take n) ∧
  (∀ (d : Dev) (fn a n : Nat), ((n ≠ 4 ∧ n ≠ 8) ∨ a % n ≠ 0 ∨ barAddr fn a = none) → d.barRead fn a n = List.replicate n 0#8) ∧
  (∀ (r : RegRow) (old v m i : Nat), old < 2 ^ 64 → v < 2 ^ 64 → m < 2 ^ 64 →
    bitOf (r.written old v m) i =
      if bitOf m i && bitOf (r.mask (fun x => x == .rw)) i then bitOf v i
      else bitOf old i && !(bitOf v i && bitOf m i && bitOf (r.mask (fun x => x == .w1c)) i))

/-- R498, R499, R501, R507 and R508, firmware: FW_GO begins the copy and is ignored while a bundle is loading, being verified or running; the
boot ROM verifies the whole bundle; a bundle that fails is reported with its code and core; a good one runs on every core; a restart stops
its core, and at its end the core runs again, or stays halted when its image no longer has its digest; TEL_SNAP freezes and releases. -/
def Obligations.FirmwareRuns : Prop :=
  (∀ (s : State) (t : Nat) (d : Dev), s.dev.at t = d → d.pcieUp = true → d.boot.halt = false → d.flag Reg.GSTAT_WIPE_ACTIVE = false →
    (d.get Reg.FW_STAT_STATE = 0 ∨ d.get Reg.FW_STAT_STATE = 4) →
    Settles (.fwGo t) s
      (((({ d with boot := { d.boot with asked := 0 } } : Dev).set Reg.FW_STAT_STATE 1).set Reg.FW_STAT_ERR 0).askBundle)) ∧
  (∀ (s : State) (t : Nat) (d : Dev), s.dev.at t = d → d.get Reg.FW_STAT_STATE ≠ 0 → d.get Reg.FW_STAT_STATE ≠ 4 → Settles (.fwGo t) s d) ∧
  (∀ (s : State) (t : Nat) (d : Dev), s.dev.at t = d → d.get Reg.FW_STAT_STATE = 1 → d.bundleWhole = true →
    Settles (.fwCopyDone t) s (d.set Reg.FW_STAT_STATE 2)) ∧
  (∀ (s : State) (t : Nat) (bs : List Byte) (r : Option (Nat × Nat)) (d e f : Dev), s.dev.at t = d → d.get Reg.FW_STAT_STATE = 2 →
    bs = d.readMem d.storeBase (min storeBytes (d.get Reg.FW_LEN_BYTES)) → r = d.bundleFailure s.fuse bs →
    e = { d with boot := { d.boot with bundle := some ⟨leratSvn bs, leratKey bs, bundleImages bs⟩ } } →
    f = (((e.each (rangeFrom 0 16) (fun d c => (d.setCore c 1).sramChanged c)).set Reg.FW_STAT_STATE 3).set Reg.GSTAT_RUNNING 1).startFills →
    Settles (.fwVerifyDone t) s (r.elim
      (f.post [0] 0x62 [f.reg Reg.RESET_CAUSE, f.get Reg.LC_STAT_IMG_SLOT, f.get Reg.LC_STAT_IMG_FALLBACK])
      (fun x => ((d.set Reg.FW_STAT_STATE 4).set Reg.FW_STAT_ERR x.2).post [0] 0x03 [x.1, x.2]))) ∧
  (∀ (s : State) (c : Fin 16) (t : Nat) (d : Dev), s.dev.at t = d → d.pcieUp = true → d.running = true →
    (∀ r ∈ d.boot.restarts, r.core ≠ c.val) →
    Settles (.coreCtlRestart c t) s
      (({ d with boot := { d.boot with
        restarts := d.boot.restarts ++ [⟨c.val, 3, d.time, none⟩], halted := d.boot.halted.filter (fun h => h.1 != c.val) } } : Dev).setCore
          c.val 2)) ∧
  (∀ (s : State) (c : Fin 16) (parity : Bool) (t : Nat) (d : Dev), s.dev.at t = d → d.get (Reg.CORE_STAT_STATE c.val) = 1 →
    Settles (.coreWatchdog c parity t) s (d.startRestart c.val (if parity then 2 else 1) none)) ∧
  (∀ (s : State) (c : Fin 16) (t us : Nat) (r : Restart) (d e f g : Dev), s.dev.at t = d → d.boot.restarts = [r] → r.core = c.val → r.cmd = none →
    e = { d with boot := { d.boot with restarts := [] } } → us = min (2 ^ 32 - 1) ((e.time - r.since) / 1000) →
    f = (e.setCore c.val 1).sramChanged c.val →
    g = ((f.set (Reg.CORE_STAT_RESTARTS c.val) (min 255 (f.get (Reg.CORE_STAT_RESTARTS c.val) + 1))).set (Reg.CORE_STAT_LAST_CAUSE c.val)
      r.cause).set (Reg.CORE_STAT_LAST_US c.val) us →
    Settles (.coreRestartDone c t) s (if e.imageSound c.val then
      (((g.set Reg.GSTAT_CORE_RESTARTS (min 255 (g.get Reg.GSTAT_CORE_RESTARTS + 1))).post [0] 0x02 [c.val, r.cause, us]).temperEvent 6 c.val).fwRecords c.val
      else (e.setCore c.val 0).post [0] 0x03 [c.val, 0x0B])) ∧
  (∀ (s : State) (t : Nat) (d e : Dev), s.dev.at t = d → d.pcieUp = true → e = d.set Reg.TEL_SNAP_HOLD 1 → e.snap = none →
    Settles (.telSnap true t) s { e with snap := some e.regs }) ∧
  (∀ (s : State) (t : Nat) (d : Dev), s.dev.at t = d → d.pcieUp = true →
    Settles (.telSnap false t) s { (d.set Reg.TEL_SNAP_HOLD 0) with snap := none })

/-! ### Resets, security and management (chapters 15 and 16) -/

/-- R509, R511, R512, R514, R549 and R554, power and resets: POWER_ON samples the straps into a part held in its power-on reset and
POWER_DOWN leaves nothing; a reset wipes all but RESET_CAUSE and the straps; once nothing holds it the release begins the start sequence; the
image applied opens the part, or halts it in HALT_IMAGE; a store engine that fails its test holds its port down. -/
def Obligations.ResetsAndStart : Prop :=
  (∀ (s : State) (mv straps t : Nat) (d w : Dev), s.dev.at t = d → d.boot.rails = false → 40000 ≤ mv →
    w = { Dev.reset with time := d.time, free := d.free, boot := { Boot.start with active := d.boot.active, temps := d.boot.temps } } →
    Settles (.powerOn mv straps t) s (w.setReg Reg.STRAP_STAT (straps % 8)).showActive) ∧
  (∀ (s : State) (mv t : Nat) (d : Dev), s.dev.at t = d → d.boot.rails = true → mv < 38500 →
    ∀ b, b = { Boot.start with rails := false, active := d.boot.active, temps := d.boot.temps } →
    Settles (.powerDown mv t) s { Dev.reset with time := d.time, free := d.free, boot := b }) ∧
  (∀ (s : State) (t : Nat) (d : Dev), s.dev.at t = d → d.boot.rails = true → d.boot.held = false →
    Settles (.resetN t) s (({ d with boot := { d.boot with resetLow := true } } : Dev).wiped 1 0) ∧
    Settles (.perstN t) s (({ d with boot := { d.boot with perstLow := true } } : Dev).wiped 2 0) ∧
    Settles (.devReset 0x0A09#16 t) s (d.wiped 3 0)) ∧
  (∀ (s : State) (code : BitVec 16) (t : Nat) (d : Dev), s.dev.at t = d → code ≠ 0x0A09#16 → Settles (.devReset code t) s d) ∧
  (∀ (d : Dev) (cause source : Nat), (d.wiped cause source).heats = Heats.empty ∧ (d.wiped cause source).host = HostIf.empty ∧
    (d.wiped cause source).store = Store.empty ∧ (d.wiped cause source).home = Homes.empty ∧ (d.wiped cause source).dmem = [] ∧
    (d.wiped cause source).grt = Grt.empty ∧ (d.wiped cause source).boot.held = true ∧
    (d.wiped cause source).reg Reg.RESET_CAUSE = d.reg Reg.RESET_CAUSE) ∧
  (∀ (s : State) (t : Nat) (d : Dev), s.dev.at t = d → d.boot.rails = true → d.boot.held = true → d.boot.bridge = none → d.boot.holds = [] →
    Settles (.resetRelease t) s
      (({ d with boot := { d.boot with resetLow := false, perstLow := false, held := false, want := false, released := d.time } } : Dev).firstStep
        s.fuse)) ∧
  (∀ (s : State) (t : Nat) (d : Dev), s.dev.at t = d → d.pcieUp = true → Settles (.wipeDone t) s { d with boot := { d.boot with wiped := true } }) ∧
  (∀ (s : State) (un : List (Fin 2)) (t : Nat) (r : Sum Failure (Dev × ImageRecord)) (d e : Dev), s.dev.at t = d → d.pcieUp = true →
    d.boot.wiped = true → d.boot.halt = false → d.flag Reg.IMG_STAT_APPLIED = false →
    e = (if d.get Reg.LC_STAT_STATE = 0 ∨ d.get Reg.LC_STAT_STATE = 4 then d else
      ({ d with boot := { d.boot with idKey := Config.slhPublic s.fuse.idSeeds } } : Dev).set Reg.LC_STAT_ID_READY 1) →
    r = e.trySlots s.fuse s.flash (un.map Fin.val) (slotOrder s.flash) ⟨0x01, 0, 0⟩ →
    ∀ f, f = (fun (x : Failure) => ((e.set Reg.IMG_STAT_ERR x.code).set Reg.IMG_STAT_SECTION x.ix).set Reg.IMG_STAT_OFFSET x.off) →
    Settles (.imageApplied un t) s (r.elim
      (fun x => ((({ f x with boot := { (f x).boot with halt := true } } : Dev).set Reg.FW_STAT_STATE 4).set Reg.FW_STAT_ERR x.code))
      (fun y => ((((({ y.1 with boot := { y.1.boot with image := some y.2 } } : Dev).set Reg.LC_STAT_IMG_SLOT y.2.slot).set
        Reg.LC_STAT_IMG_FALLBACK (if (slotOrder s.flash).head? = some y.2.slot then 0 else 1)).set Reg.IMG_STAT_APPLIED 1).set
          Reg.IMG_SVN_SVN y.2.svn).set Reg.GSTAT_WIPE_ACTIVE 0))) ∧
  (∀ (s : State) (p : Port) (t : Nat) (d e : Dev), s.dev.at t = d → d.coreUp 15 = true → d.get Reg.TIER_CTL_SVC_MODE = 0 → d.isRole p.val 1 = true →
    e = d.set (Reg.LINK_CTL_DISABLE p.val) 1 → e.linkState p.val = 0 →
    Settles (.storeEngineTest [p] t) s
      ((((e.set Reg.GSTAT_LASTING_FAULT 1).bump (Reg.LASTING 5)).post [0] 0x20 [5, p.val]).set Reg.TIER_CTL_SVC_MODE 1))

/-- R527 to R532, R540 and R541, security: a fuse burns only where the lifecycle state and the field allow, one field at a time, and shows
once burned; a transition burns SECRET_OFF first and the state last; UNLOCK with its token opens debug and zeroizes every key, LOCK closes it
and resumes the halted cores; an alarm latches and acts by its policy; a held erase ends, and a latch clears, once its source reads inactive. -/
def Obligations.SecurityActs : Prop :=
  (∀ (s : State) (f : Fin 8) (t : Nat) (d : Dev), s.dev.at t = d → d.pcieUp = true → d.boot.burns = [] → f.val < 4 →
    fuseAllowed (d.get Reg.LC_STAT_STATE) f.val = true → s.fuse.programmed f.val = false →
    Settles (.fuseProgGo f t) s (d.startBurn [(f.val, d.fuseValue)])) ∧
  (∀ (s : State) (f : Fin 8) (t : Nat) (d : Dev), s.dev.at t = d → d.pcieUp = true → d.boot.burns = [] → f.val ≤ 4 →
    fuseAllowed (d.get Reg.LC_STAT_STATE) f.val = false → Settles (.fuseProgGo f t) s (d.lcErr 0x0C)) ∧
  (∀ (s : State) (v : BitVec 7) (t : Nat) (d : Dev), s.dev.at t = d → d.pcieUp = true →
    (d.get Reg.LC_STAT_STATE = 1 ∨ d.get Reg.LC_STAT_STATE = 2) → d.boot.burns = [] → s.fuse.floor < v.toNat → v.toNat ≤ 64 →
    v.toNat ≤ (d.boot.bundle.map BundleRecord.svn).getD 0 → v.toNat ≤ (d.boot.image.map ImageRecord.svn).getD 0 →
    Settles (.svnRaise v t) s (d.startBurn [(5, 2 ^ v.toNat - 1)])) ∧
  (∀ (s : State) (target : BitVec 3) (t : Nat) (d : Dev), s.dev.at t = d → d.pcieUp = true → d.boot.burns = [] →
    ∀ f, f = (if target.toNat = 3 then d.tokenRead else d) →
    ∀ e : Dev, e = { f with boot := { f.boot with target := some target.toNat } } →
    Settles (.lcCtlGo target t) s (if d.transitionOk s.fuse target.toNat then
      e.startBurn ((if 3 ≤ target.toNat then [(6, 1)] else []) ++ [(7, 2 ^ target.toNat - 1)]) else f.lcErr 0x0F)) ∧
  (∀ (s : State) (t f v : Nat) (rest : List (Nat × Nat)) (z : Fuses) (d e g : Dev), s.dev.at t = d → s.dev.boot.burns = (f, v) :: rest →
    z = s.fuse.burn f v → f ≠ 5 → f ≠ 7 →
    e = ({ d with boot := { d.boot with burns := rest } } : Dev).showFuses z → g = (if rest = [] then e.set Reg.FUSE_STAT_BUSY 0 else e) →
    exec (.fuseBurnDone t) s = .next { s with fuse := z, dev := g.settle }) ∧
  (∀ (s : State) (t v : Nat) (z : Fuses) (d : Dev), s.dev.at t = d → s.dev.boot.burns = [(7, v)] → z = s.fuse.burn 7 v →
    exec (.fuseBurnDone t) s = .next { s with fuse := z, dev :=
      (((({ d with boot := { d.boot with burns := [] } } : Dev).showFuses z).set Reg.FUSE_STAT_BUSY 0).startReset 4 0).settle }) ∧
  (∀ (s : State) (t : Nat) (d : Dev), s.dev.at t = d → d.pcieUp = true → d.get Reg.LC_STAT_STATE = 1 →
    Settles (.dbgCtlUnlock t) s (if d.tokenOk s.fuse 0x10 then
      ((((d.tokenRead.set Reg.LC_STAT_DEBUG_OPEN 1).set Reg.LC_STAT_DEBUG_EVER 1).zeroizeAll).lcErr 0) else d.tokenRead.lcErr 0x0F)) ∧
  (∀ (s : State) (t : Nat) (d : Dev), s.dev.at t = d → d.pcieUp = true →
    Settles (.dbgCtlLock t) s (((d.set Reg.LC_STAT_DEBUG_OPEN 0).each (d.boot.halted.map Prod.fst) Dev.resumeCore).lcErr 0)) ∧
  (∀ (s : State) (src : Fin 4) (t : Nat) (d e f : Dev), s.dev.at t = d → d.boot.rails = true →
    (src.val = 0 → d.get Reg.PWR_STAT_VIN_MV = 0 ∨ 40000 ≤ d.get Reg.PWR_STAT_VIN_MV) →
    e = ({ d with boot := { d.boot with active := addOnce d.boot.active src.val } } : Dev).showActive →
    f = ((e.set Reg.TAMPER_STAT_LATCHED (Nat.lor (e.get Reg.TAMPER_STAT_LATCHED) (2 ^ src.val))).set Reg.GSTAT_ALARM 1).bump Reg.TAMPER_EVENTS →
    Settles (.tamperAlarm src t) s
      (if d.tamperPolicy s.fuse src.val = 0 then f.post [0] 0x60 [src.val, 0]
      else if d.tamperPolicy s.fuse src.val = 1 then (f.post [0] 0x60 [src.val, 1]).tamperFence
      else (({ f with boot := { f.boot with holds := addOnce f.boot.holds src.val } } : Dev).zeroizeAll).startReset 5 src.val)) ∧
  (∀ (s : State) (src : Fin 4) (t : Nat) (d : Dev), s.dev.at t = d → d.boot.rails = true →
    Settles (.eraseHoldRelease src t) s
      ((({ d with boot := { d.boot with
        active := d.boot.active.filter (fun x => x != src.val), holds := d.boot.holds.filter (fun x => x != src.val) } } : Dev).showActive).tryRelease s.fuse)) ∧
  (∀ (s : State) (bits active : BitVec 4) (t old left : Nat) (gone : List Nat) (d e : Dev), s.dev.at t = d → d.pcieUp = true →
    e = ({ d with boot := { d.boot with active := (rangeFrom 0 4).filter (bitOf active.toNat) } } : Dev).showActive →
    old = e.get Reg.TAMPER_STAT_LATCHED →
    gone = (rangeFrom 0 4).filter (fun x => bitOf old x && bitOf bits.toNat x && !bitOf active.toNat x) →
    left = old - sumBy (fun x => 2 ^ x) gone →
    Settles (.tamperStatClear bits active t) s
      (((e.set Reg.TAMPER_STAT_LATCHED left).set Reg.GSTAT_ALARM (if left = 0 then 0 else 1)).each gone (fun d x => d.post [0] 0x61 [x])))

/-- R533, R550 to R553 and R562, the management interface: each command replies as R551 says; the flash is changed only while RESET_N is low
and STRAP_FLASH_WE allows it, and its bytes change when the command ends; debug commands are refused while debug is closed, and act on a core
that is halted. -/
def Obligations.ManagementReplies : Prop :=
  (∀ (s : State) (we : Bool) (t : Nat) (d e : Dev), s.dev.at t = d → d.boot.rails = true → e = d.set Reg.STRAP_STAT_FLASH_WE (if we then 1 else 0) →
    Settles (.status we t) s { e with boot := { e.boot with reply :=
      [Reg.GSTAT, Reg.PWR_STAT, Reg.THERM_STAT, Reg.STRAP_STAT, Reg.LC_STAT, Reg.RESET_CAUSE].flatMap (fun r => natBytes 8 (e.reg r)) } }) ∧
  (∀ (s : State) (t : Nat) (d : Dev), s.dev.at t = d → d.boot.rails = true →
    Settles (.tempAll t) s { d with boot := { d.boot with reply := padBytes 64 (d.boot.temps.map (BitVec.ofNat 8)) } }) ∧
  (∀ (s : State) (a n t : Nat) (d : Dev), s.dev.at t = d → d.boot.rails = true → d.boot.resetLow = true → d.boot.bridge = none → n ≤ 256 →
    a + n ≤ flashBytes →
    Settles (.flashRead a n t) s { d with boot := { d.boot with reply := Memory.readN 0xFF#8 s.flash a n } }) ∧
  (∀ (s : State) (a t : Nat) (d e : Dev), s.dev.at t = d → d.boot.rails = true → e = d.set Reg.STRAP_STAT_FLASH_WE 1 → e.boot.resetLow = true →
    e.boot.bridge = none → a % 65536 = 0 → a < flashBytes →
    Settles (.flashErase a true t) s { e with boot := { e.boot with bridge := some (.erase a), reply := natBytes 1 1 } }) ∧
  (∀ (s : State) (a t : Nat) (bs : List Byte) (d e : Dev), s.dev.at t = d → d.boot.rails = true → e = d.set Reg.STRAP_STAT_FLASH_WE 1 →
    e.boot.resetLow = true → e.boot.bridge = none → a % 256 = 0 → bs.length = 256 → a < flashBytes →
    Settles (.flashProgram a bs true t) s { e with boot := { e.boot with bridge := some (.program a bs), reply := natBytes 1 1 } }) ∧
  (∀ (s : State) (a t : Nat) (bs : List Byte) (d e : Dev), s.dev.at t = d → d.boot.rails = true → e = d.set Reg.STRAP_STAT_FLASH_WE 0 →
    Settles (.flashErase a false t) s (e.status 2) ∧ Settles (.flashProgram a bs false t) s (e.status 2)) ∧
  (∀ (s : State) (t : Nat) (d : Dev), s.dev.at t = d → d.boot.rails = true → d.boot.resetLow = true →
    Settles (.flashStatus t) s (d.status (if d.boot.bridge.isSome then 1 else 0))) ∧
  (∀ (s : State) (t : Nat) (op : FlashOp) (d : Dev), s.dev.at t = d → s.dev.boot.bridge = some op →
    exec (.flashOpDone t) s = .next { s with flash := op.apply s.flash s.dev.free, dev :=
      (({ d with free := d.free + 256, boot := { d.boot with bridge := none } } : Dev).tryRelease s.fuse).settle }) ∧
  (∀ (s : State) (n t k : Nat) (d : Dev), s.dev.at t = d → d.boot.rails = true → d.running = true → d.flag Reg.TRACE_CTL_PIN_OUT = true →
    k = min (min n 16) d.host.pins.length →
    Settles (.traceRead n t) s (({ d with host := { d.host with pins := d.host.pins.drop k } } : Dev).replyWith
      (natBytes 1 k ++ (d.host.pins.take k).flatMap id))) ∧
  (∀ (s : State) (a : BitVec 7) (t : Nat) (d e : Dev), s.dev.at t = d → d.boot.rails = true →
    e = (d.set Reg.STRAP_STAT_DYN_ADDR a.toNat).set Reg.STRAP_STAT_DYN_VALID 1 →
    Settles (.entdaa a t) s e ∧ Settles (.setdasa a t) s e) ∧
  (∀ (s : State) (t : Nat) (d : Dev), s.dev.at t = d → d.boot.rails = true →
    Settles (.dbgStatus t) s (d.replyWith (natBytes 8 (d.reg Reg.LC_STAT) ++
      natBytes 2 (sumBy (fun c => if d.dbgHalted c then 2 ^ c else 0) (rangeFrom 0 16))))) ∧
  (∀ (s : State) (t op : Nat) (c : Fin 16) (i : Instr) (bs : List Byte) (a n : Nat) (v : Word) (d : Dev), s.dev.at t = d → d.boot.rails = true →
    d.flag Reg.LC_STAT_DEBUG_OPEN = false → (i, op) ∈ [(Instr.dbgHalt c t, 0), (.dbgResume c t, 1), (.dbgMemRead c a n t, 2),
      (.dbgMemWrite c a bs t, 3), (.dbgRegRead a t, 4), (.dbgRegWrite a v t, 5), (.dbgCoreRegs c t, 6)] → Settles i s (d.status 2)) ∧
  (∀ (s : State) (t : Nat) (c : Fin 16) (d : Dev), s.dev.at t = d → d.boot.rails = true → d.flag Reg.LC_STAT_DEBUG_OPEN = true →
    d.dbgHalted c.val = false → d.coreUp c.val = true → ∀ e, e = (d.freshWords 33).2 →
    Settles (.dbgHalt c t) s
      ((({ e with boot := { e.boot with halted := Tab.ins e.boot.halted c.val (d.freshWords 33).1 } } : Dev).setCore c.val 0).status 0)) ∧
  (∀ (s : State) (t : Nat) (c : Fin 16) (d : Dev), s.dev.at t = d → d.boot.rails = true → d.flag Reg.LC_STAT_DEBUG_OPEN = true →
    d.dbgHalted c.val = true → Settles (.dbgResume c t) s ((((({ d with boot := { d.boot with
      halted := d.boot.halted.filter (fun h => h.1 != c.val) } } : Dev).setCore c.val 1).sramChanged c.val)).status 0)) ∧
  (∀ (s : State) (t a n : Nat) (c : Fin 16) (d : Dev), s.dev.at t = d → d.boot.rails = true →
    d.flag Reg.LC_STAT_DEBUG_OPEN = true → n ≤ 256 → a + n ≤ 0x20_0000 →
    Settles (.dbgMemRead c a n t) s ((d.sramRead c.val a n).2.replyWith (d.sramRead c.val a n).1)) ∧
  (∀ (s : State) (t a : Nat) (c : Fin 16) (b : Byte) (d : Dev), s.dev.at t = d → d.boot.rails = true → d.flag Reg.LC_STAT_DEBUG_OPEN = true →
    d.dbgHalted c.val = true → a < 0x20_0000 →
    Settles (.dbgMemWrite c a [b] t) s
      (({ d with boot := { d.boot with sram := Tab.ins d.boot.sram (c.val * 0x20_0000 + a + 0) b } } : Dev).status 0)) ∧
  (∀ (s : State) (t a : Nat) (v : Word) (d : Dev), s.dev.at t = d → d.boot.rails = true → d.flag Reg.LC_STAT_DEBUG_OPEN = true → a % 8 = 0 →
    Settles (.dbgRegRead a t) s (d.replyWith (natBytes 8 (d.regRead a))) ∧
    Settles (.dbgRegWrite a v t) s ((d.regWrite s.fuse a v.toNat (2 ^ 64 - 1)).status 0)) ∧
  (∀ (s : State) (t : Nat) (c : Fin 16) (vs : List Nat) (d : Dev), s.dev.at t = d → d.boot.rails = true → d.flag Reg.LC_STAT_DEBUG_OPEN = true →
    d.boot.halted.find? (fun h => h.1 == c.val) = some (c.val, vs) → Settles (.dbgCoreRegs c t) s (d.replyWith (vs.flatMap (natBytes 4))))

/-- R475, R513, R556, R557, R559 and R560, power, cooling and configuration space. R557: a power sample shows voltage, current and the mean of
the last ten samples; the limiter engages when the samples have been above CAP_W for 8 ms or ten of them average more than 1,850 W, releases
when they have been below 0.95 of CAP_W for 1 ms, THROTTLE says whether it is engaged, and THROTTLE_US counts while it is. R559 and R560: a
thermal sample shows the hottest sensor, warns above WARN_C and no longer at WARN_C - 3, and trips above 115 and no longer below 110 degrees.
R556: the core rail moves from where it is to its new setting. R475 and R513: configuration space answers Request Retry Status until the
image has been applied, and then a read with the field and a write with an empty reply. -/
def Obligations.PowerAndCooling : Prop :=
  (∀ (s : State) (mv ma t mean : Nat) (samples : List Nat) (d c e g : Dev), s.dev.at t = d → d.boot.rails = true → c = d.countThrottle →
    samples = (mv * ma / 1000 :: c.boot.limiter.samples).take 10 → mean = sumBy id samples / samples.length →
    e = (c.set Reg.PWR_STAT_VIN_MV (min 65535 mv)).set Reg.PWR_STAT_IIN_10MA (min 65535 (ma / 10)) →
    g = (e.set Reg.PWR_STAT_PIN_W (min 65535 (mean / 1000))).set Reg.PWR_STAT_VCORE_NOW_MV e.vcoreNow →
    ∀ above, above = (if g.capMw < mv * ma / 1000 then some (c.boot.limiter.above.getD g.time) else none) →
    ∀ below, below = (if mv * ma / 1000 * 100 < g.capMw * 95 then some (c.boot.limiter.below.getD g.time) else none) →
    ∀ on : Bool, (on = true ↔ if c.boot.limiter.on = true then ¬ ∃ t0 ∈ below, t0 + 1_000_000 ≤ g.time
      else (∃ t0 ∈ above, t0 + 8_000_000 ≤ g.time) ∨ (samples.length = 10 ∧ 1_850_000 < mean)) →
    ∀ counted, counted = (if on = true ∧ c.boot.limiter.on = false then g.time else c.boot.limiter.counted) →
    Settles (.powerSample mv ma t) s
      (({ g with boot := { g.boot with limiter := ⟨samples, above, below, on, counted⟩ } } : Dev).set Reg.THERM_STAT_THROTTLE
        (if on then 1 else 0))) ∧
  (∀ (d : Dev) (us : Nat), us = (d.time - d.boot.limiter.counted) / 1000 →
    ∀ l, l = { d.boot.limiter with counted := d.boot.limiter.counted + us * 1000 } →
    d.countThrottle = if d.boot.limiter.on then ({ d with boot := { d.boot with limiter := l } } : Dev).bumpBy Reg.THROTTLE_US us else d) ∧
  (∀ (s : State) (temps : List Nat) (t sensor : Nat) (bs : List Nat) (tj warn : Int) (d e f : Dev), s.dev.at t = d → d.boot.rails = true →
    bs = (padBytes 64 (temps.map (BitVec.ofNat 8))).map BitVec.toNat → tj = (hottest (bs.map (signedOf 8))).1 → sensor = (hottest (bs.map (signedOf 8))).2 →
    e = (({ d with boot := { d.boot with temps := bs } } : Dev).set Reg.THERM_STAT_TJ_MAX (unsignedOf 8 tj)).set Reg.THERM_STAT_HOT_SENSOR sensor →
    warn = ((clampTo 60 105 (e.get Reg.THERM_CFG_WARN_C) : Nat) : Int) →
    f = (if warn < tj then e.set Reg.GSTAT_THERMAL_WARN 1 else if tj ≤ warn - 3 then e.set Reg.GSTAT_THERMAL_WARN 0 else e) →
    Settles (.thermalSample temps t) s
      (if 115 < tj then (if f.flag Reg.THERM_STAT_TRIP then f else f.bump Reg.TRIP_COUNT).set Reg.THERM_STAT_TRIP 1
      else if tj < 110 then f.set Reg.THERM_STAT_TRIP 0 else f)) ∧
  (∀ (temps : List Int) (tj : Int) (k : Nat), temps ≠ [] → hottest temps = (tj, k) →
    temps[k]? = some tj ∧ (∀ x ∈ temps, x ≤ tj) ∧ (∀ j < k, temps[j]? ≠ some tj)) ∧
  (∀ (s : State) (mv : BitVec 12) (t : Nat) (d : Dev), s.dev.at t = d → d.pcieUp = true →
    Settles (.vcoreMvWrite mv t) s
      (({ d with boot := { d.boot with rampFrom := d.vcoreNow, rampAt := d.time } } : Dev).set Reg.PWR_CTL_VCORE_MV mv.toNat)) ∧
  (∀ (d : Dev) (us : Nat), us = (d.time - d.boot.rampAt) / 1000 →
    d.vcoreNow = if d.boot.rampFrom ≤ d.vcoreGoal then min d.vcoreGoal (d.boot.rampFrom + us) else max d.vcoreGoal (d.boot.rampFrom - us)) ∧
  (∀ (s : State) (fn : Dom) (x : CfgField) (w : Option Nat) (t : Nat) (d : Dev), s.dev.at t = d → d.pcieUp = true →
    d.flag Reg.IMG_STAT_APPLIED = false → Settles (.configurationRequest fn x w t) s (d.toHost (.retry fn.val))) ∧
  (∀ (s : State) (fn : Dom) (x : CfgField) (bs : List Byte) (t : Nat) (d : Dev), s.dev.at t = d → d.pcieUp = true →
    d.flag Reg.IMG_STAT_APPLIED = true → (fn.val = 0 ∨ d.host.vfEnable = true) →
    (x, bs) ∈ [(CfgField.vendorId, natBytes 2 (d.get Reg.IDENT_VENDOR_CODE)), (.deviceId, natBytes 2 (if fn.val = 0 then 0x0A09 else 0x0A19)),
      (.classCode, natBytes 3 0x12_0000), (.vfEnable, natBytes 1 (if d.host.vfEnable then 1 else 0)),
      (.completionTimeout, natBytes 1 (Tab.get 0 d.boot.config fn.val))] →
    Settles (.configurationRequest fn x none t) s (d.toHost (.reply fn.val bs))) ∧
  (∀ (s : State) (fn : Dom) (x : CfgField) (v t : Nat) (d e : Dev), s.dev.at t = d → d.pcieUp = true →
    d.flag Reg.IMG_STAT_APPLIED = true → (fn.val = 0 ∨ d.host.vfEnable = true) →
    e = (if x = .vfEnable ∧ fn.val = 0 then { d with host := { d.host with vfEnable := v % 2 == 1 } }
      else if x = .completionTimeout then { d with boot := { d.boot with config := Tab.put 0 d.boot.config fn.val (v % 16) } } else d) →
    Settles (.configurationRequest fn x (some v) t) s (e.toHost (.reply fn.val [])))

/-! ### The block as a whole -/

/-- The block's step, and what a late or an early time does: the command at the front of the queue takes effect with the queue's rest; with an
empty queue one ns passes (the model's choice, assumption log 1); a command that bears a time of the past acts now, and no word spells one. -/
def Obligations.StepRunsTheFront : Prop :=
  (∀ (s : State) (c : Instr) (rest : List Instr), s.pending = c :: rest → step s = exec c { s with pending := rest }) ∧
  (∀ s : State, s.pending = [] → step s = .next { s with dev := { s.dev with time := s.dev.time + 1 } }) ∧
  (∀ (d : Dev) (t : Nat), (d.at t).time = max d.time t ∧ { d.at t with time := d.time } = d) ∧
  (∀ (s : State) (nbits w : Nat), decodeTableWord nbits w = none ∧ s.withFetchWord nbits w = s)

/-- R39, R511, R512, R513, R527 and R562, the machine right after reset: no command waits, the reset is held and the wipe is under way, every
register reads its reset value, no image is applied, no core and no port is up, nothing is stored, and the state is sound. That no fuse is
programmed and the flash is erased is the model's choice (assumption log 8). -/
def Obligations.ResetHolds : Prop :=
  State.reset.pending = [] ∧ State.reset.Sound ∧ State.reset.wellFormed = true ∧ Dev.reset.Rising ∧ Dev.reset.boot.held = true ∧
  Dev.reset.pcieUp = false ∧ (∀ r : RegRef, Dev.reset.reg r = r.rst) ∧ Dev.reset.flag Reg.GSTAT_WIPE_ACTIVE = true ∧ Dev.reset.running = false ∧
  Dev.reset.get Reg.FW_STAT_STATE = 0 ∧ Dev.reset.flag Reg.IMG_STAT_APPLIED = false ∧ (∀ c, Dev.reset.coreUp c = false) ∧
  (∀ p, p < 512 → Dev.reset.linkState p = 0) ∧ (∀ a n, Dev.reset.readMem a n = List.replicate n 0#8) ∧ Dev.reset.host = HostIf.empty ∧
  Dev.reset.heats = Heats.empty ∧ Dev.reset.home = Homes.empty ∧ Dev.reset.grt = Grt.empty

/-- R527 and R551, what every step keeps: no step stops; the flash and the fuse table stay in canonical form and every fuse burned stays burned;
only FUSE_BURN_DONE changes a fuse and only FLASH_OP_DONE changes the flash; and no command touches the queue. -/
def Obligations.EveryStepKeeps : Prop :=
  (∀ s : State, ∃ s', step s = .next s') ∧
  (∀ s s' : State, s.Sound → step s = .next s' → s'.Sound ∧ s.fuse.KeptIn s'.fuse) ∧
  (∀ (c : Instr) (s s' : State), exec c s = .next s' →
    s'.pending = s.pending ∧ (s'.fuse = s.fuse ∨ ∃ t, c = .fuseBurnDone t) ∧ (s'.flash = s.flash ∨ ∃ t, c = .flashOpDone t))

/-- R45, R339 and R551, the memories of bytes: bytes written read back, every other address reads as before, the canonical form is kept by every
write and every clearing, and a range cleared reads as unwritten. -/
def Obligations.MemoriesHold : Prop :=
  (∀ (b : Byte) (m : List (Nat × Byte)) (a : Nat) (bs : List Byte), Memory.wf b m = true →
    Memory.readN b (Memory.writeN b m a bs) a bs.length = bs ∧ Memory.wf b (Memory.writeN b m a bs) = true ∧
    ∀ x, x < a ∨ a + bs.length ≤ x → Memory.read b (Memory.writeN b m a bs) x = Memory.read b m x) ∧
  (∀ (b : Byte) (m : List (Nat × Byte)) (a n : Nat), Memory.wf b m = true →
    Memory.wf b (Memory.clear m a n) = true ∧ (∀ x, a ≤ x → x < a + n → Memory.read b (Memory.clear m a n) x = b) ∧
    ∀ x, x < a ∨ a + n ≤ x → Memory.read b (Memory.clear m a n) x = Memory.read b m x) ∧
  (∀ (b : Byte) (m m' : List (Nat × Byte)), Memory.wf b m = true → Memory.wf b m' = true → (∀ x, Memory.read b m x = Memory.read b m' x) → m = m')

/-- R15 and R38, the registers: a register written reads back, every register at another address reads as before, a field written reads back and
leaves every field beside it, and the list of registers stays in rising order; a register back at its reset value is not listed. -/
def Obligations.RegistersHold : Prop :=
  (∀ (d : Dev) (r : RegRef) (v : Nat), d.Rising → (d.setReg r v).reg r = v ∧ (d.setReg r v).Rising ∧
    (∀ q : RegRef, q.addr ≠ r.addr → (d.setReg r v).reg q = d.reg q) ∧ (∀ x ∈ (d.setReg r r.rst).regs, x.1 ≠ r.addr)) ∧
  (∀ (d : Dev) (f : Fld) (v : Nat), d.Rising → (d.set f v).get f = v % 2 ^ f.w ∧ (d.set f v).Rising ∧
    ∀ g : Fld, (g.reg.addr ≠ f.reg.addr ∨ (g.reg = f.reg ∧ (f.lo + f.w ≤ g.lo ∨ g.lo + g.w ≤ f.lo))) → (d.set f v).get g = d.get g) ∧
  (∀ (d : Dev) (r : RegRef) (n : Nat), d.Rising → (d.bumpBy r n).reg r = min (2 ^ 48 - 1) (d.reg r + n))
end

