-- ==== Sys2Proof/Laws/Bits.lean ====
section
/-! SUPPORT. Laws of bit fields and of little-endian bytes: what a field reads after a field is put, and what bytes spell. -/
namespace Sys2Proof.Machine

/-- A field is smaller than its width allows. -/
theorem fieldOf_lt (x lo w : Nat) : fieldOf x lo w < 2 ^ w := Nat.mod_lt _ (Nat.two_pow_pos w)

/-- A field of a number reads bit by bit what the number holds there. -/
theorem fieldOf_testBit (x lo w i : Nat) : (fieldOf x lo w).testBit i = (decide (i < w) && x.testBit (lo + i)) := by
  rw [fieldOf, Nat.testBit_mod_two_pow, Nat.testBit_div_two_pow]
  rw [Nat.add_comm]

/-- A put field, bit by bit. -/
theorem fieldPut_testBit (x lo w v i : Nat) :
    (fieldPut x lo w v).testBit i = if i < lo then x.testBit i else if i < lo + w then v.testBit (i - lo) else x.testBit i := by
  have hlow : v % 2 ^ w * 2 ^ lo + x % 2 ^ lo < 2 ^ (lo + w) := by
    have h1 : v % 2 ^ w < 2 ^ w := Nat.mod_lt _ (Nat.two_pow_pos w)
    have h2 : x % 2 ^ lo < 2 ^ lo := Nat.mod_lt _ (Nat.two_pow_pos lo)
    calc v % 2 ^ w * 2 ^ lo + x % 2 ^ lo < v % 2 ^ w * 2 ^ lo + 2 ^ lo := by omega
      _ = (v % 2 ^ w + 1) * 2 ^ lo := by ring
      _ ≤ 2 ^ w * 2 ^ lo := Nat.mul_le_mul_right _ (by omega)
      _ = 2 ^ (lo + w) := by rw [Nat.pow_add]; ring
  have e1 : fieldPut x lo w v = 2 ^ (lo + w) * (x / 2 ^ (lo + w)) + (2 ^ lo * (v % 2 ^ w) + x % 2 ^ lo) := by
    unfold fieldPut; ring
  have hlow' : 2 ^ lo * (v % 2 ^ w) + x % 2 ^ lo < 2 ^ (lo + w) := by rw [Nat.mul_comm]; exact hlow
  rw [e1, Nat.testBit_two_pow_mul_add _ hlow', Nat.testBit_two_pow_mul_add _ (Nat.mod_lt _ (Nat.two_pow_pos lo))]
  by_cases h1 : i < lo
  · simp [h1, Nat.testBit_mod_two_pow, show i < lo + w by omega]
  · by_cases h2 : i < lo + w
    · simp [h1, h2, Nat.testBit_mod_two_pow, show i - lo < w by omega]
    · simp [h1, h2, Nat.testBit_div_two_pow, show i - (lo + w) + (lo + w) = i by omega]

/-- A field reads what was put into it. -/
theorem fieldOf_fieldPut_same (x lo w v : Nat) : fieldOf (fieldPut x lo w v) lo w = v % 2 ^ w := by
  apply Nat.eq_of_testBit_eq
  intro i
  rw [fieldOf_testBit, fieldPut_testBit, Nat.testBit_mod_two_pow]
  by_cases h : i < w
  · simp [h]
  · simp [h]

/-- A field that a put field does not touch reads as before. -/
theorem fieldOf_fieldPut_ne (x lo w v lo' w' : Nat) (h : lo + w ≤ lo' ∨ lo' + w' ≤ lo) :
    fieldOf (fieldPut x lo w v) lo' w' = fieldOf x lo' w' := by
  apply Nat.eq_of_testBit_eq
  intro i
  rw [fieldOf_testBit, fieldOf_testBit, fieldPut_testBit]
  by_cases hi : i < w'
  · rcases h with h | h
    · rw [if_neg (by omega), if_neg (by omega)]
    · rw [if_pos (by omega)]
  · simp [hi]

/-- A bit is a field of one. -/
theorem bitOf_eq_fieldOf (x i : Nat) : bitOf x i = (fieldOf x i 1 == 1) := rfl

/-- A bit is what `testBit` says. -/
theorem bitOf_eq_testBit (x i : Nat) : bitOf x i = x.testBit i := by
  rw [Nat.testBit_eq_decide_div_mod_eq, bitOf]
  rfl

/-- `natBytes` has the length it is asked for. -/
@[simp] theorem natBytes_length (n v : Nat) : (natBytes n v).length = n := by
  induction n generalizing v with
  | zero => rfl
  | succ n ih => simp [natBytes, ih]

/-- Bytes spell the number they were made of, cut to their width (R12). -/
theorem bytesNat_natBytes (n v : Nat) : bytesNat (natBytes n v) = v % 2 ^ (8 * n) := by
  induction n generalizing v with
  | zero => simp [natBytes, bytesNat, Nat.mod_one]
  | succ n ih =>
    simp only [natBytes, bytesNat, ih, BitVec.toNat_ofNat]
    have e : 2 ^ (8 * (n + 1)) = 256 * 2 ^ (8 * n) := by rw [show 8 * (n + 1) = 8 + 8 * n by ring, Nat.pow_add]
    rw [e, Nat.mod_mul]

/-- Bytes are those of the number they spell. -/
theorem natBytes_bytesNat (bs : List Byte) : natBytes bs.length (bytesNat bs) = bs := by
  induction bs with
  | nil => rfl
  | cons b bs ih =>
    simp only [List.length_cons, natBytes, bytesNat]
    have hb : b.toNat < 256 := b.isLt
    have h1 : (b.toNat + 256 * bytesNat bs) / 256 = bytesNat bs := by omega
    have h2 : BitVec.ofNat 8 (b.toNat + 256 * bytesNat bs) = b := by
      apply BitVec.eq_of_toNat_eq
      simp only [BitVec.toNat_ofNat]
      omega
    rw [h1, h2, ih]

/-- A byte list spells a number below 256 to its length. -/
theorem bytesNat_lt (bs : List Byte) : bytesNat bs < 2 ^ (8 * bs.length) := by
  induction bs with
  | nil => simp [bytesNat]
  | cons b bs ih =>
    have hb : b.toNat < 256 := b.isLt
    have e : 2 ^ (8 * (b :: bs).length) = 256 * 2 ^ (8 * bs.length) := by
      rw [List.length_cons, show 8 * (bs.length + 1) = 8 + 8 * bs.length by ring, Nat.pow_add]
    simp only [bytesNat, e]
    omega

/-- A structure's field at its front. -/
theorem fieldBytes_front (n v : Nat) (rest : List Byte) : fieldBytes (natBytes n v ++ rest) 0 n = v % 2 ^ (8 * n) := by
  simp [fieldBytes, bytesNat_natBytes]

/-- A structure's field past its first bytes. -/
theorem fieldBytes_append (a b : List Byte) (off n : Nat) (h : a.length ≤ off) : fieldBytes (a ++ b) off n = fieldBytes b (off - a.length) n := by
  simp [fieldBytes, List.drop_append, List.drop_eq_nil_of_le h]

/-- Padding gives the length asked for. -/
@[simp] theorem padBytes_length (n : Nat) (bs : List Byte) : (padBytes n bs).length = n := by
  induction n generalizing bs with
  | zero => rfl
  | succ n ih => cases bs <;> simp [padBytes, ih]

/-- A range holds what lies in it. -/
@[simp] theorem mem_rangeFrom (a n k : Nat) : k ∈ rangeFrom a n ↔ a ≤ k ∧ k < a + n := by
  induction n generalizing a with
  | zero => simp [rangeFrom]
  | succ n ih => simp [rangeFrom, ih]; omega

/-- A range has the length asked for. -/
@[simp] theorem rangeFrom_length (a n : Nat) : (rangeFrom a n).length = n := by
  induction n generalizing a with
  | zero => rfl
  | succ n ih => simp [rangeFrom, ih]

end Sys2Proof.Machine
end

