-- ==== Sys2Proof/Laws/Tab.lean ====
section
/-! SUPPORT. Laws of sparse tables and of byte memories: a read after a write gives what was written, a write leaves every other
place alone, and every operation keeps the canonical form. -/
namespace Sys2Proof.Machine

variable {α : Type}

/-- Nothing is found in a table all of whose keys lie above. -/
theorem Tab.find_above (t : List (Nat × α)) (k j : Nat) (h : Tab.above k t = true) (hj : j ≤ k) : Tab.find? t j = none := by
  cases t with
  | nil => rfl
  | cons c t =>
    obtain ⟨i, v⟩ := c
    have hi : k < i := by simpa [Tab.above] using h
    rw [Tab.find?, if_neg (by omega), if_pos (by omega)]

/-- What was listed at a key is found there. -/
theorem Tab.find_ins_same (t : List (Nat × α)) (k : Nat) (v : α) : Tab.find? (Tab.ins t k v) k = some v := by
  induction t with
  | nil => simp [Tab.ins, Tab.find?]
  | cons c t ih =>
    obtain ⟨i, u⟩ := c
    simp only [Tab.ins]
    split
    · simp [Tab.find?]
    · split
      · simp [Tab.find?]
      · rename_i h1 h2
        simp [Tab.find?, h1, h2, ih]

/-- Listing a key leaves every other key alone, in any table. -/
theorem Tab.find_ins_ne (t : List (Nat × α)) (k j : Nat) (v : α) (h : j ≠ k) : Tab.find? (Tab.ins t k v) j = Tab.find? t j := by
  induction t with
  | nil => simp [Tab.ins, Tab.find?, Ne.symm h]
  | cons c t ih =>
    obtain ⟨i, u⟩ := c
    simp only [Tab.ins]
    split
    · rename_i e
      subst e
      simp [Tab.find?, Ne.symm h]
    · split
      · rename_i h1 h2
        by_cases hk : j < k
        · have : j < i := by omega
          simp [Tab.find?, Ne.symm h, hk, this, show i ≠ j by omega]
        · simp [Tab.find?, Ne.symm h, hk]
      · rename_i h1 h2
        simp [Tab.find?, ih]

/-- A table in canonical form holds no entry for a key removed from it. -/
theorem Tab.find_del_same [DecidableEq α] (d : α) (t : List (Nat × α)) (k : Nat) (h : Tab.wf d t = true) : Tab.find? (Tab.del t k) k = none := by
  induction t with
  | nil => rfl
  | cons c t ih =>
    obtain ⟨i, v⟩ := c
    simp only [Tab.wf, Bool.and_eq_true] at h
    simp only [Tab.del]
    split
    · rename_i e
      subst e
      exact Tab.find_above t i i h.1.2 (le_refl i)
    · split
      · rename_i h1 h2
        simp [Tab.find?, h1, h2]
      · rename_i h1 h2
        simp [Tab.find?, h1, h2, ih h.2]

/-- Removing a key leaves every other key of a table in canonical form alone. -/
theorem Tab.find_del_ne [DecidableEq α] (d : α) (t : List (Nat × α)) (k j : Nat) (h : Tab.wf d t = true) (hj : j ≠ k) :
    Tab.find? (Tab.del t k) j = Tab.find? t j := by
  induction t with
  | nil => rfl
  | cons c t ih =>
    obtain ⟨i, v⟩ := c
    simp only [Tab.wf, Bool.and_eq_true] at h
    simp only [Tab.del]
    split
    · rename_i e
      subst e
      by_cases hlt : j < i
      · rw [Tab.find_above t i j h.1.2 (by omega)]
        simp [Tab.find?, Ne.symm hj, hlt]
      · simp [Tab.find?, Ne.symm hj, hlt]
    · split
      · rfl
      · simp [Tab.find?, ih h.2]

/-- Keys above a bound stay above it when a higher key is listed. -/
theorem Tab.above_ins (t : List (Nat × α)) (b k : Nat) (v : α) (h : Tab.above b t = true) (hk : b < k) : Tab.above b (Tab.ins t k v) = true := by
  cases t with
  | nil => simpa [Tab.ins, Tab.above] using hk
  | cons c t =>
    obtain ⟨i, u⟩ := c
    simp only [Tab.ins]
    split
    · simpa [Tab.above] using hk
    · split
      · simpa [Tab.above] using hk
      · simpa [Tab.above] using h

/-- Keys above a lower bound lie above a bound below it. -/
theorem Tab.above_trans (t : List (Nat × α)) (a b : Nat) (h : Tab.above b t = true) (hab : a ≤ b) : Tab.above a t = true := by
  cases t with
  | nil => rfl
  | cons c t => simp [Tab.above] at h ⊢; omega

/-- Listing a value other than the default keeps the canonical form. -/
theorem Tab.wf_ins [DecidableEq α] (d : α) (t : List (Nat × α)) (k : Nat) (v : α) (h : Tab.wf d t = true) (hv : v ≠ d) :
    Tab.wf d (Tab.ins t k v) = true := by
  induction t with
  | nil => simp [Tab.ins, Tab.wf, Tab.above, hv]
  | cons c t ih =>
    obtain ⟨i, u⟩ := c
    simp only [Tab.wf, Bool.and_eq_true] at h
    simp only [Tab.ins]
    split
    · rename_i e
      subst e
      simp [Tab.wf, hv, h.1.2, h.2]
    · split
      · rename_i h1 h2
        simp only [Tab.wf, Bool.and_eq_true]
        exact ⟨⟨by simpa using hv, by simpa [Tab.above] using h2⟩, ⟨h.1, h.2⟩⟩
      · rename_i h1 h2
        simp only [Tab.wf, Bool.and_eq_true]
        exact ⟨⟨h.1.1, Tab.above_ins t i k v h.1.2 (by omega)⟩, ih h.2⟩

/-- Removing a key keeps the canonical form. -/
theorem Tab.wf_del [DecidableEq α] (d : α) (t : List (Nat × α)) (k : Nat) (h : Tab.wf d t = true) : Tab.wf d (Tab.del t k) = true := by
  have key : ∀ (t : List (Nat × α)) (b : Nat), Tab.wf d t = true → Tab.above b t = true → Tab.above b (Tab.del t k) = true := by
    intro t b hw hb
    cases t with
    | nil => rfl
    | cons c t =>
      obtain ⟨i, u⟩ := c
      simp only [Tab.wf, Bool.and_eq_true] at hw
      have hbi : b < i := by simpa [Tab.above] using hb
      simp only [Tab.del]
      split
      · exact Tab.above_trans t b i hw.1.2 (by omega)
      · split
        · exact hb
        · simpa [Tab.above] using hb
  induction t with
  | nil => rfl
  | cons c t ih =>
    obtain ⟨i, u⟩ := c
    have h0 := h
    simp only [Tab.wf, Bool.and_eq_true] at h
    simp only [Tab.del]
    split
    · exact h.2
    · split
      · exact h0
      · simp only [Tab.wf, Bool.and_eq_true]
        exact ⟨⟨h.1.1, key t i h.2 h.1.2⟩, ih h.2⟩

/-- A write keeps the canonical form. -/
theorem Tab.wf_put [DecidableEq α] (d : α) (t : List (Nat × α)) (k : Nat) (v : α) (h : Tab.wf d t = true) : Tab.wf d (Tab.put d t k v) = true := by
  unfold Tab.put
  split
  · exact Tab.wf_del d t k h
  · rename_i hv
    exact Tab.wf_ins d t k v h hv

/-- A read after a write of the same key gives what was written. -/
theorem Tab.get_put_same [DecidableEq α] (d : α) (t : List (Nat × α)) (k : Nat) (v : α) (h : Tab.wf d t = true) : Tab.get d (Tab.put d t k v) k = v := by
  unfold Tab.get Tab.put
  split
  · rename_i e
    rw [Tab.find_del_same d t k h, e]
    rfl
  · rw [Tab.find_ins_same]
    rfl

/-- A write leaves every other key alone. -/
theorem Tab.get_put_ne [DecidableEq α] (d : α) (t : List (Nat × α)) (k j : Nat) (v : α) (h : Tab.wf d t = true) (hj : j ≠ k) :
    Tab.get d (Tab.put d t k v) j = Tab.get d t j := by
  unfold Tab.get Tab.put
  split
  · rw [Tab.find_del_ne d t k j h hj]
  · rw [Tab.find_ins_ne t k j v hj]

/-- A write of one byte keeps the canonical form. -/
theorem Memory.wf_write (d : Byte) (m : List (Nat × Byte)) (a : Nat) (b : Byte) (h : Memory.wf d m = true) :
    Memory.wf d (Memory.write d m a b) = true := Tab.wf_put d m a b h

/-- A write of bytes keeps the canonical form. -/
theorem Memory.wf_writeN (d : Byte) (bs : List Byte) (m : List (Nat × Byte)) (a : Nat) (h : Memory.wf d m = true) :
    Memory.wf d (Memory.writeN d m a bs) = true := by
  induction bs generalizing m a with
  | nil => exact h
  | cons b bs ih => exact ih _ _ (Memory.wf_write d m a b h)

/-- Every key of a filtered table lies above what lay below all keys. -/
theorem Tab.above_filter [DecidableEq α] (d : α) (p : Nat × α → Bool) (t : List (Nat × α)) (b : Nat) (hw : Tab.wf d t = true)
    (h : Tab.above b t = true) : Tab.above b (t.filter p) = true := by
  induction t generalizing b with
  | nil => rfl
  | cons c t ih =>
    obtain ⟨i, u⟩ := c
    simp only [Tab.wf, Bool.and_eq_true] at hw
    have hbi : b < i := by simpa [Tab.above] using h
    simp only [List.filter_cons]
    split
    · simpa [Tab.above] using hbi
    · exact ih b hw.2 (Tab.above_trans t b i hw.1.2 (by omega))

/-- Leaving entries out keeps the canonical form. -/
theorem Tab.wf_filter [DecidableEq α] (d : α) (p : Nat × α → Bool) (t : List (Nat × α)) (h : Tab.wf d t = true) : Tab.wf d (t.filter p) = true := by
  induction t with
  | nil => rfl
  | cons c t ih =>
    obtain ⟨i, u⟩ := c
    simp only [Tab.wf, Bool.and_eq_true] at h
    simp only [List.filter_cons]
    split
    · simp only [Tab.wf, Bool.and_eq_true]
      exact ⟨⟨h.1.1, Tab.above_filter d p t i h.2 h.1.2⟩, ih h.2⟩
    · exact ih h.2

/-- Clearing a range keeps the canonical form. -/
theorem Memory.wf_clear (d : Byte) (m : List (Nat × Byte)) (a n : Nat) (h : Memory.wf d m = true) : Memory.wf d (Memory.clear m a n) = true :=
  Tab.wf_filter d _ m h

end Sys2Proof.Machine
end

