-- ==== Sys2Proof/Laws/State.lean ====
section
/-! SUPPORT. Laws of the operations every block shares: which fields of the part each leaves as they are, and what the registers read after
a write. -/
namespace Sys2Proof.Machine

@[simp] theorem Dev.at_free (d : Dev) (t : Nat) : (d.at t).free = d.free := rfl
@[simp] theorem Dev.at_regs (d : Dev) (t : Nat) : (d.at t).regs = d.regs := rfl
@[simp] theorem Dev.at_snap (d : Dev) (t : Nat) : (d.at t).snap = d.snap := rfl
@[simp] theorem Dev.at_links (d : Dev) (t : Nat) : (d.at t).links = d.links := rfl
@[simp] theorem Dev.at_sw (d : Dev) (t : Nat) : (d.at t).sw = d.sw := rfl
@[simp] theorem Dev.at_ten (d : Dev) (t : Nat) : (d.at t).ten = d.ten := rfl
@[simp] theorem Dev.at_home (d : Dev) (t : Nat) : (d.at t).home = d.home := rfl
@[simp] theorem Dev.at_store (d : Dev) (t : Nat) : (d.at t).store = d.store := rfl
@[simp] theorem Dev.at_ras (d : Dev) (t : Nat) : (d.at t).ras = d.ras := rfl
@[simp] theorem Dev.at_host (d : Dev) (t : Nat) : (d.at t).host = d.host := rfl
@[simp] theorem Dev.at_ctrs (d : Dev) (t : Nat) : (d.at t).ctrs = d.ctrs := rfl
@[simp] theorem Dev.at_dmem (d : Dev) (t : Nat) : (d.at t).dmem = d.dmem := rfl
@[simp] theorem Dev.at_upset (d : Dev) (t : Nat) : (d.at t).upset = d.upset := rfl
@[simp] theorem Dev.at_spa (d : Dev) (t : Nat) : (d.at t).spa = d.spa := rfl
@[simp] theorem Dev.at_results (d : Dev) (t : Nat) : (d.at t).results = d.results := rfl
@[simp] theorem Dev.at_heats (d : Dev) (t : Nat) : (d.at t).heats = d.heats := rfl
@[simp] theorem Dev.at_grt (d : Dev) (t : Nat) : (d.at t).grt = d.grt := rfl
@[simp] theorem Dev.at_boot (d : Dev) (t : Nat) : (d.at t).boot = d.boot := rfl

@[simp] theorem Dev.tick_free (d : Dev) : (d.tick).free = d.free := rfl
@[simp] theorem Dev.tick_regs (d : Dev) : (d.tick).regs = d.regs := rfl
@[simp] theorem Dev.tick_snap (d : Dev) : (d.tick).snap = d.snap := rfl
@[simp] theorem Dev.tick_links (d : Dev) : (d.tick).links = d.links := rfl
@[simp] theorem Dev.tick_sw (d : Dev) : (d.tick).sw = d.sw := rfl
@[simp] theorem Dev.tick_ten (d : Dev) : (d.tick).ten = d.ten := rfl
@[simp] theorem Dev.tick_home (d : Dev) : (d.tick).home = d.home := rfl
@[simp] theorem Dev.tick_store (d : Dev) : (d.tick).store = d.store := rfl
@[simp] theorem Dev.tick_ras (d : Dev) : (d.tick).ras = d.ras := rfl
@[simp] theorem Dev.tick_host (d : Dev) : (d.tick).host = d.host := rfl
@[simp] theorem Dev.tick_ctrs (d : Dev) : (d.tick).ctrs = d.ctrs := rfl
@[simp] theorem Dev.tick_dmem (d : Dev) : (d.tick).dmem = d.dmem := rfl
@[simp] theorem Dev.tick_upset (d : Dev) : (d.tick).upset = d.upset := rfl
@[simp] theorem Dev.tick_spa (d : Dev) : (d.tick).spa = d.spa := rfl
@[simp] theorem Dev.tick_results (d : Dev) : (d.tick).results = d.results := rfl
@[simp] theorem Dev.tick_heats (d : Dev) : (d.tick).heats = d.heats := rfl
@[simp] theorem Dev.tick_grt (d : Dev) : (d.tick).grt = d.grt := rfl
@[simp] theorem Dev.tick_boot (d : Dev) : (d.tick).boot = d.boot := rfl

@[simp] theorem Dev.setReg_time (d : Dev) (r : RegRef) (v : Nat) : (d.setReg r v).time = d.time := rfl
@[simp] theorem Dev.setReg_free (d : Dev) (r : RegRef) (v : Nat) : (d.setReg r v).free = d.free := rfl
@[simp] theorem Dev.setReg_snap (d : Dev) (r : RegRef) (v : Nat) : (d.setReg r v).snap = d.snap := rfl
@[simp] theorem Dev.setReg_links (d : Dev) (r : RegRef) (v : Nat) : (d.setReg r v).links = d.links := rfl
@[simp] theorem Dev.setReg_sw (d : Dev) (r : RegRef) (v : Nat) : (d.setReg r v).sw = d.sw := rfl
@[simp] theorem Dev.setReg_ten (d : Dev) (r : RegRef) (v : Nat) : (d.setReg r v).ten = d.ten := rfl
@[simp] theorem Dev.setReg_home (d : Dev) (r : RegRef) (v : Nat) : (d.setReg r v).home = d.home := rfl
@[simp] theorem Dev.setReg_store (d : Dev) (r : RegRef) (v : Nat) : (d.setReg r v).store = d.store := rfl
@[simp] theorem Dev.setReg_ras (d : Dev) (r : RegRef) (v : Nat) : (d.setReg r v).ras = d.ras := rfl
@[simp] theorem Dev.setReg_host (d : Dev) (r : RegRef) (v : Nat) : (d.setReg r v).host = d.host := rfl
@[simp] theorem Dev.setReg_ctrs (d : Dev) (r : RegRef) (v : Nat) : (d.setReg r v).ctrs = d.ctrs := rfl
@[simp] theorem Dev.setReg_dmem (d : Dev) (r : RegRef) (v : Nat) : (d.setReg r v).dmem = d.dmem := rfl
@[simp] theorem Dev.setReg_upset (d : Dev) (r : RegRef) (v : Nat) : (d.setReg r v).upset = d.upset := rfl
@[simp] theorem Dev.setReg_spa (d : Dev) (r : RegRef) (v : Nat) : (d.setReg r v).spa = d.spa := rfl
@[simp] theorem Dev.setReg_results (d : Dev) (r : RegRef) (v : Nat) : (d.setReg r v).results = d.results := rfl
@[simp] theorem Dev.setReg_heats (d : Dev) (r : RegRef) (v : Nat) : (d.setReg r v).heats = d.heats := rfl
@[simp] theorem Dev.setReg_grt (d : Dev) (r : RegRef) (v : Nat) : (d.setReg r v).grt = d.grt := rfl
@[simp] theorem Dev.setReg_boot (d : Dev) (r : RegRef) (v : Nat) : (d.setReg r v).boot = d.boot := rfl

@[simp] theorem Dev.set_time (d : Dev) (f : Fld) (v : Nat) : (d.set f v).time = d.time := rfl
@[simp] theorem Dev.set_free (d : Dev) (f : Fld) (v : Nat) : (d.set f v).free = d.free := rfl
@[simp] theorem Dev.set_snap (d : Dev) (f : Fld) (v : Nat) : (d.set f v).snap = d.snap := rfl
@[simp] theorem Dev.set_links (d : Dev) (f : Fld) (v : Nat) : (d.set f v).links = d.links := rfl
@[simp] theorem Dev.set_sw (d : Dev) (f : Fld) (v : Nat) : (d.set f v).sw = d.sw := rfl
@[simp] theorem Dev.set_ten (d : Dev) (f : Fld) (v : Nat) : (d.set f v).ten = d.ten := rfl
@[simp] theorem Dev.set_home (d : Dev) (f : Fld) (v : Nat) : (d.set f v).home = d.home := rfl
@[simp] theorem Dev.set_store (d : Dev) (f : Fld) (v : Nat) : (d.set f v).store = d.store := rfl
@[simp] theorem Dev.set_ras (d : Dev) (f : Fld) (v : Nat) : (d.set f v).ras = d.ras := rfl
@[simp] theorem Dev.set_host (d : Dev) (f : Fld) (v : Nat) : (d.set f v).host = d.host := rfl
@[simp] theorem Dev.set_ctrs (d : Dev) (f : Fld) (v : Nat) : (d.set f v).ctrs = d.ctrs := rfl
@[simp] theorem Dev.set_dmem (d : Dev) (f : Fld) (v : Nat) : (d.set f v).dmem = d.dmem := rfl
@[simp] theorem Dev.set_upset (d : Dev) (f : Fld) (v : Nat) : (d.set f v).upset = d.upset := rfl
@[simp] theorem Dev.set_spa (d : Dev) (f : Fld) (v : Nat) : (d.set f v).spa = d.spa := rfl
@[simp] theorem Dev.set_results (d : Dev) (f : Fld) (v : Nat) : (d.set f v).results = d.results := rfl
@[simp] theorem Dev.set_heats (d : Dev) (f : Fld) (v : Nat) : (d.set f v).heats = d.heats := rfl
@[simp] theorem Dev.set_grt (d : Dev) (f : Fld) (v : Nat) : (d.set f v).grt = d.grt := rfl
@[simp] theorem Dev.set_boot (d : Dev) (f : Fld) (v : Nat) : (d.set f v).boot = d.boot := rfl

@[simp] theorem Dev.bumpBy_time (d : Dev) (r : RegRef) (n : Nat) : (d.bumpBy r n).time = d.time := rfl
@[simp] theorem Dev.bumpBy_free (d : Dev) (r : RegRef) (n : Nat) : (d.bumpBy r n).free = d.free := rfl
@[simp] theorem Dev.bumpBy_snap (d : Dev) (r : RegRef) (n : Nat) : (d.bumpBy r n).snap = d.snap := rfl
@[simp] theorem Dev.bumpBy_links (d : Dev) (r : RegRef) (n : Nat) : (d.bumpBy r n).links = d.links := rfl
@[simp] theorem Dev.bumpBy_sw (d : Dev) (r : RegRef) (n : Nat) : (d.bumpBy r n).sw = d.sw := rfl
@[simp] theorem Dev.bumpBy_ten (d : Dev) (r : RegRef) (n : Nat) : (d.bumpBy r n).ten = d.ten := rfl
@[simp] theorem Dev.bumpBy_home (d : Dev) (r : RegRef) (n : Nat) : (d.bumpBy r n).home = d.home := rfl
@[simp] theorem Dev.bumpBy_store (d : Dev) (r : RegRef) (n : Nat) : (d.bumpBy r n).store = d.store := rfl
@[simp] theorem Dev.bumpBy_ras (d : Dev) (r : RegRef) (n : Nat) : (d.bumpBy r n).ras = d.ras := rfl
@[simp] theorem Dev.bumpBy_host (d : Dev) (r : RegRef) (n : Nat) : (d.bumpBy r n).host = d.host := rfl
@[simp] theorem Dev.bumpBy_ctrs (d : Dev) (r : RegRef) (n : Nat) : (d.bumpBy r n).ctrs = d.ctrs := rfl
@[simp] theorem Dev.bumpBy_dmem (d : Dev) (r : RegRef) (n : Nat) : (d.bumpBy r n).dmem = d.dmem := rfl
@[simp] theorem Dev.bumpBy_upset (d : Dev) (r : RegRef) (n : Nat) : (d.bumpBy r n).upset = d.upset := rfl
@[simp] theorem Dev.bumpBy_spa (d : Dev) (r : RegRef) (n : Nat) : (d.bumpBy r n).spa = d.spa := rfl
@[simp] theorem Dev.bumpBy_results (d : Dev) (r : RegRef) (n : Nat) : (d.bumpBy r n).results = d.results := rfl
@[simp] theorem Dev.bumpBy_heats (d : Dev) (r : RegRef) (n : Nat) : (d.bumpBy r n).heats = d.heats := rfl
@[simp] theorem Dev.bumpBy_grt (d : Dev) (r : RegRef) (n : Nat) : (d.bumpBy r n).grt = d.grt := rfl
@[simp] theorem Dev.bumpBy_boot (d : Dev) (r : RegRef) (n : Nat) : (d.bumpBy r n).boot = d.boot := rfl

@[simp] theorem Dev.bump_time (d : Dev) (r : RegRef) : (d.bump r).time = d.time := rfl
@[simp] theorem Dev.bump_free (d : Dev) (r : RegRef) : (d.bump r).free = d.free := rfl
@[simp] theorem Dev.bump_snap (d : Dev) (r : RegRef) : (d.bump r).snap = d.snap := rfl
@[simp] theorem Dev.bump_links (d : Dev) (r : RegRef) : (d.bump r).links = d.links := rfl
@[simp] theorem Dev.bump_sw (d : Dev) (r : RegRef) : (d.bump r).sw = d.sw := rfl
@[simp] theorem Dev.bump_ten (d : Dev) (r : RegRef) : (d.bump r).ten = d.ten := rfl
@[simp] theorem Dev.bump_home (d : Dev) (r : RegRef) : (d.bump r).home = d.home := rfl
@[simp] theorem Dev.bump_store (d : Dev) (r : RegRef) : (d.bump r).store = d.store := rfl
@[simp] theorem Dev.bump_ras (d : Dev) (r : RegRef) : (d.bump r).ras = d.ras := rfl
@[simp] theorem Dev.bump_host (d : Dev) (r : RegRef) : (d.bump r).host = d.host := rfl
@[simp] theorem Dev.bump_ctrs (d : Dev) (r : RegRef) : (d.bump r).ctrs = d.ctrs := rfl
@[simp] theorem Dev.bump_dmem (d : Dev) (r : RegRef) : (d.bump r).dmem = d.dmem := rfl
@[simp] theorem Dev.bump_upset (d : Dev) (r : RegRef) : (d.bump r).upset = d.upset := rfl
@[simp] theorem Dev.bump_spa (d : Dev) (r : RegRef) : (d.bump r).spa = d.spa := rfl
@[simp] theorem Dev.bump_results (d : Dev) (r : RegRef) : (d.bump r).results = d.results := rfl
@[simp] theorem Dev.bump_heats (d : Dev) (r : RegRef) : (d.bump r).heats = d.heats := rfl
@[simp] theorem Dev.bump_grt (d : Dev) (r : RegRef) : (d.bump r).grt = d.grt := rfl
@[simp] theorem Dev.bump_boot (d : Dev) (r : RegRef) : (d.bump r).boot = d.boot := rfl

@[simp] theorem Dev.setLink_time (d : Dev) (p : Nat) (l : PortLink) : (d.setLink p l).time = d.time := rfl
@[simp] theorem Dev.setLink_free (d : Dev) (p : Nat) (l : PortLink) : (d.setLink p l).free = d.free := rfl
@[simp] theorem Dev.setLink_regs (d : Dev) (p : Nat) (l : PortLink) : (d.setLink p l).regs = d.regs := rfl
@[simp] theorem Dev.setLink_snap (d : Dev) (p : Nat) (l : PortLink) : (d.setLink p l).snap = d.snap := rfl
@[simp] theorem Dev.setLink_sw (d : Dev) (p : Nat) (l : PortLink) : (d.setLink p l).sw = d.sw := rfl
@[simp] theorem Dev.setLink_ten (d : Dev) (p : Nat) (l : PortLink) : (d.setLink p l).ten = d.ten := rfl
@[simp] theorem Dev.setLink_home (d : Dev) (p : Nat) (l : PortLink) : (d.setLink p l).home = d.home := rfl
@[simp] theorem Dev.setLink_store (d : Dev) (p : Nat) (l : PortLink) : (d.setLink p l).store = d.store := rfl
@[simp] theorem Dev.setLink_ras (d : Dev) (p : Nat) (l : PortLink) : (d.setLink p l).ras = d.ras := rfl
@[simp] theorem Dev.setLink_host (d : Dev) (p : Nat) (l : PortLink) : (d.setLink p l).host = d.host := rfl
@[simp] theorem Dev.setLink_ctrs (d : Dev) (p : Nat) (l : PortLink) : (d.setLink p l).ctrs = d.ctrs := rfl
@[simp] theorem Dev.setLink_dmem (d : Dev) (p : Nat) (l : PortLink) : (d.setLink p l).dmem = d.dmem := rfl
@[simp] theorem Dev.setLink_upset (d : Dev) (p : Nat) (l : PortLink) : (d.setLink p l).upset = d.upset := rfl
@[simp] theorem Dev.setLink_spa (d : Dev) (p : Nat) (l : PortLink) : (d.setLink p l).spa = d.spa := rfl
@[simp] theorem Dev.setLink_results (d : Dev) (p : Nat) (l : PortLink) : (d.setLink p l).results = d.results := rfl
@[simp] theorem Dev.setLink_heats (d : Dev) (p : Nat) (l : PortLink) : (d.setLink p l).heats = d.heats := rfl
@[simp] theorem Dev.setLink_grt (d : Dev) (p : Nat) (l : PortLink) : (d.setLink p l).grt = d.grt := rfl
@[simp] theorem Dev.setLink_boot (d : Dev) (p : Nat) (l : PortLink) : (d.setLink p l).boot = d.boot := rfl

@[simp] theorem Dev.onLink_time (d : Dev) (p : Nat) (f : PortLink → PortLink) : (d.onLink p f).time = d.time := rfl
@[simp] theorem Dev.onLink_free (d : Dev) (p : Nat) (f : PortLink → PortLink) : (d.onLink p f).free = d.free := rfl
@[simp] theorem Dev.onLink_regs (d : Dev) (p : Nat) (f : PortLink → PortLink) : (d.onLink p f).regs = d.regs := rfl
@[simp] theorem Dev.onLink_snap (d : Dev) (p : Nat) (f : PortLink → PortLink) : (d.onLink p f).snap = d.snap := rfl
@[simp] theorem Dev.onLink_sw (d : Dev) (p : Nat) (f : PortLink → PortLink) : (d.onLink p f).sw = d.sw := rfl
@[simp] theorem Dev.onLink_ten (d : Dev) (p : Nat) (f : PortLink → PortLink) : (d.onLink p f).ten = d.ten := rfl
@[simp] theorem Dev.onLink_home (d : Dev) (p : Nat) (f : PortLink → PortLink) : (d.onLink p f).home = d.home := rfl
@[simp] theorem Dev.onLink_store (d : Dev) (p : Nat) (f : PortLink → PortLink) : (d.onLink p f).store = d.store := rfl
@[simp] theorem Dev.onLink_ras (d : Dev) (p : Nat) (f : PortLink → PortLink) : (d.onLink p f).ras = d.ras := rfl
@[simp] theorem Dev.onLink_host (d : Dev) (p : Nat) (f : PortLink → PortLink) : (d.onLink p f).host = d.host := rfl
@[simp] theorem Dev.onLink_ctrs (d : Dev) (p : Nat) (f : PortLink → PortLink) : (d.onLink p f).ctrs = d.ctrs := rfl
@[simp] theorem Dev.onLink_dmem (d : Dev) (p : Nat) (f : PortLink → PortLink) : (d.onLink p f).dmem = d.dmem := rfl
@[simp] theorem Dev.onLink_upset (d : Dev) (p : Nat) (f : PortLink → PortLink) : (d.onLink p f).upset = d.upset := rfl
@[simp] theorem Dev.onLink_spa (d : Dev) (p : Nat) (f : PortLink → PortLink) : (d.onLink p f).spa = d.spa := rfl
@[simp] theorem Dev.onLink_results (d : Dev) (p : Nat) (f : PortLink → PortLink) : (d.onLink p f).results = d.results := rfl
@[simp] theorem Dev.onLink_heats (d : Dev) (p : Nat) (f : PortLink → PortLink) : (d.onLink p f).heats = d.heats := rfl
@[simp] theorem Dev.onLink_grt (d : Dev) (p : Nat) (f : PortLink → PortLink) : (d.onLink p f).grt = d.grt := rfl
@[simp] theorem Dev.onLink_boot (d : Dev) (p : Nat) (f : PortLink → PortLink) : (d.onLink p f).boot = d.boot := rfl

@[simp] theorem Dev.writeMem_time (d : Dev) (a : Nat) (bs : List Byte) : (d.writeMem a bs).time = d.time := rfl
@[simp] theorem Dev.writeMem_free (d : Dev) (a : Nat) (bs : List Byte) : (d.writeMem a bs).free = d.free := rfl
@[simp] theorem Dev.writeMem_regs (d : Dev) (a : Nat) (bs : List Byte) : (d.writeMem a bs).regs = d.regs := rfl
@[simp] theorem Dev.writeMem_snap (d : Dev) (a : Nat) (bs : List Byte) : (d.writeMem a bs).snap = d.snap := rfl
@[simp] theorem Dev.writeMem_links (d : Dev) (a : Nat) (bs : List Byte) : (d.writeMem a bs).links = d.links := rfl
@[simp] theorem Dev.writeMem_sw (d : Dev) (a : Nat) (bs : List Byte) : (d.writeMem a bs).sw = d.sw := rfl
@[simp] theorem Dev.writeMem_ten (d : Dev) (a : Nat) (bs : List Byte) : (d.writeMem a bs).ten = d.ten := rfl
@[simp] theorem Dev.writeMem_home (d : Dev) (a : Nat) (bs : List Byte) : (d.writeMem a bs).home = d.home := rfl
@[simp] theorem Dev.writeMem_store (d : Dev) (a : Nat) (bs : List Byte) : (d.writeMem a bs).store = d.store := rfl
@[simp] theorem Dev.writeMem_ras (d : Dev) (a : Nat) (bs : List Byte) : (d.writeMem a bs).ras = d.ras := rfl
@[simp] theorem Dev.writeMem_host (d : Dev) (a : Nat) (bs : List Byte) : (d.writeMem a bs).host = d.host := rfl
@[simp] theorem Dev.writeMem_ctrs (d : Dev) (a : Nat) (bs : List Byte) : (d.writeMem a bs).ctrs = d.ctrs := rfl
@[simp] theorem Dev.writeMem_spa (d : Dev) (a : Nat) (bs : List Byte) : (d.writeMem a bs).spa = d.spa := rfl
@[simp] theorem Dev.writeMem_results (d : Dev) (a : Nat) (bs : List Byte) : (d.writeMem a bs).results = d.results := rfl
@[simp] theorem Dev.writeMem_heats (d : Dev) (a : Nat) (bs : List Byte) : (d.writeMem a bs).heats = d.heats := rfl
@[simp] theorem Dev.writeMem_grt (d : Dev) (a : Nat) (bs : List Byte) : (d.writeMem a bs).grt = d.grt := rfl
@[simp] theorem Dev.writeMem_boot (d : Dev) (a : Nat) (bs : List Byte) : (d.writeMem a bs).boot = d.boot := rfl

@[simp] theorem Dev.zeroMem_time (d : Dev) (a n : Nat) : (d.zeroMem a n).time = d.time := rfl
@[simp] theorem Dev.zeroMem_free (d : Dev) (a n : Nat) : (d.zeroMem a n).free = d.free := rfl
@[simp] theorem Dev.zeroMem_regs (d : Dev) (a n : Nat) : (d.zeroMem a n).regs = d.regs := rfl
@[simp] theorem Dev.zeroMem_snap (d : Dev) (a n : Nat) : (d.zeroMem a n).snap = d.snap := rfl
@[simp] theorem Dev.zeroMem_links (d : Dev) (a n : Nat) : (d.zeroMem a n).links = d.links := rfl
@[simp] theorem Dev.zeroMem_sw (d : Dev) (a n : Nat) : (d.zeroMem a n).sw = d.sw := rfl
@[simp] theorem Dev.zeroMem_ten (d : Dev) (a n : Nat) : (d.zeroMem a n).ten = d.ten := rfl
@[simp] theorem Dev.zeroMem_home (d : Dev) (a n : Nat) : (d.zeroMem a n).home = d.home := rfl
@[simp] theorem Dev.zeroMem_store (d : Dev) (a n : Nat) : (d.zeroMem a n).store = d.store := rfl
@[simp] theorem Dev.zeroMem_ras (d : Dev) (a n : Nat) : (d.zeroMem a n).ras = d.ras := rfl
@[simp] theorem Dev.zeroMem_host (d : Dev) (a n : Nat) : (d.zeroMem a n).host = d.host := rfl
@[simp] theorem Dev.zeroMem_ctrs (d : Dev) (a n : Nat) : (d.zeroMem a n).ctrs = d.ctrs := rfl
@[simp] theorem Dev.zeroMem_spa (d : Dev) (a n : Nat) : (d.zeroMem a n).spa = d.spa := rfl
@[simp] theorem Dev.zeroMem_results (d : Dev) (a n : Nat) : (d.zeroMem a n).results = d.results := rfl
@[simp] theorem Dev.zeroMem_heats (d : Dev) (a n : Nat) : (d.zeroMem a n).heats = d.heats := rfl
@[simp] theorem Dev.zeroMem_grt (d : Dev) (a n : Nat) : (d.zeroMem a n).grt = d.grt := rfl
@[simp] theorem Dev.zeroMem_boot (d : Dev) (a n : Nat) : (d.zeroMem a n).boot = d.boot := rfl

@[simp] theorem Dev.writeSpa_time (d : Dev) (t a : Nat) (bs : List Byte) : (d.writeSpa t a bs).time = d.time := rfl
@[simp] theorem Dev.writeSpa_free (d : Dev) (t a : Nat) (bs : List Byte) : (d.writeSpa t a bs).free = d.free := rfl
@[simp] theorem Dev.writeSpa_regs (d : Dev) (t a : Nat) (bs : List Byte) : (d.writeSpa t a bs).regs = d.regs := rfl
@[simp] theorem Dev.writeSpa_snap (d : Dev) (t a : Nat) (bs : List Byte) : (d.writeSpa t a bs).snap = d.snap := rfl
@[simp] theorem Dev.writeSpa_links (d : Dev) (t a : Nat) (bs : List Byte) : (d.writeSpa t a bs).links = d.links := rfl
@[simp] theorem Dev.writeSpa_sw (d : Dev) (t a : Nat) (bs : List Byte) : (d.writeSpa t a bs).sw = d.sw := rfl
@[simp] theorem Dev.writeSpa_ten (d : Dev) (t a : Nat) (bs : List Byte) : (d.writeSpa t a bs).ten = d.ten := rfl
@[simp] theorem Dev.writeSpa_home (d : Dev) (t a : Nat) (bs : List Byte) : (d.writeSpa t a bs).home = d.home := rfl
@[simp] theorem Dev.writeSpa_store (d : Dev) (t a : Nat) (bs : List Byte) : (d.writeSpa t a bs).store = d.store := rfl
@[simp] theorem Dev.writeSpa_ras (d : Dev) (t a : Nat) (bs : List Byte) : (d.writeSpa t a bs).ras = d.ras := rfl
@[simp] theorem Dev.writeSpa_host (d : Dev) (t a : Nat) (bs : List Byte) : (d.writeSpa t a bs).host = d.host := rfl
@[simp] theorem Dev.writeSpa_ctrs (d : Dev) (t a : Nat) (bs : List Byte) : (d.writeSpa t a bs).ctrs = d.ctrs := rfl
@[simp] theorem Dev.writeSpa_dmem (d : Dev) (t a : Nat) (bs : List Byte) : (d.writeSpa t a bs).dmem = d.dmem := rfl
@[simp] theorem Dev.writeSpa_upset (d : Dev) (t a : Nat) (bs : List Byte) : (d.writeSpa t a bs).upset = d.upset := rfl
@[simp] theorem Dev.writeSpa_results (d : Dev) (t a : Nat) (bs : List Byte) : (d.writeSpa t a bs).results = d.results := rfl
@[simp] theorem Dev.writeSpa_heats (d : Dev) (t a : Nat) (bs : List Byte) : (d.writeSpa t a bs).heats = d.heats := rfl
@[simp] theorem Dev.writeSpa_grt (d : Dev) (t a : Nat) (bs : List Byte) : (d.writeSpa t a bs).grt = d.grt := rfl
@[simp] theorem Dev.writeSpa_boot (d : Dev) (t a : Nat) (bs : List Byte) : (d.writeSpa t a bs).boot = d.boot := rfl

@[simp] theorem Dev.toHost_time (d : Dev) (o : HostOut) : (d.toHost o).time = d.time := rfl
@[simp] theorem Dev.toHost_free (d : Dev) (o : HostOut) : (d.toHost o).free = d.free := rfl
@[simp] theorem Dev.toHost_regs (d : Dev) (o : HostOut) : (d.toHost o).regs = d.regs := rfl
@[simp] theorem Dev.toHost_snap (d : Dev) (o : HostOut) : (d.toHost o).snap = d.snap := rfl
@[simp] theorem Dev.toHost_links (d : Dev) (o : HostOut) : (d.toHost o).links = d.links := rfl
@[simp] theorem Dev.toHost_sw (d : Dev) (o : HostOut) : (d.toHost o).sw = d.sw := rfl
@[simp] theorem Dev.toHost_ten (d : Dev) (o : HostOut) : (d.toHost o).ten = d.ten := rfl
@[simp] theorem Dev.toHost_home (d : Dev) (o : HostOut) : (d.toHost o).home = d.home := rfl
@[simp] theorem Dev.toHost_store (d : Dev) (o : HostOut) : (d.toHost o).store = d.store := rfl
@[simp] theorem Dev.toHost_ras (d : Dev) (o : HostOut) : (d.toHost o).ras = d.ras := rfl
@[simp] theorem Dev.toHost_ctrs (d : Dev) (o : HostOut) : (d.toHost o).ctrs = d.ctrs := rfl
@[simp] theorem Dev.toHost_dmem (d : Dev) (o : HostOut) : (d.toHost o).dmem = d.dmem := rfl
@[simp] theorem Dev.toHost_upset (d : Dev) (o : HostOut) : (d.toHost o).upset = d.upset := rfl
@[simp] theorem Dev.toHost_spa (d : Dev) (o : HostOut) : (d.toHost o).spa = d.spa := rfl
@[simp] theorem Dev.toHost_results (d : Dev) (o : HostOut) : (d.toHost o).results = d.results := rfl
@[simp] theorem Dev.toHost_heats (d : Dev) (o : HostOut) : (d.toHost o).heats = d.heats := rfl
@[simp] theorem Dev.toHost_grt (d : Dev) (o : HostOut) : (d.toHost o).grt = d.grt := rfl
@[simp] theorem Dev.toHost_boot (d : Dev) (o : HostOut) : (d.toHost o).boot = d.boot := rfl

@[simp] theorem Dev.setRing_time (d : Dev) (fn kind index : Nat) (r : Ring) : (d.setRing fn kind index r).time = d.time := rfl
@[simp] theorem Dev.setRing_free (d : Dev) (fn kind index : Nat) (r : Ring) : (d.setRing fn kind index r).free = d.free := rfl
@[simp] theorem Dev.setRing_regs (d : Dev) (fn kind index : Nat) (r : Ring) : (d.setRing fn kind index r).regs = d.regs := rfl
@[simp] theorem Dev.setRing_snap (d : Dev) (fn kind index : Nat) (r : Ring) : (d.setRing fn kind index r).snap = d.snap := rfl
@[simp] theorem Dev.setRing_links (d : Dev) (fn kind index : Nat) (r : Ring) : (d.setRing fn kind index r).links = d.links := rfl
@[simp] theorem Dev.setRing_sw (d : Dev) (fn kind index : Nat) (r : Ring) : (d.setRing fn kind index r).sw = d.sw := rfl
@[simp] theorem Dev.setRing_ten (d : Dev) (fn kind index : Nat) (r : Ring) : (d.setRing fn kind index r).ten = d.ten := rfl
@[simp] theorem Dev.setRing_home (d : Dev) (fn kind index : Nat) (r : Ring) : (d.setRing fn kind index r).home = d.home := rfl
@[simp] theorem Dev.setRing_store (d : Dev) (fn kind index : Nat) (r : Ring) : (d.setRing fn kind index r).store = d.store := rfl
@[simp] theorem Dev.setRing_ras (d : Dev) (fn kind index : Nat) (r : Ring) : (d.setRing fn kind index r).ras = d.ras := rfl
@[simp] theorem Dev.setRing_ctrs (d : Dev) (fn kind index : Nat) (r : Ring) : (d.setRing fn kind index r).ctrs = d.ctrs := rfl
@[simp] theorem Dev.setRing_dmem (d : Dev) (fn kind index : Nat) (r : Ring) : (d.setRing fn kind index r).dmem = d.dmem := rfl
@[simp] theorem Dev.setRing_upset (d : Dev) (fn kind index : Nat) (r : Ring) : (d.setRing fn kind index r).upset = d.upset := rfl
@[simp] theorem Dev.setRing_spa (d : Dev) (fn kind index : Nat) (r : Ring) : (d.setRing fn kind index r).spa = d.spa := rfl
@[simp] theorem Dev.setRing_results (d : Dev) (fn kind index : Nat) (r : Ring) : (d.setRing fn kind index r).results = d.results := rfl
@[simp] theorem Dev.setRing_heats (d : Dev) (fn kind index : Nat) (r : Ring) : (d.setRing fn kind index r).heats = d.heats := rfl
@[simp] theorem Dev.setRing_grt (d : Dev) (fn kind index : Nat) (r : Ring) : (d.setRing fn kind index r).grt = d.grt := rfl
@[simp] theorem Dev.setRing_boot (d : Dev) (fn kind index : Nat) (r : Ring) : (d.setRing fn kind index r).boot = d.boot := rfl

/-- `Dev.at` never moves the time base back (R189). -/
@[simp] theorem Dev.at_time (d : Dev) (t : Nat) : (d.at t).time = max d.time t := rfl

/-- A time not after the time base leaves the part as it is. -/
theorem Dev.at_past (d : Dev) (t : Nat) (h : t ≤ d.time) : d.at t = d := by
  unfold Dev.at
  rw [max_eq_left h]

/-- A key is found in a rising table where it was put in. -/
theorem Tab.find_del_rising {α : Type} (t : List (Nat × α)) (k : Nat) (h : (t.map Prod.fst).Pairwise (· < ·)) :
    Tab.find? (Tab.del t k) k = none := by
  induction t with
  | nil => rfl
  | cons c t ih =>
    obtain ⟨i, v⟩ := c
    simp only [List.map_cons, List.pairwise_cons] at h
    simp only [Tab.del]
    split
    · rename_i e
      subst e
      apply Tab.find_above t i i _ (le_refl i)
      cases t with
      | nil => rfl
      | cons c t =>
        obtain ⟨j, w⟩ := c
        simpa [Tab.above] using h.1 j (by simp)
    · split
      · rename_i h1 h2
        simp [Tab.find?, h1, h2]
      · rename_i h1 h2
        simp [Tab.find?, h1, h2, ih h.2]

/-- A key taken out of a rising table leaves every other key where it is. -/
theorem Tab.find_del_rising_ne {α : Type} (t : List (Nat × α)) (k j : Nat) (h : (t.map Prod.fst).Pairwise (· < ·)) (hj : j ≠ k) :
    Tab.find? (Tab.del t k) j = Tab.find? t j := by
  induction t with
  | nil => rfl
  | cons c t ih =>
    obtain ⟨i, v⟩ := c
    simp only [List.map_cons, List.pairwise_cons] at h
    simp only [Tab.del]
    split
    · rename_i e
      subst e
      by_cases hlt : j < i
      · have : Tab.find? t j = none := by
          cases t with
          | nil => rfl
          | cons c t =>
            obtain ⟨m, w⟩ := c
            have hm : i < m := h.1 m (by simp)
            rw [Tab.find?, if_neg (by omega), if_pos (by omega)]
        rw [this]
        simp [Tab.find?, Ne.symm hj, hlt]
      · simp [Tab.find?, Ne.symm hj, hlt]
    · split
      · rfl
      · simp [Tab.find?, ih h.2]

/-- A register reads what was written to it. -/
theorem Dev.reg_setReg_same (d : Dev) (r : RegRef) (v : Nat) (h : (d.regs.map Prod.fst).Pairwise (· < ·)) : (d.setReg r v).reg r = v := by
  unfold Dev.reg Dev.setReg
  dsimp only
  split
  · rename_i e
    rw [Tab.find_del_rising d.regs r.addr h, e]
    rfl
  · rw [Tab.find_ins_same]
    rfl

/-- A write of a register leaves every register at another address alone. -/
theorem Dev.reg_setReg_ne (d : Dev) (r q : RegRef) (v : Nat) (h : (d.regs.map Prod.fst).Pairwise (· < ·)) (hq : q.addr ≠ r.addr) :
    (d.setReg r v).reg q = d.reg q := by
  unfold Dev.reg Dev.setReg
  dsimp only
  split
  · rw [Tab.find_del_rising_ne d.regs r.addr q.addr h hq]
  · rw [Tab.find_ins_ne d.regs r.addr q.addr v hq]

/-- A part at rest settles to itself. -/
theorem Dev.settle_calm (d : Dev) (h : d.calm = true) : d.settle = d := by
  unfold Dev.settle
  rw [if_pos h]

/-- A command of the part answers a next state with the queue, the fuses and the flash as they were. -/
theorem act_next (s : State) (t : Nat) (f : Dev → Dev) : act s t f = .next { s with dev := (f (s.dev.at t)).settle } := rfl

end Sys2Proof.Machine
end

