-- ==== Sys2Proof/Laws/Commands.lean ====
section
/-! SUPPORT. Laws of what every command goes through: it answers a next state with queue, fuses and flash as they are, its end carries
on what it has set going, and a ring command starts, waits or is turned away. -/
namespace Sys2Proof.Machine

/-- What a command over the part answers: everything beside the part stays. -/
theorem onDev_answers (s t : State) (n : Nat) (f : Dev → Dev) :
    onDev s n f = .next t ↔ t.pending = s.pending ∧ t.fuse = s.fuse ∧ t.flash = s.flash ∧ t.dev = f (s.dev.at n) := by
  constructor
  · intro h
    cases h
    exact ⟨rfl, rfl, rfl, rfl⟩
  · rintro ⟨h1, h2, h3, h4⟩
    obtain ⟨p, u, l, d⟩ := t
    simp only at h1 h2 h3 h4
    subst h1 h2 h3 h4
    rfl

/-- `act` is `onDev` with the work set going carried on. -/
theorem act_answers (s t : State) (n : Nat) (f : Dev → Dev) :
    act s n f = .next t ↔ t.pending = s.pending ∧ t.fuse = s.fuse ∧ t.flash = s.flash ∧ t.dev = (f (s.dev.at n)).settle :=
  onDev_answers s t n _

/-- A step with nothing queued lets one ns pass. -/
theorem step_idle (s : State) (h : s.pending = []) : step s = .next { s with dev := s.dev.tick } := by simp [step, h]

/-- A register of PF0 takes a write once the host reaches the part. -/
theorem Dev.viaBar_up (d : Dev) (f : Dev → Dev) (h : d.pcieUp = true) : d.viaBar f = f d := by simp [Dev.viaBar, h]

/-- A register of PF0 takes no write while the host does not reach the part. -/
theorem Dev.viaBar_down (d : Dev) (f : Dev → Dev) (h : d.pcieUp = false) : d.viaBar f = d := by simp [Dev.viaBar, h]

/-- Everything a ring command can come to at its start: nothing (its core is in restart, it runs already, it must wait, or no completion
slot is free), being taken and waiting, ERR 2 for an undefined flag, or its own effect. -/
theorem Dev.ringOp_cases (d : Dev) (c : RingCmd) (op : Nat) (f : Dev → Dev) :
    d.ringOp c op f = d ∨ (d.startedOf c = none ∧ d.ringOp c op f = d.takeCmd c op) ∨
    ∃ e, (e = d ∨ (d.startedOf c = none ∧ e = d.takeCmd c op)) ∧ e.mustWait c op = false ∧ d.coreUp (fabricCore c.fn.val) = true ∧
      ((2 ≤ c.flags.toNat ∧ d.ringOp c op f = e.completeErr c 2) ∨ (c.flags.toNat < 2 ∧ d.ringOp c op f = f e)) := by
  by_cases hu : d.coreUp (fabricCore c.fn.val) = true
  · cases hs : d.startedOf c with
    | some x =>
      by_cases hb : (x.begun || d.mustWait c op) = true
      · exact .inl (by simp only [Dev.ringOp, hu, hs, hb]; rfl)
      · have hb' : x.begun = false ∧ d.mustWait c op = false := by simpa using hb
        refine .inr (.inr ⟨d, .inl rfl, hb'.2, hu, ?_⟩)
        rcases Nat.lt_or_ge c.flags.toNat 2 with h | h
        · exact .inr ⟨h, by simp [Dev.ringOp, hu, hs, hb'.1, hb'.2, Nat.not_le.mpr h]⟩
        · exact .inl ⟨h, by simp [Dev.ringOp, hu, hs, hb'.1, hb'.2, h]⟩
    | none =>
      by_cases hf : d.slotFree c.fn.val c.ring.val = true
      · by_cases hw : (d.takeCmd c op).mustWait c op = true
        · exact .inr (.inl ⟨rfl, by simp [Dev.ringOp, hu, hs, hf, hw]⟩)
        · refine .inr (.inr ⟨d.takeCmd c op, .inr ⟨rfl, rfl⟩, by simpa using hw, hu, ?_⟩)
          rcases Nat.lt_or_ge c.flags.toNat 2 with h | h
          · exact .inr ⟨h, by simp [Dev.ringOp, hu, hs, hf, hw, Nat.not_le.mpr h]⟩
          · exact .inl ⟨h, by simp [Dev.ringOp, hu, hs, hf, hw, h]⟩
      · exact .inl (by simp [Dev.ringOp, hu, hs, hf])
  · exact .inl (by simp [Dev.ringOp, hu])

/-- A command that comes to its start has its own effect. -/
theorem Dev.ringOp_starts (d e : Dev) (c : RingCmd) (op : Nat) (f : Dev → Dev) (h : d.Starts c op e) : d.ringOp c op f = f e := by
  obtain ⟨h1, h2, h3, h4⟩ := h
  unfold Dev.ringOp
  rcases h2 with ⟨h5, h6, rfl⟩ | ⟨h5, rfl⟩
  · simp [h1, h5, h6, h3, Nat.not_le.mpr h4]
  · obtain ⟨x, hx, hb⟩ := Option.map_eq_some_iff.mp h5
    simp [h1, hx, hb, h3, Nat.not_le.mpr h4]

/-- Where no word has come to disagree with its check bits, device memory gives its bytes and nothing else changes. -/
theorem Dev.readEcc_sound (d : Dev) (a n : Nat) (h : d.upset = []) : d.readEcc a n = (d, some (d.readMem a n)) := by
  cases d
  simp only at h
  subst h
  rfl

end Sys2Proof.Machine
end

