-- ==== Sys2Proof/Laws/Operators.lean ====
section
/-! SUPPORT. Laws of the steps of the operators: operands that have landed, and a step taken. -/
namespace Sys2Proof.Machine

/-- Nothing is fetched of what has been asked for already. -/
theorem Dev.fetch_whole (d : Dev) (t key : Nat) (b : Bool) (ps : List (Nat × Nat))
    (h : ∀ p ∈ ps, ((d.runAt t).bind (fun r => r.itemOf key p)).isSome = true) : d.fetch t key b ps = d := by
  unfold Dev.fetch Dev.each
  induction ps with
  | nil => rfl
  | cons p ps ih =>
    simp only [List.foldl_cons]
    have hp := h p (by simp)
    obtain ⟨i, hi⟩ := Option.isSome_iff_exists.mp hp
    rw [hi]
    exact ih (fun q hq => h q (by simp [hq]))

/-- What has been collected had all been asked for. -/
theorem Dev.collect_asked (d : Dev) (t key : Nat) (ps : List (Nat × Nat)) (bs : List Byte) (h : d.collect t key ps = .ok bs) :
    ∀ p ∈ ps, ((d.runAt t).bind (fun r => r.itemOf key p)).isSome = true := by
  intro p hp
  unfold Dev.collect at h
  cases hr : d.runAt t with
  | none => rw [hr] at h; cases h
  | some r =>
    rw [hr] at h
    simp only at h
    split at h
    · cases h
    · split at h
      · cases h
      · rename_i h1 h2
        simp only [Option.bind_some]
        simp only [List.any_eq_true, not_exists, not_and] at h2
        have := h2 (r.itemOf key p) (List.mem_map.mpr ⟨p, hp, rfl⟩)
        cases hi : r.itemOf key p with
        | none => rw [hi] at this; simp at this
        | some i => rfl

/-- An operand that has landed is taken, and nothing else changes. -/
theorem Dev.grab_landed (d : Dev) (t ix a n : Nat) (b : Bool) (bs : List Byte) (h : d.Landed t ix a n bs) : d.grab t ix a n b = (d, .ok bs) := by
  obtain ⟨x, h1, h2⟩ := h
  unfold Dev.grab
  rw [h1]
  simp only
  rw [Dev.fetch_whole d t _ b _ (Dev.collect_asked _ _ _ _ _ h2), h2]

/-- So are several. -/
theorem Dev.grabMany_landed (d : Dev) (t ix : Nat) (b : Bool) (f : Nat × Nat → List Byte) (ps : List (Nat × Nat))
    (h : ∀ a ∈ ps, d.Landed t ix a.1 a.2 (f a)) : d.grabMany t ix b ps = (d, .ok (ps.flatMap f)) := by
  induction ps with
  | nil => rfl
  | cons p ps ih =>
    obtain ⟨a, n⟩ := p
    have h1 := h (a, n) (by simp)
    simp only at h1
    simp only [Dev.grabMany, Dev.grab_landed _ _ _ _ _ b _ h1, ih (fun q hq => h q (by simp [hq])), List.flatMap_cons]

/-- A step in which nothing is upset, and which its operator takes, is done. -/
theorem Dev.opStep_done (d : Dev) (t op : Nat) (y : Stage) (h : d.AtStep t op y) (f : Dev → Stage → Dev × Bool) (e : Dev) (hf : f d y = (e, true)) :
    d.opStep t op noUpset f = d.stepDone e t y.ix := by
  obtain ⟨h1, h2, h3⟩ := h
  unfold Dev.opStep noUpset
  have : (d.upsetWords []).each ([] : List (Nat × Nat × Bool)) (fun d x => d.upsetTable x.1 x.2.1 x.2.2) = d := rfl
  rw [this]
  simp only [h1, h3, h2, hf, Option.isSome_none, Bool.false_eq_true, if_false, if_true, Bool.not_true]

/-- A merged head is a step taken. -/
theorem Dev.combineHead_taken (d : Dev) (t : Nat) (s : Stage) (h : Nat) (parts : List (List Byte)) : (d.combineHead t s h parts).2 = true := by
  unfold Dev.combineHead
  dsimp only
  (repeat' split) <;> rfl

/-- A page passed is a step taken. -/
theorem Dev.attPassed_taken (d : Dev) (t ix : Nat) (c : Bool) (a b : Nat) : (d.attPassed t ix c a b).2 = true := by
  unfold Dev.attPassed
  dsimp only
  split
  · split
    · rfl
    · rfl
  · rfl

/-- An entry of a table whose line has landed is there. -/
theorem Dev.tableEntry_landed (d : Dev) (t ix pt count i a lo hi : Nat) (line : List Byte) (ha : a = pt + 8 * i) (hlo : lo = max pt (a - taAddr a % 64))
    (hhi : hi = min (pt + 8 * count) (a - taAddr a % 64 + 64)) (h : d.Landed t ix lo (hi - lo) line) :
    d.tableEntry t ix pt count i = (d, .ok ((line.drop (a - lo)).take 8)) := by
  subst ha hlo hhi
  unfold Dev.tableEntry
  simp only [Dev.grab_landed _ _ _ _ _ _ _ h]

end Sys2Proof.Machine
end

