-- ==== Sys2Proof/Laws/Requests.lean ====
section
/-! SUPPORT. Laws of a request on its way to its home: admission, and its turn on an idle line. -/
namespace Sys2Proof.Machine

/-- Showing the in-flight counts leaves the homes. -/
theorem Dev.showFlight_home (d : Dev) (n : Nat) : (d.showFlight n).home = d.home := by
  unfold Dev.showFlight
  by_cases h : n < 65536
  · rw [if_pos h, Dev.set_home, Dev.set_home]
  · rw [if_neg h, Dev.set_home]

/-- Showing the in-flight counts takes no time. -/
theorem Dev.showFlight_time (d : Dev) (n : Nat) : (d.showFlight n).time = d.time := by
  unfold Dev.showFlight
  by_cases h : n < 65536
  · rw [if_pos h, Dev.set_time, Dev.set_time]
  · rw [if_neg h, Dev.set_time]

/-- Showing the in-flight counts leaves the tables. -/
theorem Dev.showFlight_ten (d : Dev) (n : Nat) : (d.showFlight n).ten = d.ten := by
  unfold Dev.showFlight
  by_cases h : n < 65536
  · rw [if_pos h, Dev.set_ten, Dev.set_ten]
  · rw [if_neg h, Dev.set_ten]

/-- An admission leaves the homes. -/
theorem Dev.admitFlight_home (d : Dev) (w t p b) : (d.admitFlight w t p b).home = d.home := by
  unfold Dev.admitFlight; split
  · rfl
  · dsimp only; rw [Dev.showFlight_home]; rfl

/-- An admission takes no time. -/
theorem Dev.admitFlight_time (d : Dev) (w t p b) : (d.admitFlight w t p b).time = d.time := by
  unfold Dev.admitFlight; split
  · rfl
  · dsimp only; rw [Dev.showFlight_time]; rfl

/-- The requests in flight once one more is admitted. -/
theorem Dev.admitFlight_flight (d : Dev) (w t p b) (h1 : w.counted = true) (h2 : d.ten.flight.any (fun f => f.isOf w t) = false) :
    (d.admitFlight w t p b).ten.flight = d.ten.flight.filter (fun g => !(g.isOf w t && g.epoch == 65537)) ++
      [⟨w, t, d.epoch, (d.extentOf p).getD 65536, b, d.time, d.ten.admissions + 1⟩] := by
  have hadm : d.admitted w t = false := by
    simp only [List.any_eq_false] at h2
    simp only [Dev.admitted, List.any_eq_false]; intro f hf; simp [h2 f hf]
  unfold Dev.admitFlight
  simp only [h1, hadm, Bool.not_true, Bool.or_self, Bool.false_eq_true, ↓reduceIte]
  rw [Dev.showFlight_ten]; rfl

/-- The flight of a request that counts and is not in flight yet, once it is admitted. -/
theorem Dev.admitFlight_find (d : Dev) (w t p b) (h1 : w.counted = true) (h2 : d.ten.flight.any (fun f => f.isOf w t) = false)
    (q : Flight → Bool) (hq : q ⟨w, t, d.epoch, (d.extentOf p).getD 65536, b, d.time, d.ten.admissions + 1⟩ = true) :
    (d.admitFlight w t p b).ten.flight.find? (fun f => f.isOf w t && q f) =
      some ⟨w, t, d.epoch, (d.extentOf p).getD 65536, b, d.time, d.ten.admissions + 1⟩ := by
  have hn : ∀ f ∈ d.ten.flight, f.isOf w t = false := by simpa using h2
  rw [Dev.admitFlight_flight d w t p b h1 h2, List.find?_append]
  have : (d.ten.flight.filter (fun g => !(g.isOf w t && g.epoch == 65537))).find? (fun f => f.isOf w t && q f) = none := by
    rw [List.find?_eq_none]; intro f hf; simp [hn f (List.mem_filter.mp hf).1]
  rw [this]; simp [Flight.isOf, hq]

/-- The number of a request just admitted. -/
theorem Dev.admitFlight_no (d : Dev) (w t p b) (h1 : w.counted = true) (h2 : d.ten.flight.any (fun f => f.isOf w t) = false) :
    (d.admitFlight w t p b).flightNo w t = d.ten.admissions + 1 := by
  have := d.admitFlight_find w t p b h1 h2 (fun _ => true) rfl
  simp only [Bool.and_true] at this
  unfold Dev.flightNo
  rw [this]; rfl

/-- With at most one line at the homes no directory entry is spilled (R422). -/
theorem Dev.spilled_few (d : Dev) (k : Nat) (h : d.home.lines.length ≤ 1) : d.spilled k = false := by
  unfold Dev.spilled
  have : (d.home.lines.filter (fun l => decide (l.2.st ≠ .inv) && homeSlice (l.1 * 64) == homeSlice (k * 64))).length ≤ 1 :=
    le_trans (List.length_filter_le _ _) h
  simp only [Bool.and_eq_false_iff, decide_eq_false_iff_not]
  left; omega

/-- A look-up with at most one line at the homes reads no spilled entry. -/
theorem Dev.dirLook_few (d : Dev) (k : Nat) (h : d.home.lines.length ≤ 1) : d.dirLook k = d := by
  unfold Dev.dirLook
  simp [Dev.spilled_few d k h]

/-- A request of one line other than INVAL names that line. -/
theorem HomeReq.lines_one (q : HomeReq) (h : q.count = 0) (hop : q.op ≠ .inval) : q.lines = [(q.ppa / 64,
   { q with ppa := if q.op.reads then q.ppa / 64 * 64 else q.ppa, first := if q.op.reads then q.ppa / 64 * 64 else q.first })] := by
  obtain ⟨a1,a2,op,a4,a5,a6,a7,a8,a9,b1,b2,b3,b4,b5,b6,b7⟩ := q
  cases op <;> simp_all [HomeReq.lines, HomeOp.reads, rangeFrom]

/-- What a request comes to that reaches an idle home: its turn on its line, and then whatever else waits there. -/
theorem Dev.atHome_first (d : Dev) (r : HomeReq) (op : HomeOp) (made : Nat) (st : LineState) (hF : d.FirstAtHome r op) (hop : op ≠ .inval)
   (hl : d.home.lines = [] ∨ (d.home.lines = [(r.ppa / 64, ⟨st, made, none, []⟩)] ∧ isHold st = false)) :
   d.atHome { r with op := op } = ((d.turn r op).serve (r.ppa / 64)).pump (r.ppa / 64) 3 := by
  obtain ⟨a1,a2,rop,a4,a5,a6,a7,a8,a9,b1,b2,b3,b4,b5,b6,b7⟩ := r
  generalize hr : (⟨a1,a2,rop,a4,a5,a6,a7,a8,a9,b1,b2,b3,b4,b5,b6,b7⟩ : HomeReq) = r at *
  obtain ⟨h1, ⟨a, hck⟩, hc, hfl, h3, h4, hlate, h5, h6⟩ := hF
  have hlt : d.epoch < 65536 := by unfold Dev.epoch Dev.get fieldOf; exact Nat.mod_lt _ (by norm_num [Reg.COMP_STAT_LIVE_EPOCH])
  have hlen : (d.admitFlight r.who r.tag r.ppa op.writes).home.lines.length ≤ 1 := by
    rw [Dev.admitFlight_home]
    rcases hl with hl | ⟨hl, _⟩ <;> rw [hl] <;> simp
  have harr : d.sw.arrived.findSome? (arrivedNo { r with op := op }) = none := by rw [h1]; rfl
  unfold Dev.atHome
  rw [harr]
  dsimp only
  rw [hck]
  dsimp only [Dev.numbered]
  rw [Dev.admitFlight_no d r.who r.tag r.ppa op.writes hc hfl]
  unfold Dev.homeArrive
  rw [Dev.admitFlight_find d r.who r.tag r.ppa op.writes hc hfl (fun f => f.no == d.ten.admissions + 1) (by simp)]
  simp only [show ¬ (65536 ≤ d.epoch) by omega, if_false, h4]
  have hp : (d.admitFlight r.who r.tag r.ppa op.writes).parksAt { r with
      op := op, epoch := d.epoch, no := d.ten.admissions + 1, parity := 0 } = none := by
    simp only [Dev.parksAt, hc, h5]; rfl
  simp only [Dev.when, beq_iff_eq, Nat.zero_ne_one, if_false, show ¬ ((0:Nat) = 5) by decide]
  have hlook : ∀ ks : List Nat, (d.admitFlight r.who r.tag r.ppa op.writes).each ks Dev.dirLook = d.admitFlight r.who r.tag r.ppa op.writes := by
    intro ks
    induction ks with
    | nil => rfl
    | cons k ks ih =>
      simp only [Dev.each, List.foldl_cons] at ih ⊢
      rw [Dev.dirLook_few _ k hlen]; exact ih
  rw [hlook]
  rw [← h4] at hp ⊢
  rw [hp]
  dsimp only
  unfold Dev.lineUp
  have hj : ∀ (k : Nat) (x : HomeReq), (d.admitFlight r.who r.tag r.ppa op.writes).groupOpen k x = false := by
    intro k x
    simp only [Dev.groupOpen, Dev.lineAt, Dev.admitFlight_home]
    rcases hl with hl | ⟨hl, _⟩ <;> rw [hl] <;> simp only [Tab.get, Tab.find?]
    · rfl
    · by_cases hk : r.ppa / 64 = k
      · simp [hk]
      · simp only [hk, if_false]; split <;> (split at * <;> simp_all [Line.idle])
  have hbusy : ∀ k, (d.admitFlight r.who r.tag r.ppa op.writes).busyOf k = none := by
    intro k
    simp only [Dev.busyOf, Dev.lineAt, Dev.admitFlight_home]
    rcases hl with hl | ⟨hl, _⟩ <;> rw [hl] <;> simp only [Tab.get, Tab.find?]
    · rfl
    · by_cases hk : r.ppa / 64 = k
      · simp [hk]
      · simp only [hk, if_false]; split <;> rfl
  have hq : ((d.admitFlight r.who r.tag r.ppa op.writes).lineAt (r.ppa/64)).queue = [] := by
    simp only [Dev.lineAt, Dev.admitFlight_home]
    rcases hl with hl | ⟨hl, _⟩ <;> rw [hl] <;> (simp [Tab.get, Tab.find?]; try rfl)
  rw [HomeReq.lines_one { r with op := op, epoch := d.epoch, no := d.ten.admissions + 1 } h3 hop]
  simp only [hj, List.all_cons, List.all_nil, Bool.false_and, Bool.false_eq_true, ↓reduceIte, Dev.each, List.foldl_cons, List.foldl_nil, Dev.arriveLine]
  have hcr : ∀ k x, (d.admitFlight r.who r.tag r.ppa op.writes).crossedPorts k x = none := by
    intro k x; unfold Dev.crossedPorts; rw [hbusy]; rfl
  have hep : d.turnReq r op = { r with
      op := op, epoch := d.epoch, no := d.ten.admissions + 1,
      first := if op.reads then r.ppa / 64 * 64 else r.first,
      ppa := if op.reads then r.ppa / 64 * 64 else r.ppa } := by
    simp only [Dev.turnReq]; simp [hop]
  have hlh : ∀ x : HomeReq, x.who = r.who → (d.admitFlight r.who r.tag r.ppa op.writes).lateHold (r.ppa/64) x =
      d.admitFlight r.who r.tag r.ppa op.writes := by
    intro x hx
    unfold Dev.lateHold
    rw [hx]
    cases hw : r.who with
    | port p =>
      have := hlate p hw
      rw [← Dev.admitFlight_home d r.who r.tag r.ppa op.writes, hw] at this
      split <;> first | rfl | (rename_i q h _; cases h; rw [if_neg this])
    | _ => rfl
  have hgoal : ((d.admitFlight r.who r.tag r.ppa op.writes).queueWork (r.ppa/64) (d.turnReq r op)).pumpLine (r.ppa/64) =
       ((d.turn r op).serve (r.ppa / 64)).pump (r.ppa / 64) 3 := by
    unfold Dev.pumpLine
    have hline : ((d.admitFlight r.who r.tag r.ppa op.writes).queueWork (r.ppa/64) (d.turnReq r op)).lineAt (r.ppa/64) =
      { (d.admitFlight r.who r.tag r.ppa op.writes).lineAt (r.ppa/64) with queue := [d.turnWork r op] } := by
      simp only [Dev.queueWork, Dev.onLine, Dev.setLine, Dev.lineAt, Dev.admitFlight_home]
      rcases hl with hl | ⟨hl, _⟩ <;> rw [hl] <;> simp [Tab.get, Tab.find?, Line.norm, Tab.put, Tab.ins, Dev.admitFlight_time, Dev.turnWork, Line.idle]
    rw [hline]
    simp only [List.length_cons, List.length_nil]
    rw [Dev.pump]
    have hst : isHold ((d.admitFlight r.who r.tag r.ppa op.writes).lineAt (r.ppa/64)).st = false := by
      simp only [Dev.lineAt, Dev.admitFlight_home]
      rcases hl with hl | ⟨hl, hh⟩ <;> rw [hl] <;> simp [Tab.get, Tab.find?, Line.idle, isHold]
      cases st <;> simp_all [isHold]
    have hb2 : ((d.admitFlight r.who r.tag r.ppa op.writes).lineAt (r.ppa/64)).busy = none := hbusy _
    have hnw : ((d.admitFlight r.who r.tag r.ppa op.writes).queueWork (r.ppa/64) (d.turnReq r op)).nextWork (r.ppa/64) = some (d.turnWork r op, []) := by
      simp only [Dev.nextWork, hline]
      revert hst
      cases ((d.admitFlight r.who r.tag r.ppa op.writes).lineAt (r.ppa/64)).st <;> simp [isHold]
    have hbn : ((d.admitFlight r.who r.tag r.ppa op.writes).queueWork (r.ppa/64) (d.turnReq r op)).busyOf (r.ppa/64) = none := by
      simp only [Dev.busyOf, hline, hb2]
    rw [hnw, hbn]
    have hm : ((d.admitFlight r.who r.tag r.ppa op.writes).queueWork (r.ppa/64) (d.turnReq r op)).modeHolds (r.ppa/64) (d.turnWork r op) = false := by
      have : ((d.admitFlight r.who r.tag r.ppa op.writes).queueWork (r.ppa/64) (d.turnReq r op)).flag Reg.DIR_STAT_MODE_CHANGE_BUSY = false := h6
      simp only [Dev.modeHolds, this, Bool.false_and]
    simp only [hm, Bool.false_eq_true, ↓reduceIte]
    have : ((d.admitFlight r.who r.tag r.ppa op.writes).queueWork (r.ppa/64) (d.turnReq r op)).time = d.time := Dev.admitFlight_time _ _ _ _ _
    simp only [this]
    rfl
  rw [← hgoal, hep]
  cases op <;> first | exact absurd rfl hop | simp [hlh, hcr, HomeOp.reads]

/-- A fault counted by Temper (R451) leaves the homes as they are. -/
@[simp] theorem Dev.temperEvent_home (d : Dev) (cls res : Nat) : (d.temperEvent cls res).home = d.home := by
  simp only [Dev.temperEvent]
  split
  · simp only [Dev.temperCount]
    repeat' split
    all_goals rfl
  · split <;> rfl

end Sys2Proof.Machine
end

