-- ==== Sys2Proof/Tests/Slice0.lean ====
section
/-! SUPPORT. Small checks of the model, and for every obligation with hypotheses a theorem that shows states and operands meeting them,
clause by clause. -/
open Sys2Proof Sys2Proof.Machine
namespace Sys2Proof.Tests
set_option Elab.async false

/-- A thousand seconds: late enough for every timer. -/
def late : Nat := 1000000000000

/-- Fields given values. -/
def put (l : List (Fld × Nat)) (d : Dev) : Dev := d.each l (fun d x => d.set x.1 x.2)

/-- A state with nothing waiting. -/
def st (d : Dev) : State := ⟨[], ⟨[], 0⟩, [], d⟩

/-- Out of reset, nothing started. -/
def cold : Dev := { Dev.reset with boot := { Boot.start with held := false, wiped := true } }

/-- The cores run; areas 0 and 5 are 1 GiB each, at 0 and at 1 GiB. -/
def up : Dev :=
  put ((rangeFrom 0 16).map (fun c => (Reg.CORE_STAT_STATE c, 1)) ++
    [(Reg.GSTAT_RUNNING, 1), (Reg.GSTAT_WIPE_ACTIVE, 0), (Reg.XBAR_STAT_PLANES_ACTIVE, 255), (Reg.FW_STAT_STATE, 3), (Reg.RT_CAP_TOTAL, 8192),
     (Reg.FORGE_AREA_SIZE_2M 0, 512), (Reg.FORGE_AREA_BASE_2M 5, 512),
     (Reg.FORGE_AREA_SIZE_2M 5, 512)]) cold

/-- Port 3 placed, x16, of a role and in a state. -/
def port (role state : Nat) (d : Dev) : Dev :=
  put [(Reg.PORT_CFG_WIDTH_CODE 3, 4), (Reg.PORT_CFG_MIN_WIDTH_CODE 3, 1), (Reg.PORT_CFG_ROLE 3, role), (Reg.PORT_CFG_SPARES 3, 2),
    (Reg.LINK_STAT_STATE 3, state)] d

/-- A request passes the checks of its ingress and changes nothing there. -/
def passes (d : Dev) (r : HomeReq) : Bool :=
  match d.homeChecks r with
  | (e, .pass _) => decide (e = d)
  | _ => false

/-- What passes is let through. -/
theorem passes_is {d : Dev} {r : HomeReq} (h : passes d r = true) : ∃ a, d.homeChecks r = (d, .pass a) := by
  unfold passes at h
  split at h
  · rename_i e a he
    exact ⟨a, by rw [he, of_decide_eq_true h]⟩
  · cases h

/-- What holds of the one value there is. -/
theorem some_gives {α : Type} {o : Option α} {y : α} {P : α → Prop} (h : o = some y) (hy : P y) (x : α) (hx : o = some x) : P x := by
  rw [h] at hx
  cases hx
  exact hy

/-- `Dev.FirstAtHome` as a check. -/
def firstHome (d : Dev) (r : HomeReq) (op : HomeOp) : Bool :=
  decide (d.sw.arrived = []) && passes d { r with op := op } && r.who.counted && !d.ten.flight.any (fun f => f.isOf r.who r.tag) && decide (r.count = 0) &&
    decide (r.parity = 0) && decide (d.home.lateHolds = []) && decide ((d.admitFlight r.who r.tag r.ppa op.writes).deadTray d.epoch r.ppa = none) &&
    !(d.admitFlight r.who r.tag r.ppa op.writes).flag Reg.DIR_STAT_MODE_CHANGE_BUSY

/-- A request comes to its home with nothing under way that concerns it. -/
theorem first_home {d : Dev} {r : HomeReq} {op : HomeOp} (h : firstHome d r op = true) : d.FirstAtHome r op := by
  simp only [firstHome, Bool.and_eq_true, Bool.not_eq_true', decide_eq_true_eq] at h
  exact ⟨h.1.1.1.1.1.1.1.1, passes_is h.1.1.1.1.1.1.1.2, h.1.1.1.1.1.1.2, h.1.1.1.1.1.2, h.1.1.1.1.2, h.1.1.1.2, by simp [h.1.1.2], h.1.2, h.2⟩

/-- Reads that tile 2 has issued: item key, typed address and bytes. -/
def fetched (l : List (Nat × Nat × Nat)) (d : Dev) : Dev :=
  l.foldl (fun d x => d.fetch 2 x.1 true (d.piecesOf 0 x.2.1 x.2.2)) d

/-- The bytes of what has been fetched. -/
def gotBytes : Got → Option (List Byte)
  | .ok b => some b
  | _ => none

/-- What has been fetched whole is its bytes. -/
theorem got_ok {g : Got} (h : (gotBytes g).isSome = true) : g = .ok ((gotBytes g).getD []) := by
  cases g <;> first | rfl | cases h

/-- The operand bytes that have landed. -/
def landedBytes (d : Dev) (t ix a n : Nat) : Option (List Byte) :=
  (d.heatOn t).bind (fun h => gotBytes (d.collect t (opKey ix) (d.piecesOf h.fn a n)))

/-- Operand bytes that have landed, as what a collection gives. -/
theorem landed {d : Dev} {t ix a n : Nat} (h : (landedBytes d t ix a n).isSome = true) :
    d.Landed t ix a n ((landedBytes d t ix a n).getD []) := by
  unfold landedBytes at h ⊢
  match hh : d.heatOn t with
  | none => rw [hh] at h; cases h
  | some x => rw [hh] at h; exact ⟨x, hh, got_ok h⟩

/-- The bytes of a page that is there. -/
def hereBytes : PageIn → Option (List Byte)
  | .here b => some b
  | _ => none

/-- A page that is there is its bytes. -/
theorem here_is {p : PageIn} (h : (hereBytes p).isSome = true) : p = .here ((hereBytes p).getD []) := by
  cases p <;> first | rfl | cases h

/-- What is there is what it is. -/
theorem some_is {α : Type} {o : Option α} {x : α} (h : o.isSome = true) : o = some (o.getD x) := by
  cases o <;> first | rfl | cases h

/-- What holds of the one element of a list holds of every one. -/
theorem one_of {α : Type} {l : List α} {x : α} {P : α → Prop} (h : l = [x]) (hx : P x) (a : α) (ha : a ∈ l) : P a := by
  subst h
  rw [List.mem_singleton.mp ha]
  exact hx

/-- What a check shows of every element holds of it. -/
theorem all_of {α : Type} {l : List α} {c : α → Bool} {P : α → Prop} (hc : ∀ a, c a = true → P a) (h : l.all c = true) (a : α) (ha : a ∈ l) :
    P a := hc a (List.all_eq_true.mp h a ha)

/-- The bytes of fields at their offsets. -/
def rec_ (n : Nat) (l : List (Nat × Nat × Nat)) : List Byte :=
  l.foldl (fun bs x => bs.take x.1 ++ natBytes x.2.1 x.2.2 ++ bs.drop (x.1 + x.2.1)) (List.replicate n 0#8)

/-- A message of a class and an opcode, with header fields (offset, width, value), and its data chunks. -/
def msg (l : List (Nat × Nat × Nat)) (data : List Chunk) : Msg :=
  ⟨BitVec.ofNat 128 (l.foldl (fun w x => fieldPut w x.1 x.2.1 x.2.2) 0), data⟩

/-- A flit as its sixteen lanes bring it. -/
def arrives (flit : List Byte) : List Byte := (lanesFlit 16 (laneStreams 16 flit)).getD []

/-- Sixteen running lanes that bring a flit bring the flit. -/
theorem lanes_taken {n : Nat} {flit : List Byte} (h : n = 16) (hs : (lanesFlit 16 (laneStreams 16 flit)).isSome = true) :
    lanesFlit n (laneStreams 16 flit) = some (arrives flit) := by
  subst h
  exact (Option.getD_of_ne_none (Option.isSome_iff_ne_none.mp hs) []).symm

/-- A command of ring 0 of a function, its ARGS (from byte 8 of the entry) by offsets in the entry. -/
def cmd (fn : Nat) (l : List (Nat × Nat × Nat)) : RingCmd :=
  ⟨Fin.ofNat 4096 fn, 0, 7#32, 0#8, rec_ 56 (l.map (fun x => (x.1 - 8, x.2)))⟩

/-- A function's completion ring enabled. -/
def ringOn (fn : Nat) (d : Dev) : Dev := d.setRing fn 1 0 { Ring.idle with cfg0 := 1 }

/-- A ring command comes to its start and is taken now. -/
theorem starts_now {d : Dev} {c : RingCmd} {op : Nat}
    (h : (d.coreUp (fabricCore c.fn.val) && decide (d.startedOf c = none) && d.slotFree c.fn.val c.ring.val &&
      !(d.takeCmd c op).mustWait c op && decide (c.flags.toNat < 2)) = true) : d.Starts c op (d.takeCmd c op) := by
  simp only [Bool.and_eq_true, Bool.not_eq_true', decide_eq_true_eq] at h
  exact ⟨h.1.1.1.1, Or.inl ⟨h.1.1.1.2, h.1.1.2, rfl⟩, h.1.2, h.2⟩

/-- A REGION entry at DPA and PPA page 0 of tier 0: 512 pages, OWNED-WB where `wb`. -/
def entry (wb : Nat) : RtEntry := ⟨41, 512 + 3 * 2 ^ 32, wb * 2 ^ 31, 0⟩

/-- The entry stands at index 0 of the live bank, of domain 5. -/
def mapped (d : Dev) : Dev := { d with ten := { d.ten with live := { d.ten.live with rt := [(0, entry 1)] } } }

/-- Port 3 is bound to domain 5, whose extent 0 holds the pages of the entry. -/
def ready : Dev :=
  let d := put [(Reg.EXT_BASE_PAGES 0, 512), (Reg.EXT_STATE_OWNER 0, 5), (Reg.EXT_STATE_STATE 0, 1)] (mapped up)
  { d with ten := { d.ten with exts := [0], live := { d.ten.live with bind := [(3, 4101)] } } }

/-- Window 0 gives domain 5 the first 2 MiB of area 5, to write too. -/
def windowed (d : Dev) : Dev := d.setReg (Reg.WIN 0) (2 ^ 17 + 5 * 2 ^ 34 + 2 ^ 46)

/-- Tile 2's first slot asks for port 3's first. -/
def ask : Ask := ⟨516, 0, 0⟩

/-- A heat of one descriptor that runs on tile 2. -/
def heatWith (run : Bool) (w : List Nat) : Heat :=
  { fn := 0, ring := 0, no := 0, cmd := cmd 0 [], descs := [w], ctrs := [], status := 0, dep := none, wdog := 0, running := run, start := 0,
    codes := [], acks := [], landed := [(2, 0, 0)], mute := false }

/-- The stage of a descriptor whose wait has held. -/
def stage (w : List Nat) : Stage := { Stage.fresh 0 w with waited := true }

/-- What tile 2 does with a stage. -/
def run (s : Stage) : Run := ⟨0, 0, 0, [], [s], 0, [], false, [], [], [], [], [], [], [], [], []⟩

/-- Tile 2 runs a descriptor; its scratchpad holds the address of its own byte 32768 at 0 and of its byte
4096 at 48, and at 16 the page-table entry of byte 32768. -/
def opDev (w : List Nat) : Dev :=
  ({ up with heats := { Heats.empty with list := [heatWith true w], runs := [(2, run (stage w))] } } : Dev).writeSpa 2 0
    (natBytes 8 (2 ^ 29 + 32768) ++ List.replicate 8 0#8 ++ natBytes 8 (2 ^ 52 + 2 ^ 29 + 32768) ++ List.replicate 24 0#8 ++
      natBytes 8 (2 ^ 29 + 4096))

/-- The second stage of a chain. -/
def second (w : List Nat) : Stage := { Stage.fresh 1 w with waited := true }

/-- Tile 2 runs a chain of two descriptors of which the first has ended. -/
def chainDev (g : List Nat) (y : Stage) : Dev :=
  let d := opDev g
  { d with heats := { d.heats with
    list := [{ heatWith true g with descs := [g, y.w] }], runs := [(2, { run (stage g) with stages := [{ stage g with fin := true }, y] })] } }

/-- `Dev.AtStep` as a check. -/
def atStep (d : Dev) (t op : Nat) (s : Stage) : Bool :=
  decide (Tab.find? d.heats.frozen t = none) && decide (d.stageAt t s.ix = some s) &&
    decide ((d.runAt t).bind (fun r => r.stages.find? (fun x => dOp x.w == op && x.waited && !x.fin)) = some s)

/-- Tile 2 may take the step of its stage. -/
theorem at_step {d : Dev} {t op : Nat} {s : Stage} (h : atStep d t op s = true) : d.AtStep t op s := by
  unfold atStep at h
  simp only [Bool.and_eq_true, decide_eq_true_eq] at h
  exact ⟨h.1.1, h.1.2, h.2⟩

/-- One descriptor of each operator, 0 NOP to 13 UNPACK, on the tile's own scratchpad. -/
def opWords : List (List Nat) :=
  let self := 2 ^ 29
  [[512, 0, 0, 0, 0, 0, 0, 0],
   [513, 0, 0, self, 64, 7, 0, 0],
   [514 + 255 * 2 ^ 24 + 255 * 2 ^ 32, 0, 0, self, self + 4096, 64, 1, 0],
   [515, 0, 0, self, self + 4096, 64, 0, 0],
   [516, 0, 0, self, self + 8192, 1 + 2 ^ 16 + 2 ^ 32, 4 + 2 ^ 10, self + 16384],
   [517, 0, 0, self, 1 + 12 * 2 ^ 32 + 2 ^ 37, self + 65536, 0, 0],
   [518, 0, 0, self, self + 4096, 64, 0, 0],
   [519 + 2 ^ 23, 0, 0, self + 64, 1 + 12 * 2 ^ 32 + 2 ^ 37 + 64 * 2 ^ 40, self + 128, 1, 0],
   [520 + 2 ^ 24, 0, 0, self, 12 * 2 ^ 32 + 2 ^ 37 + 64 * 2 ^ 40, 32 * 2 ^ 16 + 2 ^ 32, self + 128, self + 4096],
   [521 + 2 ^ 24, 0, 0, self + 32, 1 + 12 * 2 ^ 40 + 2 ^ 45, self + 4096, 4096 * 2 ^ 42, self + 8192],
   [522, 0, 0, self, 1 + 2 ^ 9 + 4 * 2 ^ 14, self + 4096, 0, 0],
   [523 + 255 * 2 ^ 24 + 255 * 2 ^ 32, 0, 0, self, self, 1 + 2 ^ 32 + 12 * 2 ^ 42 + 2 ^ 47, 64, 0],
   [524 + 2 ^ 24, 0, 0, self, self + 4096, 32, 4096, 0],
   [525 + 2 ^ 32, 0, 0, self + 64, self + 4096, 32, 0, 0]]

/-- The steps of the operators, in the same order. -/
def opSteps : List (Dev → Nat → Stage → Dev × Bool) :=
  [Dev.nopStep, Dev.fillStep, Dev.copyStep, Dev.compareStep, Dev.reduceStep, Dev.gatherStep, Dev.scatterStep, Dev.filterStep,
   Dev.topkStep, Dev.attendStep, Dev.combineStep, Dev.reshardStep, Dev.packStep, Dev.unpackStep]

/-- A descriptor of each operator with its number and its step. -/
def opCases : List (Nat × List Nat × (Dev → Nat → Stage → Dev × Bool)) := (rangeFrom 0 14).zip (opWords.zip opSteps)

/-- A cached context of uplink 3: window 8, RTO 1 µs, 7 retries, 4 reads. -/
def gctx : GCtx := { GCtx.fresh (rec_ 128 [(2, 2, 3), (34, 2, 8), (44, 2, 1), (46, 1, 7), (50, 1, 4)]) 0 with cached := true }

/-! ### Operands out of range -/

/-- A request within its ranges. -/
def okReq : HomeReq := ⟨.port 3, 9, .rdOwn, 5, 0x1000, 0, 0x1000, [], 0, 0, 0, 0, 0, 0, 0, none⟩

/-- Each check of `Instr.wf` lets a sound command pass. -/
theorem test_wf_accepts : ([.rdOwn okReq late, .cmp 3 (msg [(8, 4, 1)] [1]) late, .nop (cmd 0 []) late, .heatStart ⟨0, 0, 5⟩ late,
    .flashProgram 256 (List.replicate 256 0#8) true late, .registerWrite 0 8 4 1 late, .bar2Access 0 0 1 (some [1#8]) late,
    .thermalSample (List.replicate 64 255) late] : List Instr).all Instr.wf = true := by decide +kernel

/-- A flit on more lanes than a port has, a lane that no port has, a short HELLO. -/
theorem test_wf_flits : ([.flitReceive 3 (List.replicate 17 []) [] [] [] late, .flitReceive 3 [] [18] [] [] late,
    .flitReceive 3 [] [] [18] [] late, .hello 3 [] late] : List Instr).any Instr.wf = false := by decide +kernel

/-- A port, a TAG, a block, a domain, an address, a count, a mask and data out of range, one at a time. -/
theorem test_wf_requests : ([{ okReq with who := .port 512 }, { okReq with tag := 16384 }, { okReq with ppa := 192, count := 1 },
    { okReq with dom := 4096 }, { okReq with ppa := 2 ^ 52 }, { okReq with count := 4 }, { okReq with mask := 2 ^ 64 },
    { okReq with data := List.replicate 65 0#8 }] : List HomeReq).any HomeReq.wf = false := by decide +kernel

/-- A message whose LEN is not its data, and one of 15 chunks. -/
theorem test_wf_messages : ([.cmp 3 (msg [(8, 4, 2)] [1]) late, .cmp 3 (msg [(8, 4, 15)] (List.replicate 15 1)) late,
    .opsWr 3 (msg [] []) 65536 late] : List Instr).any Instr.wf = false := by decide +kernel

/-- Every other range, one command each. -/
theorem test_wf_others : ([.heatStart ⟨0, 0, 2 ^ 48⟩ late, .cleanWriteback (2 ^ 46) late, .shadowBuild (2 ^ 52) late, .mirrorMark (2 ^ 29) 0 late,
    .nop ⟨0, 0, 7#32, 0#8, []⟩ late, .grtFrameReceive 3 [] false late, .bar2Access 0 (2 ^ 30) 1 none late, .bar2Access 0 0 2 (some [1#8]) late,
    .registerWrite 0 (2 ^ 26) 4 1 late, .registerWrite 0 0 9 1 late, .powerOn 48000 8 late, .flashRead (2 ^ 32) 1 late,
    .flashProgram 256 [] true late, .traceRead 17 late, .dbgMemWrite 0 0 (List.replicate 257 0#8) late, .dbgRegRead (2 ^ 32) late,
    .thermalSample [] late, .thermalSample (List.replicate 64 256) late] : List Instr).any Instr.wf = false := by decide +kernel

/-! ### Worked examples of the spec, and published check values -/

/-- The check value of each CRC over "123456789": CRC-64/XZ (R95) and the Ethernet FCS; SHA-256 of "abc" by FIPS 180-4. -/
theorem test_digests : crc64 (asciiBytes "123456789") = 0x995DC9BBDF1939FA ∧ crc32 (asciiBytes "123456789") = 0xCBF43926 ∧
    bytesNat (sha256 (asciiBytes "abc")).reverse = 0xba7816bf8f01cfea414140de5dae2223b00361a396177a9cb410ff61f20015ad := by decide +kernel

/-- Chapter 3: the link header 0x0000_C000_74A8_1FCD. -/
theorem test_link_header : linkHeader 0x0000C00074A81FCD = ⟨1, 0x7F3, 0x2A0, true, false, 7, 0, 0, 3⟩ := by decide +kernel

/-- Chapter 3: the common words of a RD_SHARED of TAG 0x105 and of a WR_LINE of TAG 0x106. -/
theorem test_common_words : ((msg [(0, 32, 0x105003)] []).tag, (msg [(0, 32, 0x105003)] []).cls, (msg [(0, 32, 0x10641B)] []).tag,
    (msg [(0, 32, 0x10641B)] []).len) = (0x105, 3, 0x106, 4) := by decide +kernel

/-- Chapter 4: the home of PPA 0x0_0000_2A41_3C40 is slice 22. -/
theorem test_home_slice : homeSlice 0x2A413C40 = 22 := by decide +kernel

/-- Chapter 6: SHAPE_CFG_5 of port 480 and what 0x0008_5001_0003_0D40 sets. -/
theorem test_shape : (Reg.SHAPE_CFG 480 5).addr = 0x0A780A0 ∧ shapeOf 0x0008500100030D40 = ⟨200000, 1024, 20⟩ := by decide +kernel

/-- Three BF16 shards of the example of chapter 7, as rows of 32 elements. -/
def shards : List (List Byte) :=
  [[0x4E80, 0x3DCD, 0x4396, 0xC0C0], [0x3F80, 0x3DCD, 0x4316, 0xBF40], [0xCE80, 0x3DCD, 0xC020, 0xBF80]].map
    (fun l => (l ++ List.replicate 28 0).flatMap (natBytes 2))

/-- Chapter 7: the exact sum of the shards as one MXFP8 E4M3 block, with INEXACT set. -/
theorem test_exact_sum : (shards.foldl (fun (a : Option (List Crucible)) r => a.bind (fun a => addContribution 1 32 0 a r))
    (some (List.replicate 32 Crucible.clear))).map (sliceOut 4) =
    some ([0x38#8, 0x2A#8, 0x7E#8, 0xD0#8] ++ List.replicate 28 0#8 ++ [0x7F#8], 0x40) := by decide +kernel

/-- Chapter 7: Crucible 0 holds 1.0 as bit 160, of three addends. -/
theorem test_crucible : (fieldBytes (([Num.fin (-1) 30, .fin 1 30, .fin 1 0].foldl Crucible.place Crucible.clear).image) 20 1,
    fieldBytes (([Num.fin (-1) 30, .fin 1 30, .fin 1 0].foldl Crucible.place Crucible.clear).image) 48 8) = (1, 3) := by decide +kernel

/-- Chapter 8: the descriptor words of the GATHER and the TOPK. -/
theorem test_descriptor_words :
    (let w := [0x00080000FF803D25, 0, 0x06400000]; (dOp w, dChain w, dTile w, dMiss w, dIn w, dLook w, dDeadline w)) =
      (5, true, 0x3D, 2, 0xFF, 8, 40000) ∧
    (let w := [0x04053D08]; (dOp w, dChain w, dTile w, dRel w, dRelScope w, dIn w)) = (8, false, 0x3D, true, 2, 4) := by decide +kernel

/-- The ATTEND descriptor of chapter 9. -/
def attendWords : List Nat := [0x0008000004405A09, 0, 0x01900000, 0, 0x00005000006E0003, 0, 0x100002E93E000000, 0]

/-- Chapter 9: what its words say, 264-byte rows, 248 tokens a page, and the lines of a full page, of slots 24 to 247, and of one row. -/
theorem test_attend_lines : (dOp attendWords, dMiss attendWords, dDeadline attendWords, dBits attendWords 1 0 17) = (9, 1, 10000, 3) ∧
    (attG attendWords, attD attendWords, attRow attendWords, attQ attendWords) = (8, 128, 264, 248) ∧
    (dBits attendWords 3 32 9, dBits attendWords 3 42 21) = (233, 0x40000) ∧
    (liveLines 264 (rangeFrom 0 248)).length = 1023 ∧ (liveLines 264 (rangeFrom 24 224)).length = 924 ∧ (liveLines 264 [0]).length = 5 := by
  decide +kernel

/-- Chapter 9: entry B is masked, of 5,000 tokens; entry A of 1,000 tokens has pages 0 to 4 with tokens 992 to 999 in page 4. -/
theorem test_attend_entries : ((lenEntry (natBytes 8 0x10000001388)).len, (lenEntry (natBytes 8 0x10000001388)).masked) = (5000, true) ∧
    entryPages attendWords ⟨1000, false, 0, 0, 0⟩ = [0, 1, 2, 3, 4] ∧
    (pageTokens attendWords ⟨1000, false, 0, 0, 0⟩ [] 4).map Prod.fst = rangeFrom 992 8 := by decide +kernel

/-- Chapter 9: bytes 0 to 3, RESULT and ELAPSED of the status word. -/
theorem test_status_word :
    (let b := ({ stage attendWords with code := 9, flags := 0x40, dl := true, shadows := 1, result := 0x100000000BF9, slag := 643 } : Stage).word
      0 11700 0
     (fieldBytes b 0 4, fieldBytes b 4 4, fieldBytes b 12 4, fieldBytes b 16 8, fieldBytes b 24 4, fieldBytes b 30 2)) =
      (0x34009, 1, 0xFFFFFFFF, 0x100000000BF9, 1170, 643) := by decide +kernel

/-- Chapter 10: the coded stream of 0.5, 2⁻⁷ and thirty more 2⁻⁷ at D 3 begins with the bytes 83 07 00 03, and is 48 bytes long. -/
theorem test_coded_line : (let b := codeLine ⟨16, 8, 7⟩ 3 ([0x3F00, 0x3C00].flatMap (natBytes 2) ++ (List.replicate 30 0x3C00).flatMap (natBytes 2))
    (b.take 4, b.length)) = ([0x83#8, 0x07#8, 0x00#8, 0x03#8], 48) := by decide +kernel

/-- Chapter 11: the GRT header of the first packet. -/
theorem test_grt_header : (⟨1, 1, 0, 0, 0x3A51C, 0x041A7, 0x1200, 0, 0x10000, 0x2C11, 3, 0x233, 2⟩ : GHead).bytes =
    [1, 1, 1, 0, 0x1C, 0xA5, 3, 0, 0xA7, 0x41, 0, 0, 0, 0x12, 0, 0, 0, 0, 0, 0, 0, 0, 0, 0, 0, 0, 1, 0, 0x11, 0x2C, 0, 0, 3, 0, 0x33, 2, 2, 0, 0, 0] := by
  decide +kernel

/-- Chapter 14: the VF's region, its core, its rings and the first completion entry. -/
theorem test_rings : (up.vfRegion, fabricCore 2505, (⟨0x400001, 0, 0, 0, false, 0, 0, false, 0, 0, 0, 0⟩ : Ring).size,
      (⟨0x4100400201, 0, 0, 0, false, 0, 0, false, 0, 0, 0, 0⟩ : Ring).size, fieldOf 0x4100400201 1 20 * 64) = (196608, 4, 256, 256, 0x4000) ∧
    completionEntry { cmd 5 [] with id := 0xA01#32 } 1 true 0 0 0 2499 (natBytes 6 0x77) =
      [1, 0xA, 0, 0, 1, 1, 0, 0, 0, 0, 0, 0, 0xC3, 9, 0, 0, 0x77] ++ List.replicate 15 0#8 := by decide +kernel

/-- Chapter 14: the typed address of the heat record. -/
theorem test_typed_address : (taSpace 0x1000000120000000, taAddr 0x1000000120000000, taFormed 0x1000000120000000) = (1, 0x120000000, true) := by
  decide +kernel

/-! ### Single commands -/

/-- R560 and R559: 103 °C is over WARN_C 100; the hottest sensor is reported. -/
theorem test_thermal : (let d := ((put [(Reg.THERM_CFG_WARN_C, 100)] up).thermalSample (List.replicate 63 50 ++ [103]))
    (d.get Reg.GSTAT_THERMAL_WARN, d.get Reg.THERM_STAT_TJ_MAX, d.get Reg.THERM_STAT_HOT_SENSOR, d.get Reg.THERM_STAT_TRIP)) =
    (1, 103, 63, 0) := by decide +kernel

/-- R15: a write of all ones sets CLEAN_MS and leaves a register beside it as it was. -/
theorem test_register_write : (let d := up.regWrite ⟨[], 0⟩ Reg.TIER_THR.addr (2 ^ 64 - 1) (2 ^ 64 - 1)
    (d.get Reg.TIER_THR_CLEAN_MS, d.regRead (Reg.GSTAT).addr)) = (2 ^ 16 - 1, up.regRead (Reg.GSTAT).addr) := by decide +kernel

/-- R425: a command leaves its queue and takes effect; an ASSIGN of an extent the image does not name is refused and counted. -/
theorem test_step_assign : (match step { st up with pending := [.extAssign 7 5 late] } with
    | .next s => (s.pending, s.dev.reg Reg.EXT_CMD_REFUSED)
    | _ => ([], 0)) = ([], 1) := by decide +kernel

theorem witness_TrainingRises :
    (∃ (s : State) (p : Port) (t : Nat) (d : Dev), s.dev.at t = d ∧ d.isGlois p.val = true ∧ d.linkState p.val = 0 ∧ d.mayRise p.val =
      true) ∧
    (∃ (s : State) (p : Port) (t : Nat) (d : Dev), s.dev.at t = d ∧ d.isGlois p.val = true ∧ d.linkState p.val = 1) ∧
    (∃ (s : State) (p : Port) (t : Nat) (d : Dev), s.dev.at t = d ∧ d.isGlois p.val = true ∧ d.linkState p.val = 6) ∧
    (∃ (s : State) (p : Port) (t : Nat) (d : Dev), s.dev.at t = d ∧ d.linkState p.val = 2 ∧ (d.link p.val).since + 1_000_000 ≤ d.time) :=
  ⟨⟨st (port 0 0 up), 3, late, _, rfl, by decide +kernel⟩,
  ⟨st (port 0 1 up), 3, late, _, rfl, by decide +kernel⟩,
  ⟨st (port 1 6 up), 3, late, _, rfl, by decide +kernel⟩,
  ⟨st (port 0 2 up), 3, late, _, rfl, by decide +kernel⟩⟩

theorem witness_TrainingFalls :
    (∃ (s : State) (p : Port) (t : Nat) (d : Dev), s.dev.at t = d ∧ d.linkState p.val = 1 ∧ (d.link p.val).since + 100_000_000 ≤ d.time) ∧
    (∃ (s : State) (p : Port) (t : Nat) (d : Dev), s.dev.at t = d ∧ d.linkState p.val = 3 ∧ (d.link p.val).since + 100_000 ≤ d.time) ∧
    (∃ (s : State) (p : Port) (t : Nat) (d : Dev), s.dev.at t = d ∧ d.linkState p.val = 6 ∧ (d.link p.val).since + max 1 (d.get
      (Reg.LINK_CTL_RETRAIN_LIMIT_MS p.val)) * 1_000_000 ≤ d.time) ∧
    (∃ (s : State) (p : Port) (t : Nat) (d : Dev), s.dev.at t = d ∧ d.isGlois p.val = true ∧ d.linkState p.val = 4) ∧
    (∃ (s : State) (p : Port) (t : Nat) (d : Dev), s.dev.at t = d ∧ d.pcieUp = true ∧ d.isGlois p.val = true ∧ d.linkState p.val = 4) ∧
    (∃ (s : State) (t : Nat) (d : Dev), s.dev.at t = d ∧ d.pcieUp = true) ∧
    (∃ (s : State) (p : Port) (t : Nat) (d : Dev), s.dev.at t = d ∧ ∃ e, e = d.set (Reg.LINK_CTL_DISABLE p.val) 1 ∧ d.pcieUp = true ∧
      e.isRole p.val 2 = false ∧ e.linkState p.val ≠ 0) :=
  ⟨⟨st (port 0 1 up), 3, late, _, rfl, by decide +kernel⟩,
  ⟨st (port 0 3 up), 3, late, _, rfl, by decide +kernel⟩,
  ⟨st (port 0 6 up), 3, late, _, rfl, by decide +kernel⟩,
  ⟨st (port 0 4 up), 3, late, _, rfl, by decide +kernel⟩,
  ⟨st (port 0 4 up), 3, late, _, rfl, by decide +kernel⟩,
  ⟨st (up), late, _, rfl, by decide +kernel⟩,
  ⟨st (port 0 4 up), 3, late, _, rfl, _, rfl, by decide +kernel⟩⟩

theorem witness_HelloDecides :
    (∃ (s : State) (p : Port) (bs : List Byte) (t w : Nat) (d : Dev), s.dev.at t = d ∧ ∃ e, e = d.set (Reg.LINK_STAT_PARTNER_VERSION
      p.val) (fieldBytes bs 1 1) ∧ d.linkState p.val = 3 ∧ fieldBytes bs 1 1 = 3 ∧ ((e.isRole p.val 0 = true ∧ fieldBytes bs 2 1 = 1) ∨
      (e.isRole p.val 1 = true ∧ fieldBytes bs 2 1 = 2)) ∧ commonWidth (e.width p.val) (lanesOf (e.get (Reg.PORT_CFG_MIN_WIDTH_CODE
      p.val))) (fieldBytes bs 3 1) (fieldBytes bs 4 1) = some w) ∧
    (∃ (s : State) (p : Port) (bs : List Byte) (t : Nat) (d : Dev), s.dev.at t = d ∧ d.linkState p.val = 3 ∧ fieldBytes bs 1 1 ≠ 3) :=
  ⟨⟨st (port 0 3 up), 3, rec_ 48 [(1, 1, 3), (2, 1, 1), (3, 1, 16), (4, 1, 2)], late, 16, _, rfl, _, rfl, by decide +kernel⟩,
  ⟨st (port 0 3 up), 3, rec_ 48 [(1, 1, 2)], late, _, rfl, by decide +kernel⟩⟩

theorem witness_LanesSpared :
    (∃ (s : State) (p : Port) (lane : Fin 16) (k : Fin 2) (t : Nat) (d : Dev), s.dev.at t = d ∧ d.pcieUp = true ∧ d.isGlois p.val = true
      ∧ d.linkState p.val = 4 ∧ (d.link p.val).base ≤ lane.val ∧ lane.val < (d.link p.val).base + (d.link p.val).run ∧ d.spareFree p.val
      k.val = true) ∧
    (∃ (s : State) (p : Port) (r : Remap) (t : Nat) (d : Dev), s.dev.at t = d ∧ d.linkState p.val = 5 ∧ (d.link p.val).remap = some r) ∧
    (∃ (d : Dev) (p lane : Nat), (d.link p).retry = none ∧ (d.link p).faulty.find? (fun k => decide ((d.link p).base ≤ k) && decide (k <
      (d.link p).base + (d.link p).run)) = some lane ∧ ∃ i, d.spareFor p lane = some i) ∧
    (∃ (d : Dev) (die n : Nat), Tab.get 0 d.ras.laneSpares die = n) ∧
    (∃ (s : State) (p : Port) (r : Remap) (t : Nat) (d : Dev), s.dev.at t = d ∧ d.linkState p.val = 5 ∧ (d.link p.val).remap = some r ∧
      r.again = false ∧ r.since + 2000 ≤ d.time) ∧
    (∃ (s : State) (p : Port) (n t : Nat) (d : Dev), s.dev.at t = d ∧ d.isGlois p.val = true ∧ d.get Reg.RAS_CTL_LANE_SER_16 * 16 < n) :=
  ⟨⟨st ((port 0 4 up).onLink 3 (fun l => { l with run := 16 })), 3, 0, 0, late, _, rfl, by decide +kernel⟩,
  ⟨st ((port 0 5 up).onLink 3 (fun l => { l with remap := some ⟨2, 1, 0, false⟩ })), 3, ⟨2, 1, 0, false⟩, late, _, rfl,
    by decide +kernel⟩,
  ⟨(port 0 4 up).onLink 3 (fun l => { l with run := 16, faulty := [2], spares := [16, 17] }), 3, 2, by decide +kernel, by decide +kernel,
    0, by decide +kernel⟩,
  ⟨up, 0, 0, by decide +kernel⟩,
  ⟨st ((port 0 5 up).onLink 3 (fun l => { l with remap := some ⟨2, 1, 0, false⟩ })), 3, ⟨2, 1, 0, false⟩, late, _, rfl,
    by decide +kernel⟩,
  ⟨st (port 0 4 up), 3, 1000000, late, _, rfl, by decide +kernel⟩⟩

theorem witness_LinkTimersFire :
    (∃ (s : State) (p : Port) (t t0 : Nat) (d : Dev), s.dev.at t = d ∧ (d.link p.val).nakAt = some t0 ∧ t0 + 1000 ≤ d.time) ∧
    (∃ (s : State) (p : Port) (t t0 : Nat) (d : Dev), s.dev.at t = d ∧ (d.link p.val).ackFrom = some t0 ∧ t0 + clampTo 50 1000 (d.get
      (Reg.LINK_CTL_ACK_MAX_NS p.val)) ≤ d.time) ∧
    (∃ (s : State) (p : Port) (t : Nat) (d : Dev), s.dev.at t = d ∧ d.isGlois p.val = true ∧ d.linkState p.val = 4 ∧ ((d.link
      p.val).hbCount = 0 ∨ (d.link p.val).hbAt + clampTo 1 1000 (d.get (Reg.LINK_CTL_HB_PERIOD_US p.val)) * 1000 ≤ d.time)) :=
  ⟨⟨st ((port 0 4 up).onLink 3 (fun l => { l with nakAt := some 5 })), 3, late, 5, _, rfl, by decide +kernel⟩,
  ⟨st ((port 0 4 up).onLink 3 (fun l => { l with ackFrom := some 5 })), 3, late, 5, _, rfl, by decide +kernel⟩,
  ⟨st (port 0 4 up), 3, late, _, rfl, by decide +kernel⟩⟩

theorem witness_FlitsMove :
    (∃ (s : State) (p : Port) (t : Nat) (d : Dev), s.dev.at t = d ∧ d.isGlois p.val = true ∧ d.linkState p.val = 4 ∧ (d.link p.val).ctrl
      = [] ∧ (d.link p.val).resend = [] ∧ (d.link p.val).staged = []) ∧
    (∃ (s : State) (p : Port) (t : Nat) (m : Msg) (ms : List Msg) (e d : Dev), s.dev.at t = d ∧ d.isGlois p.val = true ∧ d.linkState
      p.val = 4 ∧ (d.link p.val).ctrl = [] ∧ (d.link p.val).resend = [] ∧ (d.link p.val).replay.length < 128 * d.width p.val ∧ d.fillFlit
      p.val (sortBy (d.stagedKey p.val) (d.link p.val).staged).length (sortBy (d.stagedKey p.val) (d.link p.val).staged) [] 0 = (e, m ::
      ms)) ∧
    (∃ (s : State) (p : Port) (t : Nat) (lanes : List (List Bool)) (flit : List Byte) (corr : List Nat) (d e : Dev), s.dev.at t = d ∧
      d.isGlois p.val = true ∧ 2 ≤ d.linkState p.val ∧ e = d.laneEvents p.val corr [] ∧ lanesFlit (e.lanesNow p.val) lanes = some flit ∧
      flitVerdict flit false = .bad) ∧
    (∃ (s : State) (p : Port) (t : Nat) (lanes : List (List Bool)) (flit : List Byte) (ms : List Msg) (d c : Dev), s.dev.at t = d ∧ ∃ h,
      h = linkHeader (fieldBytes flit 0 8) ∧ c = d.laneEvents p.val [] [] ∧ lanesFlit (c.lanesNow p.val) lanes = some flit ∧ ∃ e, e =
      (c.takeHeader p.val h).onLink p.val (fun l => { l with syncs := 0 }) ∧ d.isGlois p.val = true ∧ 2 ≤ d.linkState p.val ∧ flitVerdict
      flit false = .good ∧ h.ftype = 1 ∧ e.linkState p.val = 4 ∧ h.seq = (e.link p.val).rxE ∧ flitMsgs flit = some ms) :=
  ⟨⟨st (port 0 4 up), 3, late, _, rfl, by decide +kernel⟩,
  ⟨st (((put [(Reg.CREDIT_TX_H 3 5, 9), (Reg.CREDIT_TX_D 3 5, 9)] (port 0 4 up)).onLink 3 (fun l =>
    { l with credits := List.replicate 6 (9, 9), staged := [⟨.glois (msg [(0, 3, 5)] []), 0, 0, false, false⟩] }))), 3, late, msg [(0, 3,
    5)] [], [], (((((put [(Reg.CREDIT_TX_H 3 5, 9), (Reg.CREDIT_TX_D 3 5, 9)] (port 0 4 up)).onLink 3 (fun l =>
    { l with credits := List.replicate 6 (9, 9), staged := [⟨.glois (msg [(0, 3, 5)] []), 0, 0, false, false⟩] }))).at late).fillFlit 3 1
    [⟨.glois (msg [(0, 3, 5)] []), 0, 0, false, false⟩] [] 0).1, _, rfl, by decide +kernel, by decide +kernel, by decide +kernel,
    by decide +kernel, by decide +kernel, by rfl⟩,
  ⟨st (port 0 4 up), 3, late, laneStreams 16 (List.replicate 256 0#8), arrives (List.replicate 256 0#8), [], _, _, rfl,
    by decide +kernel, by decide +kernel, rfl, lanes_taken (by decide +kernel) (by decide +kernel), by decide +kernel⟩,
  ⟨st (port 0 4 up), 3, late, laneStreams 16 (flitBytes (linkHeader 1) [] false), arrives (flitBytes (linkHeader 1) [] false), [], _, _,
    rfl, _, rfl, rfl, lanes_taken (by decide +kernel) (by decide +kernel), _, rfl, by decide +kernel⟩⟩

theorem witness_RequestsServed :
    (∃ (s : State) (r : HomeReq) (t : Nat) (d : Dev), s.dev.at t = d ∧ d.FirstAtHome r .rdShared ∧ d.home.lines = []) ∧
    (∃ (s : State) (r : HomeReq) (t : Nat) (d : Dev), s.dev.at t = d ∧ d.FirstAtHome r .rdNoalloc ∧ d.home.lines = []) ∧
    (∃ (s : State) (r : HomeReq) (t : Nat) (d : Dev), s.dev.at t = d ∧ d.FirstAtHome r .rdOwn ∧ d.home.lines = []) ∧
    (∃ (s : State) (r : HomeReq) (t : Nat) (d : Dev), s.dev.at t = d ∧ d.FirstAtHome r .wrLine ∧ d.home.lines = [] ∧ d.roRefuses
      { r with op := .wrLine, epoch := d.epoch } = false) ∧
    (∃ (s : State) (r : HomeReq) (t : Nat) (d : Dev), s.dev.at t = d ∧ d.FirstAtHome r .wrPart ∧ d.home.lines = [] ∧ d.roRefuses
      { r with op := .wrPart, epoch := d.epoch } = false ∧ (∀ x, d.region d.epoch r.ppa = some x → x.2.memside = false)) ∧
    (∃ (s : State) (r : HomeReq) (t p made : Nat) (d : Dev), s.dev.at t = d ∧ d.FirstAtHome r .wbDirty ∧ r.who = .port p ∧ d.home.lines =
      [(r.ppa / 64, ⟨.owned p, made, none, []⟩)] ∧ (d.turn r .wbDirty).fenced p = false ∧ d.roRefuses
      { r with op := .wbDirty, epoch := d.epoch } = false) ∧
    (∃ (s : State) (r : HomeReq) (t p : Nat) (d : Dev), s.dev.at t = d ∧ d.FirstAtHome r .inval ∧ r.who = .port p ∧ d.home.lines = []) ∧
    (∃ (s : State) (r : HomeReq) (t : Nat) (d : Dev), s.dev.at t = d ∧ d.FirstAtHome r .evict ∧ d.home.lines = []) ∧
    (∀ op : AtomicOp, (∃ (s : State) (r : HomeReq) (t ix : Nat) (e : RtEntry) (d : Dev), s.dev.at t = d ∧ d.FirstAtHome r (.atomic op) ∧
      d.region d.epoch (r.ppa / 64 * 64) = some (ix, e) ∧ d.region d.epoch r.ppa = some (ix, e) ∧ e.memside = false ∧ e.tier ≠ 2 ∧
      d.home.lines = [] ∧ d.home.abuf = []) ∧ ∃ (s : State) (r : HomeReq) (t ix : Nat) (e : RtEntry) (d : Dev), s.dev.at t = d ∧
      d.FirstAtHome r (.atomic op) ∧ d.region d.epoch (r.ppa / 64 * 64) = some (ix, e) ∧ d.region d.epoch r.ppa = some (ix, e) ∧
      e.memside = false ∧ e.tier ≠ 2 ∧ ∃ (made : Nat) (a : AtomicLine), d.home.lines = [(r.ppa / 64, ⟨.atomic, made, none, []⟩)] ∧
      d.buffered (r.ppa / 64) = some a ∧ (d.turn r (.atomic op)).get (Reg.KEYGEN_CUR_GEN e.dom) ≠ 0) :=
  ⟨⟨st (ready), ⟨.port 3, 9, .rdOwn, 5, 0x1000, 0, 0x1000, [], 0, 0, 0, 0, 0, 0, 0, none⟩, late, _, rfl, first_home (by decide +kernel),
    by decide +kernel⟩,
  ⟨st (ready), ⟨.port 3, 9, .rdOwn, 5, 0x1000, 0, 0x1000, [], 0, 0, 0, 0, 0, 0, 0, none⟩, late, _, rfl, first_home (by decide +kernel),
    by decide +kernel⟩,
  ⟨st (ready), ⟨.port 3, 9, .rdOwn, 5, 0x1000, 0, 0x1000, [], 0, 0, 0, 0, 0, 0, 0, none⟩, late, _, rfl, first_home (by decide +kernel),
    by decide +kernel⟩,
  ⟨st (ready), ⟨.port 3, 9, .rdOwn, 5, 0x1000, 0, 0x1000, [], 0, 0, 0, 0, 0, 0, 0, none⟩, late, _, rfl, first_home (by decide +kernel),
    by decide +kernel⟩,
  ⟨st (ready), ⟨.port 3, 9, .rdOwn, 5, 0x1000, 0, 0x1000, [], 0, 0, 0, 0, 0, 0, 0, none⟩, late, _, rfl, first_home (by decide +kernel),
    by decide +kernel, by decide +kernel, some_gives (y := (0, entry 1)) (by decide +kernel) (by decide +kernel)⟩,
  ⟨st (({ ready with home := { Homes.empty with lines := [(64, ⟨.owned 3, 0, none, []⟩)] } } : Dev)), ⟨.port 3, 9, .rdOwn, 5, 0x1000, 0,
    0x1000, [], 0, 0, 0, 0, 0, 0, 0, none⟩, late, 3, 0, _, rfl, first_home (by decide +kernel), by decide +kernel⟩,
  ⟨st (ready), ⟨.port 3, 9, .rdOwn, 5, 0x1000, 0, 0x1000, [], 0, 0, 0, 0, 0, 0, 0, none⟩, late, 3, _, rfl, first_home
    (by decide +kernel), by decide +kernel⟩,
  ⟨st (ready), ⟨.port 3, 9, .rdOwn, 5, 0x1000, 0, 0x1000, [], 0, 0, 0, 0, 0, 0, 0, none⟩, late, _, rfl, first_home (by decide +kernel),
    by decide +kernel⟩,
  fun op => ⟨⟨st ready, ⟨.port 3, 9, .rdOwn, 5, 0x1000, 0, 0x1000, [], 0, 0, 0, 0, 0, 0, 0, none⟩, late, 0, entry 1, _, rfl, first_home
    (by cases op <;> decide +kernel), by decide +kernel, by decide +kernel, by decide +kernel, by decide +kernel, by decide +kernel,
    by decide +kernel⟩, ⟨st (put [(Reg.KEYGEN_CUR_GEN 5, 1)]
    ({ ready with home := { Homes.empty with lines := [(64, ⟨.atomic, 0, none, []⟩)], abuf := [⟨64, List.replicate 64 0#8, 0⟩] } } :
    Dev)), ⟨.port 3, 9, .rdOwn, 5, 0x1000, 0, 0x1000, [], 0, 0, 0, 0, 0, 0, 0, none⟩, late, 0, entry 1, _, rfl, first_home
    (by cases op <;> decide +kernel), by decide +kernel, by decide +kernel, by decide +kernel, by decide +kernel, 0, ⟨64, List.replicate
    64 0#8, 0⟩, by decide +kernel, by decide +kernel, by cases op <;> decide +kernel⟩⟩⟩

theorem witness_InvalServed :
    (∀ op ∈ ([.rdShared, .rdNoalloc, .rdOwn, .wrLine, .wrPart, .wbDirty, .evict, .atomic .fadd, .atomic .min, .atomic .max, .atomic
      .swap, .atomic .cas] : List HomeOp), (∃ (s : State) (r : HomeReq) (t made : Nat) (st : LineState) (d : Dev), s.dev.at t = d ∧
      d.FirstAtHome r op ∧ d.home.lines = []) ∧ ∃ (s : State) (r : HomeReq) (t made : Nat) (st : LineState) (d : Dev), s.dev.at t = d ∧
      d.FirstAtHome r op ∧ d.home.lines = [(r.ppa / 64, ⟨st, made, none, []⟩)] ∧ isHold st = false) ∧
    (∃ (s : State) (r : HomeReq) (p t : Nat) (d : Dev), s.dev.at t = d ∧ d.FirstAtHome r .inval ∧ r.who = .port p ∧ d.home.lines = []) :=
  ⟨all_of (c := fun op => firstHome ((st ready).dev.at late) ⟨.port 3, 9, .rdOwn, 5, 0x1000, 0, 0x1000, [], 0, 0, 0, 0, 0, 0, 0, none⟩ op
    && firstHome ((st ({ ready with home := { Homes.empty with lines := [(64, ⟨.owned 4, 0, none, []⟩)] } } : Dev)).dev.at late) ⟨.port
    3, 9, .rdOwn, 5, 0x1000, 0, 0x1000, [], 0, 0, 0, 0, 0, 0, 0, none⟩ op) (fun _ h => ⟨⟨st ready, ⟨.port 3, 9, .rdOwn, 5, 0x1000, 0,
    0x1000, [], 0, 0, 0, 0, 0, 0, 0, none⟩, late, 0, .inv, _, rfl, first_home (Bool.and_eq_true_iff.mp h).1, by decide +kernel⟩, ⟨st
    ({ ready with home := { Homes.empty with lines := [(64, ⟨.owned 4, 0, none, []⟩)] } } : Dev), ⟨.port 3, 9, .rdOwn, 5, 0x1000, 0,
    0x1000, [], 0, 0, 0, 0, 0, 0, 0, none⟩, late, 0, .owned 4, _, rfl, first_home (Bool.and_eq_true_iff.mp h).2, by decide +kernel,
    by decide +kernel⟩⟩) (by decide +kernel),
  ⟨st (ready), ⟨.port 3, 9, .rdOwn, 5, 0x1000, 0, 0x1000, [], 0, 0, 0, 0, 0, 0, 0, none⟩, 3, late, _, rfl, first_home
    (by decide +kernel), by decide +kernel⟩⟩

theorem witness_HomeTable :
    (∃ (d : Dev) (k : Nat) (b : Busy), d.busyOf k = some b ∧ d.roRefuses b.work.req = false ∧ b.work.req.parity ≠ 2 ∧ (∀ id,
      b.work.req.who ≠ .takeBack id) ∧ (d.lineAt k).st = .inv ∧ b.work.req.op = .rdNoalloc) ∧
    (∃ (d : Dev) (k : Nat) (b : Busy), d.busyOf k = some b ∧ d.roRefuses b.work.req = false ∧ b.work.req.parity ≠ 2 ∧ (∀ id,
      b.work.req.who ≠ .takeBack id) ∧ (d.lineAt k).st = .inv ∧ b.work.req.op = .wrLine) ∧
    (∃ (d : Dev) (k : Nat) (b : Busy) (p : Nat), d.busyOf k = some b ∧ d.roRefuses b.work.req = false ∧ b.work.req.parity ≠ 2 ∧ (∀ id,
      b.work.req.who ≠ .takeBack id) ∧ (d.lineAt k).st = .inv ∧ b.work.req.op = .inval ∧ b.work.req.who = .port p ∧ d.dirFull (homeSlice
      (k * 64)) k = false) ∧
    (∃ (d : Dev) (k : Nat) (b : Busy), d.busyOf k = some b ∧ d.roRefuses b.work.req = false ∧ b.work.req.parity ≠ 2 ∧ (∀ id,
      b.work.req.who ≠ .takeBack id) ∧ (d.lineAt k).st = .inv ∧ b.work.req.op = .wbDirty) ∧
    (∃ (d : Dev) (k : Nat) (b : Busy) (p q : Nat) (since : Option Nat), d.busyOf k = some b ∧ d.roRefuses b.work.req = false ∧
      b.work.req.parity ≠ 2 ∧ (∀ id, b.work.req.who ≠ .takeBack id) ∧ (d.lineAt k).st = .held p since ∧ b.work.req.who = .port q ∧ q ≠ p
      ∧ b.work.req.op ∈ ([.rdShared, .rdNoalloc, .rdOwn, .wrLine, .wrPart, .wbDirty] : List HomeOp)) ∧
    (∃ (d : Dev) (k : Nat) (b : Busy) (v : Sharers) (i : Nat) (e : RtEntry), d.busyOf k = some b ∧ d.roRefuses b.work.req = false ∧
      b.work.req.parity ≠ 2 ∧ (∀ id, b.work.req.who ≠ .takeBack id) ∧ (d.lineAt k).st = .shared v ∧ b.work.req.op = .rdOwn ∧ d.region
      b.work.req.epoch (k * 64) = some (i, e) ∧ e.ownedWb = true ∧ e.tier ≠ 2) ∧
    (∃ (d : Dev) (k : Nat) (b : Busy) (p : Nat), d.busyOf k = some b ∧ d.roRefuses b.work.req = false ∧ b.work.req.parity ≠ 2 ∧ (∀ id,
      b.work.req.who ≠ .takeBack id) ∧ (d.lineAt k).st = .owned p ∧ d.fenced p = false ∧ b.work.req.op ∈ ([.rdShared, .rdNoalloc, .rdOwn,
      .wrLine, .wrPart, .inval] : List HomeOp)) ∧
    (∃ (d : Dev) (k : Nat) (b : Busy), d.busyOf k = some b ∧ d.roRefuses b.work.req = false ∧ b.work.req.parity ≠ 2 ∧ (∀ id,
      b.work.req.who ≠ .takeBack id) ∧ (d.lineAt k).st = .lost ∧ b.work.req.op ∈ ([.rdShared, .rdNoalloc, .rdOwn, .wrPart] : List
      HomeOp)) :=
  ⟨⟨({ up with home := { Homes.empty with lines := [(64, ⟨.inv, 0, some ⟨⟨⟨.port 3, 9, .rdNoalloc, 5, 0x1000, 0, 0x1000, [], 0, 0, 0, 0, 0, 0, 0, none⟩, 0, [], false⟩, .acks [], 0, [], false, 0, 0⟩, []⟩)] } }
    : Dev), 64, ⟨⟨⟨.port 3, 9, .rdNoalloc, 5, 0x1000, 0, 0x1000, [], 0, 0, 0, 0, 0, 0, 0, none⟩, 0, [], false⟩, .acks [], 0, [], false,
    0, 0⟩, by decide +kernel, by decide +kernel, by decide +kernel, (by intro id h; cases h), by decide +kernel, by decide +kernel⟩,
  ⟨({ up with home := { Homes.empty with lines := [(64, ⟨.inv, 0, some ⟨⟨⟨.port 3, 9, .wrLine, 5, 0x1000, 0, 0x1000, [], 0, 0, 0, 0, 0, 0, 0, none⟩, 0, [], false⟩, .acks [], 0, [], false, 0, 0⟩, []⟩)] } }
    : Dev), 64, ⟨⟨⟨.port 3, 9, .wrLine, 5, 0x1000, 0, 0x1000, [], 0, 0, 0, 0, 0, 0, 0, none⟩, 0, [], false⟩, .acks [], 0, [], false, 0,
    0⟩, by decide +kernel, by decide +kernel, by decide +kernel, (by intro id h; cases h), by decide +kernel, by decide +kernel⟩,
  ⟨({ up with home := { Homes.empty with lines := [(64, ⟨.inv, 0, some ⟨⟨⟨.port 3, 9, .inval, 5, 0x1000, 0, 0x1000, [], 0, 0, 0, 0, 0, 0, 0, none⟩, 0, [], false⟩, .acks [], 0, [], false, 0, 0⟩, []⟩)] } }
    : Dev), 64, ⟨⟨⟨.port 3, 9, .inval, 5, 0x1000, 0, 0x1000, [], 0, 0, 0, 0, 0, 0, 0, none⟩, 0, [], false⟩, .acks [], 0, [], false, 0,
    0⟩, 3, by decide +kernel, by decide +kernel, by decide +kernel, (by intro id h; cases h), by decide +kernel, by decide +kernel,
    by decide +kernel, by decide +kernel⟩,
  ⟨({ up with home := { Homes.empty with lines := [(64, ⟨.inv, 0, some ⟨⟨⟨.port 3, 9, .wbDirty, 5, 0x1000, 0, 0x1000, [], 0, 0, 0, 0, 0, 0, 0, none⟩, 0, [], false⟩, .acks [], 0, [], false, 0, 0⟩, []⟩)] } }
    : Dev), 64, ⟨⟨⟨.port 3, 9, .wbDirty, 5, 0x1000, 0, 0x1000, [], 0, 0, 0, 0, 0, 0, 0, none⟩, 0, [], false⟩, .acks [], 0, [], false, 0,
    0⟩, by decide +kernel, by decide +kernel, by decide +kernel, (by intro id h; cases h), by decide +kernel, by decide +kernel⟩,
  ⟨({ up with home := { Homes.empty with lines := [(64, ⟨.held 4 none, 0, some ⟨⟨⟨.port 3, 9, .rdShared, 5, 0x1000, 0, 0x1000, [], 0, 0, 0, 0, 0, 0, 0, none⟩, 0, [], false⟩, .acks [], 0, [], false, 0, 0⟩, []⟩)] } }
    : Dev), 64, ⟨⟨⟨.port 3, 9, .rdShared, 5, 0x1000, 0, 0x1000, [], 0, 0, 0, 0, 0, 0, 0, none⟩, 0, [], false⟩, .acks [], 0, [], false, 0,
    0⟩, 4, 3, none, by decide +kernel, by decide +kernel, by decide +kernel, (by intro id h; cases h), by decide +kernel,
    by decide +kernel, by decide +kernel, by decide +kernel⟩,
  ⟨(mapped
    ({ up with home := { Homes.empty with lines := [(64, ⟨.shared (.exact [4]), 0, some ⟨⟨⟨.port 3, 9, .rdOwn, 5, 0x1000, 0, 0x1000, [], 0, 0, 0, 0, 0, 0, 0, none⟩, 0, [], false⟩, .acks [], 0, [], false, 0, 0⟩, []⟩)] } }
    : Dev)), 64, ⟨⟨⟨.port 3, 9, .rdOwn, 5, 0x1000, 0, 0x1000, [], 0, 0, 0, 0, 0, 0, 0, none⟩, 0, [], false⟩, .acks [], 0, [], false, 0,
    0⟩, .exact [4], 0, entry 1, by decide +kernel, by decide +kernel, by decide +kernel, (by intro id h; cases h), by decide +kernel,
    by decide +kernel, by decide +kernel, by decide +kernel, by decide +kernel⟩,
  ⟨({ up with home := { Homes.empty with lines := [(64, ⟨.owned 4, 0, some ⟨⟨⟨.port 3, 9, .rdOwn, 5, 0x1000, 0, 0x1000, [], 0, 0, 0, 0, 0, 0, 0, none⟩, 0, [], false⟩, .acks [], 0, [], false, 0, 0⟩, []⟩)] } }
    : Dev), 64, ⟨⟨⟨.port 3, 9, .rdOwn, 5, 0x1000, 0, 0x1000, [], 0, 0, 0, 0, 0, 0, 0, none⟩, 0, [], false⟩, .acks [], 0, [], false, 0,
    0⟩, 4, by decide +kernel, by decide +kernel, by decide +kernel, (by intro id h; cases h), by decide +kernel, by decide +kernel,
    by decide +kernel⟩,
  ⟨({ up with home := { Homes.empty with lines := [(64, ⟨.lost, 0, some ⟨⟨⟨.port 3, 9, .rdOwn, 5, 0x1000, 0, 0x1000, [], 0, 0, 0, 0, 0, 0, 0, none⟩, 0, [], false⟩, .acks [], 0, [], false, 0, 0⟩, []⟩)] } }
    : Dev), 64, ⟨⟨⟨.port 3, 9, .rdOwn, 5, 0x1000, 0, 0x1000, [], 0, 0, 0, 0, 0, 0, 0, none⟩, 0, [], false⟩, .acks [], 0, [], false, 0,
    0⟩, by decide +kernel, by decide +kernel, by decide +kernel, (by intro id h; cases h), by decide +kernel, by decide +kernel⟩⟩

theorem witness_OperatorWriteLands :
    (∃ (s : State) (p : Port) (m : Msg) (t : Nat) (d : Dev), s.dev.at t = d ∧ d.sw.arrived = [] ∧ d.fenced p.val = false ∧ d.boundDom
      p.val = some m.domain ∧ m.ord ≠ 1 ∧ d.opsAllowed m.domain m = true ∧ m.space ≠ 0 ∧ counterId m.ctrKind m.ctr = none) ∧
    (∃ (s : State) (p : Port) (m : Msg) (t : Nat) (d : Dev), s.dev.at t = d ∧ d.sw.arrived = [] ∧ d.fenced p.val = false ∧ d.boundDom
      p.val ≠ some m.domain) :=
  ⟨⟨st (windowed { up with ten := { Tenancy.empty with live := { Bank.empty with bind := [(3, 4101)] } } }), 3, msg [(0, 3, 3), (12, 14,
    9), (32, 12, 5), (44, 52, 0x4000_0000), (96, 4, 1), (116, 2, 3)] [1], late, _, rfl, by decide +kernel⟩,
  ⟨st (up), 3, msg [] [], late, _, rfl, by decide +kernel⟩⟩

theorem witness_TrayAnswers :
    (∃ (s : State) (p : Port) (m : Msg) (t : Nat) (o : Out) (mirror : Bool) (d : Dev), s.dev.at t = d ∧ d.sw.arrived = [] ∧ d.fenced
      p.val = false ∧ d.outOf p.val m.tag = some o ∧ o.use = .read mirror) ∧
    (∃ (s : State) (p : Port) (m : Msg) (t : Nat) (o : Out) (mirror : Bool) (d : Dev), s.dev.at t = d ∧ d.sw.arrived = [] ∧ d.fenced
      p.val = false ∧ d.outOf p.val m.tag = some o ∧ o.use = .read mirror ∧ o.tries < 3) ∧
    (∃ (s : State) (p : Port) (m : Msg) (t : Nat) (o : Out) (d : Dev), s.dev.at t = d ∧ d.sw.arrived = [] ∧ d.fenced p.val = false ∧
      d.outOf p.val m.tag = some o ∧ o.use = .memside ∧ m.status = 0) ∧
    (∃ (s : State) (p : Port) (m : Msg) (t copy : Nat) (o : Out) (d : Dev), s.dev.at t = d ∧ d.sw.arrived = [] ∧ d.fenced p.val = false ∧
      d.outOf p.val m.tag = some o ∧ o.use = .write copy ∧ m.status = 0) :=
  ⟨⟨st (({ up with home := { Homes.empty with outs := [⟨3, 9, 64, .read false, msg [] [], 0, 0⟩] } } : Dev)), 3, msg [(12, 14, 9)] [1],
    late, ⟨3, 9, 64, .read false, msg [] [], 0, 0⟩, false, _, rfl, by decide +kernel⟩,
  ⟨st (({ up with home := { Homes.empty with outs := [⟨3, 9, 64, .read false, msg [] [], 0, 0⟩] } } : Dev)), 3, msg [(12, 14, 9)] [1],
    late, ⟨3, 9, 64, .read false, msg [] [], 0, 0⟩, false, _, rfl, by decide +kernel⟩,
  ⟨st (({ up with home := { Homes.empty with outs := [⟨3, 9, 64, .memside, msg [] [], 0, 0⟩] } } : Dev)), 3, msg [(12, 14, 9)] [1], late,
    ⟨3, 9, 64, .memside, msg [] [], 0, 0⟩, _, rfl, by decide +kernel⟩,
  ⟨st (({ up with home := { Homes.empty with outs := [⟨3, 9, 64, .write 0, msg [] [], 0, 0⟩] } } : Dev)), 3, msg [(12, 14, 9)] [1], late,
    0, ⟨3, 9, 64, .write 0, msg [] [], 0, 0⟩, _, rfl, by decide +kernel⟩⟩

theorem witness_RequesterAnswers :
    (∃ (s : State) (p : Port) (m : Msg) (t : Nat) (x : Nat × Nat × Nat) (d : Dev), s.dev.at t = d ∧ d.sw.arrived = [] ∧ d.fenced p.val =
      false ∧ d.snoopOf p.val m.tag = some x) ∧
    (∃ d : Dev, (∀ y ∈ d.home.snoops, y.2.1 < tagSpace)) ∧
    (∃ (s : State) (p : Port) (m : Msg) (t : Nat) (x : Nat × Nat × Nat) (b : Busy) (d : Dev), s.dev.at t = d ∧ d.sw.arrived = [] ∧
      d.fenced p.val = false ∧ d.snoopOf p.val m.tag = some x ∧ (d.dropSnoop x).busyOf x.2.2 = some b ∧ (∃ ports, b.wait = .acks ports ∨
      b.wait = .takeBack ports)) ∧
    (∃ (s : State) (p : Port) (m : Msg) (t tile tag : Nat) (r : ResOut) (d : Dev), s.dev.at t = d ∧ d.sw.arrived = [] ∧ d.fenced p.val =
      false ∧ d.resultOf p.val m.tag = some r ∧ r.use = .anvil tile tag) ∧
    (∃ (s : State) (p : Port) (m : Msg) (t n stack : Nat) (r : ResOut) (d : Dev), s.dev.at t = d ∧ d.sw.arrived = [] ∧ d.fenced p.val =
      false ∧ d.resultOf p.val m.tag = some r ∧ r.use = .push n stack) :=
  ⟨⟨st (({ up with home := { Homes.empty with snoops := [(3, 9, 64)] } } : Dev)), 3, msg [(12, 14, 9)] [1], late, (3, 9, 64), _, rfl,
    by decide +kernel⟩,
  ⟨({ up with home := { Homes.empty with snoops := [(3, 9, 64)] } } : Dev), by decide +kernel⟩,
  ⟨st
    (({ up with home := { Homes.empty with snoops := [(3, 9, 64)], lines := [(64, ⟨.inv, 0, some ⟨⟨⟨.port 3, 9, .rdOwn, 5, 0x1000, 0, 0x1000, [], 0, 0, 0, 0, 0, 0, 0, none⟩, 0, [], false⟩, .acks [3], 0, [], false, 0, 0⟩, []⟩)] } }
    : Dev)), 3, msg [(12, 14, 9)] [1], late, (3, 9, 64), ⟨⟨⟨.port 3, 9, .rdOwn, 5, 0x1000, 0, 0x1000, [], 0, 0, 0, 0, 0, 0, 0, none⟩, 0,
    [], false⟩, .acks [3], 0, [], false, 0, 0⟩, _, rfl, by decide +kernel, by decide +kernel, by decide +kernel, by decide +kernel, ⟨[3],
    Or.inl rfl⟩⟩,
  ⟨st (({ up with results := [⟨3, 9, .anvil 2 5, msg [] [], 0⟩] } : Dev)), 3, msg [(12, 14, 9)] [1], late, 2, 5, ⟨3, 9, .anvil 2 5, msg
    [] [], 0⟩, _, rfl, by decide +kernel⟩,
  ⟨st (({ up with results := [⟨3, 9, .push 1 0, msg [] [], 0⟩] } : Dev)), 3, msg [(12, 14, 9)] [1], late, 1, 0, ⟨3, 9, .push 1 0, msg []
    [], 0⟩, _, rfl, by decide +kernel⟩⟩

theorem witness_ManagementTaken :
    (∃ (s : State) (t : Nat) (d : Dev), s.dev.at t = d) ∧
    (∃ (s : State) (p : Port) (m : Msg) (t : Nat) (d e : Dev), s.dev.at t = d ∧ e = d.consume (arrivedMsg p.val m) ∧ e.isGlois p.val =
      true ∧ ∃ f, f = (e.when (e.link p.val).hbLate (fun d => d.bump Reg.LATE_ITEMS)).onLink p.val (fun l => { l with hbLate := false })
      ∧ m.fenceEpoch = f.get (Reg.PORT_FENCE_FENCE_EPOCH p.val) ∧ (f.onLink p.val (fun l => { l with hbSeen := f.time })).fenced p.val =
      false) ∧
    (∃ (s : State) (p : Port) (m : Msg) (t : Nat) (d e : Dev), s.dev.at t = d ∧ e = d.consume (arrivedMsg p.val m) ∧ e.isGlois p.val =
      true ∧ ∃ f, f = (e.when (e.link p.val).hbLate (fun d => d.bump Reg.LATE_ITEMS)).onLink p.val (fun l => { l with hbLate := false })
      ∧ m.fenceEpoch ≠ f.get (Reg.PORT_FENCE_FENCE_EPOCH p.val)) ∧
    (∃ (s : State) (p : Port) (m : Msg) (t : Nat) (d e : Dev), s.dev.at t = d ∧ e = d.consume (arrivedMsg p.val m) ∧ e.isRole p.val 1 =
      true ∧ m.field 32 8 = 1) :=
  ⟨⟨st (up), late, _, rfl⟩,
  ⟨st (port 0 4 up), 3, msg [(64, 16, 1)] [], late, _, _, rfl, rfl, by decide +kernel, _, rfl, by decide +kernel⟩,
  ⟨st (port 0 4 up), 3, msg [(64, 16, 7)] [], late, _, _, rfl, rfl, by decide +kernel, _, rfl, by decide +kernel⟩,
  ⟨st (port 1 4 up), 3, msg [(32, 8, 1)] [], late, _, _, rfl, rfl, by decide +kernel⟩⟩

theorem witness_HomeTimersFire :
    (∃ (s : State) (k t p since : Nat) (d : Dev), s.dev.at t = d ∧ (d.lineAt k).st = .held p (some since) ∧ d.busyOf k = none ∧ since +
      max 100 (d.get Reg.DIR_CTL_HOLD_LIMIT_NS) ≤ d.time) ∧
    (∃ (s : State) (k t p : Nat) (b : Busy) (d : Dev), s.dev.at t = d ∧ d.busyOf k = some b ∧ b.wait = .acks [p] ∧ b.told = false ∧
      b.since + max 1 (d.get Reg.DIR_CTL_SNP_TIMEOUT_US) * 1000 ≤ d.time) ∧
    (∃ (s : State) (k t : Nat) (a : AtomicLine) (d : Dev), s.dev.at t = d ∧ d.buffered k = some a ∧ d.busyOf k = none ∧ a.used + d.get
      Reg.DIR_CTL_ATOMIC_IDLE_NS ≤ d.time) ∧
    (∃ (s : State) (k t : Nat) (b : Busy) (d : Dev), s.dev.at t = d ∧ d.busyOf k = some b ∧ (d.lineAt k).queue = [] ∧ b.work.opened +
      d.combineWin ≤ d.time) ∧
    (∃ (s : State) (k t p since : Nat) (l : Line) (b : Busy) (d : Dev), s.dev.at t = d ∧ d.home.lines = [(k, l)] ∧ d.home.park = [] ∧
      l.busy = some b ∧ b.work.members = [] ∧ b.wait = .parked p since ∧ d.get Reg.PARK_CTL_PARK_LIMIT_US ≠ 0 ∧ since + d.get
      Reg.PARK_CTL_PARK_LIMIT_US * 1000 ≤ d.time) ∧
    (∃ (s : State) (t : Nat) (d : Dev), s.dev.at t = d ∧ d.pcieUp = true) ∧
    (∃ (s : State) (n : BitVec 32) (t k : Nat) (l : Line) (d : Dev), s.dev.at t = d ∧ d.pcieUp = true ∧ d.flag Reg.DIR_STAT_REVERT_BUSY =
      false ∧ d.home.lines = [(k, l)] ∧ l.st = .lost ∧ l.busy = none ∧ l.queue = [] ∧ d.get Reg.REVERT_BASE_PAGE ≤ pageOf (k * 64) ∧
      pageOf (k * 64) < d.get Reg.REVERT_BASE_PAGE + n.toNat) :=
  ⟨⟨st (({ up with home := { Homes.empty with lines := [(64, ⟨.held 3 (some 0), 0, none, []⟩)] } } : Dev)), 64, late, 3, 0, _, rfl,
    by decide +kernel⟩,
  ⟨st
    (({ up with home := { Homes.empty with lines := [(64, ⟨.shared (.exact [3]), 0, some ⟨⟨⟨.port 3, 9, .rdOwn, 5, 0x1000, 0, 0x1000, [], 0, 0, 0, 0, 0, 0, 0, none⟩, 0, [], false⟩, .acks [3], 0, [], false, 0, 0⟩, []⟩)] } }
    : Dev)), 64, late, 3, ⟨⟨⟨.port 3, 9, .rdOwn, 5, 0x1000, 0, 0x1000, [], 0, 0, 0, 0, 0, 0, 0, none⟩, 0, [], false⟩, .acks [3], 0, [],
    false, 0, 0⟩, _, rfl, by decide +kernel⟩,
  ⟨st (({ up with home := { Homes.empty with abuf := [⟨64, List.replicate 64 0#8, 0⟩] } } : Dev)), 64, late, ⟨64, List.replicate 64 0#8,
    0⟩, _, rfl, by decide +kernel⟩,
  ⟨st
    (({ up with home := { Homes.empty with lines := [(64, ⟨.inv, 0, some ⟨⟨⟨.port 3, 9, .rdShared, 5, 0x1000, 0, 0x1000, [], 0, 0, 0, 0, 0, 0, 0, none⟩, 0, [], false⟩, .read false 0, 0, [], false, 0, 0⟩, []⟩)] } }
    : Dev)), 64, late, ⟨⟨⟨.port 3, 9, .rdShared, 5, 0x1000, 0, 0x1000, [], 0, 0, 0, 0, 0, 0, 0, none⟩, 0, [], false⟩, .read false 0, 0,
    [], false, 0, 0⟩, _, rfl, by decide +kernel⟩,
  ⟨st ((put [(Reg.PARK_CTL_PARK_LIMIT_US, 100)]
    ({ up with home := { Homes.empty with lines := [(64, ⟨.inv, 0, some ⟨⟨⟨.port 3, 9, .rdShared, 5, 0x1000, 0, 0x1000, [], 0, 0, 0, 0, 0, 0, 0, none⟩, 0, [], false⟩, .parked 3 0, 0, [], false, 0, 0⟩, []⟩)] } }
    : Dev))), 64, late, 3, 0, ⟨.inv, 0, some ⟨⟨⟨.port 3, 9, .rdShared, 5, 0x1000, 0, 0x1000, [], 0, 0, 0, 0, 0, 0, 0, none⟩, 0, [],
    false⟩, .parked 3 0, 0, [], false, 0, 0⟩, []⟩, ⟨⟨⟨.port 3, 9, .rdShared, 5, 0x1000, 0, 0x1000, [], 0, 0, 0, 0, 0, 0, 0, none⟩, 0, [],
    false⟩, .parked 3 0, 0, [], false, 0, 0⟩, _, rfl, by decide +kernel⟩,
  ⟨st (up), late, _, rfl, by decide +kernel⟩,
  ⟨st (({ up with home := { Homes.empty with lines := [(64, ⟨.lost, 0, none, []⟩)] } } : Dev)), 1#32, late, 64, ⟨.lost, 0, none, []⟩, _,
    rfl, by decide +kernel⟩⟩

theorem witness_SwitchMoves :
    (∃ (s : State) (ps t : Nat) (d e f : Dev) (pairs : List Ask), s.dev.at t = d ∧ e = ((d.set Reg.MATCH_STAT_EPOCH_PS (min 65535
      ps)).set Reg.MATCH_STAT_EPOCH_PS_MAX (max ((d.set Reg.MATCH_STAT_EPOCH_PS (min 65535 ps)).get Reg.MATCH_STAT_EPOCH_PS_MAX) (min
      65535 ps))).retryWaiting ∧ e.matchRounds (((heads e.sw.cells).filter e.eligible).flatMap (fun c => (e.slotsOf c.src).flatMap (fun i
      => (e.slotsOf c.dst).map (fun o => (⟨i, o, e.rankOf c⟩ : Ask))))) (clampTo 1 4 (e.get Reg.MATCH_CTL_ROUNDS)) true [] = (f, pairs)) ∧
    (∃ (d : Dev) (rank : Cell → Nat) (live : List Cell) (hits : List ParityHit) (moved : List Nat) (a : Ask) (c : Cell), d.chooseCell
      rank live moved a = some c ∧ hits.find? (fun h => h.slot.val == a.i) = none ∧ c.more = 0 ∧ ∃ e, e =
      ({ d with sw := { d.sw with classPtr := Tab.put 0 d.sw.classPtr (a.i * 1344 + a.o) ((c.tc + 1) % 8) } } : Dev).chargeCell c ∧
      (e.planesShort = false ∨ c.half = true)) ∧
    (∃ (s : State) (t : Nat) (d : Dev), s.dev.at t = d ∧ d.sw.cells = [] ∧ d.sw.waiting = []) ∧
    (∃ (s : State) (t : Nat) (d : Dev), s.dev.at t = d) ∧
    (∃ (s : State) (t : Nat) (d : Dev), s.dev.at t = d ∧ (∀ c ∈ d.sw.cells, d.aged c = false)) ∧
    (∃ (s : State) (t p : Nat) (d : Dev), s.dev.at t = d ∧ (rangeFrom 0 512).filter d.placed = [p] ∧ d.sw.sampledAt + d.samplePeriod ≤
      d.time) ∧
    (∃ (s : State) (t : Nat) (d : Dev), s.dev.at t = d ∧ d.pcieUp = true) :=
  ⟨⟨st (up), 400, late, _, _, _, _, rfl, rfl, (Prod.eta _).symm⟩,
  ⟨(({ (port 0 4 up) with sw := { Switch.empty with cells := [⟨.tile 2, .port 3, 5, 0, 1, 0, 0, 0, [⟨.glois (msg [(0, 3, 5)] []), 0, 0, false, 0⟩], 0, false, false⟩] } }
    : Dev)), fun c => c.tc, [⟨.tile 2, .port 3, 5, 0, 1, 0, 0, 0, [⟨.glois (msg [(0, 3, 5)] []), 0, 0, false, 0⟩], 0, false, false⟩], [],
    [], ask, ⟨.tile 2, .port 3, 5, 0, 1, 0, 0, 0, [⟨.glois (msg [(0, 3, 5)] []), 0, 0, false, 0⟩], 0, false, false⟩, by decide +kernel,
    by decide +kernel, by decide +kernel, _, rfl, by decide +kernel⟩,
  ⟨st (up), late, _, rfl, by decide +kernel⟩,
  ⟨st (up), late, _, rfl⟩,
  ⟨st (up), late, _, rfl, by decide +kernel⟩,
  ⟨st (port 0 4 up), late, 3, _, rfl, by decide +kernel⟩,
  ⟨st (up), late, _, rfl, by decide +kernel⟩⟩

theorem witness_GrantsAreSound :
    (∃ (d : Dev) (c : Cell), d.aged c = true) ∧
    (∃ c : Cell, (c.cls = 0 ∨ c.cls = 2 ∨ c.cls = 5 ∨ c.moving = true ∨ portOf c.dst = none)) ∧
    (∃ (d : Dev) (c : Cell) (p : Nat) (f : Frame), c.dst = .port p ∧ (c.cls = 1 ∨ c.cls = 3 ∨ c.cls = 4) ∧ c.moving = false ∧ c.frames =
      [f] ∧ f.born + clampTo 10 100000 (d.get (Reg.AGE_CTL_AGE_LIMIT c.tc)) * 100 < d.time) :=
  ⟨⟨(({ (port 0 4 up) with sw := { Switch.empty with cells := [⟨.tile 2, .port 3, 4, 0, 1, 0, 0, 0, [⟨.glois (msg [] []), 0, 0, false, 0⟩], 0, false, false⟩] } }
    : Dev)).at late, ⟨.tile 2, .port 3, 4, 0, 1, 0, 0, 0, [⟨.glois (msg [] []), 0, 0, false, 0⟩], 0, false, false⟩, by decide +kernel⟩,
  ⟨⟨.tile 2, .port 3, 0, 0, 1, 0, 0, 0, [⟨.glois (msg [] []), 0, 0, false, 0⟩], 0, false, false⟩, by decide +kernel⟩,
  ⟨(({ (port 0 4 up) with sw := { Switch.empty with cells := [⟨.tile 2, .port 3, 4, 0, 1, 0, 0, 0, [⟨.glois (msg [] []), 0, 0, false, 0⟩], 0, false, false⟩] } }
    : Dev)).at late, ⟨.tile 2, .port 3, 4, 0, 1, 0, 0, 0, [⟨.glois (msg [] []), 0, 0, false, 0⟩], 0, false, false⟩, 3, ⟨.glois (msg []
    []), 0, 0, false, 0⟩, by decide +kernel⟩⟩

theorem witness_HeatAdmitted :
    (∃ (s : State) (c : RingCmd) (t : Nat) (d e : Dev), s.dev.at t = d ∧ d.Starts c 1 e ∧ e.flag Reg.HEAT_CTL_HOLD_ADMIT = true) ∧
    (∃ (s : State) (c : RingCmd) (t err : Nat) (bs : List Byte) (d e : Dev), s.dev.at t = d ∧ d.Starts c 1 e ∧ e.flag
      Reg.HEAT_CTL_HOLD_ADMIT = false ∧ e.upset = [] ∧ taSpace (c.arg 8 8) = 1 ∧ e.typedOk c.fn.val [] (c.arg 8 8) 64 false = true ∧ bs =
      e.readMem (taAddr (c.arg 8 8)) 64 ∧ e.recordFault c bs = err ∧ err ≠ 0) ∧
    (∃ (s : State) (c : RingCmd) (t ix err : Nat) (bs : List Byte) (ctrs : List (Nat × Nat)) (d e : Dev), s.dev.at t = d ∧ d.Starts c 1 e
      ∧ e.flag Reg.HEAT_CTL_HOLD_ADMIT = false ∧ e.upset = [] ∧ taSpace (c.arg 8 8) = 1 ∧ e.typedOk c.fn.val [] (c.arg 8 8) 64 false =
      true ∧ bs = e.readMem (taAddr (c.arg 8 8)) 64 ∧ e.recordFault c bs = 0 ∧ e.readCtrs (taAddr (fieldBytes bs 24 8)) (fieldBytes bs 20
      2) = some ctrs ∧ ∃ descs, descs = e.readDescs (taAddr (fieldBytes bs 8 8)) (fieldBytes bs 16 4) ∧ e.firstFault c.fn.val ((descs.map
      dTile).foldl addOnce []) (ctrs.map Prod.fst) descs = some (ix, err)) ∧
    (∃ (s : State) (c : RingCmd) (t : Nat) (bs : List Byte) (ctrs : List (Nat × Nat)) (d e : Dev), s.dev.at t = d ∧ d.Starts c 1 e ∧
      e.flag Reg.HEAT_CTL_HOLD_ADMIT = false ∧ e.upset = [] ∧ taSpace (c.arg 8 8) = 1 ∧ e.typedOk c.fn.val [] (c.arg 8 8) 64 false = true
      ∧ bs = e.readMem (taAddr (c.arg 8 8)) 64 ∧ e.recordFault c bs = 0 ∧ e.readCtrs (taAddr (fieldBytes bs 24 8)) (fieldBytes bs 20 2) =
      some ctrs ∧ ∃ descs, descs = e.readDescs (taAddr (fieldBytes bs 8 8)) (fieldBytes bs 16 4) ∧ e.firstFault c.fn.val ((descs.map
      dTile).foldl addOnce []) (ctrs.map Prod.fst) descs = none ∧ (fieldBytes bs 22 2 = 1 → e.depOk c.fn.val (fieldBytes bs 40 2)
      (fieldBytes bs 42 6) = true)) :=
  ⟨⟨st (put [(Reg.HEAT_CTL_HOLD_ADMIT, 1)] (ringOn 0 up)), cmd 0 [(8, 8, 2 ^ 60 + 0x10_0000)], late, _, _, rfl, starts_now
    (by decide +kernel), by decide +kernel⟩,
  ⟨st (ringOn 0 up), cmd 0 [(8, 8, 2 ^ 60 + 0x10_0000)], late, 0x10, _, _, _, rfl, starts_now (by decide +kernel), by decide +kernel,
    by decide +kernel, by decide +kernel, by decide +kernel, rfl, by decide +kernel⟩,
  ⟨st (((ringOn 0 up).writeMem 0x10_0000 (rec_ 64 [(8, 8, 2 ^ 60 + 0x20_0000), (16, 4, 1), (32, 8, 2 ^ 60 + 0x30_0000)])).writeMem
    0x20_0000 (natBytes 8 (512 + 31))), cmd 0 [(8, 8, 2 ^ 60 + 0x10_0000)], late, 0, 0x13, _, [], _, _, rfl, starts_now
    (by decide +kernel), by decide +kernel, by decide +kernel, by decide +kernel, by decide +kernel, rfl, by decide +kernel,
    by decide +kernel, _, rfl, by decide +kernel⟩,
  ⟨st (((ringOn 0 up).writeMem 0x10_0000 (rec_ 64 [(8, 8, 2 ^ 60 + 0x20_0000), (16, 4, 1), (32, 8, 2 ^ 60 + 0x30_0000)])).writeMem
    0x20_0000 (natBytes 8 512)), cmd 0 [(8, 8, 2 ^ 60 + 0x10_0000)], late, _, [], _, _, rfl, starts_now (by decide +kernel),
    by decide +kernel, by decide +kernel, by decide +kernel, by decide +kernel, rfl, by decide +kernel, by decide +kernel, _, rfl,
    by decide +kernel⟩⟩

theorem witness_HeatsRun :
    (∃ (s : State) (k : HeatKey) (t : Nat) (h : Heat) (d : Dev), s.dev.at t = d ∧ d.heatOf k.fn.val k.ring.val k.no = some h ∧
      d.heatReady h = true ∧ (∀ w ∈ h.descs, (d.flag (Reg.TILE_RES_RESERVED (dTile w)) && d.get (Reg.TILE_RES_DOMAIN (dTile w)) !=
      k.fn.val) = false ∧ d.flag (Reg.TILE_MAP_FAILED (dTile w)) = false)) ∧
    (∃ (s : State) (k : HeatKey) (t : Nat) (h : Heat) (d : Dev), s.dev.at t = d ∧ d.heatOf k.fn.val k.ring.val k.no = some h ∧ h.running
      = true ∧ h.codes.length = h.descs.length ∧ h.acks = [] ∧ h.mute = false) ∧
    (∃ (s : State) (k : HeatKey) (t : Nat) (h : Heat) (d : Dev), s.dev.at t = d ∧ d.heatOf k.fn.val k.ring.val k.no = some h ∧ h.running
      = true ∧ d.watchdogOf h ≠ 0 ∧ h.start + d.watchdogOf h * 1000000 ≤ d.time) :=
  ⟨⟨st (({ up with heats := { Heats.empty with list := [heatWith false [512]], runs := [] } } : Dev)), ⟨0, 0, 0⟩, late, heatWith false
    [512], _, rfl, by decide +kernel⟩,
  ⟨st (({ up with heats := { Heats.empty with list := [{ heatWith true [512] with codes := [(0, 0)] }], runs := [] } } : Dev)), ⟨0, 0,
    0⟩, late, { heatWith true [512] with codes := [(0, 0)] }, _, rfl, by decide +kernel⟩,
  ⟨st (({ up with heats := { Heats.empty with list := [heatWith true [512]], runs := [] } } : Dev)), ⟨0, 0, 0⟩, late, heatWith true
    [512], _, rfl, by decide +kernel⟩⟩

theorem witness_TilesTimed :
    (∃ (s : State) (p : Tile) (t : Nat) (r : Run) (x : Stage) (d e : Dev), s.dev.at t = d ∧ e = d.checkWaits ∧ e.runAt p.val = some r ∧
      r.stages.find? (fun s => !s.waited && !s.fin && dWaitLimit s.w != 0 && decide (r.since + dWaitLimit s.w * 1000 ≤ e.time)) = some x) ∧
    (∃ (s : State) (p : Tile) (t : Nat) (r : Run) (h : Heat) (x : Stage) (d : Dev), s.dev.at t = d ∧ d.runAt p.val = some r ∧ d.heatOn
      p.val = some h ∧ r.stages.head? = some x ∧ r.todo = [] ∧ r.deadlined = false ∧ d.isDue h x.w = true) ∧
    (∃ (s : State) (p : Tile) (t : Nat) (d : Dev), s.dev.at t = d ∧ Tab.find? d.heats.frozen p.val = none ∧ (d.spareTile p.val).isSome =
      true) ∧
    (∃ (s : State) (p : Tile) (t spare : Nat) (z : Frozen) (d : Dev), s.dev.at t = d ∧ Tab.find? d.heats.frozen p.val = some z ∧
      d.spareTile p.val = some spare ∧ d.runAt p.val = none ∧ d.heatOn p.val = none ∧ z.readable = true ∧ z.frames = [] ∧ d.get
      (Reg.TILE_MAP_PHYS p.val) ∉ d.ras.badTiles) ∧
    (∃ (d : Dev) (id : Nat), d.Rising ∧ (ctrCur id).addr ≠ (ctrPrev id).addr ∧ d.ctrGen id = fieldOf (d.reg (ctrCur id)) 48 16) :=
  ⟨⟨st
    (({ up with heats := { Heats.empty with list := [heatWith true [512, 2 ^ 16 + 5 * 2 ^ 18, 2 ^ 48]], runs := [(2, run (Stage.fresh 0 [512, 2 ^ 16 + 5 * 2 ^ 18, 2 ^ 48]))] } }
    : Dev)), 2, late, run (Stage.fresh 0 [512, 2 ^ 16 + 5 * 2 ^ 18, 2 ^ 48]), Stage.fresh 0 [512, 2 ^ 16 + 5 * 2 ^ 18, 2 ^ 48], _, _,
    rfl, rfl, by decide +kernel⟩,
  ⟨st (({ up with heats := { Heats.empty with list := [heatWith true [512, 0, 2 ^ 18]], runs := [(2, run (stage [512, 0, 2 ^ 18]))] } } :
    Dev)), 2, late, run (stage [512, 0, 2 ^ 18]), heatWith true [512, 0, 2 ^ 18], stage [512, 0, 2 ^ 18], _, rfl, by decide +kernel⟩,
  ⟨st (put [(Reg.TILE_MAP_GROUP 2, 5)] up), 2, late, _, rfl, by decide +kernel⟩,
  ⟨st (put [(Reg.TILE_MAP_GROUP 2, 5)] { up with heats := { Heats.empty with frozen := [(2, ⟨0, true, []⟩)] } }), 2, late, 45, ⟨0, true,
    []⟩, _, rfl, by decide +kernel⟩,
  ⟨up, 5, by unfold Dev.Rising; decide +kernel, by decide +kernel⟩⟩

theorem witness_OperatorsStep :
    (∀ x ∈ opCases, ∃ (s : State) (p : Tile) (t : Nat) (y : Stage) (d e : Dev), s.dev.at t = d ∧ d.flag Reg.THERM_STAT_TRIP = false ∧
      d.AtStep p.val x.1 y ∧ x.2.2 d p.val y = (e, true) ∧
      (e.runAt p.val).map (fun r => Tab.get 0 r.tries y.ix) = (d.runAt p.val).map (fun r => Tab.get 0 r.tries y.ix)) ∧
    (∃ (s : State) (t : Nat) (d : Dev), s.dev.at t = d ∧ d.flag Reg.THERM_STAT_TRIP = true) ∧
    (∃ (d e : Dev) (t ix : Nat) (r : Run), e = d.temperEvent 1 (d.get (Reg.TILE_MAP_PHYS t)) ∧ e.runAt t = some r ∧ 3 ≤ Tab.get 0 r.tries ix) := by
  refine ⟨fun x hx => ?_, ⟨st (put [(Reg.THERM_STAT_TRIP, 1)] up), late, _, rfl, by decide +kernel⟩,
    ⟨{ up with heats := { Heats.empty with runs := [(2, { run (stage []) with tries := [(0, 3)] })] } }, _, 2, 0,
      { run (stage []) with tries := [(0, 3)] }, rfl, by decide +kernel, by decide +kernel⟩⟩
  have h : opCases.all (fun x =>
      let d := (st (opDev x.2.1)).dev.at late
      let e := x.2.2 d 2 (stage x.2.1)
      !d.flag Reg.THERM_STAT_TRIP && atStep d 2 x.1 (stage x.2.1) && e.2 &&
        decide ((e.1.runAt 2).map (fun r => Tab.get 0 r.tries 0) = (d.runAt 2).map (fun r => Tab.get 0 r.tries 0))) = true := by
    decide +kernel
  have h := List.all_eq_true.mp h x hx
  simp only [Bool.and_eq_true, Bool.not_eq_true', decide_eq_true_eq] at h
  exact ⟨st (opDev x.2.1), 2, late, stage x.2.1, _, _, rfl, h.1.1.1, at_step h.1.1.2, Prod.ext rfl h.1.2, h.2⟩

theorem witness_OperatorsComplete_a :
    (∃ (s : State) (p : Tile) (t : Nat) (y : Stage) (d : Dev), s.dev.at t = d ∧ d.AtStep p.val 0 y) ∧
    (∃ (s : State) (p : Tile) (t : Nat) (y : Stage) (d : Dev), s.dev.at t = d ∧ d.AtStep p.val 1 y) ∧
    (∃ (s : State) (p : Tile) (t len rows x n : Nat) (y : Stage) (f : Nat × Nat → List Byte) (parts : List (Nat × Nat)) (d : Dev),
      s.dev.at t = d ∧ d.AtStep p.val 2 y ∧ bitOf (dF y.w 2) 48 = false ∧ len = dBits y.w 2 0 48 ∧ rows = max 1 (dBits y.w 3 0 32) ∧ x =
      4096 * y.step ∧ n = min 4096 (rows * len - x) ∧ parts = rowParts (dF y.w 0) len (dBits y.w 4 0 32) (n + 1) x n ∧ (∀ a ∈ parts,
      d.Landed p.val y.ix a.1 a.2 (f a))) ∧
    (∃ (s : State) (p : Tile) (t len x n : Nat) (y : Stage) (a b : List Byte) (d : Dev), s.dev.at t = d ∧ d.AtStep p.val 3 y ∧ y.nums =
      [] ∧ len = dBits y.w 2 0 48 ∧ x = 4096 * y.step ∧ n = min 4096 (len - x) ∧ d.Landed p.val y.ix (dF y.w 0 + x) n a ∧ d.Landed p.val
      y.ix (dF y.w 1 + x) n b) ∧
    (∃ (s : State) (p : Tile) (t count n : Nat) (y : Stage) (h : Heat) (rows : List (List Byte)) (cs : List Crucible) (slot : Nat → Nat)
      (d : Dev), s.dev.at t = d ∧ d.AtStep p.val 4 y ∧ d.heatOn p.val = some h ∧ taSpace (dF y.w 1) = 0 ∧ count = dBits y.w 2 0 9 ∧ n =
      dBits y.w 3 0 9 ∧ (∀ k, slot k = y.step % max 1 (dBits y.w 2 16 8) * count + k) ∧ (p.val, y.ix, overrunMark) ∉ h.landed ∧
      d.fencedWait h p.val y.ix y.step = false ∧ (∀ k ∈ rangeFrom 0 count, (p.val, y.ix, slot k) ∈ h.landed) ∧ rows = (rangeFrom 0
      count).map (fun k => d.readSpa p.val (taAddr (dF y.w 0) + slot k * 256) (dataBytes (dIn y.w) n)) ∧ rows.foldl (fun (a : Option
      (List Crucible)) r => a.bind (fun a => addContribution (dIn y.w) n (dScale y.w) a r)) (some (List.replicate n Crucible.clear)) =
      some cs ∧ bitOf (dF y.w 3) 9 = false ∧ bitOf (dF y.w 3) 10 = true) :=
  ⟨⟨st (opDev [512, 0, 0, 0, 0, 0, 0, 0]), 2, late, stage [512, 0, 0, 0, 0, 0, 0, 0], _, rfl, at_step (by decide +kernel)⟩,
  ⟨st (opDev [513, 0, 0, 2 ^ 29, 64, 7, 0, 0]), 2, late, stage [513, 0, 0, 2 ^ 29, 64, 7, 0, 0], _, rfl, at_step (by decide +kernel)⟩,
  ⟨st (fetched [(opKey 0, 2 ^ 29, 64)] (opDev [514 + 255 * 2 ^ 24 + 255 * 2 ^ 32, 0, 0, 2 ^ 29, 2 ^ 29 + 4096, 64, 1, 0])), 2, late, _,
    _, _, _, stage [514 + 255 * 2 ^ 24 + 255 * 2 ^ 32, 0, 0, 2 ^ 29, 2 ^ 29 + 4096, 64, 1, 0], fun a => ((landedBytes ((st (fetched
    [(opKey 0, 2 ^ 29, 64)] (opDev [514 + 255 * 2 ^ 24 + 255 * 2 ^ 32, 0, 0, 2 ^ 29, 2 ^ 29 + 4096, 64, 1, 0]))).dev.at late) 2 0 (a.1)
    (a.2)).getD []), _, _, rfl, at_step (by decide +kernel), by decide +kernel, rfl, rfl, rfl, rfl, rfl, all_of (fun _ => landed)
    (by decide +kernel)⟩,
  ⟨st (fetched [(opKey 0, 2 ^ 29, 64), (opKey 0, 2 ^ 29 + 4096, 64)] (opDev [515, 0, 0, 2 ^ 29, 2 ^ 29 + 4096, 64, 0, 0])), 2, late, _,
    _, _, stage [515, 0, 0, 2 ^ 29, 2 ^ 29 + 4096, 64, 0, 0], _, _, _, rfl, at_step (by decide +kernel), by decide +kernel, rfl, rfl,
    rfl, landed (by decide +kernel), landed (by decide +kernel)⟩,
  ⟨st (opDev [516, 0, 0, 2 ^ 29, 2 ^ 29 + 8192, 1 + 2 ^ 16 + 2 ^ 32, 4 + 2 ^ 10, 2 ^ 29 + 16384]), 2, late, 1, _, stage [516, 0, 0, 2 ^
    29, 2 ^ 29 + 8192, 1 + 2 ^ 16 + 2 ^ 32, 4 + 2 ^ 10, 2 ^ 29 + 16384], heatWith true [516, 0, 0, 2 ^ 29, 2 ^ 29 + 8192, 1 + 2 ^ 16 + 2
    ^ 32, 4 + 2 ^ 10, 2 ^ 29 + 16384], _, _, fun k => (stage [516, 0, 0, 2 ^ 29, 2 ^ 29 + 8192, 1 + 2 ^ 16 + 2 ^ 32, 4 + 2 ^ 10, 2 ^ 29 +
    16384]).step % max 1 (dBits (stage [516, 0, 0, 2 ^ 29, 2 ^ 29 + 8192, 1 + 2 ^ 16 + 2 ^ 32, 4 + 2 ^ 10, 2 ^ 29 + 16384]).w 2 16 8) * 1
    + k, _, rfl, at_step (by decide +kernel), by decide +kernel, by decide +kernel, by decide +kernel, rfl, fun _ => rfl,
    by decide +kernel, by decide +kernel, by decide +kernel, rfl, some_is (x := []) (by decide +kernel), by decide +kernel⟩⟩

theorem witness_OperatorsComplete_b :
    (∃ (s : State) (p : Tile) (t log a lo hi : Nat) (y : Stage) (h : Heat) (r : Run) (line b : List Byte) (d : Dev), s.dev.at t = d ∧
      d.AtStep p.val 5 y ∧ d.heatOn p.val = some h ∧ d.runAt p.val = some r ∧ r.stages = [y] ∧ r.deadlined = false ∧ r.lost = [] ∧
      r.hardCode (y.step + 1) = none ∧ dMiss y.w = 0 ∧ log = dBits y.w 1 32 5 ∧ y.step + 1 = dBits y.w 1 0 32 ∧ a = dF y.w 0 + 8 * y.step
      ∧ lo = max (dF y.w 0) (a - taAddr a % 64) ∧ hi = min (dF y.w 0 + 8 * (y.step + 1)) (a - taAddr a % 64 + 64) ∧ d.Landed p.val y.ix
      lo (hi - lo) line ∧ ∃ q, entryOf (dBits y.w 1 37 3) log ((line.drop (a - lo)).take 8) = .page q ∧ d.collect p.val (y.step + 1)
      (d.piecesOf h.fn q (2 ^ log)) = .ok b) ∧
    (∃ (s : State) (p : Tile) (t len x n : Nat) (y : Stage) (a : List Byte) (d : Dev), s.dev.at t = d ∧ d.AtStep p.val 6 y ∧ d.prevStage
      p.val y.ix = none ∧ bitOf (dF y.w 2) 48 = false ∧ len = dBits y.w 2 0 48 ∧ x = 4096 * y.step ∧ n = min 4096 (len - x) ∧ d.Landed
      p.val y.ix (dF y.w 0 + x) n a) ∧
    (∃ (s : State) (p : Tile) (t : Nat) (y z : Stage) (pred bs : List Byte) (d : Dev), s.dev.at t = d ∧ d.AtStep p.val 7 y ∧ d.prevStage
      p.val y.ix = some z ∧ y.step < d.stagePages p.val y ∧ d.Landed p.val y.ix (dF y.w 2) (dBits y.w 3 0 4 * 16) pred ∧ d.chainPage
      p.val y y.step = .here bs ∧ dBits y.w 3 4 2 = 0) ∧
    (∃ (s : State) (p : Tile) (t size nq : Nat) (y z : Stage) (qs bs : List Byte) (recs : List (List Byte)) (d : Dev), s.dev.at t = d ∧
      d.flag Reg.THERM_STAT_TRIP = false ∧ d.AtStep p.val 8 y ∧ d.prevStage p.val y.ix = some z ∧ dOp z.w ≠ 7 ∧ y.step + 1 < d.stagePages
      p.val y ∧ y.rank ≠ [] ∧ nq = dBits y.w 2 43 4 + 1 ∧ size = max 1 (dBits y.w 1 40 16) ∧ d.Landed p.val y.ix (dF y.w 3) (nq *
      rowBytes (if bitOf (dF y.w 2) 49 then 0 else 1) (dBits y.w 2 16 16)) qs ∧ d.chainPage p.val y y.step = .here bs ∧ recs = recordsOf
      size (2 ^ d.stageLog p.val y / size) bs ∧ recs ≠ []) ∧
    (∃ (s : State) (p : Tile) (t q i : Nat) (y z x : Stage) (e : LenEntry) (toks : List (Nat × Nat)) (bs : List Byte) (d g : Dev),
      s.dev.at t = d ∧ d.flag Reg.THERM_STAT_TRIP = false ∧ d.AtStep p.val 9 y ∧ d.prevStage p.val y.ix = some z ∧ g = d.onStage p.val
      y.ix (fun s => { s with flags := Nat.lor s.flags (readFlags [f32Num (dBits s.w 3 0 32)]) }) ∧ g.stageAt p.val y.ix = some x ∧
      y.blobs ≠ [] ∧ e = lenEntry (y.blobs.headD []) ∧ (entryPages y.w e)[y.nums.getD 1 0]? = some q ∧ i = y.nums.headD 0 ∧ toks =
      pageTokens y.w e (y.blobs.getD 1 []) q ∧ toks ≠ [] ∧ i < g.stagePages p.val x ∧ g.chainPage p.val x i = .here bs ∧ g.outcomeOf
      p.val (i + 1) ≠ 1) :=
  ⟨⟨st (fetched [(opKey 0, 2 ^ 29 + 16, 8), (1, 2 ^ 29 + 32768, 4096)] (opDev [517, 0, 0, 2 ^ 29 + 16, 1 + 12 * 2 ^ 32, 2 ^ 29 + 65536,
    0, 0])), 2, late, _, _, _, _, stage [517, 0, 0, 2 ^ 29 + 16, 1 + 12 * 2 ^ 32, 2 ^ 29 + 65536, 0, 0], heatWith true [517, 0, 0, 2 ^ 29
    + 16, 1 + 12 * 2 ^ 32, 2 ^ 29 + 65536, 0, 0], _, _, _, _, rfl, at_step (by decide +kernel), by decide +kernel, some_is (x := run
    (stage [])) (by decide +kernel), by decide +kernel, by decide +kernel, by decide +kernel, by decide +kernel, by decide +kernel, rfl,
    by decide +kernel, rfl, rfl, rfl, landed (by decide +kernel), 2 ^ 29 + 32768, by decide +kernel, got_ok (by decide +kernel)⟩,
  ⟨st (fetched [(opKey 0, 2 ^ 29, 64)] (opDev [518, 0, 0, 2 ^ 29, 2 ^ 29 + 4096, 64, 0, 0])), 2, late, _, _, _, stage [518, 0, 0, 2 ^ 29,
    2 ^ 29 + 4096, 64, 0, 0], _, _, rfl, at_step (by decide +kernel), by decide +kernel, by decide +kernel, rfl, rfl, rfl, landed
    (by decide +kernel)⟩,
  ⟨st (fetched [(opKey 1, 2 ^ 29 + 128, 16)] (chainDev [517, 0, 0, 2 ^ 29, 1 + 12 * 2 ^ 32, 2 ^ 29 + 65536, 0, 0] (second [519 + 2 ^ 23,
    0, 0, 0, 64 * 2 ^ 40, 2 ^ 29 + 128, 1, 0]))), 2, late, second [519 + 2 ^ 23, 0, 0, 0, 64 * 2 ^ 40, 2 ^ 29 + 128, 1, 0],
    { stage [517, 0, 0, 2 ^ 29, 1 + 12 * 2 ^ 32, 2 ^ 29 + 65536, 0, 0] with fin := true }, _, _, _, rfl, at_step (by decide +kernel),
    by decide +kernel, by decide +kernel, landed (by decide +kernel), here_is (by decide +kernel), by decide +kernel⟩,
  ⟨st (fetched [(opKey 1, 2 ^ 29 + 128, 64)] (chainDev [517, 0, 0, 2 ^ 29, 2 + 12 * 2 ^ 32, 2 ^ 29 + 65536, 0, 0]
    ({ second [520 + 2 ^ 24, 0, 0, 0, 64 * 2 ^ 40, 32 * 2 ^ 16 + 2 ^ 32, 2 ^ 29 + 128, 2 ^ 29 + 4096] with rank := [[]] }))), 2, late, _,
    _, { second [520 + 2 ^ 24, 0, 0, 0, 64 * 2 ^ 40, 32 * 2 ^ 16 + 2 ^ 32, 2 ^ 29 + 128, 2 ^ 29 + 4096] with rank := [[]] },
    { stage [517, 0, 0, 2 ^ 29, 2 + 12 * 2 ^ 32, 2 ^ 29 + 65536, 0, 0] with fin := true }, _, _, _, _, rfl, by decide +kernel, at_step
    (by decide +kernel), by decide +kernel, by decide +kernel, by decide +kernel, by decide +kernel, rfl, rfl, landed
    (by decide +kernel), here_is (by decide +kernel), rfl, by decide +kernel⟩,
  ⟨st (chainDev [517, 0, 0, 2 ^ 29, 1 + 12 * 2 ^ 32, 2 ^ 29 + 65536, 0, 0]
    ({ second [521 + 2 ^ 24, 0, 0, 2 ^ 29 + 32, 1 + 12 * 2 ^ 40 + 2 ^ 45, 2 ^ 29 + 4096, 4096 * 2 ^ 42, 2 ^ 29 + 8192] with nums := [0, 0], blobs := [rec_ 32 [(0, 1, 1)], []] })),
    2, late, 0, _,
    { second [521 + 2 ^ 24, 0, 0, 2 ^ 29 + 32, 1 + 12 * 2 ^ 40 + 2 ^ 45, 2 ^ 29 + 4096, 4096 * 2 ^ 42, 2 ^ 29 + 8192] with nums := [0, 0], blobs := [rec_ 32 [(0, 1, 1)], []] },
    { stage [517, 0, 0, 2 ^ 29, 1 + 12 * 2 ^ 32, 2 ^ 29 + 65536, 0, 0] with fin := true }, _, _, _, _, _, _, rfl, by decide +kernel,
    at_step (by decide +kernel), by decide +kernel, rfl, some_is (x := stage []) (by decide +kernel), by decide +kernel, rfl,
    by decide +kernel, rfl, rfl, by decide +kernel, by decide +kernel, here_is (by decide +kernel), by decide +kernel⟩⟩

theorem witness_OperatorsComplete_c :
    (∃ (s : State) (p : Tile) (t n : Nat) (y : Stage) (tab : List Byte) (f : Nat → Nat × Nat → List Byte) (d : Dev), s.dev.at t = d ∧
      d.AtStep p.val 10 y ∧ d.prevStage p.val y.ix = none ∧ n = dBits y.w 1 0 9 ∧ d.Landed p.val y.ix (dF y.w 0) (8 * n) tab ∧ (∀ i ∈
      rangeFrom 0 n, ∀ q ∈ combineParts y.w y.step, d.Landed p.val y.ix (fieldBytes tab (8 * i) 8 + q.1) q.2 (f i q))) ∧
    (∃ (s : State) (p : Tile) (t log space total a lo hi : Nat) (y : Stage) (line : List Byte) (tos : Nat × (Nat × Nat) → Nat) (d : Dev),
      s.dev.at t = d ∧ d.AtStep p.val 11 y ∧ log = dBits y.w 2 42 5 ∧ space = dBits y.w 2 47 3 ∧ total = reshardPages y.w (dBits y.w 2 40
      1) ∧ y.step < total ∧ reshardRows y.w y.step ≠ [] ∧ a = dF y.w 0 + 8 * y.step ∧ lo = max (dF y.w 0) (a - taAddr a % 64) ∧ hi = min
      (dF y.w 0 + 8 * total) (a - taAddr a % 64 + 64) ∧ d.Landed p.val y.ix lo (hi - lo) line ∧ entryOf space log ((line.drop (a -
      lo)).take 8) = .hole ∧ (∀ r ∈ reshardRows y.w y.step, ∀ b l m, b = dF y.w 1 + 8 * (reshardTo y.w r.2.1 r.2.2).1 → l = max (dF y.w
      1) (b - taAddr b % 64) → m = min (dF y.w 1 + 8 * reshardPages y.w (dBits y.w 2 41 1)) (b - taAddr b % 64 + 64) → ∃ bs, (d.noteHole
      p.val (y.step + 1)).Landed p.val y.ix l (m - l) bs ∧ entryOf space log ((bs.drop (b - l)).take 8) = .page (tos r))) ∧
    (∃ (s : State) (p : Tile) (t len x n : Nat) (y : Stage) (bs out : List Byte) (d : Dev), s.dev.at t = d ∧ d.AtStep p.val 12 y ∧ len =
      dataBytes (dIn y.w) (dBits y.w 2 0 48) ∧ x = 4096 * y.step ∧ n = min 4096 (len - x) ∧ d.Landed p.val y.ix (dF y.w 0 + x) n bs ∧ (∀
      l ∈ linesOf 64 bs, (packLine (dIn y.w) (bitOf (dF y.w 2) 48) l).isSome = true) ∧ out = (linesOf 64 bs).flatMap (fun l => (packLine
      (dIn y.w) (bitOf (dF y.w 2) 48) l).getD []) ∧ y.result + out.length ≤ dBits y.w 3 0 32) ∧
    (∃ (s : State) (p : Tile) (t len : Nat) (y z : Stage) (b out : List Byte) (d : Dev), s.dev.at t = d ∧ d.AtStep p.val 13 y ∧
      d.prevStage p.val y.ix = some z ∧ len = dataBytes (dOut y.w) (dBits y.w 2 0 48) ∧ y.step < d.stagePages p.val y ∧ d.chainPage p.val
      y y.step = .here b ∧ d.outcomeOf p.val (y.step + 1) ≠ 1 ∧ len ≤ 2 ^ d.stageLog p.val y ∧ unpackAll (dOut y.w) (bitOf (dF y.w 2) 48)
      (ceilDiv len 64) b = some out) :=
  ⟨⟨st (fetched [(opKey 0, 2 ^ 29, 8), (opKey 0, 2 ^ 29 + 32768, 24)] (opDev [522, 0, 0, 2 ^ 29, 1 + 2 ^ 9 + 4 * 2 ^ 14, 2 ^ 29 + 4096,
    0, 0])), 2, late, _, stage [522, 0, 0, 2 ^ 29, 1 + 2 ^ 9 + 4 * 2 ^ 14, 2 ^ 29 + 4096, 0, 0], ((landedBytes ((st (fetched [(opKey 0, 2
    ^ 29, 8), (opKey 0, 2 ^ 29 + 32768, 24)] (opDev [522, 0, 0, 2 ^ 29, 1 + 2 ^ 9 + 4 * 2 ^ 14, 2 ^ 29 + 4096, 0, 0]))).dev.at late) 2 0
    (dF (stage [522, 0, 0, 2 ^ 29, 1 + 2 ^ 9 + 4 * 2 ^ 14, 2 ^ 29 + 4096, 0, 0]).w 0) (8 * dBits (stage [522, 0, 0, 2 ^ 29, 1 + 2 ^ 9 + 4
    * 2 ^ 14, 2 ^ 29 + 4096, 0, 0]).w 1 0 9)).getD []), fun i q => ((landedBytes ((st (fetched [(opKey 0, 2 ^ 29, 8), (opKey 0, 2 ^ 29 +
    32768, 24)] (opDev [522, 0, 0, 2 ^ 29, 1 + 2 ^ 9 + 4 * 2 ^ 14, 2 ^ 29 + 4096, 0, 0]))).dev.at late) 2 0 (fieldBytes (((landedBytes
    ((st (fetched [(opKey 0, 2 ^ 29, 8), (opKey 0, 2 ^ 29 + 32768, 24)] (opDev [522, 0, 0, 2 ^ 29, 1 + 2 ^ 9 + 4 * 2 ^ 14, 2 ^ 29 + 4096,
    0, 0]))).dev.at late) 2 0 (dF (stage [522, 0, 0, 2 ^ 29, 1 + 2 ^ 9 + 4 * 2 ^ 14, 2 ^ 29 + 4096, 0, 0]).w 0) (8 * dBits (stage [522,
    0, 0, 2 ^ 29, 1 + 2 ^ 9 + 4 * 2 ^ 14, 2 ^ 29 + 4096, 0, 0]).w 1 0 9)).getD [])) (8 * i) 8 + q.1) (q.2)).getD []), _, rfl, at_step
    (by decide +kernel), by decide +kernel, rfl, landed (by decide +kernel), all_of (c := fun i => (combineParts (stage [522, 0, 0, 2 ^
    29, 1 + 2 ^ 9 + 4 * 2 ^ 14, 2 ^ 29 + 4096, 0, 0]).w 0).all (fun q => (landedBytes ((st (fetched [(opKey 0, 2 ^ 29, 8), (opKey 0, 2 ^
    29 + 32768, 24)] (opDev [522, 0, 0, 2 ^ 29, 1 + 2 ^ 9 + 4 * 2 ^ 14, 2 ^ 29 + 4096, 0, 0]))).dev.at late) 2 0 (fieldBytes
    (((landedBytes ((st (fetched [(opKey 0, 2 ^ 29, 8), (opKey 0, 2 ^ 29 + 32768, 24)] (opDev [522, 0, 0, 2 ^ 29, 1 + 2 ^ 9 + 4 * 2 ^ 14,
    2 ^ 29 + 4096, 0, 0]))).dev.at late) 2 0 (dF (stage [522, 0, 0, 2 ^ 29, 1 + 2 ^ 9 + 4 * 2 ^ 14, 2 ^ 29 + 4096, 0, 0]).w 0) (8 * dBits
    (stage [522, 0, 0, 2 ^ 29, 1 + 2 ^ 9 + 4 * 2 ^ 14, 2 ^ 29 + 4096, 0, 0]).w 1 0 9)).getD [])) (8 * i) 8 + q.1) q.2).isSome)) (fun _ h
    => all_of (fun _ => landed) h) (by decide +kernel)⟩,
  ⟨st (fetched [(opKey 0, 2 ^ 29 + 8, 8), (opKey 0, 2 ^ 29 + 16, 8)] (opDev [523 + 255 * 2 ^ 24 + 255 * 2 ^ 32, 0, 0, 2 ^ 29 + 8, 2 ^ 29
    + 16, 1 + 2 ^ 32 + 12 * 2 ^ 42, 64, 1])), 2, late, _, _, _, _, _, _, stage [523 + 255 * 2 ^ 24 + 255 * 2 ^ 32, 0, 0, 2 ^ 29 + 8, 2 ^
    29 + 16, 1 + 2 ^ 32 + 12 * 2 ^ 42, 64, 1], _, fun _ => 2 ^ 29 + 32768, _, rfl, at_step (by decide +kernel), rfl, rfl, rfl,
    by decide +kernel, by decide +kernel, rfl, rfl, rfl, landed (by decide +kernel), by decide +kernel,
    one_of (x := (0, (0, 0))) (by decide +kernel) (by intro b l m hb hl hm; subst hb hl hm; exact ⟨_, landed (by decide +kernel), by decide +kernel⟩)⟩,
  ⟨st (fetched [(opKey 0, 2 ^ 29, 64)] (opDev [524 + 2 ^ 24, 0, 0, 2 ^ 29, 2 ^ 29 + 4096, 32, 4096, 0])), 2, late, _, _, _, stage [524 +
    2 ^ 24, 0, 0, 2 ^ 29, 2 ^ 29 + 4096, 32, 4096, 0], _, _, _, rfl, at_step (by decide +kernel), rfl, rfl, rfl, landed
    (by decide +kernel), by decide +kernel, rfl, by decide +kernel⟩,
  ⟨st (chainDev [517, 0, 0, 2 ^ 29, 1 + 12 * 2 ^ 32, 2 ^ 29 + 65536, 0, 0] (second [525 + 2 ^ 32, 0, 0, 0, 0, 32, 0, 0])), 2, late, _,
    second [525 + 2 ^ 32, 0, 0, 0, 0, 32, 0, 0], { stage [517, 0, 0, 2 ^ 29, 1 + 12 * 2 ^ 32, 2 ^ 29 + 65536, 0, 0] with fin := true },
    _, _, _, rfl, at_step (by decide +kernel), by decide +kernel, rfl, by decide +kernel, here_is (by decide +kernel), by decide +kernel,
    by decide +kernel, some_is (x := []) (by decide +kernel)⟩⟩

theorem witness_CountersCount :
    (∃ (d : Dev) (id dom : Nat), (∀ h, d.ctrHold id = some h → h.dom ≠ dom)) ∧
    (∃ (d : Dev) (id : Nat) (h : CtrHold), d.Rising ∧ d.ctrHold id = some h ∧ h.late = []) ∧
    (∃ d : Dev, d.Rising) ∧
    (∃ (d : Dev) (id : Nat), bitOf (d.reg (ctrPrev id)) 46 = true) :=
  ⟨⟨up, 5, 4, fun h e => absurd e (by revert h; decide +kernel)⟩,
  ⟨({ up with ctrs := [(5, ⟨4, 4, 0, 0, [], []⟩)] } : Dev), 5, ⟨4, 4, 0, 0, [], []⟩, by unfold Dev.Rising; decide +kernel,
    by decide +kernel⟩,
  ⟨up, by unfold Dev.Rising; decide +kernel⟩,
  ⟨up.setReg (ctrPrev 5) (2 ^ 46), 5, by decide +kernel⟩⟩

theorem witness_StatusWordLaid :
    ∃ x : Stage, x.code ∈ codeOrder ∧ x.reason < 32 :=
  ⟨stage [512], by decide +kernel⟩

theorem witness_CrucibleOrder :
    (∃ xs ys : List Sys2Proof.Machine.Num, xs.Perm ys) ∧
    (∃ xs : List (Int × Int), xs.length ≤ 2 ^ 63 ∧ (∀ x ∈ xs, -160 ≤ x.2 ∧ (Nat.log2 x.1.natAbs : Int) + x.2 < 160)) ∧
    (∃ c : Crucible, 2 ^ 63 < c.addends) :=
  ⟨⟨[.fin 3 0, .zero true], [.zero true, .fin 3 0], List.Perm.swap _ _ _⟩,
  ⟨[(3, 0), (-5, 7)], by decide +kernel⟩,
  ⟨{ Crucible.clear with addends := 2 ^ 64 }, by decide +kernel⟩⟩

theorem witness_CrucibleImage :
    (∃ c : Crucible, c.addends < 2 ^ 64 ∧ c.rangeBits < 4) ∧
    (∃ bs : List Byte, (fieldBytes bs 58 6 ≠ 0 ∨ 16 ≤ fieldBytes bs 56 1 ∨ 4 ≤ fieldBytes bs 57 1)) :=
  ⟨⟨Crucible.clear.place (.fin 3 0), by decide +kernel⟩,
  ⟨List.replicate 64 1#8, by decide +kernel⟩⟩

theorem witness_SumsOrderFree :
    ∃ xs ys : List (List Byte), xs.Perm ys :=
  ⟨[[1#8], [2#8]], [[2#8], [1#8]], List.Perm.swap _ _ _⟩

theorem witness_RanksTermsPlaces :
    (∃ (k : Nat) (r : List (Nat × Nat)), r.length ≤ k ∧ r.Pairwise (fun a b => scoreBefore b.1 a.1 = false)) ∧
    (∃ typ : Nat, (typ = 0 ∨ typ = 2)) ∧
    (∃ field const : Nat, field < 2 ^ 32 ∧ const < 2 ^ 32) ∧
    (∃ field : Nat, decodeFloat fmtFP32 field = .nan) ∧
    (∃ w : List Nat, 1 ≤ dBits w 2 32 8 ∧ 1 ≤ dBits w 3 0 16 ∧ dBits w 3 0 16 ≤ 2 ^ dBits w 2 42 5 ∧ ∃ h t, h < dBits w 2 32 8 ∧ t <
      dBits w 2 0 32) :=
  ⟨⟨2, [(0x3F800000, 1), (0, 2)], by decide +kernel⟩,
  ⟨2, by decide +kernel⟩,
  ⟨5, 2 ^ 32 - 1, by decide +kernel⟩,
  ⟨0x7FC00000, by decide +kernel⟩,
  ⟨[0, 0, 0, 0, 0, 3 + 2 ^ 33 + 12 * 2 ^ 42, 64, 0], by decide +kernel, by decide +kernel, by decide +kernel, 1, 2, by decide +kernel⟩⟩

theorem witness_LineCoderExact :
    (∃ (c dw : Nat) (f : CodeFmt) (line : List Byte), codeFmt c = some f ∧ line.length = 64 ∧ dw ≤ 8 ∧ codeSpread f (lineElements f line)
      < 2 ^ dw) ∧
    (∃ (c : Nat) (fixed : Bool) (line coded : List Byte), line.length = 64 ∧ packLine c fixed line = some coded) :=
  ⟨⟨1, 0, ⟨16, 8, 7⟩, List.replicate 64 0#8, by decide +kernel⟩,
  ⟨1, false, List.replicate 64 0#8, codeLine ⟨16, 8, 7⟩ 0 (List.replicate 64 0#8), by decide +kernel⟩⟩

theorem witness_BucketsBounded :
    (∃ (b : Bucket) (u v : Nat), b.at_ ≤ u ∧ u ≤ v) ∧
    (∃ (d : Dev) (p tc : Nat), (shapeOf (d.reg (Reg.SHAPE_CFG p tc))).rate = 0) ∧
    (∃ (d : Dev) (p : Nat), (shapeOf (d.reg (Reg.POL_CFG p))).rate = 0 ∧ p ∉ d.sw.polHold) :=
  ⟨⟨⟨0, 1⟩, 1, 2, by decide +kernel⟩,
  ⟨up, 3, 0, by decide +kernel⟩,
  ⟨up, 3, by decide +kernel⟩⟩

theorem witness_TierMoves :
    (∃ (s : State) (t page slot : Nat) (rest : List Nat) (d : Dev), s.dev.at t = d ∧ d.coreUp 15 = true ∧ d.store.frames.filter (fun f =>
      f.mode == 2 && f.out == []) = [] ∧ d.flag Reg.TIER_CTL_PROMOTE_EN = true ∧ d.store.cands = page :: rest ∧ ∃ e, e =
      ({ d with store := { d.store with cands := rest } } : Dev).showTier ∧ (∃ ix x, e.ten.live.byPpa (page * 0x20_0000) = some (ix, x) ∧
      (x.tier = 1 ∨ x.tier = 2)) ∧ e.frameOf page = none ∧ e.freeSlot = some slot) ∧
    (∃ (s : State) (t : Nat) (d : Dev), s.dev.at t = d ∧ d.store.decayAt + max 1 (d.get Reg.TIER_THR_DECAY_MS) * 1000000 ≤ d.time) ∧
    (∃ (s : State) (k t since : Nat) (f : TierFrame) (x : Nat × Nat) (d : Dev), s.dev.at t = d ∧ d.frameOf (k / 32768) = some f ∧
      f.dirty.find? (fun x => x.1 == k % 32768) = some x ∧ x.2 = since ∧ k % 32768 ∉ f.out ∧ since + max 1 (d.get Reg.TIER_THR_CLEAN_MS)
      * 1000000 ≤ d.time) ∧
    (∃ (s : State) (t : Nat) (d : Dev), s.dev.at t = d ∧ d.pcieUp = true) ∧
    (∃ ix : Nat, ix < 32768) :=
  ⟨⟨st
    (({ (put [(Reg.TIER_CTL_PROMOTE_EN, 1), (Reg.TIER_STAT_FRAMES, 8)] ({ up with ten := { Tenancy.empty with live := { Bank.empty with rt := [(0, ({ entry 0 with w2 := 2 ^ 34 } : RtEntry))] } } })) with store := { Store.empty with cands := [2] } }
    : Dev)), late, 2, 0, [], _, rfl, by decide +kernel, by decide +kernel, by decide +kernel, by decide +kernel, _, rfl, ⟨0,
    ({ entry 0 with w2 := 2 ^ 34 } : RtEntry), by decide +kernel, Or.inl (by decide +kernel)⟩, by decide +kernel⟩,
  ⟨st (up), late, _, rfl, by decide +kernel⟩,
  ⟨st (({ (up) with store := { Store.empty with frames := [⟨2, 0, [], [(5, 0)], 0, 0, 0, [], false⟩] } } : Dev)), 2 * 32768 + 5, late, 0,
    ⟨2, 0, [], [(5, 0)], 0, 0, 0, [], false⟩, (5, 0), _, rfl, by decide +kernel⟩,
  ⟨st (up), late, _, rfl, by decide +kernel⟩,
  ⟨5, by decide +kernel⟩⟩

theorem witness_EnginesStart :
    (∃ (s : State) (ppa t page len : Nat) (x : Span) (d : Dev), s.dev.at t = d ∧ d.coreUp 15 = true ∧ d.spanPage ppa = some (page, len,
      x) ∧ (∀ y ∈ d.store.shadows, y.ppa = page → y.valid = false) ∧ (∀ b ∈ d.store.builds, b.ppa ≠ page) ∧ d.store.quiet = [] ∧
      shadowLen len x.fmt x.d ≤ d.areaSize 6) ∧
    (∃ (s : State) (t : Nat) (d : Dev), s.dev.at t = d ∧ d.pcieUp = true ∧ d.flag Reg.WPUSH_STAT_BUSY = false ∧ 8192 ≤ d.get
      Reg.WPUSH_CFG_GROUP ∧ d.dmaNamed (d.get Reg.WPUSH_SRC_ADDR) (d.get Reg.WPUSH_CFG_LENGTH) = true) ∧
    (∃ (s : State) (dom : Dom) (t page : Nat) (rest : List Nat) (x : Sweep) (d : Dev), s.dev.at t = d ∧ d.sweepOf dom.val = some x ∧
      x.pages = page :: rest ∧ x.next < 32768) :=
  ⟨⟨st
    (({ (put [(Reg.FORGE_AREA_SIZE_2M 6, 8)] ({ up with ten := { Tenancy.empty with live := { Bank.empty with rt := [(0, ({ entry 0 with w2 := 2 ^ 42 } : RtEntry))] } } })) with store := { Store.empty with spans := [(0, ⟨5, 0, 0x20_0000, 12, 1, 32, 0, 0⟩)] } }
    : Dev)), 0x1000, late, 0x1000, 4096, ⟨5, 0, 0x20_0000, 12, 1, 32, 0, 0⟩, _, rfl, by decide +kernel⟩,
  ⟨st (put [(Reg.WPUSH_CFG_GROUP, 8192), (Reg.WPUSH_CFG_LENGTH, 64)] up), late, _, rfl, by decide +kernel⟩,
  ⟨st (({ (up) with store := { Store.empty with sweeps := [⟨5, [2], 0, []⟩] } } : Dev)), 5, late, 2, [], ⟨5, [2], 0, []⟩, _, rfl,
    by decide +kernel⟩⟩

theorem witness_UplinksWork :
    ((∃ (s : State) (p : Port) (frame bs : List Byte) (t : Nat) (d : Dev), s.dev.at t = d ∧ d.isRole p.val 2 = true ∧ d.linkState p.val =
      4 ∧ 4 ≤ frame.length ∧ bs = frame.take (frame.length - 4) ∧ isPfc bs = true ∧ bytesNat (frame.drop (frame.length - 4)) = crc32 bs)
      ∧ ∃ (s : State) (p : Port) (frame bs : List Byte) (t : Nat) (d : Dev), s.dev.at t = d ∧ d.isRole p.val 2 = true ∧ d.linkState p.val
      = 4 ∧ 4 ≤ frame.length ∧ bs = frame.take (frame.length - 4) ∧ isPfc bs = true ∧ bytesNat (frame.drop (frame.length - 4)) ≠ crc32
      bs) ∧
    (∃ (s : State) (p : Port) (frame bs : List Byte) (t : Nat) (d : Dev), s.dev.at t = d ∧ d.isRole p.val 2 = true ∧ d.linkState p.val =
      4 ∧ 4 ≤ frame.length ∧ bs = frame.take (frame.length - 4) ∧ isPfc bs = false) ∧
    ((∃ (d : Dev) (p : Nat) (bs : List Byte), d.grtAddressed p bs = false) ∧ ∃ (d : Dev) (p : Nat) (bs : List Byte), d.grtAddressed p bs
      = true ∧ grtSound bs = true ∧ gHeadOk ((bs.drop (etherAt bs + 2)).drop 48) (grtPacket p bs).payload.length = true) ∧
    (∃ (s : State) (p : Port) (i : Fin 8) (t : Nat) (x : Nat × Nat) (d : Dev), s.dev.at t = d ∧ Tab.find? d.grt.pauses (p.val * 8 +
      i.val) = some x ∧ x.2 ≤ d.time) ∧
    (∃ (s : State) (p : Port) (i : Fin 8) (t : Nat) (x : Nat × Nat) (d : Dev), s.dev.at t = d ∧ Tab.find? d.grt.pauses (p.val * 8 +
      i.val) = some x ∧ d.paused p.val i.val = true ∧ d.get Reg.GRT_CFG_PFC_WD_MS ≠ 0 ∧ x.1 + d.get Reg.GRT_CFG_PFC_WD_MS * 1000000 ≤
      d.time ∧ p.val * 8 + i.val ∉ d.grt.storms ∧ ∃ e, e = (d.post [0] 0x44 [p.val, i.val]).bump Reg.PFC_STORMS ∧ ∃ f : Dev, f =
      { e with grt := { e.grt with storms := e.grt.storms ++ [p.val * 8 + i.val] } } ∧ f.flag Reg.GRT_CFG_PFC_WD_DROP = false) ∧
    (∃ (s : State) (p : Port) (i t since : Nat) (d : Dev), s.dev.at t = d ∧ (rangeFrom 0 8).filter (fun i => bitOf (d.get
      (Reg.UPL_PFC_PFC_EN p.val)) i) = [i] ∧ Tab.find? d.grt.xoff (p.val * 8 + i) = some since ∧ d.get (Reg.UPL_PFC_XON_CELLS p.val) <
      d.pfcCells p.val i ∧ since + 10000 ≤ d.time) ∧
    (∃ (s : State) (p : Port) (t : Nat) (d : Dev), s.dev.at t = d ∧ d.isRole p.val 2 = true ∧ d.linkState p.val ≠ 4 ∧ d.running = true ∧
      d.boot.halt = false ∧ d.flag (Reg.LINK_CTL_DISABLE p.val) = false) ∧
    (∃ (s : State) (p : Port) (t : Nat) (d : Dev), s.dev.at t = d ∧ d.isRole p.val 2 = true ∧ d.linkState p.val = 4) :=
  ⟨⟨⟨st (port 2 4 up), 3, (padBytes 60 (wireBytes 6 0x0180C2000001 ++ natBytes 6 7 ++ wireBytes 2 0x8808 ++ wireBytes 2 0x0101)) ++
    natBytes 4 (crc32 (padBytes 60 (wireBytes 6 0x0180C2000001 ++ natBytes 6 7 ++ wireBytes 2 0x8808 ++ wireBytes 2 0x0101))), (padBytes
    60 (wireBytes 6 0x0180C2000001 ++ natBytes 6 7 ++ wireBytes 2 0x8808 ++ wireBytes 2 0x0101)), late, _, rfl, by decide +kernel,
    by decide +kernel, by decide +kernel, by decide +kernel, by decide +kernel, by decide +kernel⟩, ⟨st (port 2 4 up), 3, (padBytes 60
    (wireBytes 6 0x0180C2000001 ++ natBytes 6 7 ++ wireBytes 2 0x8808 ++ wireBytes 2 0x0101)) ++ natBytes 4 (crc32 (padBytes 60
    (wireBytes 6 0x0180C2000001 ++ natBytes 6 7 ++ wireBytes 2 0x8808 ++ wireBytes 2 0x0101)) + 1), (padBytes 60 (wireBytes 6
    0x0180C2000001 ++ natBytes 6 7 ++ wireBytes 2 0x8808 ++ wireBytes 2 0x0101)), late, _, rfl, by decide +kernel, by decide +kernel,
    by decide +kernel, by decide +kernel, by decide +kernel, by decide +kernel⟩⟩,
  ⟨st (port 2 4 up), 3, ((port 2 4 up).grtFrame 3 0 0 0 0 0 (List.replicate 16 0#8) ⟨1, 0, 0, 0, 0, 0, 0, 0, 64, 0, 0, 0, 0⟩
    (List.replicate 64 0#8)) ++ natBytes 4 (crc32 ((port 2 4 up).grtFrame 3 0 0 0 0 0 (List.replicate 16 0#8) ⟨1, 0, 0, 0, 0, 0, 0, 0,
    64, 0, 0, 0, 0⟩ (List.replicate 64 0#8))), ((port 2 4 up).grtFrame 3 0 0 0 0 0 (List.replicate 16 0#8) ⟨1, 0, 0, 0, 0, 0, 0, 0, 64,
    0, 0, 0, 0⟩ (List.replicate 64 0#8)), late, _, rfl, by decide +kernel⟩,
  ⟨⟨up, 3, [], by decide +kernel⟩, ⟨port 2 4 up, 3, ((port 2 4 up).grtFrame 3 0 0 0 0 0 (List.replicate 16 0#8) ⟨1, 0, 0, 0, 0, 0, 0, 0,
    64, 0, 0, 0, 0⟩ (List.replicate 64 0#8)), by decide +kernel, by decide +kernel, by decide +kernel⟩⟩,
  ⟨st (({ (port 2 4 up) with grt := { Grt.empty with pauses := [(24, (0, 5))] } } : Dev)), 3, 0, late, (0, 5), _, rfl, by decide +kernel⟩,
  ⟨st (put [(Reg.GRT_CFG_PFC_WD_MS, 1), (Reg.GRT_CFG_PFC_WD_DROP, 0)]
    ({ (port 2 4 up) with grt := { Grt.empty with pauses := [(24, (0, 2 ^ 60))] } } : Dev)), 3, 0, late, (0, 2 ^ 60), _, rfl,
    by decide +kernel, by decide +kernel, by decide +kernel, by decide +kernel, by decide +kernel, _, rfl, _, rfl, by decide +kernel⟩,
  ⟨st (put [(Reg.UPL_PFC_PFC_EN 3, 1), (Reg.UPL_PFC_XON_CELLS 3, 0)]
    ({ ({ (port 2 4 up) with grt := { Grt.empty with xoff := [(24, 0)] } } : Dev) with sw := { Switch.empty with cells := [⟨.port 3, .grt 0, 6, 0, 1, 0, 0, 0, [⟨.glois (msg [] []), 0, 0, false, 0⟩], 0, false, false⟩] } })),
    3, 0, late, 0, _, rfl, by decide +kernel⟩,
  ⟨st (port 2 0 up), 3, late, _, rfl, by decide +kernel⟩,
  ⟨st (port 2 4 up), 3, late, _, rfl, by decide +kernel⟩⟩

theorem witness_GrtSends :
    (∃ (s : State) (c : Ctx) (t : Nat) (x : GCtx) (p : GPacket) (d : Dev), s.dev.at t = d ∧ d.gctx c.val = some x ∧ x.cached = true ∧
      x.state = 1 ∧ x.rnr = none ∧ d.linkState x.uplink = 4 ∧ x.resend = none ∧ x.head = some p ∧ d.mayStart x p = true) ∧
    (∃ (s : State) (c : Ctx) (t : Nat) (x : GCtx) (p : GPacket) (rest : List GPacket) (d : Dev), s.dev.at t = d ∧ d.gctx c.val = some x ∧
      x.answers = p :: rest ∧ p.op = 0x10 ∧ x.retries = 0) ∧
    (∃ (s : State) (c : Ctx) (t : Nat) (x : GCtx) (p : GPacket) (rest : List GPacket) (d : Dev), s.dev.at t = d ∧ d.gctx c.val = some x ∧
      x.answers = p :: rest ∧ p.op = 0x11 ∧ p.msg = 0 ∧ x.rnr = none ∧ x.sent.any (fun q => q.psn == p.psn) = true) ∧
    (∃ (s : State) (c : Ctx) (t psn until_ : Nat) (d : Dev), s.dev.at t = d ∧ (d.gctx c.val).bind GCtx.rnr = some (psn, until_) ∧ until_
      ≤ d.time) ∧
    (∃ (s : State) (c : Ctx) (t : Nat) (x : GCtx) (d : Dev), s.dev.at t = d ∧ d.gctx c.val = some x ∧ x.sent ≠ [] ∧ x.state ≠ 3 ∧
      Tab.find? d.grt.pauses (x.uplink * 8 + x.tc) = none ∧ x.unaAt + x.rto ≤ d.time ∧ x.retries + 1 ≤ x.f 46 1) ∧
    (∃ (s : State) (c : Ctx) (t : Nat) (x : GCtx) (d : Dev), s.dev.at t = d ∧ d.gctx c.val = some x ∧ x.sent ≠ [] ∧ x.state ≠ 3 ∧
      Tab.find? d.grt.pauses (x.uplink * 8 + x.tc) = none ∧ x.unaAt + x.rto ≤ d.time ∧ x.f 46 1 < x.retries + 1) :=
  ⟨⟨st
    (({ (port 2 4 up) with grt := { Grt.empty with ctxs := [(7, ({ gctx with queue := [⟨0, 0, 1, 0, 0, 0, 64, 0, 0, 0, 0, []⟩] } : GCtx))], regs := [(0, ⟨0, 2 ^ 20, 0, 0, false⟩)] } }
    : Dev)), 7, late, ({ gctx with queue := [⟨0, 0, 1, 0, 0, 0, 64, 0, 0, 0, 0, []⟩] } : GCtx), ⟨0, 0, 1, 0, 0, 0, 64, 0, 0, 0, 0, []⟩,
    _, rfl, by decide +kernel⟩,
  ⟨st
    (({ (port 2 4 up) with grt := { Grt.empty with ctxs := [(7, ({ gctx with answers := [⟨0, 0, 0x10, 0, 0, 0, 64, 0, 0, 0, 0, []⟩] } : GCtx))], regs := [(0, ⟨0, 2 ^ 20, 0, 0, false⟩)] } }
    : Dev)), 7, late, ({ gctx with answers := [⟨0, 0, 0x10, 0, 0, 0, 64, 0, 0, 0, 0, []⟩] } : GCtx), ⟨0, 0, 0x10, 0, 0, 0, 64, 0, 0, 0,
    0, []⟩, [], _, rfl, by decide +kernel⟩,
  ⟨st
    (({ (port 2 4 up) with grt := { Grt.empty with ctxs := [(7, ({ gctx with answers := [⟨0, 0, 0x11, 0, 0, 0, 64, 0, 0, 0, 0, []⟩], sent := [⟨0, 0, 1, 0, 0, 0, 64, 0, 0, 0, 0, []⟩] } : GCtx))], regs := [(0, ⟨0, 2 ^ 20, 0, 0, false⟩)] } }
    : Dev)), 7, late,
    ({ gctx with answers := [⟨0, 0, 0x11, 0, 0, 0, 64, 0, 0, 0, 0, []⟩], sent := [⟨0, 0, 1, 0, 0, 0, 64, 0, 0, 0, 0, []⟩] } : GCtx), ⟨0,
    0, 0x11, 0, 0, 0, 64, 0, 0, 0, 0, []⟩, [], _, rfl, by decide +kernel⟩,
  ⟨st
    (({ (port 2 4 up) with grt := { Grt.empty with ctxs := [(7, ({ gctx with rnr := some (4, 0) } : GCtx))], regs := [(0, ⟨0, 2 ^ 20, 0, 0, false⟩)] } }
    : Dev)), 7, late, 4, 0, _, rfl, by decide +kernel⟩,
  ⟨st
    (({ (port 2 4 up) with grt := { Grt.empty with ctxs := [(7, ({ gctx with sent := [⟨0, 0, 1, 0, 0, 0, 64, 0, 0, 0, 0, []⟩] } : GCtx))], regs := [(0, ⟨0, 2 ^ 20, 0, 0, false⟩)] } }
    : Dev)), 7, late, ({ gctx with sent := [⟨0, 0, 1, 0, 0, 0, 64, 0, 0, 0, 0, []⟩] } : GCtx), _, rfl, by decide +kernel⟩,
  ⟨st
    (({ (port 2 4 up) with grt := { Grt.empty with ctxs := [(7, ({ gctx with sent := [⟨0, 0, 1, 0, 0, 0, 64, 0, 0, 0, 0, []⟩], retries := 7 } : GCtx))], regs := [(0, ⟨0, 2 ^ 20, 0, 0, false⟩)] } }
    : Dev)), 7, late, ({ gctx with sent := [⟨0, 0, 1, 0, 0, 0, 64, 0, 0, 0, 0, []⟩], retries := 7 } : GCtx), _, rfl, by decide +kernel⟩⟩

theorem witness_GrtTimers :
    (∃ (s : State) (c : Ctx) (t : Nat) (x : GCtx) (d : Dev), s.dev.at t = d ∧ d.gctx c.val = some x ∧ x.fetching.isSome = true ∧ x.hosted
      = false ∧ d.upset = []) ∧
    (∃ (s : State) (c : Ctx) (t since : Nat) (x : GCtx) (d : Dev), s.dev.at t = d ∧ d.gctx c.val = some x ∧ x.fetching = some since ∧
      x.hosted = true ∧ since + max 1 (d.get Reg.GRT_CFG2_HOST_FETCH_LIMIT_US) * 1000 ≤ d.time) ∧
    (∃ (s : State) (c : Ctx) (t since : Nat) (x : GCtx) (d : Dev), s.dev.at t = d ∧ d.gctx c.val = some x ∧ x.nakAt = some since ∧
      x.cached = true ∧ since + 10000 ≤ d.time) ∧
    (∃ (s : State) (c : Ctx) (t since : Nat) (x : GCtx) (d : Dev), s.dev.at t = d ∧ d.gctx c.val = some x ∧ x.ackFrom = some since ∧
      x.cached = true ∧ since + max 100 (d.get Reg.GRT_CFG_ACK_DELAY_NS) ≤ d.time) ∧
    (∃ (s : State) (c : Ctx) (t since : Nat) (x : GCtx) (d : Dev), s.dev.at t = d ∧ d.gctx c.val = some x ∧ x.drain = some since ∧ since
      + x.rto * x.f 46 1 ≤ d.time) :=
  ⟨⟨st
    (({ (port 2 4 up) with grt := { Grt.empty with ctxs := [(7, ({ gctx with fetching := some 0 } : GCtx))], regs := [(0, ⟨0, 2 ^ 20, 0, 0, false⟩)] } }
    : Dev)), 7, late, ({ gctx with fetching := some 0 } : GCtx), _, rfl, by decide +kernel⟩,
  ⟨st
    (({ (port 2 4 up) with grt := { Grt.empty with ctxs := [(7, ({ gctx with fetching := some 0, rec_ := rec_ 128 [(33, 1, 4)] } : GCtx))], regs := [(0, ⟨0, 2 ^ 20, 0, 0, false⟩)] } }
    : Dev)), 7, late, 0, ({ gctx with fetching := some 0, rec_ := rec_ 128 [(33, 1, 4)] } : GCtx), _, rfl, by decide +kernel⟩,
  ⟨st
    (({ (port 2 4 up) with grt := { Grt.empty with ctxs := [(7, ({ gctx with nakAt := some 0 } : GCtx))], regs := [(0, ⟨0, 2 ^ 20, 0, 0, false⟩)] } }
    : Dev)), 7, late, 0, ({ gctx with nakAt := some 0 } : GCtx), _, rfl, by decide +kernel⟩,
  ⟨st
    (({ (port 2 4 up) with grt := { Grt.empty with ctxs := [(7, ({ gctx with ackFrom := some 0 } : GCtx))], regs := [(0, ⟨0, 2 ^ 20, 0, 0, false⟩)] } }
    : Dev)), 7, late, 0, ({ gctx with ackFrom := some 0 } : GCtx), _, rfl, by decide +kernel⟩,
  ⟨st
    (({ (port 2 4 up) with grt := { Grt.empty with ctxs := [(7, ({ gctx with drain := some 0 } : GCtx))], regs := [(0, ⟨0, 2 ^ 20, 0, 0, false⟩)] } }
    : Dev)), 7, late, 0, ({ gctx with drain := some 0 } : GCtx), _, rfl, by decide +kernel⟩⟩

theorem witness_GrtServes :
    (∃ (s : State) (c : Ctx) (t : Nat) (x : GCtx) (y : GRx) (d : Dev), s.dev.at t = d ∧ d.gctx c.val = some x ∧ x.nextRx = some y ∧
      y.pkt.op = 1 ∧ fieldOf y.pkt.flags 4 2 ≠ 1 ∧ (d.onRx c.val y.pkt.psn (fun e => { e with stage := 1 })).regLost y.pkt.reg = false) ∧
    (∃ (s : State) (c : Ctx) (t : Nat) (x : GCtx) (y : GRx) (d : Dev), s.dev.at t = d ∧ d.gctx c.val = some x ∧ x.nextRx = some y ∧
      y.pkt.op = 2 ∧ x.alone y = true ∧ ∃ e, e = ((d.onRx c.val y.pkt.psn (fun e => { e with stage := 2 })).onCtx c.val (fun z =>
      { z with serves := z.serves ++ [⟨y.pkt.psn + y.pkt.reg * 2 ^ 24, ((Tab.find? d.grt.regs y.pkt.reg).map RegRange.base).getD 0 + y.pkt.offset, y.pkt.length, [], 0, none⟩] }))
      ∧ e.regLost y.pkt.reg = false) ∧
    (∃ (s : State) (c : Ctx) (t : Nat) (x : GCtx) (y : GRx) (d : Dev), s.dev.at t = d ∧ d.gctx c.val = some x ∧ x.nextRx = some y ∧
      y.pkt.op = 3 ∧ x.reads.find? (fun r => r.psn == some y.pkt.reg && !r.done) = none) ∧
    (∃ (s : State) (c : Ctx) (t : Nat) (x : GCtx) (y : GRx) (r : GRead) (m : GMessage) (d : Dev), s.dev.at t = d ∧ d.gctx c.val = some x
      ∧ x.nextRx = some y ∧ y.pkt.op = 3 ∧ x.reads.find? (fun r => r.psn == some y.pkt.reg && !r.done) = some r ∧ y.pkt.status = 0 ∧
      bitOf y.pkt.flags 1 = false ∧ y.pkt.payload ≠ [] ∧ x.msgs.find? (fun m => m.id == r.msg) = some m) :=
  ⟨⟨st
    (({ (port 2 4 up) with grt := { Grt.empty with ctxs := [(7, ({ gctx with rx := [⟨⟨0, 0, 1, 0, 0, 0, 64, 0, 0, 0, 0, []⟩, 3, 0, [], 0, 0⟩] } : GCtx))], regs := [(0, ⟨0, 2 ^ 20, 0, 0, false⟩)] } }
    : Dev)), 7, late, ({ gctx with rx := [⟨⟨0, 0, 1, 0, 0, 0, 64, 0, 0, 0, 0, []⟩, 3, 0, [], 0, 0⟩] } : GCtx), ⟨⟨0, 0, 1, 0, 0, 0, 64, 0,
    0, 0, 0, []⟩, 3, 0, [], 0, 0⟩, _, rfl, by decide +kernel⟩,
  ⟨st
    (({ (port 2 4 up) with grt := { Grt.empty with ctxs := [(7, ({ gctx with rx := [⟨⟨0, 0, 2, 0, 0, 0, 64, 0, 0, 0, 0, []⟩, 3, 0, [], 0, 0⟩] } : GCtx))], regs := [(0, ⟨0, 2 ^ 20, 0, 0, false⟩)] } }
    : Dev)), 7, late, ({ gctx with rx := [⟨⟨0, 0, 2, 0, 0, 0, 64, 0, 0, 0, 0, []⟩, 3, 0, [], 0, 0⟩] } : GCtx), ⟨⟨0, 0, 2, 0, 0, 0, 64, 0,
    0, 0, 0, []⟩, 3, 0, [], 0, 0⟩, _, rfl, by decide +kernel, by decide +kernel, by decide +kernel, by decide +kernel, _, rfl,
    by decide +kernel⟩,
  ⟨st
    (({ (port 2 4 up) with grt := { Grt.empty with ctxs := [(7, ({ gctx with rx := [⟨⟨0, 0, 3, 0, 0, 0, 64, 0, 0, 0, 0, []⟩, 3, 0, [], 0, 0⟩] } : GCtx))], regs := [(0, ⟨0, 2 ^ 20, 0, 0, false⟩)] } }
    : Dev)), 7, late, ({ gctx with rx := [⟨⟨0, 0, 3, 0, 0, 0, 64, 0, 0, 0, 0, []⟩, 3, 0, [], 0, 0⟩] } : GCtx), ⟨⟨0, 0, 3, 0, 0, 0, 64, 0,
    0, 0, 0, []⟩, 3, 0, [], 0, 0⟩, _, rfl, by decide +kernel⟩,
  ⟨st
    (({ (port 2 4 up) with grt := { Grt.empty with ctxs := [(7, ({ gctx with rx := [⟨⟨0, 0, 3, 0, 0, 0, 64, 0, 0, 0, 0, [1#8]⟩, 3, 0, [], 0, 0⟩], reads := [⟨0, some 0, 64, 0, false, false⟩], msgs := [⟨0, 2, 9, 1, 0⟩] } : GCtx))], regs := [(0, ⟨0, 2 ^ 20, 0, 0, false⟩)] } }
    : Dev)), 7, late,
    ({ gctx with rx := [⟨⟨0, 0, 3, 0, 0, 0, 64, 0, 0, 0, 0, [1#8]⟩, 3, 0, [], 0, 0⟩], reads := [⟨0, some 0, 64, 0, false, false⟩], msgs := [⟨0, 2, 9, 1, 0⟩] }
    : GCtx), ⟨⟨0, 0, 3, 0, 0, 0, 64, 0, 0, 0, 0, [1#8]⟩, 3, 0, [], 0, 0⟩, ⟨0, some 0, 64, 0, false, false⟩, ⟨0, 2, 9, 1, 0⟩, _, rfl,
    by decide +kernel⟩⟩

theorem witness_GrtHeaderExact :
    ∃ h : GHead, h.op < 256 ∧ h.flags < 256 ∧ h.status < 32 ∧ h.nak < 8 ∧ h.dst < 2 ^ 20 ∧ h.src < 2 ^ 20 ∧ h.psn < 2 ^ 24 ∧ h.offset < 2
      ^ 52 ∧ h.length < 2 ^ 32 ∧ h.reg < 2 ^ 24 ∧ h.repoch < 65536 ∧ h.ctr < 65536 ∧ h.ctrKind < 4 :=
  ⟨⟨1, 4, 0, 0, 2 ^ 20 - 1, 5, 6, 7, 64, 8, 9, 10, 2⟩, by decide +kernel⟩

theorem witness_PsnsOrdered :
    ∃ a b : Nat, a < 2 ^ 24 ∧ b < 2 ^ 24 :=
  ⟨2 ^ 24 - 1, 0, by decide +kernel⟩

theorem witness_CommitsApply :
    (∃ (s : State) (t : Nat) (d : Dev), s.dev.at t = d ∧ d.pcieUp = true ∧ d.ten.old.isSome = true) ∧
    (∃ (s : State) (t ix cause : Nat) (d : Dev), s.dev.at t = d ∧ d.pcieUp = true ∧ d.ten.old = none ∧ (Tab.get [] d.ten.staged
      0).findSome? (d.changeCause (d.nextBank 0)) = some (ix, cause)) ∧
    (∃ (s : State) (t : Nat) (d : Dev), s.dev.at t = d ∧ d.pcieUp = true ∧ d.ten.old = none ∧ ∃ b, b = (Tab.get [] d.ten.staged 0).foldl
      Bank.apply d.ten.live ∧ (Tab.get [] d.ten.staged 0).findSome? (d.changeCause b) = none) ∧
    (∃ (d : Dev) (fn : Nat), (d.commit fn).2 = false) :=
  ⟨⟨st (({ (up) with ten := { Tenancy.empty with old := some Bank.empty } } : Dev)), late, _, rfl, by decide +kernel⟩,
  ⟨st (({ (up) with ten := { Tenancy.empty with staged := [(0, [.stripe 5 [0, 1, 2]])] } } : Dev)), late, 5, 4, _, rfl,
    by decide +kernel⟩,
  ⟨st (({ (up) with ten := { Tenancy.empty with staged := [(0, [.bind 3 4101])] } } : Dev)), late, _, rfl, by decide +kernel,
    by decide +kernel, _, rfl, by decide +kernel⟩,
  ⟨({ (up) with ten := { Tenancy.empty with staged := [(5, [.stripe 5 [0, 1, 2]])] } } : Dev), 5, by decide +kernel⟩⟩

theorem witness_StagingRegisters :
    (∃ (s : State) (t : Nat) (d : Dev), s.dev.at t = d ∧ d.pcieUp = true ∧ d.get Reg.RT_SEL_INDEX < d.get Reg.RT_CAP_TOTAL) ∧
    (∃ (s : State) (t : Nat) (e : RtEntry) (d : Dev), s.dev.at t = d ∧ d.pcieUp = true ∧ Tab.find? d.ten.live.rt (d.get Reg.RT_SEL_INDEX)
      = some e) ∧
    (∃ (s : State) (t : Nat) (d : Dev), s.dev.at t = d ∧ d.pcieUp = true) ∧
    (∃ (s : State) (t : Nat) (d : Dev), s.dev.at t = d ∧ d.ten.old.isSome = true ∧ d.ten.oldAt + max 10 (d.get
      Reg.COMP_CTL_TRANS_LIMIT_US) * 1000 ≤ d.time) :=
  ⟨⟨st (up), late, _, rfl, by decide +kernel⟩,
  ⟨st (mapped up), late, entry 1, _, rfl, by decide +kernel⟩,
  ⟨st (up), late, _, rfl, by decide +kernel⟩,
  ⟨st (({ (up) with ten := { Tenancy.empty with old := some Bank.empty } } : Dev)), late, _, rfl, by decide +kernel⟩⟩

theorem witness_ExtentsMove :
    (∃ (s : State) (e : Ext) (t : Nat) (d : Dev), s.dev.at t = d ∧ d.pcieUp = true ∧ e.val ∈ d.ten.exts ∧ (d.extState e.val = 0 ∨ e.val ∈
      d.ras.lostExts)) ∧
    (∃ (s : State) (e : Ext) (t : Nat) (d : Dev), s.dev.at t = d ∧ d.pcieUp = true ∧ d.extState e.val ≠ 0 ∧ e.val ∉ d.ras.lostExts) ∧
    (∃ (s : State) (e : Ext) (t : Nat) (d : Dev), s.dev.at t = d ∧ d.pcieUp = true ∧ e.val ∈ d.ten.exts ∧ d.extState e.val = 1 ∧ e.val ∉
      d.ras.lostExts) ∧
    (∃ (s : State) (e : Ext) (t : Nat) (x : Scrub) (d f : Dev), s.dev.at t = d ∧ d.scrubOf e.val = some x ∧ d.extState e.val = 2 ∧ (∀ y ∈
      d.ten.flight, y.ext ≠ e.val) ∧ d.recalling 5 (some e.val) = false ∧ d.linesHeld e.val = [] ∧ f = ((d.setExtState e.val 3).post [0,
      x.owner] 0x31 [e.val]).removeTraces e.val ∧ f.flag (Reg.EXT_STATE_ERASE e.val) = false) ∧
    (∃ (s : State) (e : Ext) (t p ppa : Nat) (x : Scrub) (d : Dev), s.dev.at t = d ∧ d.scrubOf e.val = some x ∧ e.val ∈ d.filling ∧
      d.fillsKept e.val x = [] ∧ x.next < d.extPages e.val * 32768 ∧ ppa = d.get (Reg.EXT_BASE_PPA_PAGE e.val) * 0x20_0000 + x.next * 64
      ∧ d.fillPorts x ppa = [p] ∧ d.fenced p = false ∧ d.linkState p = 4 ∧ d.get (Reg.QSHAPE_CFG_RATE_MBPS p) ≠ 0) ∧
    (∃ (d : Dev) (e : Nat) (x : Scrub), d.scrubOf e = some x ∧ x.ready = true ∧ d.extPages e * 32768 ≤ x.next ∧ x.out = []) :=
  ⟨⟨st (({ (up) with ten := { Tenancy.empty with exts := [2] } } : Dev)), 2, late, _, rfl, by decide +kernel⟩,
  ⟨st (put [(Reg.EXT_STATE_STATE 2, 1)] ({ (up) with ten := { Tenancy.empty with exts := [2] } } : Dev)), 2, late, _, rfl,
    by decide +kernel⟩,
  ⟨st (put [(Reg.EXT_STATE_STATE 2, 1)] ({ (up) with ten := { Tenancy.empty with exts := [2] } } : Dev)), 2, late, _, rfl,
    by decide +kernel⟩,
  ⟨st (put [(Reg.EXT_STATE_STATE 2, 2), (Reg.EXT_BASE_PAGES 2, 1), (Reg.EXT_BASE_PPA_PAGE 2, 0)]
    ({ (up) with ten := { Tenancy.empty with exts := [2], scrubs := [⟨2, false, 0, 0, [], [⟨0, 1, [3], []⟩], [], 5, []⟩] } } : Dev)), 2,
    late, ⟨2, false, 0, 0, [], [⟨0, 1, [3], []⟩], [], 5, []⟩, _, _, rfl, by decide +kernel, by decide +kernel, by decide +kernel,
    by decide +kernel, by decide +kernel, rfl, by decide +kernel⟩,
  ⟨st (put [(Reg.EXT_STATE_STATE 2, 3), (Reg.EXT_BASE_PAGES 2, 1), (Reg.EXT_BASE_PPA_PAGE 2, 0)]
    ({ (port 1 4 up) with ten := { Tenancy.empty with exts := [2], scrubs := [⟨2, true, 0, 0, [], [⟨0, 1, [3], []⟩], [], 5, []⟩] } } :
    Dev)), 2, late, 3, _, ⟨2, true, 0, 0, [], [⟨0, 1, [3], []⟩], [], 5, []⟩, _, rfl, by decide +kernel, by decide +kernel,
    by decide +kernel, by decide +kernel, rfl, by decide +kernel⟩,
  ⟨({ (up) with ten := { Tenancy.empty with exts := [2], scrubs := [{ (⟨2, true, 0, 0, [], [⟨0, 1, [3], []⟩], [], 5, []⟩ : Scrub) with next := 32768 }] } }
    : Dev), 2, { (⟨2, true, 0, 0, [], [⟨0, 1, [3], []⟩], [], 5, []⟩ : Scrub) with next := 32768 }, by decide +kernel⟩⟩

theorem witness_LeasesAndWindows :
    (∃ (s : State) (i : Fin 16384) (t : Nat) (l : Lease) (d : Dev), s.dev.at t = d ∧ Tab.find? d.ten.leases i.val = some l ∧ l.held =
      true ∧ l.lost = false ∧ l.until_ ≤ d.time) ∧
    (∃ (s : State) (w : Fin 8192) (v : Word) (t : Nat) (d : Dev), s.dev.at t = d ∧ d.pcieUp = true ∧ v.toNat % 2 ^ 47 = d.reg (Reg.WIN
      w.val)) ∧
    ((∃ (s : State) (w : Fin 8192) (v : Word) (t : Nat) (d : Dev) (new old : Nat), s.dev.at t = d ∧ d.pcieUp = true ∧ new = v.toNat % 2 ^
      47 ∧ old = d.reg (Reg.WIN w.val) ∧ new ≠ old ∧ ∃ x ∈ [old, new], fieldOf x 17 17 ≠ 0 ∧ ∃ h ∈ d.heats.list, h.fn = fieldOf x 34 12)
      ∧ (∃ (s : State) (w : Fin 8192) (v : Word) (t : Nat) (d : Dev) (new old : Nat), s.dev.at t = d ∧ d.pcieUp = true ∧ new = v.toNat %
      2 ^ 47 ∧ old = d.reg (Reg.WIN w.val) ∧ new ≠ old ∧ fieldOf new 17 17 ≠ 0 ∧ ∃ r ∈ d.regs, 0x114_0000 ≤ r.1 ∧ r.1 < 0x114_0000 + 8 *
      8192 ∧ r.1 ≠ (Reg.WIN w.val).addr ∧ fieldOf r.2 34 12 ≠ fieldOf new 34 12 ∧ fieldOf r.2 17 17 ≠ 0 ∧ fieldOf r.2 0 17 < fieldOf new
      0 17 + fieldOf new 17 17 ∧ fieldOf new 0 17 < fieldOf r.2 0 17 + fieldOf r.2 17 17) ∧ ∃ (s : State) (w : Fin 8192) (v : Word) (t :
      Nat) (d : Dev) (new old : Nat), s.dev.at t = d ∧ d.pcieUp = true ∧ new = v.toNat % 2 ^ 47 ∧ old = d.reg (Reg.WIN w.val) ∧ new ≠ old
      ∧ ¬((∃ x ∈ [old, new], fieldOf x 17 17 ≠ 0 ∧ ∃ h ∈ d.heats.list, h.fn = fieldOf x 34 12) ∨ (fieldOf new 17 17 ≠ 0 ∧ ∃ r ∈ d.regs,
      0x114_0000 ≤ r.1 ∧ r.1 < 0x114_0000 + 8 * 8192 ∧ r.1 ≠ (Reg.WIN w.val).addr ∧ fieldOf r.2 34 12 ≠ fieldOf new 34 12 ∧ fieldOf r.2
      17 17 ≠ 0 ∧ fieldOf r.2 0 17 < fieldOf new 0 17 + fieldOf new 17 17 ∧ fieldOf new 0 17 < fieldOf r.2 0 17 + fieldOf r.2 17 17))) :=
  ⟨⟨st (({ (up) with ten := { Tenancy.empty with leases := [(7, ⟨0, 3, 0, true, 5, 0, 1, 10, 0, 0, false, false⟩)] } } : Dev)), 7, late,
    ⟨0, 3, 0, true, 5, 0, 1, 10, 0, 0, false, false⟩, _, rfl, by decide +kernel⟩,
  ⟨st (up), 9, 0, late, _, rfl, by decide +kernel⟩,
  ⟨⟨st ({ up with heats := { Heats.empty with list := [heatWith true []] } }), 9, 0x20000, late, _, _, _, rfl, by decide +kernel, rfl,
    rfl, by decide +kernel, by decide +kernel⟩, ⟨st (windowed up), 9, 0x20000, late, _, _, _, rfl, by decide +kernel, rfl, rfl,
    by decide +kernel, by decide +kernel⟩, ⟨st (windowed up), 9, 0x40001, late, _, _, _, rfl, by decide +kernel, rfl, rfl,
    by decide +kernel, by decide +kernel⟩⟩⟩

theorem witness_PortsFenced :
    (∃ (s : State) (p : Port) (t : Nat) (d : Dev), s.dev.at t = d ∧ d.pcieUp = true ∧ d.isGlois p.val = true ∧ d.fenced p.val = false) ∧
    (∃ (d : Dev) (p cause epoch : Nat), epoch = (d.get (Reg.PORT_FENCE_FENCE_EPOCH p) + 1) % 65536 ∧ cause = 1) ∧
    (∃ (s : State) (p : Port) (t : Nat) (d : Dev), s.dev.at t = d ∧ d.isGlois p.val = true ∧ d.fenced p.val = false ∧ d.linkState p.val =
      4 ∧ (d.link p.val).hbSeen + max 1 (d.get Reg.RAS_CTL_HB_TIMEOUT_US) * 1000 ≤ d.time) ∧
    (∃ (s : State) (p : Port) (t epoch : Nat) (d f g : Dev), s.dev.at t = d ∧ d.pcieUp = true ∧ d.isGlois p.val = true ∧ d.fenced p.val =
      true ∧ epoch = (d.get (Reg.PORT_FENCE_FENCE_EPOCH p.val) + 1) % 65536 ∧ g = (d.set (Reg.PORT_FENCE_FENCE_EPOCH p.val) epoch).set
      (Reg.PORT_FENCE_ADMIT_PENDING p.val) 1 ∧ f = g.onLink p.val (fun l => { l with hbSeen := g.time }) ∧ f.linkState p.val = 4) ∧
    (∃ (s : State) (k : Fin 16) (t : Nat) (d : Dev), s.dev.at t = d ∧ d.pcieUp = true ∧ k.val ≠ 0) ∧
    (∃ (s : State) (k : Fin 16) (t : Nat) (d : Dev), s.dev.at t = d ∧ d.pcieUp = true ∧ k.val ≠ 0) :=
  ⟨⟨st (port 0 4 up), 3, late, _, rfl, by decide +kernel⟩,
  ⟨up, 3, 1, 2, by decide +kernel, rfl⟩,
  ⟨st (port 0 4 up), 3, late, _, rfl, by decide +kernel⟩,
  ⟨st (put [(Reg.PORT_FENCE_FENCED 3, 1)] (port 0 4 up)), 3, late, _, _, _, _, rfl, by decide +kernel, by decide +kernel,
    by decide +kernel, rfl, rfl, rfl, by decide +kernel⟩,
  ⟨st (up), 2, late, _, rfl, by decide +kernel⟩,
  ⟨st (up), 2, late, _, rfl, by decide +kernel⟩⟩

theorem witness_MirrorsAndBanks :
    (∃ (s : State) (index t : Nat) (e : RtEntry) (d : Dev), s.dev.at t = d ∧ d.pcieUp = true ∧ Tab.find? d.ten.live.rt index = some e ∧
      e.kind = 1 ∧ e.mirror = true) ∧
    (∃ (s : State) (index t : Nat) (d : Dev), s.dev.at t = d ∧ d.pcieUp = true ∧ (∀ e, Tab.find? d.ten.live.rt index = some e → e.kind ≠
      1 ∨ e.mirror = false)) ∧
    (∃ (s : State) (index t k page : Nat) (rest : List Nat) (g : Degraded) (e : RtEntry) (d : Dev), s.dev.at t = d ∧ d.ras.degraded.find?
      (fun x => x.index == index && x.resync) = some g ∧ d.degradedOf g.key = some g ∧ Tab.find? d.ten.live.rt (g.key / 1024) = some e ∧
      d.rasUp = true ∧ g.marks = page :: rest ∧ ((rangeFrom (page * 32768) 32768).filter (d.needsCopy g e)).find? (fun k => !(decide (k ∈
      g.out)) && !d.fenced ((d.copyTarget g e k).getD 0)) = some k) ∧
    (∃ (s : State) (b : Fin 128) (t : Nat) (d : Dev), s.dev.at t = d ∧ b.val ∈ d.sw.draining ∧ (∀ c ∈ d.sw.cells, c.number / 8192 ≠
      b.val) ∧ d.get (if b.val < 64 then Reg.HEARTH_STAT_BANK_SPARES_A else Reg.HEARTH_STAT_BANK_SPARES_B) = 0) ∧
    (∃ (s : State) (b : Fin 128) (t free : Nat) (f : Fld) (d : Dev), s.dev.at t = d ∧ b.val ∈ d.sw.draining ∧ (∀ c ∈ d.sw.cells, c.number
      / 8192 ≠ b.val) ∧ f = (if b.val < 64 then Reg.HEARTH_STAT_BANK_SPARES_A else Reg.HEARTH_STAT_BANK_SPARES_B) ∧ free = d.get f ∧ free
      ≠ 0) :=
  ⟨⟨st
    (({ up with ten := { Tenancy.empty with live := { Bank.empty with rt := [(0, ({ entry 0 with w2 := 2 ^ 33 + 2 ^ 53 } : RtEntry))], stripes := [(0, [3]), (1, [4])] } }, ras := { Ras.empty with degraded := [] } }
    : Dev)), 0, late, ({ entry 0 with w2 := 2 ^ 33 + 2 ^ 53 } : RtEntry), _, rfl, by decide +kernel⟩,
  ⟨st (up), 0, late, _, rfl, by decide +kernel,
    fun e h => absurd h (by rw [show Tab.find? _ 0 = (none : Option RtEntry) by decide +kernel]; exact fun h => by cases h)⟩,
  ⟨st
    (({ up with ten := { Tenancy.empty with live := { Bank.empty with rt := [(0, ({ entry 0 with w2 := 2 ^ 33 + 2 ^ 53 } : RtEntry))], stripes := [(0, [3]), (1, [4])] } }, ras := { Ras.empty with degraded := [⟨0, 1, 3, [0], [], [], true, true, 0⟩] } }
    : Dev)), 0, late, 0, 0, [], ⟨0, 1, 3, [0], [], [], true, true, 0⟩, ({ entry 0 with w2 := 2 ^ 33 + 2 ^ 53 } : RtEntry), _, rfl,
    by decide +kernel⟩,
  ⟨st (put [(Reg.HEARTH_STAT_BANK_SPARES_A, 0)] ({ up with sw := { Switch.empty with draining := [5] } } : Dev)), 5, late, _, rfl,
    by decide +kernel⟩,
  ⟨st (put [(Reg.HEARTH_STAT_BANK_SPARES_A, 2)] ({ up with sw := { Switch.empty with draining := [5] } } : Dev)), 5, late, _, _, _, rfl,
    by decide +kernel, by decide +kernel, rfl, rfl, by decide +kernel⟩⟩

theorem witness_RingCommandsStart :
    (∃ (d : Dev) (c : RingCmd), d.coreUp (fabricCore c.fn.val) = false) ∧
    (∃ (d : Dev) (c : RingCmd), d.startedOf c = none ∧ d.slotFree c.fn.val c.ring.val = false) ∧
    (∃ (d : Dev) (c : RingCmd) (op : Nat), d.coreUp (fabricCore c.fn.val) = true ∧ d.startedOf c = none ∧ d.slotFree c.fn.val c.ring.val
      = true ∧ (d.takeCmd c op).mustWait c op = true) ∧
    (∃ (d : Dev) (c : RingCmd) (op : Nat), d.coreUp (fabricCore c.fn.val) = true ∧ d.startedOf c = none ∧ d.slotFree c.fn.val c.ring.val
      = true ∧ (d.takeCmd c op).mustWait c op = false ∧ 2 ≤ c.flags.toNat) ∧
    (∃ (d e : Dev) (c : RingCmd) (op : Nat), d.Starts c op e) ∧
    (∃ (d e : Dev) (c : RingCmd) (x : Started) (r : Ring), d.startedOf c = some x ∧ d.endWaits x = false ∧ e =
      { d with host := { d.host with started := dropFirst (fun y => decide (y = x)) d.host.started } } ∧ r = e.ring c.fn.val 1 c.ring.val
      ∧ r.en = true ∧ r.gen = x.gen) ∧
    (∃ (d : Dev) (c : RingCmd) (x : Started), d.startedOf c = some x ∧ x.op ≠ 1 ∧ d.coreUp (fabricCore c.fn.val) = false ∧ x.ended =
      none) :=
  ⟨⟨cold, cmd 0 [], by decide +kernel⟩,
  ⟨up, cmd 0 [], by decide +kernel⟩,
  ⟨(({ (ringOn 0 up) with host := { (ringOn 0 up).host with started := [⟨cmd 0 [(8, 8, 5)], 0, 0, true, 0, none⟩] } } : Dev)), cmd 0 [],
    0, by decide +kernel⟩,
  ⟨(ringOn 0 up), ({ cmd 0 [] with flags := 2#8 } : RingCmd), 0, by decide +kernel⟩,
  ⟨(ringOn 0 up), ((ringOn 0 up).takeCmd (cmd 0 []) 0), cmd 0 [], 0, starts_now (by decide +kernel)⟩,
  ⟨((ringOn 0 up).takeCmd (cmd 0 []) 0), _, cmd 0 [], ⟨cmd 0 [], 0, 0, false, 0, none⟩, _, by decide +kernel, by decide +kernel, rfl,
    rfl, by decide +kernel⟩,
  ⟨({ cold with host := { cold.host with started := [⟨cmd 0 [], 0, 0, true, 0, none⟩] } } : Dev), cmd 0 [], ⟨cmd 0 [], 0, 0, true, 0,
    none⟩, by decide +kernel⟩⟩

theorem witness_CompositionCommands :
    (∃ (s : State) (c : RingCmd) (t : Nat) (d e : Dev), s.dev.at t = d ∧ d.Starts c 0 e) ∧
    (∃ (s : State) (c : RingCmd) (t : Nat) (d e : Dev), s.dev.at t = d ∧ d.Starts c 2 e ∧ c.fn.val = 0 ∧ c.arg 8 4 < e.get
      Reg.RT_CAP_TOTAL) ∧
    (∃ (s : State) (c : RingCmd) (t : Nat) (x : RtEntry) (d e : Dev), s.dev.at t = d ∧ d.Starts c 2 e ∧ c.fn.val ≠ 0 ∧ c.arg 8 4 < e.get
      Reg.RT_CAP_TOTAL ∧ Tab.find? e.ten.live.rt (c.arg 8 4) = some x ∧ x.kind ≠ 0 ∧ x.dom ≠ c.fn.val) ∧
    (∃ (s : State) (c : RingCmd) (t : Nat) (d e : Dev), s.dev.at t = d ∧ d.Starts c 3 e ∧ e.ten.old.isSome = true) ∧
    (∃ (s : State) (c : RingCmd) (t : Nat) (d e : Dev), s.dev.at t = d ∧ d.Starts c 3 e ∧ e.ten.old = none) ∧
    (∃ (s : State) (c : RingCmd) (t : Nat) (d e : Dev), s.dev.at t = d ∧ d.Starts c 4 e) ∧
    (∃ (s : State) (c : RingCmd) (t : Nat) (d e : Dev), s.dev.at t = d ∧ d.Starts c 5 e ∧ c.fn.val = 0 ∧ c.arg 9 1 < 8 ∧ c.arg 24 2 <
      4096 ∧ c.arg 26 1 < 2) ∧
    (∃ (s : State) (c : RingCmd) (t : Nat) (d e : Dev), s.dev.at t = d ∧ d.Starts c 6 e) ∧
    (∃ (s : State) (c : RingCmd) (t : Nat) (d e : Dev), s.dev.at t = d ∧ d.Starts c 7 e) :=
  ⟨⟨st (ringOn 0 up), cmd 0 [], late, _, _, rfl, starts_now (by decide +kernel)⟩,
  ⟨st (ringOn 0 up), cmd 0 [], late, _, _, rfl, starts_now (by decide +kernel), by decide +kernel⟩,
  ⟨st ((ringOn 6 (mapped up))), cmd 6 [], late, entry 1, _, _, rfl, starts_now (by decide +kernel), by decide +kernel⟩,
  ⟨st (ringOn 0 ({ (up) with ten := { Tenancy.empty with old := some Bank.empty } } : Dev)), cmd 0 [], late, _, _, rfl, starts_now
    (by decide +kernel), by decide +kernel⟩,
  ⟨st (ringOn 0 up), cmd 0 [], late, _, _, rfl, starts_now (by decide +kernel), by decide +kernel⟩,
  ⟨st (ringOn 6 up), cmd 6 [], late, _, _, rfl, starts_now (by decide +kernel)⟩,
  ⟨st (ringOn 0 up), cmd 0 [], late, _, _, rfl, starts_now (by decide +kernel), by decide +kernel⟩,
  ⟨st (ringOn 0 up), cmd 0 [], late, _, _, rfl, starts_now (by decide +kernel)⟩,
  ⟨st (ringOn 0 up), cmd 0 [], late, _, _, rfl, starts_now (by decide +kernel)⟩⟩

theorem witness_AdministratorCommands :
    (∃ (s : State) (c : RingCmd) (t : Nat) (d e : Dev), s.dev.at t = d ∧ d.Starts c 21 e ∧ c.fn.val = 0 ∧ (fieldOf (c.arg 8 8) 16 2 = 1 ∨
      fieldOf (c.arg 8 8) 16 2 = 2)) ∧
    (∃ (s : State) (c : RingCmd) (t : Nat) (d e : Dev), s.dev.at t = d ∧ d.Starts c 22 e ∧ c.fn.val = 0 ∧ c.arg 8 2 < 8192 ∧ c.arg 16 8 <
      2 ^ 47) ∧
    (∃ (s : State) (c : RingCmd) (t : Nat) (d e : Dev), s.dev.at t = d ∧ d.Starts c 23 e ∧ c.fn.val = 0 ∧ taSpace (c.arg 8 8) = 3 ∧
      taFormed (c.arg 8 8) = true ∧ taAddr (c.arg 8 8) + c.arg 16 8 ≤ 2 ^ 57) ∧
    (∃ (s : State) (c : RingCmd) (t : Nat) (d e : Dev), s.dev.at t = d ∧ d.Starts c 20 e ∧ c.fn.val = 0 ∧ c.arg 8 2 < 512 ∧ e.isGlois
      (c.arg 8 2) = true) ∧
    (∃ (s : State) (c : RingCmd) (t : Nat) (d e : Dev), s.dev.at t = d ∧ d.Starts c 25 e ∧ c.fn.val = 0 ∧ c.arg 8 1 < 16) ∧
    (∃ (s : State) (c : RingCmd) (t : Nat) (d e : Dev), s.dev.at t = d ∧ d.Starts c 19 e ∧ c.fn.val = 0 ∧ c.arg 8 2 < 512 ∧ e.isGlois
      (c.arg 8 2) = true) ∧
    (∃ (s : State) (c : RingCmd) (t op : Nat) (i : Instr) (d e : Dev), s.dev.at t = d ∧ d.Starts c op e ∧ c.fn.val ≠ 0 ∧ (i, op) ∈
      [(Instr.fence c t, 20), (.extent c t, 21), (.window c t, 22), (.hostBacking c t, 23), (.coreRestart c t, 25)]) :=
  ⟨⟨st (ringOn 0 up), cmd 0 [(8, 8, 65536)], late, _, _, rfl, starts_now (by decide +kernel), by decide +kernel⟩,
  ⟨st (ringOn 0 up), cmd 0 [], late, _, _, rfl, starts_now (by decide +kernel), by decide +kernel⟩,
  ⟨st (ringOn 0 up), cmd 0 [(8, 8, 3 * 2 ^ 60 + 4096), (16, 8, 65536)], late, _, _, rfl, starts_now (by decide +kernel),
    by decide +kernel⟩,
  ⟨st (ringOn 0 (port 0 4 up)), cmd 0 [(8, 8, 3)], late, _, _, rfl, starts_now (by decide +kernel), by decide +kernel⟩,
  ⟨st (ringOn 0 up), cmd 0 [(8, 1, 2)], late, _, _, rfl, starts_now (by decide +kernel), by decide +kernel⟩,
  ⟨st (ringOn 0 (port 0 4 up)), cmd 0 [(8, 8, 3)], late, _, _, rfl, starts_now (by decide +kernel), by decide +kernel⟩,
  ⟨st (ringOn 6 up), cmd 6 [], late, 20, .fence (cmd 6 []) late, _, _, rfl, starts_now (by decide +kernel), by decide +kernel, .head _⟩⟩

theorem witness_GrtCommandsRun :
    (∃ (s : State) (c : RingCmd) (t base h : Nat) (d e : Dev), s.dev.at t = d ∧ d.Starts c 8 e ∧ dpaArg (c.arg 8 8) = some base ∧ c.arg
      16 8 ≠ 0 ∧ base + c.arg 16 8 ≤ 2 ^ 52 ∧ c.arg 24 1 ≠ 0 ∧ c.arg 24 1 < 4 ∧ h = freshNumber (e.grt.regs.map Prod.fst) 0
      ((e.grt.regs.map Prod.fst).length + 1) ∧ h < 65536) ∧
    (∃ (s : State) (c : RingCmd) (t : Nat) (d e : Dev), s.dev.at t = d ∧ d.Starts c 9 e ∧ c.fn.val = 0 ∧ e.get (Reg.GRT_REG_STATE (c.arg
      8 2)) = 1) ∧
    (∃ (s : State) (c : RingCmd) (t k : Nat) (used : List Nat) (d e : Dev), s.dev.at t = d ∧ d.Starts c 10 e ∧ c.arg 8 2 < 4096 ∧
      c.fn.val = 0 ∧ used = e.grt.ctxs.map Prod.fst ++ e.grt.reserved.map Prod.fst ∧ k = freshNumber used 0 (used.length + 1) ∧ k < e.get
      Reg.GRT_CAP_CTX_MAX) ∧
    (∃ (s : State) (c : RingCmd) (t : Nat) (r : List Byte) (d e : Dev), s.dev.at t = d ∧ d.Starts c 11 e ∧ e.typedOk c.fn.val [] (c.arg
      16 8) 128 false = true ∧ taSpace (c.arg 16 8) = 1 ∧ e.upset = [] ∧ r = e.readMem (taAddr (c.arg 16 8)) 128 ∧ (e.startedOf c).isSome
      = true ∧ e.ctxRefused c.fn.val r = 0 ∧ c.arg 8 4 < e.get Reg.GRT_CAP_CTX_MAX ∧ (∀ dom ∈ Tab.find? e.grt.reserved (c.arg 8 4), dom =
      fieldBytes r 0 2) ∧ e.gctx (c.arg 8 4) = none) ∧
    (∃ (s : State) (c : RingCmd) (t : Nat) (r : List Byte) (x : GCtx) (d e : Dev), s.dev.at t = d ∧ d.Starts c 12 e ∧ e.typedOk c.fn.val
      [] (c.arg 16 8) 128 false = true ∧ taSpace (c.arg 16 8) = 1 ∧ e.upset = [] ∧ r = e.readMem (taAddr (c.arg 16 8)) 128 ∧ (e.startedOf
      c).isSome = true ∧ e.ctxRefused c.fn.val r = 0 ∧ e.gctx (c.arg 8 4) = some x ∧ c.fn.val = 0 ∧ x.state = 1) ∧
    (∃ (s : State) (c : RingCmd) (t : Nat) (x : GCtx) (d e : Dev), s.dev.at t = d ∧ d.Starts c 13 e ∧ e.gctx (c.arg 8 4) = some x ∧
      c.fn.val = 0 ∧ x.state ≠ 2) :=
  ⟨⟨st (ringOn 0 up), cmd 0 [(8, 8, 2 ^ 61 + 4096), (16, 8, 64), (24, 1, 3)], late, 4096, 0, _, _, rfl, starts_now (by decide +kernel),
    by decide +kernel⟩,
  ⟨st (put [(Reg.GRT_REG_STATE 5, 1)] (ringOn 0 up)), cmd 0 [(8, 2, 5)], late, _, _, rfl, starts_now (by decide +kernel),
    by decide +kernel⟩,
  ⟨st (put [(Reg.GRT_CAP_CTX_MAX, 65536)] (ringOn 0 up)), cmd 0 [(8, 2, 5)], late, 0, _, _, _, rfl, starts_now (by decide +kernel),
    by decide +kernel, by decide +kernel, rfl, rfl, by decide +kernel⟩,
  ⟨st (put [(Reg.GRT_CAP_CTX_MAX, 65536)] (ringOn 0 (put [(Reg.UPL_PFC_PFC_EN 3, 1)] ((port 2 4 up).writeMem 0x10_0000 (rec_ 128 [(2, 2,
    3), (34, 2, 8), (44, 2, 1), (46, 1, 7), (48, 2, 1), (50, 1, 4)]))))), cmd 0 [(8, 4, 7), (16, 8, 2 ^ 60 + 0x10_0000)], late, _, _, _,
    rfl, starts_now (by decide +kernel), by decide +kernel, by decide +kernel, by decide +kernel, rfl, by decide +kernel⟩,
  ⟨st
    (({ (ringOn 0 (put [(Reg.UPL_PFC_PFC_EN 3, 1)] ((port 2 4 up).writeMem 0x10_0000 (rec_ 128 [(2, 2, 3), (34, 2, 8), (44, 2, 1), (46, 1, 7), (48, 2, 1), (50, 1, 4)])))) with grt := { Grt.empty with ctxs := [(7, gctx)] } }
    : Dev)), cmd 0 [(8, 4, 7), (16, 8, 2 ^ 60 + 0x10_0000)], late, _, gctx, _, _, rfl, starts_now (by decide +kernel), by decide +kernel,
    by decide +kernel, by decide +kernel, rfl, by decide +kernel⟩,
  ⟨st (ringOn 0 ({ (port 2 4 up) with grt := { Grt.empty with ctxs := [(7, gctx)] } } : Dev)), cmd 0 [(8, 4, 7)], late, gctx, _, _, rfl,
    starts_now (by decide +kernel), by decide +kernel⟩⟩

theorem witness_StoreCommands :
    (∃ (s : State) (c : RingCmd) (t : Nat) (r : List Byte) (d e : Dev), s.dev.at t = d ∧ d.Starts c 14 e ∧ e.typedOk c.fn.val [] (c.arg 8
      8) 32 false = true ∧ taSpace (c.arg 8 8) = 1 ∧ e.upset = [] ∧ r = e.readMem (taAddr (c.arg 8 8)) 32 ∧ (e.startedOf c).isSome = true
      ∧ spanOk r = true ∧ e.shadowedAll c.fn.val (e.ten.live.rt.length + 1) (fieldBytes r 0 8) (fieldBytes r 0 8 + fieldBytes r 8 8) =
      true ∧ e.spanAt c.fn.val (fieldBytes r 0 8) = none ∧ e.store.spans.length < 65536) ∧
    (∃ (s : State) (c : RingCmd) (t base : Nat) (x : Nat × Span) (d e : Dev), s.dev.at t = d ∧ d.Starts c 15 e ∧ dpaArg (c.arg 8 8) =
      some base ∧ e.spanAt c.fn.val base = some x) ∧
    (∃ (s : State) (c : RingCmd) (t : Nat) (d e : Dev), s.dev.at t = d ∧ d.Starts c 17 e ∧ 8192 ≤ c.arg 32 2 ∧ c.arg 32 2 < 16384 ∧
      taSpace (c.arg 8 8) = 1 ∧ taFormed (c.arg 8 8) = true ∧ c.arg 16 8 + c.arg 24 8 ≤ 2 ^ 52 ∧ e.dmaNamed (taAddr (c.arg 8 8)) (c.arg
      24 8) = true ∧ c.fn.val = 0 ∧ e.flag Reg.WPUSH_STAT_BUSY = false) ∧
    (∃ (s : State) (c : RingCmd) (t a : Nat) (d e : Dev), s.dev.at t = d ∧ d.Starts c 18 e ∧ dpaArg (c.arg 8 8) = some a) ∧
    (∃ (s : State) (c : RingCmd) (t : Nat) (d e : Dev), s.dev.at t = d ∧ d.Starts c 16 e ∧ e.coreUp 0 = true ∧ c.fn.val = 0 ∧
      e.keyLoadAllowed s.fuse = true ∧ c.arg 16 2 < 4096 ∧ e.typedOk c.fn.val [] (c.arg 8 8) 96 false = true ∧ taSpace (c.arg 8 8) = 1 ∧
      e.upset = []) ∧
    (∃ (s : State) (c : RingCmd) (t : Nat) (d e : Dev), s.dev.at t = d ∧ d.Starts c 16 e ∧ e.coreUp 0 = true ∧ c.fn.val ≠ 0 ∧ c.arg 16 2
      ≠ c.fn.val) ∧
    (∃ (c : RingCmd) (r : List Byte), fieldBytes r 0 1 = 1 ∧ fieldBytes r 1 1 < 2 ∧ fieldBytes r 6 2 = 0 ∧ fieldBytes r 80 16 = 0 ∧
      fieldBytes r 2 2 = c.arg 16 2) ∧
    (∃ (s : State) (c : RingCmd) (t : Nat) (d e : Dev), s.dev.at t = d ∧ d.Starts c 24 e ∧ e.coreUp 0 = true ∧ e.get Reg.LC_STAT_STATE ≠
      4 ∧ taSpace (c.arg 8 8) = 1 ∧ e.typedOk c.fn.val [] (c.arg 8 8) 8640 true = true) :=
  ⟨⟨st (((ringOn 5 (windowed
    ({ up with ten := { Tenancy.empty with live := { Bank.empty with rt := [(0, ({ entry 0 with w2 := 2 ^ 42 } : RtEntry))] } } }))).writeMem
    0x4000_0000 (rec_ 32 [(8, 8, 4096), (16, 1, 12), (17, 1, 1), (18, 2, 32)]))), cmd 5 [(8, 8, 2 ^ 60 + 0x4000_0000)], late, _, _, _,
    rfl, starts_now (by decide +kernel), by decide +kernel, by decide +kernel, by decide +kernel, rfl, by decide +kernel⟩,
  ⟨st (ringOn 5 ({ (up) with store := { Store.empty with spans := [(0, ⟨5, 0, 4096, 12, 1, 32, 0, 0⟩)] } } : Dev)), cmd 5 [(8, 8, 2 ^
    61)], late, 0, (0, ⟨5, 0, 4096, 12, 1, 32, 0, 0⟩), _, _, rfl, starts_now (by decide +kernel), by decide +kernel⟩,
  ⟨st (ringOn 0 up), cmd 0 [(8, 8, 2 ^ 60), (24, 8, 64), (32, 2, 8192)], late, _, _, rfl, starts_now (by decide +kernel),
    by decide +kernel⟩,
  ⟨st (ringOn 0 up), cmd 0 [(8, 8, 2 ^ 61)], late, 0, _, _, rfl, starts_now (by decide +kernel), by decide +kernel⟩,
  ⟨st (put [(Reg.LC_STAT_STATE, 2)] (ringOn 0 up)), cmd 0 [(8, 8, 2 ^ 60)], late, _, _, rfl, starts_now (by decide +kernel),
    by decide +kernel⟩,
  ⟨st (ringOn 6 up), cmd 6 [(16, 2, 5)], late, _, _, rfl, starts_now (by decide +kernel), by decide +kernel⟩,
  ⟨cmd 0 [(16, 2, 5)], (rec_ 96 [(0, 1, 1), (2, 2, 5)]), by decide +kernel⟩,
  ⟨st (ringOn 0 up), cmd 0 [(8, 8, 2 ^ 60)], late, _, _, rfl, starts_now (by decide +kernel), by decide +kernel⟩⟩

theorem witness_RingsTurn :
    (∃ (s : State) (fn : Dom) (i : Fin 16) (pi : BitVec 16) (t : Nat) (r : Ring) (d : Dev), s.dev.at t = d ∧ d.ring fn.val 0 i.val = r ∧
      r.en = true ∧ (r.pi + r.size - r.ci) % r.size ≤ (pi.toNat % r.size + r.size - r.ci) % r.size ∧ bitOf r.cfg0 25 = false) ∧
    (∃ (s : State) (fn : Dom) (i : Fin 16) (pi : BitVec 16) (t : Nat) (r : Ring) (d : Dev), s.dev.at t = d ∧ d.ring fn.val 0 i.val = r ∧
      (pi.toNat % r.size + r.size - r.ci) % r.size < (r.pi + r.size - r.ci) % r.size) ∧
    (∃ (s : State) (fn : Dom) (i : Fin 16) (ci : BitVec 16) (t step : Nat) (r : Ring) (d : Dev), s.dev.at t = d ∧ d.pcieUp = true ∧
      d.ring fn.val 1 i.val = r ∧ r.en = true ∧ step = (ci.toNat % r.size + r.size - r.ci) % r.size ∧ step ≠ 0) ∧
    (∃ (s : State) (fn : Dom) (ci : BitVec 16) (t step : Nat) (r : Ring) (d : Dev), s.dev.at t = d ∧ d.pcieUp = true ∧ d.ring fn.val 2 0
      = r ∧ r.en = true ∧ step = (ci.toNat % r.size + r.size - r.ci) % r.size ∧ step ≠ 0) ∧
    (∃ (s : State) (fn : Dom) (v : Word) (t kind ix w : Nat) (r : Ring) (d : Dev), s.dev.at t = d ∧ d.pcieUp = true ∧ d.selected fn.val =
      some (kind, ix) ∧ kind ≠ 0 ∧ r = d.ring fn.val kind ix ∧ r.en = false ∧ w = cfg0Mask v.toNat ∧ bitOf w 0 = true ∧ ∃ want : Ring,
      want = { r with cfg0 := w } ∧ fieldOf w 1 20 * 64 + want.size * ringEntry kind ≤ d.mapped fn.val) ∧
    (∃ (s : State) (fn : Dom) (i : Fin 16) (t : Nat) (r : Ring) (bs : List Byte) (d : Dev), s.dev.at t = d ∧ d.ring fn.val 0 i.val = r ∧
      r.en = true ∧ r.ci ≠ r.avail ∧ d.coreUp (fabricCore fn.val) = true ∧ d.slotFree fn.val i.val = true ∧ d.upset = [] ∧ bs = d.readMem
      (d.ringAddr fn.val 0 r r.ci) 64 ∧ badEntry bs = false) ∧
    (∃ (s : State) (fn : Dom) (k : Fin 4) (i : Fin 16) (t : Nat) (r : Ring) (d : Dev), s.dev.at t = d ∧ d.ring fn.val k.val i.val = r ∧
      r.en = true ∧ r.unsig ≠ 0 ∧ fieldOf r.cfg0 48 16 ≠ 0 ∧ fieldOf r.cfg0 38 10 ≠ 0 ∧ r.oldest + fieldOf r.cfg0 48 16 * 1000 ≤ d.time) :=
  ⟨⟨st ((up.setRing 5 0 0 { Ring.idle with cfg0 := 1, pi := 3, ci := 1 })), 5, 0, 4#16, late,
    { Ring.idle with cfg0 := 1, pi := 3, ci := 1 }, _, rfl, by decide +kernel⟩,
  ⟨st ((up.setRing 5 0 0 { Ring.idle with cfg0 := 1, pi := 3, ci := 1 })), 5, 0, 2#16, late,
    { Ring.idle with cfg0 := 1, pi := 3, ci := 1 }, _, rfl, by decide +kernel⟩,
  ⟨st ((up.setRing 5 1 0 { Ring.idle with cfg0 := 1, pi := 3, ci := 1, used := 2 })), 5, 0, 2#16, late, _,
    { Ring.idle with cfg0 := 1, pi := 3, ci := 1, used := 2 }, _, rfl, by decide +kernel, by decide +kernel, by decide +kernel, rfl,
    by decide +kernel⟩,
  ⟨st ((up.setRing 0 2 0 { Ring.idle with cfg0 := 1, pi := 3, ci := 1, used := 2 })), 0, 2#16, late, _,
    { Ring.idle with cfg0 := 1, pi := 3, ci := 1, used := 2 }, _, rfl, by decide +kernel, by decide +kernel, by decide +kernel, rfl,
    by decide +kernel⟩,
  ⟨st (put [(Reg.RING_SEL_KIND 0, 1)] up), 0, 1#64, late, 1, 0, 1, _, _, rfl, by decide +kernel, by decide +kernel, by decide +kernel,
    rfl, by decide +kernel, by decide +kernel, by decide +kernel, _, rfl, by decide +kernel⟩,
  ⟨st ((ringOn 5 (up.setRing 5 0 0 { Ring.idle with cfg0 := 1, pi := 3, ci := 1, avail := 3 }))), 5, 0, late,
    { Ring.idle with cfg0 := 1, pi := 3, ci := 1, avail := 3 }, _, _, rfl, by decide +kernel, by decide +kernel, by decide +kernel,
    by decide +kernel, by decide +kernel, by decide +kernel, rfl, by decide +kernel⟩,
  ⟨st ((up.setRing 5 1 0 { Ring.idle with cfg0 := 1 + 2 ^ 38 + 2 ^ 48, pi := 0, ci := 0, unsig := 1 })), 5, 1, 0, late,
    { Ring.idle with cfg0 := 1 + 2 ^ 38 + 2 ^ 48, pi := 0, ci := 0, unsig := 1 }, _, rfl, by decide +kernel⟩⟩

theorem witness_HostReaches :
    (∃ (s : State) (fn : Dom) (a t : Nat) (bs : List Byte) (d : Dev), s.dev.at t = d ∧ d.pcieUp = true ∧ fn.val = 0 ∧ a + bs.length ≤
      d.mapped 0 ∧ a + bs.length ≤ 0x1000_0000) ∧
    (∃ (s : State) (fn : Dom) (a len t : Nat) (d : Dev), s.dev.at t = d ∧ d.pcieUp = true ∧ fn.val = 0 ∧ a + len ≤ d.mapped 0 ∧ a + len ≤
      0x1000_0000 ∧ d.upset = []) ∧
    (∃ (s : State) (tag tile g t : Nat) (r : HostRead) (d : Dev), s.dev.at t = d ∧ d.host.reads.find? (fun r => r.tag == tag) = some r ∧
      r.use = .operator tile g) ∧
    (∃ (s : State) (tag tile g t : Nat) (r : HostRead) (d : Dev), s.dev.at t = d ∧ d.host.reads.find? (fun r => r.tag == tag) = some r ∧
      r.use = .operator tile g) ∧
    (∃ (s : State) (fn : Dom) (t : Nat) (d : Dev), s.dev.at t = d ∧ fn.val ≠ 0 ∧ d.heats.list = []) ∧
    (∃ (s : State) (fn : Dom) (a t : Nat) (v : Word) (r : RegRow) (is : List Nat) (d : Dev), s.dev.at t = d ∧ d.pcieUp = true ∧ fn.val =
      0 ∧ a % 8 = 0 ∧ Reg.find a = some (r, is) ∧ d.deadPort r is = false ∧ ∃ m, m = Nat.land (2 ^ 64 - 1) (r.mask (fun _ => true)) ∧
      d.portWrite r is a v.toNat m = none ∧ d.mapWrite r is a v.toNat m = none ∧ d.secWrite s.fuse r is v.toNat m = none ∧ d.fnWrite r is
      v.toNat m = none) ∧
    (∃ (s : State) (a n t : Nat) (d : Dev), s.dev.at t = d ∧ barSized a n = false) ∧
    (∃ (d : Dev) (fn a b n : Nat), d.pcieUp = true ∧ (fn = 0 ∨ d.host.vfEnable = true) ∧ (n = 4 ∨ n = 8) ∧ a % n = 0 ∧ barAddr fn a =
      some b) ∧
    (∃ fn a n : Nat, ((n ≠ 4 ∧ n ≠ 8) ∨ a % n ≠ 0 ∨ barAddr fn a = none)) ∧
    (∃ old v m : Nat, old < 2 ^ 64 ∧ v < 2 ^ 64 ∧ m < 2 ^ 64) :=
  ⟨⟨st (up), 0, 64, late, [1#8], _, rfl, by decide +kernel⟩,
  ⟨st (up), 0, 64, 8, late, _, rfl, by decide +kernel⟩,
  ⟨st (({ up with host := { HostIf.empty with reads := [⟨4, 0, 0, 8, .operator 2 1⟩] } } : Dev)), 4, 2, 1, late, ⟨4, 0, 0, 8, .operator 2
    1⟩, _, rfl, by decide +kernel⟩,
  ⟨st (({ up with host := { HostIf.empty with reads := [⟨4, 0, 0, 8, .operator 2 1⟩] } } : Dev)), 4, 2, 1, late, ⟨4, 0, 0, 8, .operator 2
    1⟩, _, rfl, by decide +kernel⟩,
  ⟨st (up), 5, late, _, rfl, by decide +kernel⟩,
  ⟨st (up), 0, Reg.TIER_THR.addr, late, 5#64, ((Reg.find Reg.TIER_THR.addr).getD (⟨"", 0, [], []⟩, [])).1, [], _, rfl, by decide +kernel,
    by decide +kernel, by decide +kernel, by decide +kernel, by decide +kernel, _, rfl, by decide +kernel⟩,
  ⟨st (up), 3, 4, late, _, rfl, by decide +kernel⟩,
  ⟨up, 0, 8, 8, 8, by decide +kernel⟩,
  ⟨0, 3, 4, by decide +kernel⟩,
  ⟨1, 2, 3, by decide +kernel⟩⟩

theorem witness_FirmwareRuns :
    (∃ (s : State) (t : Nat) (d : Dev), s.dev.at t = d ∧ d.pcieUp = true ∧ d.boot.halt = false ∧ d.flag Reg.GSTAT_WIPE_ACTIVE = false ∧
      (d.get Reg.FW_STAT_STATE = 0 ∨ d.get Reg.FW_STAT_STATE = 4)) ∧
    (∃ (s : State) (t : Nat) (d : Dev), s.dev.at t = d ∧ d.get Reg.FW_STAT_STATE ≠ 0 ∧ d.get Reg.FW_STAT_STATE ≠ 4) ∧
    (∃ (s : State) (t : Nat) (d : Dev), s.dev.at t = d ∧ d.get Reg.FW_STAT_STATE = 1 ∧ d.bundleWhole = true) ∧
    (∃ (s : State) (t : Nat) (d : Dev), s.dev.at t = d ∧ d.get Reg.FW_STAT_STATE = 2) ∧
    (∃ (s : State) (c : Fin 16) (t : Nat) (d : Dev), s.dev.at t = d ∧ d.pcieUp = true ∧ d.running = true ∧ (∀ r ∈ d.boot.restarts, r.core
      ≠ c.val)) ∧
    (∃ (s : State) (c : Fin 16) (t : Nat) (d : Dev), s.dev.at t = d ∧ d.get (Reg.CORE_STAT_STATE c.val) = 1) ∧
    (∃ (s : State) (c : Fin 16) (t : Nat) (r : Restart) (d : Dev), s.dev.at t = d ∧ d.boot.restarts = [r] ∧ r.core = c.val ∧ r.cmd =
      none) ∧
    (∃ (s : State) (t : Nat) (d e : Dev), s.dev.at t = d ∧ d.pcieUp = true ∧ e = d.set Reg.TEL_SNAP_HOLD 1 ∧ e.snap = none) ∧
    (∃ (s : State) (t : Nat) (d : Dev), s.dev.at t = d ∧ d.pcieUp = true) :=
  ⟨⟨st (put [(Reg.FW_STAT_STATE, 0)] up), late, _, rfl, by decide +kernel⟩,
  ⟨st (up), late, _, rfl, by decide +kernel⟩,
  ⟨st (put [(Reg.FW_STAT_STATE, 1)] up), late, _, rfl, by decide +kernel⟩,
  ⟨st (put [(Reg.FW_STAT_STATE, 2)] up), late, _, rfl, by decide +kernel⟩,
  ⟨st (up), 2, late, _, rfl, by decide +kernel⟩,
  ⟨st (up), 2, late, _, rfl, by decide +kernel⟩,
  ⟨st (({ (up) with boot := { (up).boot with restarts := [⟨2, 3, 0, none⟩] } } : Dev)), 2, late, ⟨2, 3, 0, none⟩, _, rfl,
    by decide +kernel, rfl, rfl⟩,
  ⟨st (up), late, _, _, rfl, by decide +kernel, rfl, by decide +kernel⟩,
  ⟨st (up), late, _, rfl, by decide +kernel⟩⟩

theorem witness_ResetsAndStart :
    (∃ (s : State) (mv t : Nat) (d : Dev), s.dev.at t = d ∧ d.boot.rails = false ∧ 40000 ≤ mv) ∧
    (∃ (s : State) (mv t : Nat) (d : Dev), s.dev.at t = d ∧ d.boot.rails = true ∧ mv < 38500) ∧
    (∃ (s : State) (t : Nat) (d : Dev), s.dev.at t = d ∧ d.boot.rails = true ∧ d.boot.held = false) ∧
    (∃ (s : State) (code : BitVec 16) (t : Nat) (d : Dev), s.dev.at t = d ∧ code ≠ 0x0A09#16) ∧
    (∃ (s : State) (t : Nat) (d : Dev), s.dev.at t = d ∧ d.boot.rails = true ∧ d.boot.held = true ∧ d.boot.bridge = none ∧ d.boot.holds =
      []) ∧
    (∃ (s : State) (t : Nat) (d : Dev), s.dev.at t = d ∧ d.pcieUp = true) ∧
    (∃ (s : State) (t : Nat) (d e : Dev), s.dev.at t = d ∧ d.pcieUp = true ∧ d.boot.wiped = true ∧ d.boot.halt = false ∧ d.flag
      Reg.IMG_STAT_APPLIED = false ∧ e = (if d.get Reg.LC_STAT_STATE = 0 ∨ d.get Reg.LC_STAT_STATE = 4 then d else
      ({ d with boot := { d.boot with idKey := Config.slhPublic s.fuse.idSeeds } } : Dev).set Reg.LC_STAT_ID_READY 1)) ∧
    (∃ (s : State) (p : Port) (t : Nat) (d e : Dev), s.dev.at t = d ∧ d.coreUp 15 = true ∧ d.get Reg.TIER_CTL_SVC_MODE = 0 ∧ d.isRole
      p.val 1 = true ∧ e = d.set (Reg.LINK_CTL_DISABLE p.val) 1 ∧ e.linkState p.val = 0) :=
  ⟨⟨st (({ Dev.reset with boot := { Boot.start with rails := false } } : Dev)), 48000, late, _, rfl, by decide +kernel⟩,
  ⟨st (up), 100, late, _, rfl, by decide +kernel⟩,
  ⟨st (up), late, _, rfl, by decide +kernel⟩,
  ⟨st (up), 5#16, late, _, rfl, by decide +kernel⟩,
  ⟨st (Dev.reset), late, _, rfl, by decide +kernel⟩,
  ⟨st (up), late, _, rfl, by decide +kernel⟩,
  ⟨st (cold), late, _, _, rfl, by decide +kernel, by decide +kernel, by decide +kernel, by decide +kernel, rfl⟩,
  ⟨st (put [(Reg.TIER_CTL_SVC_MODE, 0)] (port 1 0 up)), 3, late, _, _, rfl, by decide +kernel, by decide +kernel, by decide +kernel, rfl,
    by decide +kernel⟩⟩

theorem witness_SecurityActs :
    (∃ (s : State) (f : Fin 8) (t : Nat) (d : Dev), s.dev.at t = d ∧ d.pcieUp = true ∧ d.boot.burns = [] ∧ f.val < 4 ∧ fuseAllowed (d.get
      Reg.LC_STAT_STATE) f.val = true ∧ s.fuse.programmed f.val = false) ∧
    (∃ (s : State) (f : Fin 8) (t : Nat) (d : Dev), s.dev.at t = d ∧ d.pcieUp = true ∧ d.boot.burns = [] ∧ f.val ≤ 4 ∧ fuseAllowed (d.get
      Reg.LC_STAT_STATE) f.val = false) ∧
    (∃ (s : State) (v : BitVec 7) (t : Nat) (d : Dev), s.dev.at t = d ∧ d.pcieUp = true ∧ (d.get Reg.LC_STAT_STATE = 1 ∨ d.get
      Reg.LC_STAT_STATE = 2) ∧ d.boot.burns = [] ∧ s.fuse.floor < v.toNat ∧ v.toNat ≤ 64 ∧ v.toNat ≤ (d.boot.bundle.map
      BundleRecord.svn).getD 0 ∧ v.toNat ≤ (d.boot.image.map ImageRecord.svn).getD 0) ∧
    (∃ (s : State) (t : Nat) (d : Dev), s.dev.at t = d ∧ d.pcieUp = true ∧ d.boot.burns = []) ∧
    (∃ (s : State) (t f v : Nat) (rest : List (Nat × Nat)) (d : Dev), s.dev.at t = d ∧ s.dev.boot.burns = (f, v) :: rest ∧ f ≠ 5 ∧ f ≠ 7) ∧
    (∃ (s : State) (t v : Nat) (d : Dev), s.dev.at t = d ∧ s.dev.boot.burns = [(7, v)]) ∧
    (∃ (s : State) (t : Nat) (d : Dev), s.dev.at t = d ∧ d.pcieUp = true ∧ d.get Reg.LC_STAT_STATE = 1) ∧
    (∃ (s : State) (t : Nat) (d : Dev), s.dev.at t = d ∧ d.pcieUp = true) ∧
    (∃ (s : State) (src : Fin 4) (t : Nat) (d : Dev), s.dev.at t = d ∧ d.boot.rails = true ∧ (src.val = 0 → d.get Reg.PWR_STAT_VIN_MV = 0
      ∨ 40000 ≤ d.get Reg.PWR_STAT_VIN_MV)) ∧
    (∃ (s : State) (t : Nat) (d : Dev), s.dev.at t = d ∧ d.boot.rails = true) ∧
    (∃ (s : State) (t : Nat) (d : Dev), s.dev.at t = d ∧ d.pcieUp = true) :=
  ⟨⟨st (up), 1, late, _, rfl, by decide +kernel⟩,
  ⟨st (up), 3, late, _, rfl, by decide +kernel⟩,
  ⟨st (put [(Reg.LC_STAT_STATE, 1)] ({ (up) with boot := { (up).boot with bundle := some ⟨9, [], []⟩, image := some ⟨0, 9, []⟩ } } :
    Dev)), 4#7, late, _, rfl, by decide +kernel⟩,
  ⟨st (up), late, _, rfl, by decide +kernel⟩,
  ⟨st (({ (up) with boot := { (up).boot with burns := [(1, 5)] } } : Dev)), late, 1, 5, [], _, rfl, by decide +kernel⟩,
  ⟨st (({ (up) with boot := { (up).boot with burns := [(7, 3)] } } : Dev)), late, 3, _, rfl, by decide +kernel⟩,
  ⟨st (put [(Reg.LC_STAT_STATE, 1)] up), late, _, rfl, by decide +kernel⟩,
  ⟨st (up), late, _, rfl, by decide +kernel⟩,
  ⟨st (up), 2, late, _, rfl, by decide +kernel⟩,
  ⟨st (up), late, _, rfl, by decide +kernel⟩,
  ⟨st (up), late, _, rfl, by decide +kernel⟩⟩

theorem witness_ManagementReplies :
    (∃ (s : State) (t : Nat) (d : Dev), s.dev.at t = d ∧ d.boot.rails = true) ∧
    (∃ (s : State) (t : Nat) (d : Dev), s.dev.at t = d ∧ d.boot.rails = true) ∧
    (∃ (s : State) (a n t : Nat) (d : Dev), s.dev.at t = d ∧ d.boot.rails = true ∧ d.boot.resetLow = true ∧ d.boot.bridge = none ∧ n ≤
      256 ∧ a + n ≤ flashBytes) ∧
    (∃ (s : State) (a t : Nat) (d e : Dev), s.dev.at t = d ∧ d.boot.rails = true ∧ e = d.set Reg.STRAP_STAT_FLASH_WE 1 ∧ e.boot.resetLow
      = true ∧ e.boot.bridge = none ∧ a % 65536 = 0 ∧ a < flashBytes) ∧
    (∃ (s : State) (a t : Nat) (bs : List Byte) (d e : Dev), s.dev.at t = d ∧ d.boot.rails = true ∧ e = d.set Reg.STRAP_STAT_FLASH_WE 1 ∧
      e.boot.resetLow = true ∧ e.boot.bridge = none ∧ a % 256 = 0 ∧ bs.length = 256 ∧ a < flashBytes) ∧
    (∃ (s : State) (t : Nat) (d : Dev), s.dev.at t = d ∧ d.boot.rails = true) ∧
    (∃ (s : State) (t : Nat) (d : Dev), s.dev.at t = d ∧ d.boot.rails = true ∧ d.boot.resetLow = true) ∧
    (∃ (s : State) (t : Nat) (op : FlashOp) (d : Dev), s.dev.at t = d ∧ s.dev.boot.bridge = some op) ∧
    (∃ (s : State) (t : Nat) (d : Dev), s.dev.at t = d ∧ d.boot.rails = true ∧ d.running = true ∧ d.flag Reg.TRACE_CTL_PIN_OUT = true) ∧
    (∃ (s : State) (t : Nat) (d : Dev), s.dev.at t = d ∧ d.boot.rails = true) ∧
    (∃ (s : State) (t : Nat) (d : Dev), s.dev.at t = d ∧ d.boot.rails = true) ∧
    (∃ (s : State) (t op : Nat) (c : Fin 16) (i : Instr) (bs : List Byte) (a n : Nat) (v : Word) (d : Dev), s.dev.at t = d ∧ d.boot.rails
      = true ∧ d.flag Reg.LC_STAT_DEBUG_OPEN = false ∧ (i, op) ∈ [(Instr.dbgHalt c t, 0), (.dbgResume c t, 1), (.dbgMemRead c a n t, 2),
      (.dbgMemWrite c a bs t, 3), (.dbgRegRead a t, 4), (.dbgRegWrite a v t, 5), (.dbgCoreRegs c t, 6)]) ∧
    (∃ (s : State) (t : Nat) (c : Fin 16) (d : Dev), s.dev.at t = d ∧ d.boot.rails = true ∧ d.flag Reg.LC_STAT_DEBUG_OPEN = true ∧
      d.dbgHalted c.val = false ∧ d.coreUp c.val = true) ∧
    (∃ (s : State) (t : Nat) (c : Fin 16) (d : Dev), s.dev.at t = d ∧ d.boot.rails = true ∧ d.flag Reg.LC_STAT_DEBUG_OPEN = true ∧
      d.dbgHalted c.val = true) ∧
    (∃ (s : State) (t a n : Nat) (d : Dev), s.dev.at t = d ∧ d.boot.rails = true ∧ d.flag Reg.LC_STAT_DEBUG_OPEN = true ∧ n ≤ 256 ∧ a + n
      ≤ 0x20_0000) ∧
    (∃ (s : State) (t a : Nat) (c : Fin 16) (d : Dev), s.dev.at t = d ∧ d.boot.rails = true ∧ d.flag Reg.LC_STAT_DEBUG_OPEN = true ∧
      d.dbgHalted c.val = true ∧ a < 0x20_0000) ∧
    (∃ (s : State) (t a : Nat) (d : Dev), s.dev.at t = d ∧ d.boot.rails = true ∧ d.flag Reg.LC_STAT_DEBUG_OPEN = true ∧ a % 8 = 0) ∧
    (∃ (s : State) (t : Nat) (c : Fin 16) (vs : List Nat) (d : Dev), s.dev.at t = d ∧ d.boot.rails = true ∧ d.flag Reg.LC_STAT_DEBUG_OPEN
      = true ∧ d.boot.halted.find? (fun h => h.1 == c.val) = some (c.val, vs)) :=
  ⟨⟨st (up), late, _, rfl, by decide +kernel⟩,
  ⟨st (up), late, _, rfl, by decide +kernel⟩,
  ⟨st (({ (up) with boot := { (up).boot with resetLow := true } } : Dev)), 64, 16, late, _, rfl, by decide +kernel⟩,
  ⟨st (({ (up) with boot := { (up).boot with resetLow := true } } : Dev)), 65536, late, _, _, rfl, by decide +kernel, rfl,
    by decide +kernel⟩,
  ⟨st (({ (up) with boot := { (up).boot with resetLow := true } } : Dev)), 256, late, List.replicate 256 0#8, _, _, rfl,
    by decide +kernel, rfl, by decide +kernel⟩,
  ⟨st (up), late, _, rfl, by decide +kernel⟩,
  ⟨st (({ (up) with boot := { (up).boot with resetLow := true } } : Dev)), late, _, rfl, by decide +kernel⟩,
  ⟨st (({ (up) with boot := { (up).boot with bridge := some (.erase 0) } } : Dev)), late, .erase 0, _, rfl, by decide +kernel⟩,
  ⟨st (put [(Reg.TRACE_CTL_PIN_OUT, 1)] up), late, _, rfl, by decide +kernel⟩,
  ⟨st (up), late, _, rfl, by decide +kernel⟩,
  ⟨st (up), late, _, rfl, by decide +kernel⟩,
  ⟨st (up), late, 0, 2, .dbgHalt 2 late, [], 0, 0, 0, _, rfl, by decide +kernel, by decide +kernel, .head _⟩,
  ⟨st (put [(Reg.LC_STAT_DEBUG_OPEN, 1)] up), late, 2, _, rfl, by decide +kernel⟩,
  ⟨st (put [(Reg.LC_STAT_DEBUG_OPEN, 1)] ({ (up) with boot := { (up).boot with halted := [(2, [1])] } } : Dev)), late, 2, _, rfl,
    by decide +kernel⟩,
  ⟨st (put [(Reg.LC_STAT_DEBUG_OPEN, 1)] up), late, 8, 2, _, rfl, by decide +kernel⟩,
  ⟨st (put [(Reg.LC_STAT_DEBUG_OPEN, 1)] ({ (up) with boot := { (up).boot with halted := [(2, [1])] } } : Dev)), late, 8, 2, _, rfl,
    by decide +kernel⟩,
  ⟨st (put [(Reg.LC_STAT_DEBUG_OPEN, 1)] up), late, 8, _, rfl, by decide +kernel⟩,
  ⟨st (put [(Reg.LC_STAT_DEBUG_OPEN, 1)] ({ (up) with boot := { (up).boot with halted := [(2, [1])] } } : Dev)), late, 2, [1], _, rfl,
    by decide +kernel⟩⟩

theorem witness_PowerAndCooling :
    (∃ (s : State) (mv ma t mean : Nat) (samples : List Nat) (d c e g : Dev), s.dev.at t = d ∧ d.boot.rails = true ∧ c = d.countThrottle
      ∧ samples = (mv * ma / 1000 :: c.boot.limiter.samples).take 10 ∧ mean = sumBy id samples / samples.length ∧ e = (c.set
      Reg.PWR_STAT_VIN_MV (min 65535 mv)).set Reg.PWR_STAT_IIN_10MA (min 65535 (ma / 10)) ∧ g = (e.set Reg.PWR_STAT_PIN_W (min 65535
      (mean / 1000))).set Reg.PWR_STAT_VCORE_NOW_MV e.vcoreNow ∧ ∃ above, above = (if g.capMw < mv * ma / 1000 then some
      (c.boot.limiter.above.getD g.time) else none) ∧ ∃ below, below = (if mv * ma / 1000 * 100 < g.capMw * 95 then some
      (c.boot.limiter.below.getD g.time) else none) ∧ ∃ on : Bool, (on = true ↔ if c.boot.limiter.on = true then ¬ ∃ t0 ∈ below, t0 +
      1_000_000 ≤ g.time else (∃ t0 ∈ above, t0 + 8_000_000 ≤ g.time) ∨ (samples.length = 10 ∧ 1_850_000 < mean))) ∧
    (∃ (s : State) (t : Nat) (d : Dev), s.dev.at t = d ∧ d.boot.rails = true) ∧
    (∃ (temps : List Int) (tj : Int) (k : Nat), temps ≠ [] ∧ hottest temps = (tj, k)) ∧
    (∃ (s : State) (t : Nat) (d : Dev), s.dev.at t = d ∧ d.pcieUp = true) ∧
    (∃ (s : State) (t : Nat) (d : Dev), s.dev.at t = d ∧ d.pcieUp = true ∧ d.flag Reg.IMG_STAT_APPLIED = false) ∧
    (∃ (s : State) (fn : Dom) (x : CfgField) (bs : List Byte) (t : Nat) (d : Dev), s.dev.at t = d ∧ d.pcieUp = true ∧ d.flag
      Reg.IMG_STAT_APPLIED = true ∧ (fn.val = 0 ∨ d.host.vfEnable = true) ∧ (x, bs) ∈ [(CfgField.vendorId, natBytes 2 (d.get
      Reg.IDENT_VENDOR_CODE)), (.deviceId, natBytes 2 (if fn.val = 0 then 0x0A09 else 0x0A19)), (.classCode, natBytes 3 0x12_0000),
      (.vfEnable, natBytes 1 (if d.host.vfEnable then 1 else 0)), (.completionTimeout, natBytes 1 (Tab.get 0 d.boot.config fn.val))]) ∧
    (∃ (s : State) (fn : Dom) (t : Nat) (d : Dev), s.dev.at t = d ∧ d.pcieUp = true ∧ d.flag Reg.IMG_STAT_APPLIED = true ∧ (fn.val = 0 ∨
      d.host.vfEnable = true)) :=
  ⟨⟨st (up), 48000, 1000, late, _, _, _, _, _, _, rfl, by decide +kernel, rfl, rfl, rfl, rfl, rfl, _, rfl, _, rfl, false,
    by decide +kernel⟩,
  ⟨st (up), late, _, rfl, by decide +kernel⟩,
  ⟨[40, 50, 50], 50, 1, by decide +kernel⟩,
  ⟨st (up), late, _, rfl, by decide +kernel⟩,
  ⟨st (cold), late, _, rfl, by decide +kernel⟩,
  ⟨st (put [(Reg.IMG_STAT_APPLIED, 1)] up), 0, .deviceId, natBytes 2 0x0A09, late, _, rfl, by decide +kernel⟩,
  ⟨st (put [(Reg.IMG_STAT_APPLIED, 1)] up), 0, late, _, rfl, by decide +kernel⟩⟩

theorem witness_StepRunsTheFront :
    (∃ (s : State) (c : Instr) (rest : List Instr), s.pending = c :: rest) ∧
    (∃ s : State, s.pending = []) :=
  ⟨⟨⟨[.opNop 2 noUpset late], ⟨[], 0⟩, [], up⟩, .opNop 2 noUpset late, [], by decide +kernel⟩,
  ⟨st (up), by decide +kernel⟩⟩

theorem witness_ResetHolds :
    ∃ p, p < 512 :=
  ⟨3, by decide +kernel⟩

theorem witness_EveryStepKeeps :
    (∃ s s' : State, s.Sound ∧ step s = .next s') ∧
    (∃ (c : Instr) (s s' : State), exec c s = .next s') :=
  ⟨⟨State.reset, _, ⟨by decide +kernel, by decide +kernel⟩, rfl⟩,
  ⟨.opNop 2 noUpset late, State.reset, _, rfl⟩⟩

theorem witness_MemoriesHold :
    (∃ (b : Byte) (m : List (Nat × Byte)), Memory.wf b m = true) ∧
    (∃ (b : Byte) (m : List (Nat × Byte)), Memory.wf b m = true) ∧
    (∃ (b : Byte) (m m' : List (Nat × Byte)), Memory.wf b m = true ∧ Memory.wf b m' = true ∧ (∀ x, Memory.read b m x = Memory.read b m'
      x)) :=
  ⟨⟨0#8, [(5, 7#8)], by decide +kernel⟩,
  ⟨0#8, [(5, 7#8)], by decide +kernel⟩,
  ⟨0#8, [(5, 7#8)], [(5, 7#8)], by decide +kernel, by decide +kernel, fun _ => rfl⟩⟩

theorem witness_RegistersHold :
    (∃ d : Dev, d.Rising) ∧
    (∃ d : Dev, d.Rising) ∧
    (∃ d : Dev, d.Rising) :=
  ⟨⟨up, by unfold Dev.Rising; decide +kernel⟩,
  ⟨up, by unfold Dev.Rising; decide +kernel⟩,
  ⟨up, by unfold Dev.Rising; decide +kernel⟩⟩

end Sys2Proof.Tests
end

section
/-! PROOF. Token buckets (R207): what a refill and a charge do to a bucket, and what a rate of 0 makes of a shaper and a policer. -/
namespace Sys2Proof.Machine

@[simp] theorem Bucket.refill_tok (b : Bucket) (s : Shape) (t : Nat) :
    (b.refill s t).tok = min ((s.burst * 64 * 8000 : Nat) : Int) (b.tok + ((s.rate * (t - b.at_) : Nat) : Int)) := rfl

@[simp] theorem Bucket.refill_at_ (b : Bucket) (s : Shape) (t : Nat) : (b.refill s t).at_ = max b.at_ t := rfl

@[simp] theorem Bucket.charge_tok (b : Bucket) (s : Shape) (n : Nat) :
    (b.charge s n).tok = max (-(((s.burst * 64 + 16384) * 8000 : Nat) : Int)) (b.tok - ((n * 8000 : Nat) : Int)) := rfl

@[simp] theorem Bucket.charge_at_ (b : Bucket) (s : Shape) (n : Nat) : (b.charge s n).at_ = b.at_ := rfl

theorem Bucket.eq_of_fields {b c : Bucket} (htok : b.tok = c.tok) (hat : b.at_ = c.at_) : b = c := by
  cases b
  cases c
  exact congrArg₂ Bucket.mk htok hat

/-- Over two adjoining intervals a rate gains what it gains over their union. -/
theorem gain_add_gain (rate : Nat) {a u v : Nat} (hau : a ≤ u) (huv : u ≤ v) :
    rate * (u - a) + rate * (v - u) = rate * (v - a) := by
  have hsplit : v - a = (u - a) + (v - u) := by omega
  rw [hsplit, Nat.mul_add]

/-- The gain is never negative, so a cut at the burst between two refills cuts nothing that the last one would keep. -/
theorem Bucket.refill_refill (b : Bucket) (s : Shape) {u v : Nat} (hu : b.at_ ≤ u) (huv : u ≤ v) :
    (b.refill s u).refill s v = b.refill s v := by
  refine Bucket.eq_of_fields ?_ ?_
  · have hgain := gain_add_gain s.rate hu huv
    simp only [refill_tok, refill_at_, max_eq_right hu]
    omega
  · simp only [refill_at_]
    omega

/-- A charge never adds, so a count stopped at the floor by the first of two charges is still there after the second. -/
theorem Bucket.charge_charge (b : Bucket) (s : Shape) (n m : Nat) : (b.charge s n).charge s m = b.charge s (n + m) := by
  refine Bucket.eq_of_fields ?_ rfl
  simp only [charge_tok]
  omega

theorem Dev.noLimit_zero (d : Dev) (p : Nat) : d.noLimit p 0 = true := rfl

/-- R207: a shaper of rate 0 never holds and never demotes. -/
theorem Dev.inProfile_of_rate_zero {d : Dev} {p tc : Nat} (hrate : (shapeOf (d.reg (Reg.SHAPE_CFG p tc))).rate = 0) :
    d.inProfile p tc = true := by
  rw [Dev.inProfile, hrate, Dev.noLimit_zero, Bool.true_or]

/-- R207: a shaper of rate 0 never charges. -/
theorem Dev.chargeShaper_of_rate_zero {d : Dev} {p tc : Nat} (n : Nat)
    (hrate : (shapeOf (d.reg (Reg.SHAPE_CFG p tc))).rate = 0) : d.chargeShaper p tc n = d :=
  if_pos hrate

theorem Dev.endHold_of_not_held {d : Dev} {p : Nat} (hheld : p ∉ d.sw.polHold) : d.endHold p = d := by
  simp [Dev.endHold, hheld]

/-- R207: a policer of rate 0 passes every item unchanged and charges nothing; a hold left from an earlier rate ends. -/
theorem Dev.police_of_rate_zero {d : Dev} {p : Nat} (n : Nat) (hrate : (shapeOf (d.reg (Reg.POL_CFG p))).rate = 0) :
    d.police p n = (0, d.endHold p) :=
  if_pos hrate

/-- Settles O29: the refill and the charge by their equations, the rate of 0 by the first branch of each function that asks for it. -/
theorem bucketsBounded : Obligations.BucketsBounded := by
  unfold Obligations.BucketsBounded
  refine ⟨?refill, ?refills, ?charge, ?shaperOff, ?policerOff⟩
  case refill => exact fun b s t => ⟨b.refill_tok s t, b.refill_at_ s t⟩
  case refills => exact fun b s _ _ hu huv => b.refill_refill s hu huv
  case charge => exact fun b s n m => ⟨b.charge_tok s n, b.charge_charge s n m⟩
  case shaperOff => exact fun _ _ _ n hrate => ⟨Dev.inProfile_of_rate_zero hrate, Dev.chargeShaper_of_rate_zero n hrate⟩
  case policerOff =>
    intro d p n hrate hheld
    rw [Dev.police_of_rate_zero n hrate, Dev.endHold_of_not_held hheld]

end Sys2Proof.Machine
end

section
/-! PROOF. Crucibles (R242 to R246): PLACE as a MERGE of one addend, MERGE as a commutative and associative operation, the exact sum in V,
and what ROUND makes of more than 2^63 addends. -/
namespace Sys2Proof.Machine

theorem Crucible.eq_of_fields {a b : Crucible} (hv : a.v = b.v) (haddends : a.addends = b.addends) (hnan : a.nan = b.nan)
    (hpinf : a.pinf = b.pinf) (hninf : a.ninf = b.ninf) (hneg0 : a.allneg0 = b.allneg0) (hrange : a.rangeBits = b.rangeBits) :
    a = b := by
  cases a
  cases b
  simp_all

theorem Crucible.merge_comm (a b : Crucible) : a.merge b = b.merge a :=
  Crucible.eq_of_fields (BitVec.add_comm _ _) (congrArg (min addendsMax) (Nat.add_comm _ _)) (Bool.or_comm _ _) (Bool.or_comm _ _)
    (Bool.or_comm _ _) (Bool.and_comm _ _) (Nat.or_comm _ _)

/-- A count stopped at its end by the first of two sums is still there after the second. -/
theorem min_add_min_assoc (m a b c : Nat) : min m (min m (a + b) + c) = min m (a + min m (b + c)) := by
  omega

theorem Crucible.merge_assoc (a b c : Crucible) : (a.merge b).merge c = a.merge (b.merge c) :=
  Crucible.eq_of_fields (BitVec.add_assoc _ _ _) (min_add_min_assoc _ _ _ _) (Bool.or_assoc _ _ _) (Bool.or_assoc _ _ _)
    (Bool.or_assoc _ _ _) (Bool.and_assoc _ _ _) (Nat.or_assoc _ _ _)

/-- A cleared Crucible adds nothing to one whose count stands within its range (R242). -/
theorem Crucible.merge_clear {c : Crucible} (hcount : c.addends ≤ addendsMax) : c.merge Crucible.clear = c :=
  Crucible.eq_of_fields (BitVec.add_zero _) (min_eq_right hcount) (Bool.or_false _) (Bool.or_false _) (Bool.or_false _)
    (Bool.and_true _) (Nat.or_zero _)

/-- R243: every PLACE raises ADDENDS by 1, up to its end. -/
@[simp] theorem Crucible.place_addends (c : Crucible) (x : Num) : (c.place x).addends = min addendsMax (c.addends + 1) := by
  cases x with
  | nan => rfl
  | inf neg => cases neg <;> rfl
  | zero neg => cases neg <;> rfl
  | fin m e =>
    simp only [Crucible.place]
    split_ifs <;> rfl

/-- R243: to place a value is to merge a Crucible that holds this value alone. -/
theorem Crucible.place_eq_merge (c : Crucible) (x : Num) : c.place x = c.merge (Crucible.clear.place x) := by
  have hcount : min addendsMax (c.addends + 1) = min addendsMax (c.addends + min addendsMax (0 + 1)) := by
    simp [addendsMax]
  cases x with
  | nan => simp [Crucible.place, Crucible.merge, Crucible.clear, hcount]
  | inf neg => cases neg <;> simp [Crucible.place, Crucible.merge, Crucible.clear, hcount]
  | zero neg => cases neg <;> simp [Crucible.place, Crucible.merge, Crucible.clear, hcount]
  | fin m e =>
    simp only [Crucible.place]
    split_ifs <;> simp [Crucible.merge, Crucible.clear, hcount]

theorem Crucible.place_place_comm (c : Crucible) (x y : Num) : (c.place x).place y = (c.place y).place x := by
  rw [Crucible.place_eq_merge (c.place x), Crucible.place_eq_merge c x, Crucible.merge_assoc,
    Crucible.merge_comm (Crucible.clear.place x), ← Crucible.merge_assoc, ← Crucible.place_eq_merge, ← Crucible.place_eq_merge]

/-- What is placed in a Crucible may as well be placed in a cleared one that is then merged into it. -/
theorem Crucible.foldl_place_eq_merge (xs : List Num) {c : Crucible} (hcount : c.addends ≤ addendsMax) :
    xs.foldl Crucible.place c = c.merge (xs.foldl Crucible.place Crucible.clear) := by
  induction xs generalizing c with
  | nil => exact (Crucible.merge_clear hcount).symm
  | cons x xs ih =>
    have hplaced (k : Crucible) : (k.place x).addends ≤ addendsMax := by simp
    calc xs.foldl Crucible.place (c.place x)
        = (c.place x).merge (xs.foldl Crucible.place Crucible.clear) := ih (hplaced c)
      _ = c.merge ((Crucible.clear.place x).merge (xs.foldl Crucible.place Crucible.clear)) := by
        rw [Crucible.place_eq_merge c x, Crucible.merge_assoc]
      _ = c.merge (xs.foldl Crucible.place (Crucible.clear.place x)) := by rw [ih (hplaced Crucible.clear)]

theorem Crucible.foldl_place_addends_le (xs : List Num) {c : Crucible} (hcount : c.addends ≤ addendsMax) :
    (xs.foldl Crucible.place c).addends ≤ addendsMax := by
  rw [Crucible.foldl_place_eq_merge xs hcount]
  exact min_le_left _ _

/-- An addend `m × 2^e` lies on V's grid and below 2^160: PLACE takes it without rounding and without RANGE_HI (R244). -/
def FitsV (x : Int × Int) : Prop := -160 ≤ x.2 ∧ (Nat.log2 x.1.natAbs : Int) + x.2 < 160

/-- An addend `m × 2^e` counted in units of 2^-160, the weight of V's lowest bit (R242). -/
def unitsOfV (x : Int × Int) : Int := x.1 * (2 : Int) ^ (x.2 + 160).toNat

theorem Crucible.place_fin_v (c : Crucible) {x : Int × Int} (hfits : FitsV x) :
    (c.place (.fin x.1 x.2)).v = c.v + BitVec.ofInt 384 (unitsOfV x) := by
  obtain ⟨hgrid, htop⟩ := hfits
  simp only [Crucible.place, if_neg (not_le.mpr htop), if_pos hgrid, unitsOfV]

/-- V holds the sum of what is placed, modulo 2^384. -/
theorem Crucible.foldl_place_v (xs : List (Int × Int)) (c : Crucible) (hfits : ∀ x ∈ xs, FitsV x) :
    ((xs.map (fun x => Num.fin x.1 x.2)).foldl Crucible.place c).v = c.v + BitVec.ofInt 384 (xs.map unitsOfV).sum := by
  induction xs generalizing c with
  | nil => simp
  | cons x xs ih =>
    obtain ⟨hx, hxs⟩ := List.forall_mem_cons.mp hfits
    simp only [List.map_cons, List.foldl_cons, List.sum_cons, ih _ hxs, Crucible.place_fin_v c hx, BitVec.ofInt_add,
      BitVec.add_assoc]

theorem natAbs_mul_two_pow_lt {m : Int} {k n : Nat} (hexp : m.natAbs.log2 + 1 + k ≤ n) : m.natAbs * 2 ^ k < 2 ^ n :=
  calc m.natAbs * 2 ^ k
      < 2 ^ (m.natAbs.log2 + 1) * 2 ^ k := Nat.mul_lt_mul_of_pos_right Nat.lt_log2_self (Nat.two_pow_pos _)
    _ = 2 ^ (m.natAbs.log2 + 1 + k) := (Nat.pow_add _ _ _).symm
    _ ≤ 2 ^ n := Nat.pow_le_pow_right Nat.two_pos hexp

theorem abs_unitsOfV_lt {x : Int × Int} (hfits : FitsV x) : |unitsOfV x| < 2 ^ 320 := by
  obtain ⟨hgrid, htop⟩ := hfits
  have hlt : x.1.natAbs * 2 ^ (x.2 + 160).toNat < 2 ^ 320 := natAbs_mul_two_pow_lt (by omega)
  have habs : |unitsOfV x| = ((x.1.natAbs * 2 ^ (x.2 + 160).toNat : Nat) : Int) := by
    simp [unitsOfV, abs_mul]
  rw [habs]
  exact (Int.ofNat_lt.mpr hlt).trans_eq (Nat.cast_pow 2 320)

theorem abs_sum_le_of_forall_abs_le {ns : List Int} {b : Int} (hbound : ∀ n ∈ ns, |n| ≤ b) : |ns.sum| ≤ ns.length * b := by
  rw [abs_le, ← mul_neg, ← nsmul_eq_mul, ← nsmul_eq_mul]
  exact ⟨List.card_nsmul_le_sum _ _ fun n hn => (abs_le.mp (hbound n hn)).1,
    List.sum_le_card_nsmul _ _ fun n hn => (abs_le.mp (hbound n hn)).2⟩

/-- R246: 2^63 addends below 2^160 stay below 2^223, where V's range ends. -/
theorem abs_sum_unitsOfV_lt {xs : List (Int × Int)} (hlength : xs.length ≤ 2 ^ 63) (hfits : ∀ x ∈ xs, FitsV x) :
    |(xs.map unitsOfV).sum| < 2 ^ 383 := by
  have hlength' : (xs.length : Int) ≤ 2 ^ 63 := by exact_mod_cast hlength
  have hbound : ∀ n ∈ xs.map unitsOfV, |n| ≤ 2 ^ 320 - 1 :=
    List.forall_mem_map.mpr fun x hx => Int.le_sub_one_of_lt (abs_unitsOfV_lt (hfits x hx))
  calc |(xs.map unitsOfV).sum| ≤ (xs.map unitsOfV).length * (2 ^ 320 - 1) := abs_sum_le_of_forall_abs_le hbound
    _ = xs.length * (2 ^ 320 - 1) := by rw [List.length_map]
    _ ≤ 2 ^ 63 * (2 ^ 320 - 1) := mul_le_mul_of_nonneg_right hlength' (sub_nonneg.mpr (one_le_pow₀ one_le_two))
    _ < 2 ^ 63 * 2 ^ 320 := mul_lt_mul_of_pos_left (sub_one_lt _) (pow_pos two_pos _)
    _ = 2 ^ 383 := (pow_add 2 63 320).symm

/-- R246: up to 2^63 addends V is the exact sum. -/
theorem Crucible.foldl_place_v_toInt {xs : List (Int × Int)} (hlength : xs.length ≤ 2 ^ 63) (hfits : ∀ x ∈ xs, FitsV x) :
    ((xs.map (fun x => Num.fin x.1 x.2)).foldl Crucible.place Crucible.clear).v.toInt = (xs.map unitsOfV).sum := by
  obtain ⟨hlow, hhigh⟩ := abs_lt.mp (abs_sum_unitsOfV_lt hlength hfits)
  rw [Crucible.foldl_place_v xs _ hfits, show Crucible.clear.v = 0#384 from rfl, BitVec.zero_add]
  exact BitVec.toInt_ofInt_eq_self (by decide) hlow.le hhigh

/-- R245: more than 2^63 addends round to NaN, whatever V and the other state say. -/
theorem Crucible.value_of_addends_gt {c : Crucible} (hcount : 2 ^ 63 < c.addends) : c.value = .nan :=
  if_pos hcount

/-- A mask that was OR-ed into a number is found in it. -/
theorem land_lor_lor_left (x m y : Nat) : Nat.land (x ||| (m ||| y)) m = m := by
  refine Nat.eq_of_testBit_eq fun i => ?_
  change ((x ||| (m ||| y)) &&& m).testBit i = m.testBit i
  rw [Nat.testBit_and, Nat.testBit_or, Nat.testBit_or]
  cases m.testBit i <;> simp

/-- R245: more than 2^63 addends set OVF. -/
theorem Crucible.flags_ovf_of_addends_gt {c : Crucible} (isInt : Bool) (hcount : 2 ^ 63 < c.addends) :
    Nat.land (c.flags isInt) nfOvf = nfOvf := by
  rw [Crucible.flags, if_pos hcount]
  exact land_lor_lor_left _ _ _

/-- Settles O24: a PLACE is a MERGE of one addend, and MERGE is commutative and associative; the sum of 2^63 addends cannot leave V. -/
theorem crucibleOrder : Obligations.CrucibleOrder := by
  unfold Obligations.CrucibleOrder
  have hclear : Crucible.clear.addends ≤ addendsMax := Nat.zero_le _
  refine ⟨?order, ?split, ?merge, ?exactSum, ?tooMany⟩
  case order => exact fun xs ys hperm => hperm.foldl_eq' (fun x _ y _ c => c.place_place_comm x y) _
  case split =>
    intro xs ys
    rw [List.foldl_append, Crucible.foldl_place_eq_merge ys (Crucible.foldl_place_addends_le xs hclear)]
  case merge => exact fun a b c => ⟨a.merge_comm b, a.merge_assoc b c⟩
  case exactSum => exact fun xs hlength hfits => Crucible.foldl_place_v_toInt hlength hfits
  case tooMany => exact fun c isInt hcount => ⟨Crucible.value_of_addends_gt hcount, Crucible.flags_ovf_of_addends_gt isInt hcount⟩

end Sys2Proof.Machine
end

section
/-! PROOF. The line coder (R361 to R363): the fields of an element, of its code and of a coded line, decoding as the inverse of coding, and
the lines of a PACK stream. -/
namespace Sys2Proof.Machine

theorem fieldOf_zero_lo (x w : Nat) : fieldOf x 0 w = x % 2 ^ w := by
  simp [fieldOf]

/-- A field that lies above a low part of `k` bits. -/
theorem fieldOf_add_mul_high {a k : Nat} (ha : a < 2 ^ k) (b lo w : Nat) : fieldOf (a + 2 ^ k * b) (k + lo) w = fieldOf b lo w := by
  rw [fieldOf, fieldOf, Nat.pow_add, ← Nat.div_div_eq_div_mul, Nat.add_mul_div_left _ _ (Nat.two_pow_pos k), Nat.div_eq_of_lt ha,
    Nat.zero_add]

theorem fieldOf_add_mul_same {a k : Nat} (ha : a < 2 ^ k) (b w : Nat) : fieldOf (a + 2 ^ k * b) k w = b % 2 ^ w :=
  (fieldOf_add_mul_high ha b 0 w).trans (fieldOf_zero_lo b w)

/-- A field that lies inside a low part of `k` bits. -/
theorem fieldOf_add_mul_low (a b : Nat) {k lo w : Nat} (hk : lo + w ≤ k) : fieldOf (a + 2 ^ k * b) lo w = fieldOf a lo w := by
  obtain ⟨j, rfl⟩ := Nat.exists_eq_add_of_le hk
  rw [fieldOf, fieldOf, Nat.add_assoc, Nat.pow_add, Nat.mul_assoc, Nat.add_mul_div_left _ _ (Nat.two_pow_pos lo), Nat.pow_add,
    Nat.mul_assoc, Nat.add_mul_mod_self_left]

theorem fieldOf_fieldOf (x lo : Nat) {w lo' w' : Nat} (hw : lo' + w' ≤ w) :
    fieldOf (fieldOf x lo w) lo' w' = fieldOf x (lo + lo') w' := by
  refine Nat.eq_of_testBit_eq fun i => ?_
  simp only [fieldOf_testBit, Nat.add_assoc]
  by_cases hi : i < w'
  · simp [show lo' + i < w by omega]
  · simp [hi]

theorem natBytes_take {k n : Nat} (hk : k ≤ n) (v : Nat) : (natBytes n v).take k = natBytes k v := by
  induction k generalizing n v with
  | zero => rfl
  | succ k ih =>
    obtain ⟨n, rfl⟩ := Nat.exists_eq_add_of_le' (Nat.zero_lt_of_lt hk)
    simp [natBytes, ih (Nat.le_of_succ_le_succ hk)]

theorem le_ceilDiv_mul (n : Nat) : n ≤ ceilDiv n 128 * 128 := by
  unfold ceilDiv
  omega

/-! ### Sign, middle field and mantissa: the shape of an element (R361) and of its code (R362) -/

/-- A sign bit above a field `y` of `d` bits above a field `z` of `m` bits. -/
def joinFields (m d s y z : Nat) : Nat := s * 2 ^ (m + d) + y * 2 ^ m + z

theorem joinFields_eq (m d s y z : Nat) : joinFields m d s y z = z + 2 ^ m * (y + 2 ^ d * s) := by
  rw [joinFields, Nat.pow_add]
  ring

section
variable {m d s y z : Nat} (hz : z < 2 ^ m)
include hz

theorem joinFields_mod : joinFields m d s y z % 2 ^ m = z := by
  rw [joinFields_eq, Nat.add_mul_mod_self_left, Nat.mod_eq_of_lt hz]

theorem fieldOf_joinFields_middle (hy : y < 2 ^ d) : fieldOf (joinFields m d s y z) m d = y := by
  rw [joinFields_eq, fieldOf_add_mul_same hz, Nat.add_mul_mod_self_left, Nat.mod_eq_of_lt hy]

theorem fieldOf_joinFields_sign (hy : y < 2 ^ d) (hs : s < 2) : fieldOf (joinFields m d s y z) (m + d) 1 = s := by
  rw [joinFields_eq, fieldOf_add_mul_high hz, fieldOf_add_mul_same hy, Nat.pow_one, Nat.mod_eq_of_lt hs]

theorem joinFields_lt (hy : y < 2 ^ d) (hs : s < 2) : joinFields m d s y z < 2 ^ (1 + m + d) := by
  have hbits : 1 + m + d = m + (d + 1) := by omega
  rw [joinFields_eq, hbits, Nat.pow_add, Nat.pow_succ]
  exact Nat.add_mul_lt_mul_of_lt_of_lt hz (Nat.add_mul_lt_mul_of_lt_of_lt hy hs)

end

theorem joinFields_fieldOf {m d x : Nat} (hx : x < 2 ^ (1 + m + d)) :
    joinFields m d (fieldOf x (m + d) 1) (fieldOf x m d) (x % 2 ^ m) = x := by
  have hsign : fieldOf x (m + d) 1 = x / 2 ^ m / 2 ^ d := by
    rw [Nat.div_div_eq_div_mul, ← Nat.pow_add]
    exact Nat.mod_eq_of_lt (Nat.div_lt_of_lt_mul (by rwa [← Nat.pow_add, Nat.add_comm, ← Nat.add_assoc]))
  rw [joinFields_eq, hsign, fieldOf, Nat.mod_add_div, Nat.mod_add_div]

/-! ### Base, spread and delta width -/

/-- What the compression formats of R361 have in common: an element is a sign, an exponent and a mantissa, and elements fill a line. -/
structure CodeFmt.IsLayout (f : CodeFmt) : Prop where
  width : f.w = 1 + f.m + f.e
  exp_le : f.e ≤ 8
  fills : f.w * (512 / f.w) = 512

theorem codeFmt_isLayout {c : Nat} {f : CodeFmt} (hc : codeFmt c = some f) : f.IsLayout := by
  unfold codeFmt at hc
  split at hc
  case h_6 => cases hc
  all_goals
    cases hc
    exact ⟨rfl, by decide, rfl⟩

theorem CodeFmt.exp_lt (f : CodeFmt) (x : Nat) : f.exp x < 2 ^ f.e := fieldOf_lt x f.m f.e

theorem CodeFmt.IsLayout.two_pow_exp_le {f : CodeFmt} (hf : f.IsLayout) : 2 ^ f.e ≤ 256 :=
  Nat.pow_le_pow_right two_pos hf.exp_le

/-- The base is the least of the exponent fields and of the largest exponent field there can be. -/
theorem codeBase_isLeast (f : CodeFmt) (xs : List Nat) :
    codeBase f xs ∈ (2 ^ f.e - 1) :: xs.map f.exp ∧ ∀ y ∈ (2 ^ f.e - 1) :: xs.map f.exp, codeBase f xs ≤ y := by
  rw [← List.min?_eq_some_iff, List.min?_cons', List.foldl_map]
  rfl

/-- The spread is the greatest of 0 and the differences from the base. -/
theorem codeSpread_isGreatest (f : CodeFmt) (xs : List Nat) :
    codeSpread f xs ∈ 0 :: xs.map (f.exp · - codeBase f xs) ∧
      ∀ y ∈ 0 :: xs.map (f.exp · - codeBase f xs), y ≤ codeSpread f xs := by
  rw [← List.max?_eq_some_iff, List.max?_cons', List.foldl_map]
  rfl

theorem codeBase_le_exp {f : CodeFmt} {xs : List Nat} {x : Nat} (hx : x ∈ xs) : codeBase f xs ≤ f.exp x :=
  (codeBase_isLeast f xs).2 _ (List.mem_cons_of_mem _ (List.mem_map_of_mem hx))

theorem exp_sub_codeBase_le {f : CodeFmt} {xs : List Nat} {x : Nat} (hx : x ∈ xs) : f.exp x - codeBase f xs ≤ codeSpread f xs :=
  (codeSpread_isGreatest f xs).2 _ (List.mem_cons_of_mem _ (List.mem_map_of_mem hx))

theorem codeBase_lt (f : CodeFmt) (xs : List Nat) : codeBase f xs < 2 ^ f.e :=
  ((codeBase_isLeast f xs).2 _ List.mem_cons_self).trans_lt (Nat.sub_one_lt_of_lt (Nat.two_pow_pos f.e))

/-- Elements whose exponent fields are all the largest there can be have that one as their base. -/
theorem exists_exp_eq_codeBase (f : CodeFmt) {xs : List Nat} (hxs : xs ≠ []) : ∃ x ∈ xs, f.exp x = codeBase f xs := by
  rcases List.mem_cons.mp (codeBase_isLeast f xs).1 with htop | hmem
  · obtain ⟨x, hx⟩ := List.exists_mem_of_ne_nil xs hxs
    refine ⟨x, hx, le_antisymm ?_ (codeBase_le_exp hx)⟩
    rw [htop]
    exact Nat.le_sub_one_of_lt (f.exp_lt x)
  · exact List.mem_map.mp hmem

theorem codeSpread_lt (f : CodeFmt) (xs : List Nat) : codeSpread f xs < 2 ^ f.e := by
  rcases List.mem_cons.mp (codeSpread_isGreatest f xs).1 with hzero | hmem
  · rw [hzero]
    exact Nat.two_pow_pos f.e
  · obtain ⟨x, -, hx⟩ := List.mem_map.mp hmem
    rw [← hx]
    exact (Nat.sub_le _ _).trans_lt (f.exp_lt x)

/-- R363: a spread of 8 bits has a delta width, which holds it. -/
theorem deltaWidth_spec {spread : Nat} (hspread : spread < 256) : deltaWidth spread ≤ 8 ∧ spread < 2 ^ deltaWidth spread := by
  unfold deltaWidth
  cases hfind : (rangeFrom 0 9).find? (fun w => decide (spread < 2 ^ w)) with
  | none => exact ⟨le_rfl, hspread⟩
  | some w =>
    have hmem := (mem_rangeFrom _ _ _).mp (List.mem_of_find?_eq_some hfind)
    have hholds := List.find?_some hfind
    exact ⟨Nat.le_of_lt_succ hmem.2, of_decide_eq_true hholds⟩

/-! ### Elements and their codes -/

/-- An element whose difference from the base fits the delta width. -/
structure CodeFmt.Codes (f : CodeFmt) (base dw x : Nat) : Prop where
  lt_width : x < 2 ^ f.w
  base_le : base ≤ f.exp x
  delta_lt : f.exp x - base < 2 ^ dw

theorem codeElement_eq_joinFields (f : CodeFmt) (base dw x : Nat) :
    codeElement f base dw x = joinFields f.m dw (fieldOf x (f.w - 1) 1) (f.exp x - base) (x % 2 ^ f.m) := rfl

theorem mantissa_codeElement (f : CodeFmt) (base dw x : Nat) : codeElement f base dw x % 2 ^ f.m = x % 2 ^ f.m :=
  joinFields_mod (Nat.mod_lt _ (Nat.two_pow_pos _))

section
variable {f : CodeFmt} {base dw x : Nat} (hx : f.Codes base dw x)
include hx

theorem CodeFmt.Codes.codeElement_lt : codeElement f base dw x < 2 ^ (1 + f.m + dw) :=
  joinFields_lt (Nat.mod_lt _ (Nat.two_pow_pos _)) hx.delta_lt (fieldOf_lt _ _ 1)

theorem CodeFmt.Codes.delta_codeElement : fieldOf (codeElement f base dw x) f.m dw = f.exp x - base :=
  fieldOf_joinFields_middle (Nat.mod_lt _ (Nat.two_pow_pos _)) hx.delta_lt

theorem CodeFmt.Codes.sign_codeElement : fieldOf (codeElement f base dw x) (f.m + dw) 1 = fieldOf x (f.w - 1) 1 :=
  fieldOf_joinFields_sign (Nat.mod_lt _ (Nat.two_pow_pos _)) hx.delta_lt (fieldOf_lt _ _ 1)

/-- R362: the code of an element decodes to the element. -/
theorem CodeFmt.Codes.decodeElement_codeElement (hf : f.IsLayout) :
    decodeElement f base dw (codeElement f base dw x) = x := by
  have hsign : f.w - 1 = f.m + f.e := by rw [hf.width, Nat.add_assoc, Nat.add_sub_cancel_left]
  rw [decodeElement, hx.sign_codeElement, hx.delta_codeElement, mantissa_codeElement, Nat.add_sub_cancel' hx.base_le, hsign]
  exact joinFields_fieldOf (hf.width ▸ hx.lt_width)

/-- The code with the sign read off as the top bit of the element, as R362 writes it. -/
theorem CodeFmt.Codes.codeElement_eq (hf : f.IsLayout) : codeElement f base dw x =
    (x / 2 ^ (f.w - 1)) * 2 ^ (f.m + dw) + (f.exp x - base) * 2 ^ f.m + x % 2 ^ f.m := by
  have htop : x / 2 ^ (f.w - 1) < 2 ^ 1 := by
    refine Nat.div_lt_of_lt_mul ?_
    rw [← Nat.pow_add, Nat.sub_add_cancel (by rw [hf.width]; omega)]
    exact hx.lt_width
  rw [codeElement, fieldOf, Nat.mod_eq_of_lt htop]

end

section
variable {f : CodeFmt} {base dw : Nat} {xs : List Nat}

theorem codeStream_lt (hxs : ∀ x ∈ xs, f.Codes base dw x) : codeStream f base dw xs < 2 ^ (xs.length * (1 + f.m + dw)) := by
  induction xs with
  | nil => exact Nat.two_pow_pos _
  | cons x xs ih =>
    obtain ⟨hx, hxs⟩ := List.forall_mem_cons.mp hxs
    rw [codeStream, List.length_cons, Nat.add_mul, Nat.one_mul, Nat.add_comm (xs.length * _),
      Nat.pow_add _ _ (xs.length * _)]
    exact Nat.add_mul_lt_mul_of_lt_of_lt hx.codeElement_lt (ih hxs)

/-- R362: code `i` stands in the bits of its place in the stream. -/
theorem fieldOf_codeStream (hxs : ∀ x ∈ xs, f.Codes base dw x) {i x : Nat} (hi : xs[i]? = some x) :
    fieldOf (codeStream f base dw xs) (i * (1 + f.m + dw)) (1 + f.m + dw) = codeElement f base dw x := by
  induction xs generalizing i with
  | nil => cases hi
  | cons y ys ih =>
    obtain ⟨hy, hys⟩ := List.forall_mem_cons.mp hxs
    cases i with
    | zero =>
      cases hi
      rw [codeStream, Nat.zero_mul, fieldOf_add_mul_low _ _ (Nat.zero_add _).le, fieldOf_zero_lo, Nat.mod_eq_of_lt hy.codeElement_lt]
    | succ i =>
      rw [codeStream, Nat.add_mul, Nat.one_mul, Nat.add_comm (i * _), fieldOf_add_mul_high hy.codeElement_lt]
      exact ih hys hi

theorem decodeStream_codeStream (hf : f.IsLayout) (hxs : ∀ x ∈ xs, f.Codes base dw x) :
    decodeStream f base dw xs.length (codeStream f base dw xs) = xs := by
  induction xs with
  | nil => rfl
  | cons x xs ih =>
    obtain ⟨hx, hxs⟩ := List.forall_mem_cons.mp hxs
    have hlt := hx.codeElement_lt
    rw [List.length_cons, decodeStream, codeStream, Nat.add_mul_mod_self_left, Nat.mod_eq_of_lt hlt,
      Nat.add_mul_div_left _ _ (Nat.two_pow_pos _), Nat.div_eq_of_lt hlt, Nat.zero_add, hx.decodeElement_codeElement hf, ih hxs]

end

/-! ### The elements of a line -/

@[simp] theorem lineElements_length (f : CodeFmt) (line : List Byte) : (lineElements f line).length = 512 / f.w := by
  simp [lineElements]

theorem CodeFmt.IsLayout.lineElements_ne_nil {f : CodeFmt} (hf : f.IsLayout) (line : List Byte) : lineElements f line ≠ [] := by
  refine List.ne_nil_of_length_pos ?_
  rw [lineElements_length]
  refine Nat.pos_of_ne_zero fun hzero => ?_
  have hfills := hf.fills
  rw [hzero] at hfills
  cases hfills

/-- Consecutive fields of a number, packed, are the bits they were taken from. -/
theorem packElements_fields (w v a n : Nat) :
    packElements w ((rangeFrom a n).map (fun i => fieldOf v (w * i) w)) = fieldOf v (w * a) (w * n) := by
  induction n generalizing a with
  | zero => exact (Nat.mod_one _).symm
  | succ n ih =>
    have hnext : v / 2 ^ (w * (a + 1)) = v / 2 ^ (w * a) / 2 ^ w := by
      rw [Nat.div_div_eq_div_mul, ← Nat.pow_add, Nat.mul_succ]
    rw [rangeFrom, List.map_cons, packElements, ih, fieldOf, fieldOf, fieldOf, Nat.mod_mod, hnext, Nat.mul_succ, Nat.add_comm (w * n),
      Nat.pow_add, Nat.mod_mul]

theorem natBytes_packElements_lineElements {f : CodeFmt} (hf : f.IsLayout) {line : List Byte} (hline : line.length = 64) :
    natBytes 64 (packElements f.w (lineElements f line)) = line := by
  have hbits : f.w * (512 / f.w) = 8 * line.length := by rw [hf.fills, hline]
  rw [lineElements, packElements_fields, hbits, Nat.mul_zero, fieldOf_zero_lo, Nat.mod_eq_of_lt (bytesNat_lt line), ← hline,
    natBytes_bytesNat]

/-- A delta width that holds the spread of a line codes each of its elements. -/
theorem lineElements_codes {f : CodeFmt} {dw : Nat} {line : List Byte} (hspread : codeSpread f (lineElements f line) < 2 ^ dw) :
    ∀ x ∈ lineElements f line, f.Codes (codeBase f (lineElements f line)) dw x := by
  intro x hx
  refine ⟨?_, codeBase_le_exp hx, (exp_sub_codeBase_le hx).trans_lt hspread⟩
  obtain ⟨i, -, rfl⟩ := List.mem_map.mp hx
  exact fieldOf_lt _ _ _

/-! ### The coded line -/

/-- The number a coded line spells: header and code stream (R362). -/
def codedNumber (dw base stream : Nat) : Nat := dw + base * 16 + 2 ^ 16 * stream

/-- The number that a line coded with delta width `dw` spells. -/
abbrev lineNumber (f : CodeFmt) (dw : Nat) (line : List Byte) : Nat :=
  codedNumber dw (codeBase f (lineElements f line)) (codeStream f (codeBase f (lineElements f line)) dw (lineElements f line))

theorem codeLine_eq_natBytes (f : CodeFmt) (dw : Nat) (line : List Byte) :
    codeLine f dw line = natBytes (ceilDiv (codedBits f dw) 128 * 16) (lineNumber f dw line) := rfl

@[simp] theorem codeLine_length (f : CodeFmt) (dw : Nat) (line : List Byte) :
    (codeLine f dw line).length = ceilDiv (codedBits f dw) 128 * 16 :=
  natBytes_length _ _

section
variable {dw base : Nat} (stream : Nat) (hdw : dw ≤ 8) (hbase : base < 256)

include hdw in
theorem codedNumber_mod_16 : codedNumber dw base stream % 16 = dw := by
  unfold codedNumber
  omega

include hdw hbase in
theorem codedNumber_base : fieldOf (codedNumber dw base stream) 4 8 = base := by
  unfold codedNumber fieldOf
  omega

include hdw hbase in
theorem codedNumber_zeros : fieldOf (codedNumber dw base stream) 12 4 = 0 := by
  unfold codedNumber fieldOf
  omega

include hdw hbase in
theorem codedNumber_div : codedNumber dw base stream / 2 ^ 16 = stream := by
  unfold codedNumber
  omega

include hdw hbase in
theorem codedNumber_mod : codedNumber dw base stream % 2 ^ 16 = codedNumber dw base 0 := by
  unfold codedNumber
  omega

include hdw hbase in
theorem fieldOf_codedNumber (lo w : Nat) : fieldOf (codedNumber dw base stream) (16 + lo) w = fieldOf stream lo w :=
  fieldOf_add_mul_high (by omega) _ _ _

include hdw hbase in
theorem codedNumber_lt {stream n : Nat} (hstream : stream < 2 ^ n) : codedNumber dw base stream < 2 ^ (16 + n) := by
  rw [Nat.pow_add]
  exact Nat.add_mul_lt_mul_of_lt_of_lt (by omega) hstream

end

section
variable {f : CodeFmt} {dw : Nat} {line : List Byte} (hf : f.IsLayout) (hdw : dw ≤ 8)
  (hspread : codeSpread f (lineElements f line) < 2 ^ dw)

include hf in
theorem CodeFmt.IsLayout.codeBase_lt_256 (xs : List Nat) : codeBase f xs < 256 :=
  (codeBase_lt f xs).trans_le hf.two_pow_exp_le

include hf hdw hspread

theorem lineNumber_lt : lineNumber f dw line < 2 ^ codedBits f dw := by
  have hstream := codeStream_lt (lineElements_codes hspread)
  rw [lineElements_length] at hstream
  exact codedNumber_lt hdw (hf.codeBase_lt_256 _) hstream

/-- The chunks of a coded line hold all its bits, and zeros above them. -/
theorem bytesNat_codeLine : bytesNat (codeLine f dw line) = lineNumber f dw line := by
  have hroom : codedBits f dw ≤ 8 * (ceilDiv (codedBits f dw) 128 * 16) := by
    have hceil := le_ceilDiv_mul (codedBits f dw)
    omega
  rw [codeLine_eq_natBytes, bytesNat_natBytes]
  exact Nat.mod_eq_of_lt ((lineNumber_lt hf hdw hspread).trans_le (Nat.pow_le_pow_right two_pos hroom))

theorem fieldOf_codeLine {i x : Nat} (hi : (lineElements f line)[i]? = some x) :
    fieldOf (bytesNat (codeLine f dw line)) (16 + i * (1 + f.m + dw)) (1 + f.m + dw) =
      codeElement f (codeBase f (lineElements f line)) dw x := by
  rw [bytesNat_codeLine hf hdw hspread, fieldOf_codedNumber _ hdw (hf.codeBase_lt_256 _)]
  exact fieldOf_codeStream (lineElements_codes hspread) hi

/-- No delta of a coded line takes an exponent field out of its range, so decoding refuses none. -/
theorem codeLine_deltas_in_range :
    ((rangeFrom 0 (512 / f.w)).map
      (fun i => fieldOf (bytesNat (codeLine f dw line)) (16 + i * (1 + f.m + dw) + f.m) dw)).any
      (fun x => decide (2 ^ f.e ≤ codeBase f (lineElements f line) + x)) = false := by
  rw [List.any_map, List.any_eq_false]
  intro i hi
  obtain ⟨-, hlt⟩ := (mem_rangeFrom _ _ _).mp hi
  rw [Nat.zero_add, ← lineElements_length f line] at hlt
  have hget := List.getElem?_eq_getElem hlt
  have hcodes := lineElements_codes hspread _ (List.mem_of_getElem? hget)
  have hdelta := hcodes.delta_codeElement
  rw [← fieldOf_codeLine hf hdw hspread hget, fieldOf_fieldOf _ _ (by omega)] at hdelta
  rw [Function.comp_apply, hdelta, Nat.add_sub_cancel' hcodes.base_le, decide_eq_true_iff, Nat.not_le]
  exact f.exp_lt _

/-- R362: decoding reverses the code exactly. -/
theorem decodeCoded_codeLine (hline : line.length = 64) : decodeCoded f (codeLine f dw line) = some line := by
  have hbase := hf.codeBase_lt_256 (lineElements f line)
  have hvalue := bytesNat_codeLine hf hdw hspread
  have hdeltas := codeLine_deltas_in_range hf hdw hspread
  have hstream := decodeStream_codeStream hf (lineElements_codes hspread)
  rw [lineElements_length] at hstream
  rw [hvalue] at hdeltas
  simp only [decodeCoded, hvalue, codedNumber_mod_16 _ hdw, codedNumber_base _ hdw hbase, codedNumber_zeros _ hdw hbase,
    codedNumber_div _ hdw hbase, codeLine_length, hdeltas, hstream, natBytes_packElements_lineElements hf hline]
  simp [hdw]

end

/-! ### The lines of a PACK stream -/

theorem packFmt_isLayout {c : Nat} {f : CodeFmt} (hc : packFmt c = some f) : f.IsLayout := by
  unfold packFmt at hc
  split at hc
  case h_6 => cases hc
  all_goals exact codeFmt_isLayout hc

theorem packWidth_le (c : Nat) : packWidth c ≤ 8 := by
  unfold packWidth
  split <;> decide

/-- R307, R363: a line of a PACK stream of a format with a code is coded, at a width that holds its spread and that FIXED fixes. -/
theorem packLine_eq_codeLine {c : Nat} {fixed : Bool} {f : CodeFmt} {line coded : List Byte} (hc : packFmt c = some f)
    (hpack : packLine c fixed line = some coded) :
    ∃ dw ≤ 8, codeSpread f (lineElements f line) < 2 ^ dw ∧ (fixed = true → dw = packWidth c) ∧ coded = codeLine f dw line := by
  obtain ⟨hle, hholds⟩ := deltaWidth_spec ((codeSpread_lt f (lineElements f line)).trans_le (packFmt_isLayout hc).two_pow_exp_le)
  simp only [packLine, hc] at hpack
  cases fixed with
  | false =>
    cases hpack
    exact ⟨_, hle, hholds, nofun, rfl⟩
  | true =>
    obtain ⟨hfits, hcoded⟩ := Option.ite_none_right_eq_some.mp hpack
    cases hcoded
    exact ⟨_, packWidth_le c, hholds.trans_le (Nat.pow_le_pow_right two_pos hfits), fun _ => rfl, rfl⟩

/-- R362: the first two bytes of a coded line are its header, whatever follows the line. -/
theorem bytesNat_take_codeLine {f : CodeFmt} (hf : f.IsLayout) {dw : Nat} (hdw : dw ≤ 8) (line rest : List Byte) :
    bytesNat ((codeLine f dw line ++ rest).take 2) = codedNumber dw (codeBase f (lineElements f line)) 0 := by
  have hlong : 2 ≤ ceilDiv (codedBits f dw) 128 * 16 := by
    have hceil := le_ceilDiv_mul (codedBits f dw)
    have hheader : 16 ≤ codedBits f dw := Nat.le_add_right _ _
    omega
  rw [List.take_append_of_le_length (by rwa [codeLine_length]), codeLine_eq_natBytes, natBytes_take hlong, bytesNat_natBytes]
  exact codedNumber_mod _ hdw (hf.codeBase_lt_256 _)

theorem codedLength_codeLine {c : Nat} {fixed : Bool} {f : CodeFmt} {dw : Nat} (hc : packFmt c = some f) (hdw : dw ≤ 8)
    (hfixed : fixed = true → dw = packWidth c) (line rest : List Byte) :
    codedLength c fixed (codeLine f dw line ++ rest) = some (codeLine f dw line).length := by
  have hf := packFmt_isLayout hc
  have hbase := hf.codeBase_lt_256 (lineElements f line)
  simp only [codedLength, hc, bytesNat_take_codeLine hf hdw, codedNumber_mod_16 _ hdw, codedNumber_zeros _ hdw hbase, codeLine_length]
  simpa [hdw] using hfixed

/-- R307, R308: a line of a PACK stream is read back, and its header tells where the next one begins. -/
theorem unpackLine_packLine {c : Nat} {fixed : Bool} {line coded : List Byte} (hline : line.length = 64)
    (hpack : packLine c fixed line = some coded) (rest : List Byte) :
    unpackLine c coded = some line ∧ codedLength c fixed (coded ++ rest) = some coded.length := by
  cases hc : packFmt c with
  | none =>
    simp only [packLine, hc] at hpack
    cases hpack
    simp [unpackLine, codedLength, hc, hline]
  | some f =>
    obtain ⟨dw, hdw, hspread, hfixed, rfl⟩ := packLine_eq_codeLine hc hpack
    refine ⟨?_, codedLength_codeLine hc hdw hfixed line rest⟩
    simp only [unpackLine, hc]
    exact decodeCoded_codeLine (packFmt_isLayout hc) hdw hspread hline

/-- Settles O28: a coded line spells its header and its code stream, whose fields are read one by one; decoding inverts the code of each
element, and a PACK stream holds such lines or plain ones. -/
theorem lineCoderExact : Obligations.LineCoderExact := by
  unfold Obligations.LineCoderExact
  refine ⟨?codedLine, ?packStream⟩
  case codedLine =>
    rintro c dw f line hc hline hdw hspread xs base b v rfl rfl rfl rfl
    have hf := codeFmt_isLayout hc
    have hbase := hf.codeBase_lt_256 (lineElements f line)
    have hvalue := bytesNat_codeLine hf hdw hspread
    refine ⟨fun x => codeBase_le_exp, exists_exp_eq_codeBase f (hf.lineElements_ne_nil line), ?length, ?padding, ?width, ?base, ?zeros,
      ?codes, decodeCoded_codeLine hf hdw hspread hline⟩
    case length => exact (codeLine_length f dw line).trans (Nat.mul_comm _ _)
    case padding => exact hvalue ▸ lineNumber_lt hf hdw hspread
    case width => rw [hvalue, fieldOf_zero_lo]; exact codedNumber_mod_16 _ hdw
    case base => rw [hvalue]; exact codedNumber_base _ hdw hbase
    case zeros => rw [hvalue]; exact codedNumber_zeros _ hdw hbase
    case codes =>
      intro i x hi
      rw [fieldOf_codeLine hf hdw hspread hi]
      exact (lineElements_codes hspread x (List.mem_of_getElem? hi)).codeElement_eq hf
  case packStream => exact fun c fixed line coded rest hline hpack => unpackLine_packLine hline hpack rest

end Sys2Proof.Machine
end

section
/-! PROOF. The GRT header (R385): where its bytes hold each field, and what a header read from them is. Every field comes back but a
reserved STATUS, which is POISON from its receipt (R18). -/
namespace Sys2Proof.Machine

/-- Each field of a header fits the width R385 gives it. -/
structure GHead.InWidths (h : GHead) : Prop where
  op : h.op < 256
  flags : h.flags < 256
  status : h.status < 32
  nak : h.nak < 8
  dst : h.dst < 2 ^ 20
  src : h.src < 2 ^ 20
  psn : h.psn < 2 ^ 24
  offset : h.offset < 2 ^ 52
  length : h.length < 2 ^ 32
  reg : h.reg < 2 ^ 24
  repoch : h.repoch < 65536
  ctr : h.ctr < 65536
  ctrKind : h.ctrKind < 4

/-- The table of R385: a byte list that begins with the header `h`. -/
structure GHead.LaidOut (h : GHead) (bs : List Byte) : Prop where
  version : fieldBytes bs 0 1 = 1
  op : fieldBytes bs 1 1 = h.op
  flags : fieldBytes bs 2 1 = h.flags
  statusNak : fieldBytes bs 3 1 = h.status + h.nak * 2 ^ 5
  dst : fieldBytes bs 4 4 = h.dst
  src : fieldBytes bs 8 4 = h.src
  psn : fieldBytes bs 12 4 = h.psn
  offset : fieldBytes bs 16 8 = h.offset
  length : fieldBytes bs 24 4 = h.length
  reg : fieldBytes bs 28 4 = h.reg
  repoch : fieldBytes bs 32 2 = h.repoch
  ctr : fieldBytes bs 34 2 = h.ctr
  ctrKind : fieldBytes bs 36 1 = h.ctrKind
  zeros : fieldBytes bs 37 3 = 0

/-- The header a receiver takes `h` for: a reserved STATUS counts as POISON (R18). -/
def GHead.received (h : GHead) : GHead := { h with status := gStatus h.status }

@[simp] theorem GHead.bytes_length (h : GHead) : h.bytes.length = 40 := by
  simp [GHead.bytes]

/-- A field is read by skipping the fields before it; its width holds its value. -/
theorem GHead.InWidths.laidOut {h : GHead} (fits : h.InWidths) (payload : List Byte) : h.LaidOut (h.bytes ++ payload) := by
  obtain ⟨hop, hflags, hstatus, hnak, hdst, hsrc, hpsn, hoffset, hlength, hreg, hrepoch, hctr, hctrKind⟩ := fits
  constructor <;> simp [GHead.bytes, fieldBytes_append, fieldBytes_front] <;> omega

theorem gStatus_eq_self_iff (b : Nat) : gStatus b = b ↔ b ≤ 0x0A := by
  unfold gStatus
  split <;> omega

/-- STATUS is read from the low five bits of its byte, whatever NAK_KIND stands above them. -/
theorem gStatus_add_nak (status nak : Nat) : gStatus (status + nak * 2 ^ 5) = gStatus status := by
  simp [gStatus]

theorem GHead.LaidOut.gHead_eq {h : GHead} {bs : List Byte} (laid : h.LaidOut bs) (fits : h.InWidths) : gHead bs = h.received := by
  have hnak : (h.status + h.nak * 2 ^ 5) / 32 = h.nak := by
    have hstatus := fits.status
    omega
  simp only [gHead, GHead.received, laid.op, laid.flags, laid.statusNak, laid.dst, laid.src, laid.psn, laid.offset, laid.length, laid.reg,
    laid.repoch, laid.ctr, laid.ctrKind, gStatus_add_nak, hnak, Nat.mod_eq_of_lt fits.dst, Nat.mod_eq_of_lt fits.src,
    Nat.mod_eq_of_lt fits.psn, Nat.mod_eq_of_lt fits.offset, Nat.mod_eq_of_lt fits.reg, Nat.mod_eq_of_lt fits.ctrKind]

theorem gHead_bytes_append {h : GHead} (fits : h.InWidths) (payload : List Byte) : gHead (h.bytes ++ payload) = h.received :=
  (fits.laidOut payload).gHead_eq fits

/-- A header reads back as itself exactly when its STATUS is one that R17 defines. -/
theorem gHead_bytes_append_eq_self_iff {h : GHead} (fits : h.InWidths) (payload : List Byte) :
    gHead (h.bytes ++ payload) = h ↔ h.status ≤ 0x0A := by
  rw [gHead_bytes_append fits, ← gStatus_eq_self_iff]
  exact ⟨congrArg GHead.status, congrArg fun status => { h with status }⟩

/-- A READ_RESP whose STATUS is 0x0B, the first reserved value of R18. -/
def reservedStatusHead : GHead :=
  { op := 3, flags := 3, status := 0x0B, nak := 0, dst := 1, src := 2, psn := 5, offset := 0, length := 0, reg := 4, repoch := 0, ctr := 0,
    ctrKind := 0 }

theorem reservedStatusHead_inWidths : reservedStatusHead.InWidths := by
  constructor <;> decide

/-- Refutes O36 at a header with STATUS 0x0B, which its five bits can hold: the part reads it as POISON (R18), so it does not read back. The
layout of R385 holds for every header within its widths (`GHead.bytes_length`, `GHead.InWidths.laidOut`). -/
theorem not_grtHeaderExact : ¬ Obligations.GrtHeaderExact := by
  unfold Obligations.GrtHeaderExact
  intro hexact
  have fits := reservedStatusHead_inWidths
  obtain ⟨-, -, -, -, -, -, -, -, -, -, -, -, -, -, -, hread⟩ := hexact reservedStatusHead fits.op fits.flags fits.status fits.nak fits.dst
    fits.src fits.psn fits.offset fits.length fits.reg fits.repoch fits.ctr fits.ctrKind reservedStatusHead.bytes rfl
  have hdefined : reservedStatusHead.status ≤ 0x0A := (gHead_bytes_append_eq_self_iff fits []).mp (hread [])
  exact absurd hdefined (by decide)

end Sys2Proof.Machine
end

section
/-! PROOF. What a row's command comes to, from what its meaning does to the part: the row's arm of `exec` is `act`, a write through
BAR0, or a ring command at its start. -/
namespace Sys2Proof.Machine

/-- A command that acts on the part settles what its meaning makes of the part at its time. -/
theorem settles_act {c : Instr} {s : State} {t : Nat} {d e : Dev} (f : Dev → Dev) (hat : s.dev.at t = d) (hf : f d = e)
    (harm : exec c s = act s t f := by rfl) : Settles c s e := by
  rw [Settles, harm, act_next, hat, hf]

/-- So does a write of a register of PF0, once the host reaches the part. -/
theorem settles_bar {c : Instr} {s : State} {t : Nat} {d e : Dev} (f : Dev → Dev) (hat : s.dev.at t = d) (hup : d.pcieUp = true)
    (hf : f d = e) (harm : exec c s = act s t (fun d => d.viaBar f) := by rfl) : Settles c s e :=
  settles_act (fun d => d.viaBar f) hat ((d.viaBar_up f hup).trans hf) harm

/-- So does a ring command that comes to its start. -/
theorem settles_ring {c : Instr} {s : State} {r : RingCmd} {t op : Nat} {d e g : Dev} (f : Dev → Dev) (hat : s.dev.at t = d)
    (hstart : d.Starts r op e) (hf : f e = g) (harm : exec c s = act s t (fun d => d.ringOp r op f) := by rfl) : Settles c s g :=
  settles_act (fun d => d.ringOp r op f) hat ((d.ringOp_starts e r op f hstart).trans hf) harm

end Sys2Proof.Machine
end

section
/-! PROOF. The states of a Glois port (R122 to R126): what raises a port, what takes it down, what a HELLO decides, and the lanes. -/
namespace Sys2Proof.Machine

section
variable {d : Dev} {p : Nat}

/-! ### Training -/

theorem Dev.partnerSignal_of_down (hglois : d.isGlois p = true) (hdown : d.linkState p = 0) (hmay : d.mayRise p = true) :
    d.partnerSignal p = d.enter p 1 := by
  simp [Dev.partnerSignal, hglois, hdown, hmay, stEqualize]

theorem Dev.equalizeDone_of_equalize (hglois : d.isGlois p = true) (hst : d.linkState p = 1) : d.equalizeDone p = d.enter p 2 := by
  simp [Dev.equalizeDone, hglois, hst, stAlign]

theorem Dev.equalizeDone_of_retrain (hglois : d.isGlois p = true) (hst : d.linkState p = 6) :
    d.equalizeDone p = d.onLink p (fun l => { l with trained := true, syncs := 0 }) := by
  simp [Dev.equalizeDone, hglois, hst]

theorem Dev.passed_iff (since n : Nat) : d.passed since n = true ↔ since + n ≤ d.time := by
  simp [Dev.passed]

theorem Dev.equalizeTimeout_due (hst : d.linkState p = 1) (hdue : (d.link p).since + 100_000_000 ≤ d.time) :
    d.equalizeTimeout p = d.fallDown p := by
  simp [Dev.equalizeTimeout, hst, (Dev.passed_iff _ _).mpr hdue]

theorem Dev.alignTimeout_due (hst : d.linkState p = 2) (hdue : (d.link p).since + 1_000_000 ≤ d.time) :
    d.alignTimeout p = d.enter p 1 := by
  simp [Dev.alignTimeout, hst, (Dev.passed_iff _ _).mpr hdue, stEqualize]

theorem Dev.helloTimeout_due (hst : d.linkState p = 3) (hdue : (d.link p).since + 100_000 ≤ d.time) :
    d.helloTimeout p = d.set (Reg.LINK_STAT_HELLO_FAIL p) 1 := by
  simp [Dev.helloTimeout, hst, (Dev.passed_iff _ _).mpr hdue]

theorem Dev.retrainLimit_due (hst : d.linkState p = 6)
    (hdue : (d.link p).since + max 1 (d.get (Reg.LINK_CTL_RETRAIN_LIMIT_MS p)) * 1_000_000 ≤ d.time) :
    d.retrainLimit p = d.fallDown p := by
  simp [Dev.retrainLimit, hst, (Dev.passed_iff _ _).mpr hdue]

theorem Dev.partnerSignalLoss_of_active (hglois : d.isGlois p = true) (hst : d.linkState p = 4) :
    d.partnerSignalLoss p = d.fallDown p := by
  simp [Dev.partnerSignalLoss, hglois, hst]

theorem Dev.linkCtlRetrain_of_active (hglois : d.isGlois p = true) (hst : d.linkState p = 4) :
    d.linkCtlRetrain p = d.goRetrain p := by
  simp [Dev.linkCtlRetrain, hglois, hst]

theorem Dev.linkCtlDisable_off : d.linkCtlDisable p false = d.set (Reg.LINK_CTL_DISABLE p) 0 := by
  simp [Dev.linkCtlDisable]

theorem Dev.linkCtlDisable_on {e : Dev} (he : e = d.set (Reg.LINK_CTL_DISABLE p) 1) (hrole : e.isRole p 2 = false)
    (hst : e.linkState p ≠ 0) : d.linkCtlDisable p true = e.fallDown p := by
  simp [Dev.linkCtlDisable, ← he, hrole, hst]

/-! ### HELLO -/

/-- R124: a HELLO of the right kind and version with a common width `w` sets the credits and makes the port ACTIVE. -/
theorem Dev.takeHello_accepted {bs : List Byte} {w : Nat} {e : Dev} {credits : List (Nat × Nat)}
    (he : e = d.set (Reg.LINK_STAT_PARTNER_VERSION p) (fieldBytes bs 1 1))
    (hcredits : credits = (rangeFrom 0 6).map (fun c => (fieldBytes bs (20 + 4 * c) 2, fieldBytes bs (22 + 4 * c) 2)))
    (hst : d.linkState p = 3) (hversion : fieldBytes bs 1 1 = 3)
    (hkind : (e.isRole p 0 = true ∧ fieldBytes bs 2 1 = 1) ∨ (e.isRole p 1 = true ∧ fieldBytes bs 2 1 = 2))
    (hwidth : commonWidth (e.width p) (lanesOf (e.get (Reg.PORT_CFG_MIN_WIDTH_CODE p))) (fieldBytes bs 3 1) (fieldBytes bs 4 1) = some w) :
    d.takeHello p bs = (((e.set (Reg.LINK_STAT_HELLO_FAIL p) 0).each (rangeFrom 0 6) (fun d c =>
        (d.set (Reg.CREDIT_TX_H p c) (pairAt credits c).1).set (Reg.CREDIT_TX_D p c) (pairAt credits c).2)).onLink p (fun l => { l with
            hbSeen := d.time, helloOk := true, run := w, partnerMin := fieldBytes bs 4 1, credits := credits, base := 0 })).goActive p := by
  have hkindOk : ((e.isRole p 0 && fieldBytes bs 2 1 == 1) || (e.isRole p 1 && fieldBytes bs 2 1 == 2)) = true := by
    simpa using hkind
  have hversionOk : (fieldBytes bs 1 1 == 3) = true := beq_iff_eq.mpr hversion
  subst hcredits
  simp only [Dev.takeHello, hst, ← he, hwidth, hkindOk, hversionOk, bne_self_eq_false, Bool.false_eq_true, if_false,
    Bool.and_self, if_true]

/-- R124: a HELLO of another version sets HELLO_FAIL, whatever else it says. -/
theorem Dev.takeHello_version {bs : List Byte} (hst : d.linkState p = 3) (hversion : fieldBytes bs 1 1 ≠ 3) :
    d.takeHello p bs = (d.set (Reg.LINK_STAT_PARTNER_VERSION p) (fieldBytes bs 1 1)).set (Reg.LINK_STAT_HELLO_FAIL p) 1 := by
  simp only [Dev.takeHello, hst, bne_self_eq_false, Bool.false_eq_true, if_false, beq_eq_false_iff_ne.mpr hversion, Bool.false_and]
  split <;> rfl

/-! ### Lanes -/

theorem Dev.laneCtlGo_starts {lane spare : Nat} (hglois : d.isGlois p = true) (hst : d.linkState p = 4) (hlo : (d.link p).base ≤ lane)
    (hhi : lane < (d.link p).base + (d.link p).run) (hfree : d.spareFree p spare = true) :
    d.laneCtlGo p lane spare = d.startRemap p lane spare false := by
  simp [Dev.laneCtlGo, hglois, hst, hlo, hhi, hfree]

/-- R126: REMAP_ACK of the swap under way. -/
theorem Dev.takeRemapAck_moves {r : Remap} {phys die : Nat} {e f : Dev} (hst : d.linkState p = 5) (hremap : (d.link p).remap = some r)
    (hphys : phys = (d.link p).spares.getD r.spare (128 + r.spare))
    (he : e = (d.set (Reg.LANE_PHYS p r.lane) phys).set (Reg.LANE_ON_SPARE p r.lane) 1)
    (hf : f = (e.bump (Reg.LANE_REMAPS p)).onLink p (fun l => { l with
      remap := none, spareUsed := l.spareUsed ++ [r.spare], faulty := l.faulty.filter (fun x => x != r.lane) }))
    (hdie : die = f.get (Reg.PORT_CFG_IO_DIE p)) :
    d.takeRemapAck p = ((f.useLaneSpare die).logSwap 0 (die * 256 + d.get (Reg.LANE_PHYS p r.lane)) phys).goActive p := by
  subst hphys he hf hdie
  simp only [Dev.takeRemapAck, hst, hremap, beq_self_eq_true]

theorem Dev.goActive_eq (d : Dev) (p : Nat) : d.goActive p =
    let e := (d.enter p 4).onLink p (fun l => { l with trained := false, admitSend := false })
    (if (d.link p).admitSend then e.sendMsg .core p (mgtMsg 3 (e.get (Reg.PORT_FENCE_FENCE_EPOCH p))) 0 else e).swapNext p := rfl

/-- R126: the first lane that runs with a lasting fault gets the spare that is for it. -/
theorem Dev.swapNext_spares {lane i : Nat} (hretry : (d.link p).retry = none)
    (hfaulty : (d.link p).faulty.find? (fun k => decide ((d.link p).base ≤ k) && decide (k < (d.link p).base + (d.link p).run)) = some lane)
    (hspare : d.spareFor p lane = some i) : d.swapNext p = d.startRemap p lane i false := by
  simp only [Dev.swapNext, hretry, hfaulty, hspare]

/-- R43: the eighth spare lane of an I/O die is its last, and no other count is reported. -/
theorem Dev.useLaneSpare_counts {die n : Nat} {e : Dev} (hn : Tab.get 0 d.ras.laneSpares die = n)
    (he : e = ({ d with ras := { d.ras with laneSpares := Tab.put 0 d.ras.laneSpares die (n + 1) } } : Dev).set Reg.CAPS_LANE_SPARES_FREE
      (d.get Reg.CAPS_LANE_SPARES_FREE - 1)) :
    (n ≠ 7 → d.useLaneSpare die = e) ∧ (n = 7 → d.useLaneSpare die = e.sparesGone 0 die) := by
  have hwhen : d.useLaneSpare die = e.when (n + 1 == 8) (fun d => d.sparesGone 0 die) := by
    subst hn he
    rfl
  constructor
  · intro hmore
    simp [hwhen, Dev.when, hmore]
  · intro hlast
    simp [hwhen, Dev.when, hlast]

theorem Dev.remapTimeout_retries {r : Remap} (hst : d.linkState p = 5) (hremap : (d.link p).remap = some r) (hagain : r.again = false)
    (hdue : r.since + 2000 ≤ d.time) :
    d.remapTimeout p = (d.goRetrain p).onLink p (fun l => { l with retry := some (r.lane, r.spare) }) := by
  simp [Dev.remapTimeout, hst, hremap, hagain, Nat.not_lt.mpr hdue]

theorem Dev.laneInterval_event {lane n : Nat} (hglois : d.isGlois p = true) (hmany : d.get Reg.RAS_CTL_LANE_SER_16 * 16 < n) :
    d.laneInterval p lane n = d.temperEvent 0 (d.get (Reg.PORT_CFG_IO_DIE p) * 256 + d.get (Reg.LANE_PHYS p lane)) := by
  simp [Dev.laneInterval, hglois, hmany]

/-! ### Timers of an ACTIVE link -/

theorem Dev.nakResend_due {t0 : Nat} (hnak : (d.link p).nakAt = some t0) (hdue : t0 + 1000 ≤ d.time) :
    d.nakResend p = (d.bump (Reg.NAK_TX p)).onLink p (fun l => { l with nakAt := some d.time, nakDue := true }) := by
  simp [Dev.nakResend, hnak, (Dev.passed_iff _ _).mpr hdue]

theorem Dev.ackLimit_due {t0 : Nat} (hack : (d.link p).ackFrom = some t0)
    (hdue : t0 + clampTo 50 1000 (d.get (Reg.LINK_CTL_ACK_MAX_NS p)) ≤ d.time) :
    d.ackLimit p = d.onLink p (fun l => { l with ackDue := true }) := by
  simp [Dev.ackLimit, hack, (Dev.passed_iff _ _).mpr hdue]

theorem Dev.heartbeatSend_due {n : Nat} (hglois : d.isGlois p = true) (hst : d.linkState p = 4)
    (hdue : (d.link p).hbCount = 0 ∨ (d.link p).hbAt + clampTo 1 1000 (d.get (Reg.LINK_CTL_HB_PERIOD_US p)) * 1000 ≤ d.time)
    (hn : n = ((d.link p).hbCount + 1) % 2 ^ 32) :
    d.heartbeatSend p = (d.onLink p (fun l => { l with hbAt := d.time, hbCount := n })).sendMsg .core p
      (heartbeatMsg n (d.get (Reg.PORT_FENCE_FENCE_EPOCH p))) 0 := by
  have hsend : ((d.link p).hbCount != 0 && !d.passed (d.link p).hbAt (d.hbPeriod p * 1000)) = false := by
    rcases hdue with hfirst | hdue
    · simp [hfirst]
    · simp [(Dev.passed_iff (d := d) _ _).mpr hdue, Dev.hbPeriod]
  subst hn
  simp [Dev.heartbeatSend, hglois, hst, hsend]

end

/-- Settles O1: each training event in its state. -/
theorem trainingRises : Obligations.TrainingRises := by
  unfold Obligations.TrainingRises
  refine ⟨?detect, ?equalized, ?retrained, ?alignTimeout, ?enter⟩
  case detect => exact fun _ p _ _ hat hglois hst hmay => settles_act (fun d => d.partnerSignal p.val) hat (Dev.partnerSignal_of_down hglois hst hmay)
  case equalized => exact fun _ p _ _ hat hglois hst => settles_act (fun d => d.equalizeDone p.val) hat (Dev.equalizeDone_of_equalize hglois hst)
  case retrained => exact fun _ p _ _ hat hglois hst => settles_act (fun d => d.equalizeDone p.val) hat (Dev.equalizeDone_of_retrain hglois hst)
  case alignTimeout => exact fun _ p _ _ hat hst hdue => settles_act (fun d => d.alignTimeout p.val) hat (Dev.alignTimeout_due hst hdue)
  case enter =>
    intro d p st
    rfl

/-- Settles O2: each timer and each register write at its condition. -/
theorem trainingFalls : Obligations.TrainingFalls := by
  unfold Obligations.TrainingFalls
  refine ⟨?equalize, ?hello, ?retrain, ?loss, ?ctlRetrain, ?enable, ?disable⟩
  case equalize => exact fun _ p _ _ hat hst hdue => settles_act (fun d => d.equalizeTimeout p.val) hat (Dev.equalizeTimeout_due hst hdue)
  case hello => exact fun _ p _ _ hat hst hdue => settles_act (fun d => d.helloTimeout p.val) hat (Dev.helloTimeout_due hst hdue)
  case retrain => exact fun _ p _ _ hat hst hdue => settles_act (fun d => d.retrainLimit p.val) hat (Dev.retrainLimit_due hst hdue)
  case loss => exact fun _ p _ _ hat hglois hst => settles_act (fun d => d.partnerSignalLoss p.val) hat (Dev.partnerSignalLoss_of_active hglois hst)
  case ctlRetrain => exact fun _ p _ _ hat hup hglois hst => settles_bar (fun d => d.linkCtlRetrain p.val) hat hup (Dev.linkCtlRetrain_of_active hglois hst)
  case enable => exact fun _ p _ _ hat hup => settles_bar (fun d => d.linkCtlDisable p.val false) hat hup Dev.linkCtlDisable_off
  case disable => exact fun _ p _ _ hat _ he hup hrole hst => settles_bar (fun d => d.linkCtlDisable p.val true) hat hup (Dev.linkCtlDisable_on he hrole hst)

/-- Settles O3: the branch of the common width, and the comparison of the version. -/
theorem helloDecides : Obligations.HelloDecides := by
  unfold Obligations.HelloDecides
  refine ⟨?accepted, ?version⟩
  case accepted =>
    exact fun _ p bs _ _ _ hat _ he _ hcredits hst hversion hkind hwidth =>
      settles_act (fun d => d.takeHello p.val bs) hat (Dev.takeHello_accepted he hcredits hst hversion hkind hwidth)
  case version => exact fun _ p bs _ _ hat hst hversion => settles_act (fun d => d.takeHello p.val bs) hat (Dev.takeHello_version hst hversion)

/-- Settles O4: the swap of a lane from its request to its answer, its further try, and the lanes that follow. -/
theorem lanesSpared : Obligations.LanesSpared := by
  unfold Obligations.LanesSpared
  refine ⟨?go, ?ack, Dev.goActive_eq, ?next, ?spares, ?timeout, ?event⟩
  case go =>
    intro s p lane k t d hat hup hglois hst hlo hhi hfree e he
    refine settles_bar (fun d => d.laneCtlGo p.val lane.val k.val) hat hup ((Dev.laneCtlGo_starts hglois hst hlo hhi hfree).trans ?_)
    subst he
    rfl
  case ack =>
    exact fun _ p _ _ _ hat hst hremap _ hphys _ he _ hf _ hdie =>
      settles_act (fun d => d.takeRemapAck p.val) hat (Dev.takeRemapAck_moves hst hremap hphys he hf hdie)
  case next => exact fun _ _ _ hretry hfaulty _ hspare => Dev.swapNext_spares hretry hfaulty hspare
  case spares => exact fun _ _ _ hn _ he => Dev.useLaneSpare_counts hn he
  case timeout =>
    exact fun _ p _ _ _ hat hst hremap hagain hdue => settles_act (fun d => d.remapTimeout p.val) hat (Dev.remapTimeout_retries hst hremap hagain hdue)
  case event => exact fun _ p lane n _ _ hat hglois hmany => settles_act (fun d => d.laneInterval p.val lane.val n) hat (Dev.laneInterval_event hglois hmany)

/-- Settles O5: each timer of an ACTIVE link when it is due. -/
theorem linkTimersFire : Obligations.LinkTimersFire := by
  unfold Obligations.LinkTimersFire
  refine ⟨?nak, ?ack, ?heartbeat⟩
  case nak => exact fun _ p _ _ _ hat hnak hdue => settles_act (fun d => d.nakResend p.val) hat (Dev.nakResend_due hnak hdue)
  case ack => exact fun _ p _ _ _ hat hack hdue => settles_act (fun d => d.ackLimit p.val) hat (Dev.ackLimit_due hack hdue)
  case heartbeat =>
    exact fun _ p _ _ hat hglois hst hdue _ hn => settles_act (fun d => d.heartbeatSend p.val) hat (Dev.heartbeatSend_due hglois hst hdue hn)

end Sys2Proof.Machine
end

section
/-! PROOF. Flits (R89, R97, R113, R115, R117): what a port in ACTIVE sends, and what a flit that arrives does. -/
namespace Sys2Proof.Machine

section
variable {d : Dev} {p : Nat}

@[simp] theorem Dev.each_nil {α : Type} (d : Dev) (f : Dev → α → Dev) : d.each [] f = d := rfl

/-! ### Sending -/

/-- R113: with no message staged nothing fills a flit, and an IDLE flit goes. -/
theorem Dev.transmit_idle (hglois : d.isGlois p = true) (hst : d.linkState p = 4) (hctrl : (d.link p).ctrl = [])
    (hresend : (d.link p).resend = []) (hstaged : (d.link p).staged = []) :
    d.transmit p = d.emit p (d.outHeader p 0 0 0) [] false := by
  simp [Dev.transmit, hglois, hst, hctrl, hresend, hstaged, sortBy, Dev.fillFlit]

/-- R115: with room in the replay buffer the messages that fit go as one MSG flit. -/
theorem Dev.transmit_msgs {m : Msg} {ms : List Msg} {e : Dev} (hglois : d.isGlois p = true) (hst : d.linkState p = 4)
    (hctrl : (d.link p).ctrl = []) (hresend : (d.link p).resend = []) (hroom : (d.link p).replay.length < 128 * d.width p)
    (hfill : d.fillFlit p (sortBy (d.stagedKey p) (d.link p).staged).length (sortBy (d.stagedKey p) (d.link p).staged) [] 0 = (e, m :: ms)) :
    d.transmit p = e.sendMsgs p (m :: ms) ((m :: ms).map (fun _ => false)) := by
  simp [Dev.transmit, hglois, hst, hctrl, hresend, hroom, hfill]

/-! ### Receiving -/

section
variable {e : Dev} {lanes : List (List Bool)} {flit : List Byte} {corr : List Nat}

/-- R117: a flit with a bad CRC counts in CRC_ERR and is dropped. -/
theorem Dev.flitReceive_bad (hglois : d.isGlois p = true) (hst : 2 ≤ d.linkState p) (he : e = d.laneEvents p corr [])
    (hflit : lanesFlit (e.lanesNow p) lanes = some flit) (hverdict : flitVerdict flit false = .bad) :
    d.flitReceive p lanes corr [] [] = (e.bump (Reg.CRC_ERR p)).dropFlit p [] := by
  have hne0 : d.linkState p ≠ 0 := by omega
  have hne1 : d.linkState p ≠ 1 := by omega
  subst he
  simp [Dev.flitReceive, hglois, hne0, hne1, hflit, hverdict]

theorem Dev.flitReceive_good (hglois : d.isGlois p = true) (hst : 2 ≤ d.linkState p) (he : e = d.laneEvents p corr [])
    (hflit : lanesFlit (e.lanesNow p) lanes = some flit) (hverdict : flitVerdict flit false = .good) :
    d.flitReceive p lanes corr [] [] = e.takeGood p flit [] := by
  have hne0 : d.linkState p ≠ 0 := by omega
  have hne1 : d.linkState p ≠ 1 := by omega
  subst he
  simp [Dev.flitReceive, hglois, hne0, hne1, hflit, hverdict]

end

theorem Dev.dropFlit_nil (d : Dev) (p : Nat) : d.dropFlit p [] = (d.onLink p (fun l => { l with syncs := 0 })).sendNak p := rfl

/-- R117: a MSG flit in sequence on an ACTIVE port hands in its messages, in order. -/
theorem Dev.takeGood_in_sequence {c e : Dev} {flit : List Byte} {ms : List Msg} {h : LinkHeader}
    (hh : h = linkHeader (fieldBytes flit 0 8)) (he : e = (c.takeHeader p h).onLink p (fun l => { l with syncs := 0 }))
    (htype : h.ftype = 1) (hst : e.linkState p = 4) (hseq : h.seq = (e.link p).rxE) (hms : flitMsgs flit = some ms) :
    c.takeGood p flit [] =
      ((e.onLink p (fun l => { l with
        rxE := ((e.link p).rxE + 1) % 4096, nakAt := none, nakDue := false, ackDue := decide (63 ≤ l.ackCount) || l.ackDue,
        ackCount := l.ackCount + 1,
        ackFrom := some (l.ackFrom.getD e.time) })).each ms (fun d m => d.takeMsg p m e.time)) := by
  have hgood : c.takeGood p flit [] = e.takeMsgFlit p flit h [] e.time := by
    simp [Dev.takeGood, ← hh, htype, ← he, hst]
  rw [hgood, Dev.takeMsgFlit, if_pos hseq, hms]

end

/-- Settles O6: the two flits a port may send, and the two verdicts on one that arrives. -/
theorem flitsMove : Obligations.FlitsMove := by
  unfold Obligations.FlitsMove
  refine ⟨?idle, ?msgs, ?bad, ?good⟩
  case idle =>
    exact fun _ p _ _ hat hglois hst hctrl hresend hstaged =>
      settles_act (fun d => d.transmit p.val) hat (Dev.transmit_idle hglois hst hctrl hresend hstaged)
  case msgs =>
    exact fun _ p _ _ _ _ _ hat hglois hst hctrl hresend hroom hfill =>
      settles_act (fun d => d.transmit p.val) hat (Dev.transmit_msgs hglois hst hctrl hresend hroom hfill)
  case bad =>
    intro s p t lanes flit corr d e hat hglois hst he hflit hverdict
    refine settles_act (fun d => d.flitReceive p.val lanes corr [] []) hat ?_
    rw [Dev.flitReceive_bad hglois hst he hflit hverdict, Dev.dropFlit_nil]
  case good =>
    intro s p t lanes flit ms d c hat h hh hc hflit e he hglois hst hverdict htype hactive hseq hms
    refine settles_act (fun d => d.flitReceive p.val lanes [] [] []) hat ?_
    rw [Dev.flitReceive_good hglois hst hc hflit hverdict]
    exact Dev.takeGood_in_sequence hh he htype hactive hseq hms

end Sys2Proof.Machine
end

section
/-! PROOF. What every step keeps (R527, R551): a command answers a next state, leaves the queue, burns fuses only at FUSE_BURN_DONE and
changes the flash only at FLASH_OP_DONE. -/
namespace Sys2Proof.Machine

/-- The fuses after a command. -/
def fuseAfter (c : Instr) (s : State) : Fuses :=
  match c with
  | .fuseBurnDone _ => s.dev.burned s.fuse
  | _ => s.fuse

/-- The flash after a command. -/
def flashAfter (c : Instr) (s : State) : List Host.Cell :=
  match c with
  | .flashOpDone _ => s.dev.flashAfter s.flash
  | _ => s.flash

/-- Every command answers a next state with the queue as it was; what becomes of the fuses and the flash its row alone says. -/
theorem exec_answers (c : Instr) (s : State) :
    ∃ e, exec c s = .next { s with fuse := fuseAfter c s, flash := flashAfter c s, dev := e } := by
  cases c <;> exact ⟨_, rfl⟩

theorem fuseAfter_eq_or (c : Instr) (s : State) : fuseAfter c s = s.fuse ∨ ∃ t, c = .fuseBurnDone t := by
  unfold fuseAfter
  split
  · exact .inr ⟨_, rfl⟩
  · exact .inl rfl

theorem flashAfter_eq_or (c : Instr) (s : State) : flashAfter c s = s.flash ∨ ∃ t, c = .flashOpDone t := by
  unfold flashAfter
  split
  · exact .inr ⟨_, rfl⟩
  · exact .inl rfl

theorem Fuses.keptIn_refl (z : Fuses) : z.KeptIn z := ⟨fun _ _ h => h, fun _ h => h⟩

/-- A bit of a number stands in its union with any other. -/
theorem bitOf_lor_left {x : Nat} (y : Nat) {i : Nat} (hbit : bitOf x i = true) : bitOf (Nat.lor x y) i = true := by
  rw [bitOf_eq_testBit] at hbit ⊢
  exact (Nat.testBit_or x y i).trans (by rw [hbit, Bool.true_or])

/-- R527: burning only sets bits. -/
theorem Fuses.keptIn_burn (z : Fuses) (f v : Nat) (hwf : Tab.wf 0 z.fields = true) : z.KeptIn (z.burn f v) := by
  refine ⟨fun g i hbit => ?_, fun g => bitOf_lor_left _⟩
  unfold Fuses.field Fuses.burn at *
  by_cases hg : g = f
  · subst hg
    rw [Tab.get_put_same 0 z.fields g _ hwf]
    exact bitOf_lor_left _ hbit
  · rwa [Tab.get_put_ne 0 z.fields f g _ hwf hg]

theorem Fuses.wf_burn (z : Fuses) (f v : Nat) (hwf : Tab.wf 0 z.fields = true) : Tab.wf 0 (z.burn f v).fields = true :=
  Tab.wf_put 0 z.fields f _ hwf

theorem Dev.burned_keeps (d : Dev) (z : Fuses) (hwf : Tab.wf 0 z.fields = true) :
    Tab.wf 0 (d.burned z).fields = true ∧ z.KeptIn (d.burned z) := by
  unfold Dev.burned
  split
  · exact ⟨hwf, z.keptIn_refl⟩
  · exact ⟨z.wf_burn _ _ hwf, z.keptIn_burn _ _ hwf⟩

theorem wf_programFlash (bs : List Byte) (flash : List Host.Cell) (free a : Nat) (hwf : Memory.wf 0xFF#8 flash = true) :
    Memory.wf 0xFF#8 (programFlash flash free a bs) = true := by
  induction bs generalizing flash free a with
  | nil => exact hwf
  | cons b bs ih => exact ih _ _ _ (Memory.wf_write _ _ _ _ hwf)

/-- R551: an erase and a program keep the flash in canonical form. -/
theorem Dev.wf_flashAfter (d : Dev) (flash : List Host.Cell) (hwf : Memory.wf 0xFF#8 flash = true) :
    Memory.wf 0xFF#8 (d.flashAfter flash) = true := by
  unfold Dev.flashAfter
  cases d.boot.bridge with
  | none => exact hwf
  | some op =>
    cases op with
    | erase a => exact Memory.wf_clear _ _ _ _ hwf
    | program a bs => exact wf_programFlash _ _ _ _ hwf

theorem fuseAfter_keeps (c : Instr) (s : State) (hwf : Tab.wf 0 s.fuse.fields = true) :
    Tab.wf 0 (fuseAfter c s).fields = true ∧ s.fuse.KeptIn (fuseAfter c s) := by
  unfold fuseAfter
  split
  · exact s.dev.burned_keeps s.fuse hwf
  · exact ⟨hwf, s.fuse.keptIn_refl⟩

theorem wf_flashAfter (c : Instr) (s : State) (hwf : Memory.wf 0xFF#8 s.flash = true) : Memory.wf 0xFF#8 (flashAfter c s) = true := by
  unfold flashAfter
  split
  · exact s.dev.wf_flashAfter s.flash hwf
  · exact hwf

theorem exec_keeps {c : Instr} {s s' : State} (hsound : s.Sound) (hexec : exec c s = .next s') : s'.Sound ∧ s.fuse.KeptIn s'.fuse := by
  obtain ⟨e, he⟩ := exec_answers c s
  obtain ⟨hflash, hfuse⟩ := hsound
  obtain ⟨hwf, hkept⟩ := fuseAfter_keeps c s hfuse
  cases he.symm.trans hexec
  exact ⟨⟨wf_flashAfter c s hflash, hwf⟩, hkept⟩

/-- Settles O58: a step is the passing of one ns, or a command with the rest of the queue. -/
theorem everyStepKeeps : Obligations.EveryStepKeeps := by
  unfold Obligations.EveryStepKeeps
  refine ⟨?answers, ?keeps, ?changes⟩
  case answers =>
    intro s
    cases hq : s.pending with
    | nil => exact ⟨_, step_idle s hq⟩
    | cons c rest =>
      obtain ⟨e, he⟩ := exec_answers c { s with pending := rest }
      exact ⟨_, by rw [step, hq]; exact he⟩
  case keeps =>
    intro s s' hsound hstep
    cases hq : s.pending with
    | nil =>
      cases (step_idle s hq).symm.trans hstep
      exact ⟨hsound, s.fuse.keptIn_refl⟩
    | cons c rest =>
      rw [step, hq] at hstep
      exact exec_keeps (s := { s with pending := rest }) hsound hstep
  case changes =>
    intro c s s' hexec
    obtain ⟨e, he⟩ := exec_answers c s
    cases he.symm.trans hexec
    exact ⟨rfl, fuseAfter_eq_or c s, flashAfter_eq_or c s⟩

/-- Settles O56: `step` by its two branches, and the time base by its maximum. -/
theorem stepRunsTheFront : Obligations.StepRunsTheFront := by
  unfold Obligations.StepRunsTheFront
  refine ⟨?front, step_idle, ?late, fun _ _ _ => ⟨rfl, rfl⟩⟩
  case front =>
    intro s c rest hq
    rw [step, hq]
  case late => exact fun d t => ⟨d.at_time t, rfl⟩

end Sys2Proof.Machine
end

section
/-! PROOF. Registers and memories (R15, R38, R45, R339, R551): what reads back after a write, what a write leaves alone, and the form that
tables keep. -/
namespace Sys2Proof.Machine

/-! ### Rising tables -/

/-- The keys of a table stand in rising order. -/
def Tab.Rising {α : Type} (t : List (Nat × α)) : Prop := (t.map Prod.fst).Pairwise (· < ·)

section
variable {α : Type} {t : List (Nat × α)}

theorem Tab.mem_del {k : Nat} {x : Nat × α} (hx : x ∈ Tab.del t k) : x ∈ t := by
  induction t with
  | nil => exact hx
  | cons c t ih =>
    simp only [Tab.del] at hx
    split at hx
    · exact List.mem_cons_of_mem _ hx
    · split at hx
      · exact hx
      · rcases List.mem_cons.mp hx with rfl | hx
        · exact List.mem_cons_self
        · exact List.mem_cons_of_mem _ (ih hx)

theorem Tab.mem_ins {k : Nat} {v : α} {x : Nat × α} (hx : x ∈ Tab.ins t k v) : x = (k, v) ∨ x ∈ t := by
  induction t with
  | nil => exact .inl (List.mem_singleton.mp hx)
  | cons c t ih =>
    simp only [Tab.ins] at hx
    split at hx
    · exact (List.mem_cons.mp hx).imp_right (List.mem_cons_of_mem _)
    · split at hx
      · exact List.mem_cons.mp hx
      · rcases List.mem_cons.mp hx with rfl | hx
        · exact .inr List.mem_cons_self
        · exact (ih hx).imp_right (List.mem_cons_of_mem _)

theorem Tab.rising_cons {c : Nat × α} : Tab.Rising (c :: t) ↔ (∀ x ∈ t, c.1 < x.1) ∧ Tab.Rising t := by
  simp [Tab.Rising]

theorem Tab.Rising.del (h : Tab.Rising t) (k : Nat) : Tab.Rising (Tab.del t k) := by
  induction t with
  | nil => exact h
  | cons c t ih =>
    obtain ⟨hc, ht⟩ := Tab.rising_cons.mp h
    simp only [Tab.del]
    split
    · exact ht
    · split
      · exact h
      · exact Tab.rising_cons.mpr ⟨fun x hx => hc x (Tab.mem_del hx), ih ht⟩

theorem Tab.Rising.ins (h : Tab.Rising t) (k : Nat) (v : α) : Tab.Rising (Tab.ins t k v) := by
  induction t with
  | nil => exact List.pairwise_singleton _ _
  | cons c t ih =>
    obtain ⟨hc, ht⟩ := Tab.rising_cons.mp h
    simp only [Tab.ins]
    split
    · next hk => exact Tab.rising_cons.mpr ⟨fun x hx => hk ▸ hc x hx, ht⟩
    · split
      · next hk =>
        refine Tab.rising_cons.mpr ⟨fun x hx => ?_, h⟩
        rcases List.mem_cons.mp hx with rfl | hx
        · exact hk
        · exact hk.trans (hc x hx)
      · next hne hk =>
        refine Tab.rising_cons.mpr ⟨fun x hx => ?_, ih ht⟩
        rcases Tab.mem_ins hx with rfl | hx
        · exact lt_of_le_of_ne (Nat.not_lt.mp hk) hne
        · exact hc x hx

/-- A key taken out of a rising table is listed no more. -/
theorem Tab.Rising.not_mem_del (h : Tab.Rising t) {k : Nat} {x : Nat × α} (hx : x ∈ Tab.del t k) : x.1 ≠ k := by
  induction t with
  | nil => cases hx
  | cons c t ih =>
    obtain ⟨hc, ht⟩ := Tab.rising_cons.mp h
    simp only [Tab.del] at hx
    split at hx
    · next hk => exact fun hxk => absurd (hc x hx) (by omega)
    · next hne =>
      split at hx
      · next hlt =>
        rcases List.mem_cons.mp hx with rfl | hx
        · exact hne
        · have hlow := hc x hx
          omega
      · rcases List.mem_cons.mp hx with rfl | hx
        · exact hne
        · exact ih ht hx

end

/-! ### Registers -/

section
variable {d : Dev}

theorem Dev.Rising.setReg (h : d.Rising) (r : RegRef) (v : Nat) : (d.setReg r v).Rising := by
  unfold Dev.Rising Dev.setReg
  split
  · exact Tab.Rising.del h _
  · exact Tab.Rising.ins h _ _

theorem Dev.Rising.set (h : d.Rising) (f : Fld) (v : Nat) : (d.set f v).Rising := Dev.Rising.setReg h _ _

/-- R14: a register back at its reset value is not listed. -/
theorem Dev.Rising.not_mem_reset (h : d.Rising) (r : RegRef) : ∀ x ∈ (d.setReg r r.rst).regs, x.1 ≠ r.addr := by
  intro x hx
  rw [Dev.setReg, if_pos rfl] at hx
  exact Tab.Rising.not_mem_del h hx

theorem Dev.get_set_same (h : d.Rising) (f : Fld) (v : Nat) : (d.set f v).get f = v % 2 ^ f.w := by
  rw [Dev.get, Dev.set, Dev.reg_setReg_same _ _ _ h, fieldOf_fieldPut_same]

theorem Dev.get_set_other (h : d.Rising) {f g : Fld} (v : Nat) (haddr : g.reg.addr ≠ f.reg.addr) : (d.set f v).get g = d.get g := by
  rw [Dev.get, Dev.set, Dev.reg_setReg_ne _ _ _ _ h haddr, Dev.get]

theorem Dev.get_set_beside (h : d.Rising) {f g : Fld} (v : Nat) (hreg : g.reg = f.reg) (hapart : f.lo + f.w ≤ g.lo ∨ g.lo + g.w ≤ f.lo) :
    (d.set f v).get g = d.get g := by
  rw [Dev.get, Dev.set, hreg, Dev.reg_setReg_same _ _ _ h, fieldOf_fieldPut_ne _ _ _ _ _ _ hapart, Dev.get, hreg]

/-- R129: a counter stops at 2^48 - 1. -/
theorem Dev.reg_bumpBy (h : d.Rising) (r : RegRef) (n : Nat) : (d.bumpBy r n).reg r = min (2 ^ 48 - 1) (d.reg r + n) :=
  Dev.reg_setReg_same _ _ _ h

end

/-- Settles O60: the laws of `setReg`, read through a field's place in its register. -/
theorem registersHold : Obligations.RegistersHold := by
  unfold Obligations.RegistersHold
  refine ⟨?register, ?field, fun d r n h => Dev.reg_bumpBy h r n⟩
  case register =>
    exact fun d r v h => ⟨d.reg_setReg_same r v h, h.setReg r v, fun q hq => d.reg_setReg_ne r q v h hq, h.not_mem_reset r⟩
  case field =>
    refine fun d f v h => ⟨Dev.get_set_same h f v, h.set f v, fun g hg => ?_⟩
    rcases hg with haddr | ⟨hreg, hapart⟩
    · exact Dev.get_set_other h v haddr
    · exact Dev.get_set_beside h v hreg hapart

/-! ### Memories -/

section
variable {b : Byte} {m : List (Nat × Byte)}

theorem Memory.read_write_same (h : Memory.wf b m = true) (a : Nat) (v : Byte) : Memory.read b (Memory.write b m a v) a = v :=
  Tab.get_put_same b m a v h

theorem Memory.read_write_ne (h : Memory.wf b m = true) {a x : Nat} (v : Byte) (hx : x ≠ a) :
    Memory.read b (Memory.write b m a v) x = Memory.read b m x :=
  Tab.get_put_ne b m a x v h hx

theorem Memory.read_writeN_outside (bs : List Byte) {a x : Nat} (h : Memory.wf b m = true) (hx : x < a ∨ a + bs.length ≤ x) :
    Memory.read b (Memory.writeN b m a bs) x = Memory.read b m x := by
  induction bs generalizing m a with
  | nil => rfl
  | cons c cs ih =>
    simp only [List.length_cons] at hx
    have hrest := ih (m := Memory.write b m a c) (a := a + 1) (Memory.wf_write b m a c h) (by omega)
    rw [Memory.writeN, hrest, Memory.read_write_ne h c (by omega)]

/-- The later bytes of a write go to higher addresses, so each byte reads back as it was written. -/
theorem Memory.readN_writeN (bs : List Byte) {a : Nat} (h : Memory.wf b m = true) :
    Memory.readN b (Memory.writeN b m a bs) a bs.length = bs := by
  induction bs generalizing m a with
  | nil => rfl
  | cons c cs ih =>
    have hw := Memory.wf_write b m a c h
    have hfirst : Memory.read b (Memory.writeN b (Memory.write b m a c) (a + 1) cs) a = c := by
      rw [Memory.read_writeN_outside cs hw (.inl (Nat.lt_succ_self a)), Memory.read_write_same h]
    rw [List.length_cons, Memory.writeN, Memory.readN, hfirst, ih hw]

theorem Memory.read_cons (c : Nat × Byte) (x : Nat) :
    Memory.read b (c :: m) x = if c.1 = x then c.2 else if x < c.1 then b else Memory.read b m x := by
  simp only [Memory.read, Tab.get, Tab.find?]
  split
  · rfl
  · split <;> rfl

/-- Nothing below the first listed address is listed. -/
theorem Memory.read_above {x k : Nat} (h : Tab.above k m = true) (hx : x ≤ k) : Memory.read b m x = b := by
  rw [Memory.read, Tab.get, Tab.find_above m k x h hx]
  rfl

/-- A memory in canonical form: its first cell is not the default and lies below the others. -/
theorem Memory.wf_cons {c : Nat × Byte} : Memory.wf b (c :: m) = true ↔ c.2 ≠ b ∧ Tab.above c.1 m = true ∧ Memory.wf b m = true := by
  simp [Memory.wf, Tab.wf, and_assoc]

theorem Memory.clear_cons (c : Nat × Byte) (a n : Nat) :
    Memory.clear (c :: m) a n = if c.1 < a ∨ a + n ≤ c.1 then c :: Memory.clear m a n else Memory.clear m a n := by
  simp only [Memory.clear, List.filter_cons, Bool.or_eq_true, decide_eq_true_eq]

theorem Memory.read_clear (h : Memory.wf b m = true) (a n x : Nat) :
    Memory.read b (Memory.clear m a n) x = if x < a ∨ a + n ≤ x then Memory.read b m x else b := by
  induction m with
  | nil => exact (ite_self b).symm
  | cons c m ih =>
    obtain ⟨-, habove, hm⟩ := Memory.wf_cons.mp h
    have hlow : x ≤ c.1 → Memory.read b m x = b := Memory.read_above habove
    rw [Memory.clear_cons, Memory.read_cons]
    split
    · rw [Memory.read_cons, ih hm]
      grind
    · rw [ih hm]
      split_ifs with hout hc hlt
      · omega
      · exact hlow hlt.le
      · rfl
      · rfl

/-- The memory below its first cell's address is the same in two memories that read alike, so their first cells agree. -/
theorem Memory.eq_of_read {m' : List (Nat × Byte)} (h : Memory.wf b m = true) (h' : Memory.wf b m' = true)
    (hread : ∀ x, Memory.read b m x = Memory.read b m' x) : m = m' := by
  induction m generalizing m' with
  | nil =>
    cases m' with
    | nil => rfl
    | cons c' m' =>
      have hc := hread c'.1
      rw [Memory.read_cons, if_pos rfl] at hc
      exact absurd hc.symm (Memory.wf_cons.mp h').1
  | cons c m ih =>
    obtain ⟨hne, habove, hm⟩ := Memory.wf_cons.mp h
    cases m' with
    | nil =>
      have hc := hread c.1
      rw [Memory.read_cons, if_pos rfl] at hc
      exact absurd hc hne
    | cons c' m' =>
      obtain ⟨hne', habove', hm'⟩ := Memory.wf_cons.mp h'
      have hcs : c = c' := by
        have hat := hread c.1
        have hat' := hread c'.1
        rw [Memory.read_cons, Memory.read_cons, if_pos rfl] at hat hat'
        rcases Nat.lt_trichotomy c.1 c'.1 with hlt | heq | hlt
        · rw [if_neg (Ne.symm hlt.ne), if_pos hlt] at hat
          exact absurd hat hne
        · rw [if_pos heq.symm] at hat
          exact Prod.ext heq hat
        · rw [if_neg (Ne.symm hlt.ne), if_pos hlt] at hat'
          exact absurd hat'.symm hne'
      subst hcs
      refine congrArg (c :: ·) (ih hm hm' fun x => ?_)
      have hx := hread x
      rw [Memory.read_cons, Memory.read_cons] at hx
      by_cases hle : x ≤ c.1
      · rw [Memory.read_above habove hle, Memory.read_above habove' hle]
      · rwa [if_neg (by omega), if_neg (by omega), if_neg (by omega), if_neg (by omega)] at hx

end

/-- Settles O59: a write by the bytes it lists, a clearing by the cells it leaves, and the canonical form by its first cell. -/
theorem memoriesHold : Obligations.MemoriesHold := by
  unfold Obligations.MemoriesHold
  refine ⟨?write, ?clear, fun _ _ _ h h' hread => Memory.eq_of_read h h' hread⟩
  case write =>
    exact fun b m a bs h => ⟨Memory.readN_writeN bs h, Memory.wf_writeN b bs m a h, fun x hx => Memory.read_writeN_outside bs h hx⟩
  case clear =>
    refine fun b m a n h => ⟨Memory.wf_clear b m a n h, fun x hlo hhi => ?_, fun x hx => ?_⟩
    · rw [Memory.read_clear h, if_neg (by omega)]
    · rw [Memory.read_clear h, if_pos hx]

end Sys2Proof.Machine
end

section
/-! PROOF. The machine right after reset (R39, R511, R512, R513, R527, R562), and the order of PSNs (R397). -/
namespace Sys2Proof.Machine

/-- R39: no register is listed after reset, so each reads its reset value. -/
theorem Dev.reg_reset (r : RegRef) : Dev.reset.reg r = r.rst := rfl

theorem Dev.get_reset (f : Fld) : Dev.reset.get f = fieldOf f.reg.rst f.lo f.w := rfl

theorem Dev.running_reset : Dev.reset.running = false := by decide

theorem Dev.coreUp_reset (c : Nat) : Dev.reset.coreUp c = false := by
  rw [Dev.coreUp, Dev.running_reset, Bool.false_and]

/-- R511: unwritten device memory reads 0. -/
theorem Memory.readN_nil (b : Byte) (a n : Nat) : Memory.readN b [] a n = List.replicate n b := by
  induction n generalizing a with
  | zero => rfl
  | succ n ih => rw [Memory.readN, ih, List.replicate_succ]; rfl

/-- Settles O57: the reset state lists nothing, so every register and every byte reads what an unlisted one reads. -/
theorem resetHolds : Obligations.ResetHolds := by
  unfold Obligations.ResetHolds
  refine ⟨rfl, ⟨rfl, rfl⟩, rfl, List.Pairwise.nil, rfl, rfl, Dev.reg_reset, by decide, Dev.running_reset, by decide, by decide,
    Dev.coreUp_reset, fun p _ => ?_, fun a n => Memory.readN_nil _ a n, rfl, rfl, rfl, rfl⟩
  exact (Dev.get_reset _).trans (by decide : fieldOf 0 0 3 = 0)

/-- The distance from one PSN to another, modulo 2^24. -/
def psnDistance (a b : Nat) : Nat := (b + 2 ^ 24 - a) % 2 ^ 24

theorem psnBehind_eq (a b : Nat) : psnBehind a b = (decide (1 ≤ psnDistance a b) && decide (psnDistance a b ≤ 2 ^ 23)) := rfl

theorem psnDistance_self (a : Nat) : psnDistance a a = 0 := by
  simp [psnDistance]

/-- Between two different PSNs the two distances make up the circle. -/
theorem psnDistance_add_swap {a b : Nat} (ha : a < 2 ^ 24) (hb : b < 2 ^ 24) (hne : a ≠ b) :
    psnDistance a b + psnDistance b a = 2 ^ 24 ∧ 1 ≤ psnDistance a b ∧ 1 ≤ psnDistance b a := by
  unfold psnDistance
  omega

theorem psnDistance_shift {a b : Nat} (k : Nat) (ha : a < 2 ^ 24) (hb : b < 2 ^ 24) :
    psnDistance ((a + k) % 2 ^ 24) ((b + k) % 2 ^ 24) = psnDistance a b := by
  unfold psnDistance
  omega

/-- Settles O37: `psnBehind` reads the distance alone. -/
theorem psnsOrdered : Obligations.PsnsOrdered := by
  unfold Obligations.PsnsOrdered
  intro a b k ha hb
  refine ⟨?irreflexive, ?asymmetric, ?shift⟩
  case irreflexive =>
    rw [psnBehind_eq, psnDistance_self]
    rfl
  case asymmetric =>
    intro hne hhalf
    obtain ⟨hsum, hab, hba⟩ := psnDistance_add_swap ha hb hne
    have hhalf : psnDistance a b ≠ 2 ^ 23 := hhalf
    rw [psnBehind_eq, psnBehind_eq, Bool.eq_iff_iff]
    simp only [Bool.and_eq_true, decide_eq_true_eq, Bool.not_eq_true', Bool.and_eq_false_iff, decide_eq_false_iff_not]
    omega
  case shift => rw [psnBehind_eq, psnBehind_eq, psnDistance_shift k ha hb]

end Sys2Proof.Machine
end

section
/-! PROOF. The bytes of a status word (R276) and of a Crucible's image (R248). -/
namespace Sys2Proof.Machine

theorem fieldBytes_natBytes (n v : Nat) : fieldBytes (natBytes n v) 0 n = v % 2 ^ (8 * n) := by
  simpa using fieldBytes_front n v []

theorem worse_eq_or (a b : Nat) : worse a b = a ∨ worse a b = b := by
  unfold worse
  split
  · exact .inl rfl
  · exact .inr rfl

theorem code_lt {c : Nat} (hc : c ∈ codeOrder) : c ≤ 10 := by
  revert c
  decide

/-- The code of a status word is one of those of R19, so it fits its byte. -/
theorem Stage.finalCode_le (x : Stage) (hcode : x.code ∈ codeOrder) : x.finalCode ≤ 10 := by
  have hown := code_lt hcode
  rcases worse_eq_or x.code (worse (if x.skips = 0 then 0 else 10) (if x.shadows = 0 then 0 else 9)) with h | h
  · exact (show x.finalCode = x.code from h).le.trans hown
  · refine (show x.finalCode = _ from h).le.trans ?_
    rcases worse_eq_or (if x.skips = 0 then 0 else 10) (if x.shadows = 0 then 0 else 9) with h | h <;> rw [h] <;> split <;> omega

/-- The first four bytes of a status word as one number: CODE, NUMFLAGS, DONE, DL_MISS, REPLAYED and REASON, each above those before. -/
def Stage.head (x : Stage) : Nat :=
  x.finalCode + x.flags % 256 * 2 ^ 8 + 2 ^ 16 + (if x.dl then 2 ^ 17 else 0) + (if x.replayed then 2 ^ 18 else 0) + x.reason * 2 ^ 19

theorem Stage.head_fields (x : Stage) (hcode : x.finalCode ≤ 10) (hreason : x.reason < 32) :
    x.head < 2 ^ 32 ∧ fieldOf x.head 0 8 = x.finalCode ∧ fieldOf x.head 8 8 = x.flags % 256 ∧ bitOf x.head 16 = true ∧
    bitOf x.head 17 = x.dl ∧ bitOf x.head 18 = x.replayed ∧ fieldOf x.head 19 13 = x.reason := by
  simp only [bitOf_eq_fieldOf, fieldOf, Stage.head]
  cases x.dl <;> cases x.replayed <;> simp only [Bool.false_eq_true, if_false, if_true, beq_iff_eq, beq_eq_false_iff_ne] <;> omega

theorem Stage.word_eq (x : Stage) (start now pgen : Nat) : x.word start now pgen =
    natBytes 4 x.head ++ natBytes 4 x.shadows ++ natBytes 4 x.skips ++ natBytes 4 x.firstSkip ++ natBytes 8 x.result ++
      natBytes 4 (min (2 ^ 32 - 1) ((now - start) / 10)) ++ natBytes 2 pgen ++ natBytes 2 (min 65535 x.slag) := rfl

/-- Settles O23: each field by skipping the bytes before it. -/
theorem statusWordLaid : Obligations.StatusWordLaid := by
  unfold Obligations.StatusWordLaid
  intro x start now pgen hcode hreason b hb v hv
  obtain ⟨hlt, hcodeAt, hflags, hdone, hdl, hreplayed, hreasonAt⟩ := x.head_fields (x.finalCode_le hcode) hreason
  have hvhead : v = x.head := by
    rw [hv, hb, x.word_eq]
    simp only [List.append_assoc, fieldBytes_front]
    exact Nat.mod_eq_of_lt hlt
  rw [hvhead]
  refine ⟨?length, hcodeAt, hflags, hdone, hdl, hreplayed, hreasonAt, ?_⟩
  case length => simp [hb, x.word_eq]
  subst hb
  simp only [x.word_eq, List.append_assoc, fieldBytes_append, natBytes_length, fieldBytes_front, fieldBytes_natBytes, Nat.reduceLeDiff,
    Nat.reduceSub, Nat.reduceMul, true_and]
  omega

/-- The flags of a Crucible as one byte. -/
def Crucible.flagByte (c : Crucible) : Nat :=
  (if c.nan then 1 else 0) + (if c.pinf then 2 else 0) + (if c.ninf then 4 else 0) + (if c.allneg0 then 8 else 0)

theorem Crucible.flagByte_bits (c : Crucible) : c.flagByte < 16 ∧ bitOf c.flagByte 0 = c.nan ∧ bitOf c.flagByte 1 = c.pinf ∧
    bitOf c.flagByte 2 = c.ninf ∧ bitOf c.flagByte 3 = c.allneg0 := by
  have hbits : ∀ nan pinf ninf allneg0 : Bool,
      ∀ n, n = (if nan then 1 else 0) + (if pinf then 2 else 0) + (if ninf then 4 else 0) + (if allneg0 then 8 else 0) →
        n < 16 ∧ bitOf n 0 = nan ∧ bitOf n 1 = pinf ∧ bitOf n 2 = ninf ∧ bitOf n 3 = allneg0 := by
    simp only [forall_eq]
    decide
  exact hbits c.nan c.pinf c.ninf c.allneg0 c.flagByte rfl

/-- An image as its fields, each of its own bytes. -/
theorem Crucible.image_eq (c : Crucible) (hrange : c.rangeBits < 4) :
    c.image = natBytes 48 c.v.toNat ++ natBytes 8 c.addends ++ natBytes 1 c.flagByte ++ natBytes 1 c.rangeBits ++ natBytes 6 0 := by
  simp only [Crucible.image, Crucible.flagByte, natBytes, Nat.mod_eq_of_lt hrange, List.cons_append, List.nil_append]
  rfl

theorem Crucible.ofImage_image (c : Crucible) (haddends : c.addends < 2 ^ 64) (hrange : c.rangeBits < 4) : Crucible.ofImage c.image = some c := by
  obtain ⟨hflags, hnan, hpinf, hninf, hallneg0⟩ := c.flagByte_bits
  have hv : fieldBytes c.image 0 48 = c.v.toNat := by
    simp only [c.image_eq hrange, List.append_assoc]
    rw [fieldBytes_front, show 8 * 48 = 384 from rfl, c.v.toNat_mod_cancel]
  have hn : fieldBytes c.image 48 8 = c.addends := by
    simp [c.image_eq hrange, List.append_assoc, fieldBytes_append, fieldBytes_front]
    omega
  have hfl : fieldBytes c.image 56 1 = c.flagByte := by
    simp [c.image_eq hrange, List.append_assoc, fieldBytes_append, fieldBytes_front]
    omega
  have hrb : fieldBytes c.image 57 1 = c.rangeBits := by
    simp [c.image_eq hrange, List.append_assoc, fieldBytes_append, fieldBytes_front]
    omega
  have hz : fieldBytes c.image 58 6 = 0 := by
    simp [c.image_eq hrange, List.append_assoc, fieldBytes_append, fieldBytes_natBytes]
  simp [Crucible.ofImage, hv, hn, hfl, hrb, hz, hnan, hpinf, hninf, hallneg0, Nat.not_le.mpr hflags, Nat.not_le.mpr hrange]

/-- Settles O25: the image field by field, and the check that comes before any of them is taken. -/
theorem crucibleImage : Obligations.CrucibleImage := by
  unfold Obligations.CrucibleImage
  refine ⟨?reads, ?refused⟩
  case reads =>
    refine fun c haddends hrange => ⟨c.ofImage_image haddends hrange, ?_⟩
    simp [c.image_eq hrange]
  case refused =>
    intro bs hbad
    refine if_pos ?_
    simp only [Bool.or_eq_true, decide_eq_true_eq, bne_iff_ne]
    tauto

end Sys2Proof.Machine
end

section
/-! PROOF. The matcher's pairs and the age of cells (R173, R176, R190, R191), and the arrival counters (R62 to R67, R73). -/
namespace Sys2Proof.Machine

/-! ### The matcher -/

theorem betterAsk_eq_or (dist : Ask → Nat) (a b : Ask) : betterAsk dist a b = a ∨ betterAsk dist a b = b := by
  unfold betterAsk
  split
  · exact .inr rfl
  · exact .inl rfl

/-- What may be picked of `asks`: requests among them, one for each slot that `slot` names. -/
def PickedOf (slot : Ask → Nat) (asks picked : List Ask) : Prop := (picked.map slot).Nodup ∧ ∀ a ∈ picked, a ∈ asks

/-- A better request for the same slot takes the place of the one picked so far. -/
theorem PickedOf.replace {slot : Ask → Nat} {asks picked : List Ask} (h : PickedOf slot asks picked) (dist : Ask → Nat) {a : Ask}
    (ha : a ∈ asks) : PickedOf slot asks (picked.map (fun b => if slot b = slot a then betterAsk dist b a else b)) := by
  constructor
  · have hslot : slot ∘ (fun b => if slot b = slot a then betterAsk dist b a else b) = slot := by
      funext b
      simp only [Function.comp_apply]
      split
      · next hb => rcases betterAsk_eq_or dist b a with he | he <;> rw [he]; exact hb.symm
      · rfl
    rw [List.map_map, hslot]
    exact h.1
  · intro c hc
    obtain ⟨b, hb, rfl⟩ := List.mem_map.mp hc
    split
    · rcases betterAsk_eq_or dist b a with he | he <;> rw [he]
      · exact h.2 b hb
      · exact ha
    · exact h.2 b hb

/-- A request for a slot not yet picked joins. -/
theorem PickedOf.join {slot : Ask → Nat} {asks picked : List Ask} (h : PickedOf slot asks picked) {a : Ask} (ha : a ∈ asks)
    (hnew : ∀ b ∈ picked, slot b ≠ slot a) : PickedOf slot asks (picked ++ [a]) := by
  constructor
  · rw [List.map_append, List.nodup_append']
    refine ⟨h.1, List.nodup_singleton _, fun x hx hxa => ?_⟩
    obtain ⟨b, hb, rfl⟩ := List.mem_map.mp hx
    exact hnew b hb (List.mem_singleton.mp hxa)
  · intro c hc
    rcases List.mem_append.mp hc with hc | hc
    · exact h.2 c hc
    · rwa [List.mem_singleton.mp hc]

theorem pickAsks_picked (slot dist : Ask → Nat) (asks : List Ask) : PickedOf slot asks (pickAsks slot dist asks) := by
  refine List.foldlRecOn asks _ ⟨List.nodup_nil, fun _ h => absurd h List.not_mem_nil⟩ fun picked h a ha => ?_
  split
  · exact h.replace dist ha
  · next hnone => exact h.join ha (by simpa using hnone)

/-- A set of pairs in which no slot stands twice. -/
def OneToOne (pairs : List Ask) : Prop := (pairs.map Ask.i).Nodup ∧ (pairs.map Ask.o).Nodup

/-- R176: one grant for each output, and of the grants one accept for each input. -/
theorem Dev.matchRound_oneToOne (d : Dev) (asks done : List Ask) : OneToOne (d.matchRound asks done) := by
  obtain ⟨hgrants, -⟩ := pickAsks_picked Ask.o (fun a => (a.i + 1344 - Tab.get 0 d.sw.grantPtr a.o % 1344) % 1344)
    (asks.filter (fun a => !(done.any (fun b => b.i == a.i || b.o == a.o))))
  obtain ⟨haccepts, hamong⟩ := pickAsks_picked Ask.i (fun a => (a.o + 1344 - Tab.get 0 d.sw.acceptPtr a.i % 1344) % 1344)
    (pickAsks Ask.o (fun a => (a.i + 1344 - Tab.get 0 d.sw.grantPtr a.o % 1344) % 1344)
      (asks.filter (fun a => !(done.any (fun b => b.i == a.i || b.o == a.o)))))
  exact ⟨haccepts, haccepts.of_map.map_on fun _ hx _ hy => List.inj_on_of_nodup_map hgrants (hamong _ hx) (hamong _ hy)⟩

/-- A round takes requests alone whose slots are both unmatched. -/
theorem Dev.matchRound_live {d : Dev} {asks done : List Ask} {a : Ask} (ha : a ∈ d.matchRound asks done) :
    a ∈ asks ∧ ∀ b ∈ done, b.i ≠ a.i ∧ b.o ≠ a.o := by
  have hgrant := (pickAsks_picked _ _ _).2 a ha
  have hlive := (pickAsks_picked _ _ _).2 a hgrant
  simpa using hlive

/-- The pairs of the rounds before and those of one more round are one-to-one together. -/
theorem OneToOne.append_round {d : Dev} {asks done : List Ask} (h : OneToOne done) : OneToOne (done ++ d.matchRound asks done) := by
  obtain ⟨hi, ho⟩ := d.matchRound_oneToOne asks done
  unfold OneToOne
  simp only [List.map_append, List.nodup_append']
  refine ⟨⟨h.1, hi, fun x hx hy => ?_⟩, ⟨h.2, ho, fun x hx hy => ?_⟩⟩ <;>
  · obtain ⟨b, hb, rfl⟩ := List.mem_map.mp hx
    obtain ⟨a, ha, hab⟩ := List.mem_map.mp hy
    obtain ⟨hne, hne'⟩ := (Dev.matchRound_live ha).2 b hb
    simp_all

theorem Dev.matchRounds_sound (d : Dev) (asks : List Ask) (n : Nat) (first : Bool) (done : List Ask) (hone : OneToOne done)
    (hasked : ∀ a ∈ done, a ∈ asks) :
    OneToOne (d.matchRounds asks n first done).2 ∧ ∀ a ∈ (d.matchRounds asks n first done).2, a ∈ asks := by
  induction n generalizing d first done with
  | zero => exact ⟨hone, hasked⟩
  | succ n ih =>
    refine ih _ _ _ hone.append_round fun a ha => ?_
    rcases List.mem_append.mp ha with ha | ha
    · exact hasked a ha
    · exact (Dev.matchRound_live ha).1

/-! ### Ageing -/

theorem portOf_isSome {e : Endpoint} (h : (portOf e).isSome = true) : ∃ p, e = .port p := by
  cases e with
  | port p => exact ⟨p, rfl⟩
  | _ => cases h

/-- R190: a cell whose age passes its limit is not ready, and what is not ready is not eligible. -/
theorem Dev.not_eligible_of_aged {d : Dev} {c : Cell} (haged : d.aged c = true) : d.eligible c = false := by
  have hport : (portOf c.dst).isSome = true := by
    simp only [Dev.aged, Bool.and_eq_true] at haged
    exact haged.1.2
  obtain ⟨p, hp⟩ := portOf_isSome hport
  simp [Dev.eligible, Dev.ready, hp, haged]

/-- R191: what never ages. -/
theorem Dev.not_aged {d : Dev} {c : Cell} (h : c.cls = 0 ∨ c.cls = 2 ∨ c.cls = 5 ∨ c.moving = true ∨ portOf c.dst = none) :
    d.aged c = false := by
  rcases h with h | h | h | h | h <;> simp [Dev.aged, h]

/-- R190: a cell of one frame is aged once its frame is older than the limit of its class. -/
theorem Dev.aged_of_old {d : Dev} {c : Cell} {p : Nat} {f : Frame} (hdst : c.dst = .port p) (hcls : c.cls = 1 ∨ c.cls = 3 ∨ c.cls = 4)
    (hmoving : c.moving = false) (hframes : c.frames = [f])
    (hold : f.born + clampTo 10 100000 (d.get (Reg.AGE_CTL_AGE_LIMIT c.tc)) * 100 < d.time) : d.aged c = true := by
  have hborn : min d.time f.born = f.born := by omega
  have hlate : clampTo 10 100000 (d.get (Reg.AGE_CTL_AGE_LIMIT c.tc)) * 100 < d.time - f.born := by omega
  rcases hcls with hcls | hcls | hcls <;> simp [Dev.aged, hcls, hdst, hmoving, hframes, portOf, hborn, hlate]

/-- Settles O16: the pairs by induction on the rounds, the ages from the definition of an aged cell. -/
theorem grantsAreSound : Obligations.GrantsAreSound := by
  unfold Obligations.GrantsAreSound
  refine ⟨?pairs, fun _ _ h => Dev.not_eligible_of_aged h, fun _ _ h => Dev.not_aged h,
    fun _ _ _ _ hdst hcls hmoving hframes hold => Dev.aged_of_old hdst hcls hmoving hframes hold⟩
  intro d asks n first
  obtain ⟨⟨hi, ho⟩, hasked⟩ := d.matchRounds_sound asks n first [] ⟨List.nodup_nil, List.nodup_nil⟩ fun _ h => absurd h List.not_mem_nil
  exact ⟨hi, ho, hasked⟩

/-! ### Arrival counters -/

section
variable {d : Dev}

/-- R66: a counter that no heat holds, or one of another domain. -/
theorem Dev.countArrival_orphan {id dom gen : Nat} {x : Counted} (hforeign : ∀ h, d.ctrHold id = some h → h.dom ≠ dom) :
    d.countArrival id dom gen x = d.bump Reg.SLAG_ORPHAN_ARRIVAL := by
  unfold Dev.countArrival
  cases hhold : d.ctrHold id with
  | none => rfl
  | some h => exact if_pos (bne_iff_ne.mpr (hforeign h hhold))

/-- R64: with no wait timed out, an arrival of the holder's domain raises the count of its generation. -/
theorem Dev.countArrival_counts {id gen : Nat} {x : Counted} {h : CtrHold} (hhold : d.ctrHold id = some h) (hlate : h.late = []) :
    d.countArrival id h.dom gen x =
      ({ d with ctrs := Tab.ins d.ctrs id { h with counted := x :: h.counted } } : Dev).addCount
        (if gen = d.ctrGen id then ctrCur id else ctrPrev id) (if bitOf (d.reg (ctrCur id)) 44 then 1 else x.bytes) := by
  simp [Dev.countArrival, hhold, hlate]
  rfl

/-- The register that an arrival of `n` leaves: COUNT stops at 2^44 - 1, and SAT is set by the arrival that would pass it (R67). -/
def countedReg (v n : Nat) : Nat :=
  if fieldOf v 0 44 + n < 2 ^ 44 then fieldPut v 0 44 (fieldOf v 0 44 + n) else fieldPut (fieldPut v 0 44 (2 ^ 44 - 1)) 45 1 1

theorem Dev.addCount_eq (r : RegRef) (n : Nat) : d.addCount r n = d.setReg r (countedReg (d.reg r) n) := by
  simp only [Dev.addCount, countedReg]
  split <;> rfl

theorem countedReg_count (v n : Nat) : fieldOf (countedReg v n) 0 44 = min (2 ^ 44 - 1) (fieldOf v 0 44 + n) := by
  unfold countedReg
  split
  · rw [fieldOf_fieldPut_same]
    omega
  · rw [fieldOf_fieldPut_ne _ _ _ _ _ _ (by omega), fieldOf_fieldPut_same]
    omega

theorem countedReg_sat (v n : Nat) : bitOf (countedReg v n) 45 = (bitOf v 45 || decide (2 ^ 44 ≤ fieldOf v 0 44 + n)) := by
  simp only [countedReg, bitOf_eq_fieldOf]
  split
  · next hlt =>
    rw [fieldOf_fieldPut_ne _ _ _ _ _ _ (by omega), decide_eq_false (Nat.not_le.mpr hlt), Bool.or_false]
  · next hge =>
    rw [fieldOf_fieldPut_same, decide_eq_true (Nat.not_lt.mp hge), Bool.or_true]
    rfl

theorem countedReg_above (v n : Nat) : fieldOf (countedReg v n) 46 18 = fieldOf v 46 18 := by
  unfold countedReg
  split
  · exact fieldOf_fieldPut_ne _ _ _ _ _ _ (by omega)
  · rw [fieldOf_fieldPut_ne _ _ _ _ _ _ (by omega), fieldOf_fieldPut_ne _ _ _ _ _ _ (by omega)]

theorem Dev.reg_addCount (hrising : d.Rising) (r : RegRef) (n : Nat) : (d.addCount r n).reg r = countedReg (d.reg r) n := by
  rw [Dev.addCount_eq, Dev.reg_setReg_same _ _ _ hrising]

end

/-- Settles O22: the register an arrival leaves, and the two sums a wait compares. -/
theorem countersCount : Obligations.CountersCount := by
  unfold Obligations.CountersCount
  refine ⟨fun _ _ _ _ _ hforeign => Dev.countArrival_orphan hforeign, ?counts, ?frame, ?waits, ?follows⟩
  case counts =>
    intro d id x h hrising hhold hlate
    rw [Dev.countArrival_counts hhold hlate, if_pos rfl, Dev.reg_addCount (by exact hrising), countedReg_count]
    rfl
  case frame =>
    intro d r n hrising
    rw [Dev.reg_addCount hrising]
    refine ⟨countedReg_sat _ _, countedReg_above _ _, fun q hq => ?_⟩
    rw [Dev.addCount_eq, d.reg_setReg_ne r q _ hrising hq]
  case waits =>
    intro d id n
    simp [Dev.waitHolds, Dev.ctrCount]
  case follows =>
    intro d id n hlive
    simp [Dev.waitHolds, Dev.ctrCount, hlive]

end Sys2Proof.Machine
end

section
/-! PROOF. A line's request at its turn (R140), by the state of its line, and a request on its way to its home (R130, R138). -/
namespace Sys2Proof.Machine

section
variable {d : Dev} {k : Nat} {b : Busy}

/-! ### A request at its turn -/

/-- A request comes to its turn with nothing in the way: its line serves it, it is no write to a TIER RO region, its directory entry is
sound, and it is no recall of the home's own. -/
structure Dev.AtTurn (d : Dev) (k : Nat) (b : Busy) : Prop where
  busy : d.busyOf k = some b
  allowed : d.roRefuses b.work.req = false
  sound : b.work.req.parity ≠ 2
  asked : ∀ id, b.work.req.who ≠ .takeBack id

/-- What a request comes to in each state of its line. -/
theorem Dev.AtTurn.serve_eq (h : d.AtTurn k b) : d.serve k = match (d.lineAt k).st with
    | .inv => d.serveIdle k
    | .shared s => d.serveShared k b s
    | .held p _ => if isHolder p b.work.req then d.serveIdle k else
        (match b.work.req.op with
         | .sweep | .resync | .promote | .clean => d.serveIdle k
         | _ => d)
    | .owned p => if d.fenced p then ((d.bump Reg.LOST_DIRTY_LINES).setState k .lost).serveLost k b else d.serveOwned k b p
    | .atomic => d.serveBuffered k b
    | .lost => d.serveLost k b := by
  obtain ⟨hbusy, hallowed, hsound, hasked⟩ := h
  simp only [Dev.serve, hbusy, hallowed, Bool.false_eq_true, if_false, if_neg hsound, if_neg (hasked 6), hasked 2,
    decide_false, Bool.false_and, Dev.when, Option.getD_some] <;>
    rfl

theorem Dev.AtTurn.serve_inv (h : d.AtTurn k b) (hst : (d.lineAt k).st = .inv) : d.serve k = d.serveIdle k := by
  rw [h.serve_eq, hst]

theorem Dev.AtTurn.serve_shared {v : Sharers} (h : d.AtTurn k b) (hst : (d.lineAt k).st = .shared v) : d.serve k = d.serveShared k b v := by
  rw [h.serve_eq, hst]

theorem Dev.AtTurn.serve_owned {p : Nat} (h : d.AtTurn k b) (hst : (d.lineAt k).st = .owned p) (hlive : d.fenced p = false) :
    d.serve k = d.serveOwned k b p := by
  rw [h.serve_eq, hst]
  exact if_neg (by simp [hlive])

theorem Dev.AtTurn.serve_atomic (h : d.AtTurn k b) (hst : (d.lineAt k).st = .atomic) : d.serve k = d.serveBuffered k b := by
  rw [h.serve_eq, hst]

theorem Dev.AtTurn.serve_lost (h : d.AtTurn k b) (hst : (d.lineAt k).st = .lost) : d.serve k = d.serveLost k b := by
  rw [h.serve_eq, hst]

/-- R141: on a HELD line a requester other than the holder waits. -/
theorem Dev.AtTurn.serve_held {p q : Nat} {since : Option Nat} (h : d.AtTurn k b) (hst : (d.lineAt k).st = .held p since)
    (hwho : b.work.req.who = .port q) (hne : q ≠ p)
    (hop : b.work.req.op ∈ ([.rdShared, .rdNoalloc, .rdOwn, .wrLine, .wrPart, .wbDirty] : List HomeOp)) : d.serve k = d := by
  have hother : isHolder p b.work.req = false := by simp [isHolder, hwho, hne]
  rw [h.serve_eq, hst]
  simp only [hother, Bool.false_eq_true, if_false]
  simp only [List.mem_cons, List.not_mem_nil, or_false] at hop
  rcases hop with hop | hop | hop | hop | hop | hop <;> rw [hop]

/-! ### Served from I -/

/-- A request that takes no entry of a full directory is served from I by its kind. -/
theorem Dev.serveIdle_of_room (hbusy : d.busyOf k = some b)
    (hroom : (d.allocates b.work.req && decide ((d.lineAt k).st = .inv) && d.dirFull (homeSlice (k * 64)) k) = false) :
    (b.work.req.op.reads = true → d.serveIdle k = d.poolRead k) ∧
    (b.work.req.op = .wrLine → d.serveIdle k = if (d.poolWrite k 1 b.work.req.data).2 then (d.poolWrite k 1 b.work.req.data).1.wrote k b.work
      else (d.poolWrite k 1 b.work.req.data).1) ∧
    (∀ p, b.work.req.op = .inval → b.work.req.who = .port p →
      d.serveIdle k = ((d.setState k (.held p none)).clearBusy k).invalDone k b.work.req 0) ∧
    (b.work.req.op = .wbDirty → d.serveIdle k = ((d.bump Reg.SLAG_WB_NOT_OWNER).clearBusy k).endReq b.work.req 1) ∧
    (b.work.req.op = .evict → d.serveIdle k = d.wrote k b.work) := by
  simp only [Dev.serveIdle, hbusy, hroom]
  refine ⟨fun hop => ?_, fun hop => ?_, fun p hop hwho => ?_, fun hop => ?_, fun hop => ?_⟩
  · cases hreq : b.work.req.op <;> simp_all [HomeOp.reads]
  · simp only [hop]
  · simp only [hop, hwho]
  · simp only [hop]
  · simp only [hop]

/-- A request that allocates no entry finds room. -/
theorem Dev.room_of_not_allocates (h : d.allocates b.work.req = false) :
    (d.allocates b.work.req && decide ((d.lineAt k).st = .inv) && d.dirFull (homeSlice (k * 64)) k) = false := by
  simp [h]

theorem Dev.room_of_not_full (h : d.dirFull (homeSlice (k * 64)) k = false) :
    (d.allocates b.work.req && decide ((d.lineAt k).st = .inv) && d.dirFull (homeSlice (k * 64)) k) = false := by
  simp [h]

end

/-- Settles O9: the turn of a request in each state of its line. -/
theorem homeTable : Obligations.HomeTable := by
  unfold Obligations.HomeTable
  intro d k b hbusy hallowed hsound hasked
  have hturn : d.AtTurn k b := ⟨hbusy, hallowed, hsound, hasked⟩
  refine ⟨?read, ?write, ?inval, ?writeBack, ?held, ?shared, ?owned, ?lost⟩
  case read =>
    intro hst hop
    have hnone : d.allocates b.work.req = false := by simp [Dev.allocates, hop]
    rw [hturn.serve_inv hst, (Dev.serveIdle_of_room hbusy (Dev.room_of_not_allocates hnone)).1 (by rw [hop]; rfl)]
  case write =>
    intro hst hop
    have hnone : d.allocates b.work.req = false := by simp [Dev.allocates, hop]
    rw [hturn.serve_inv hst, (Dev.serveIdle_of_room hbusy (Dev.room_of_not_allocates hnone)).2.1 hop]
  case inval =>
    intro p hst hop hwho hfull
    rw [hturn.serve_inv hst, (Dev.serveIdle_of_room hbusy (Dev.room_of_not_full hfull)).2.2.1 p hop hwho]
  case writeBack =>
    intro hst hop
    have hnone : d.allocates b.work.req = false := by simp [Dev.allocates, hop]
    rw [hturn.serve_inv hst, (Dev.serveIdle_of_room hbusy (Dev.room_of_not_allocates hnone)).2.2.2.1 hop]
  case held => exact fun p q since hst hwho hne hop => hturn.serve_held hst hwho hne hop
  case shared =>
    intro v i e hst hop hregion howned htier
    have hown : (e.ownedWb && e.tier != 2) = true := by simp [howned, htier]
    rw [hturn.serve_shared hst]
    simp only [Dev.serveShared, hop, hregion, Option.map_some, Option.getD_some, hown, if_true]
  case owned =>
    intro p hst hlive hop
    rw [hturn.serve_owned hst hlive]
    simp only [List.mem_cons, List.not_mem_nil, or_false] at hop
    rcases hop with hop | hop | hop | hop | hop | hop <;> simp only [Dev.serveOwned, hop]
  case lost =>
    intro hst hop
    rw [hturn.serve_lost hst]
    simp only [List.mem_cons, List.not_mem_nil, or_false] at hop
    rcases hop with hop | hop | hop | hop <;> simp only [Dev.serveLost, hop]

end Sys2Proof.Machine
end

section
/-! PROOF. A single-line request that reaches a home where nothing waits is served there and then (R103, R130, R138); an INVAL is noted
with its lines first (R141). -/
namespace Sys2Proof.Machine

/-- The line of a home that holds none is idle. -/
theorem Dev.lineAt_none {d : Dev} (h : d.home.lines = []) (k : Nat) : d.lineAt k = Line.idle := by
  simp only [Dev.lineAt, h]
  rfl

/-- A request queued on a line at a home that holds none, outside a mode change, is served there and then. -/
theorem Dev.pumpLine_alone {d : Dev} {k : Nat} (q : HomeReq) (hl : d.home.lines = []) (hmode : d.flag Reg.DIR_STAT_MODE_CHANGE_BUSY = false) :
    (d.queueWork k q).pumpLine k =
      (((d.queueWork k q).onLine k (fun l => { l with queue := [], busy := some ⟨⟨q, d.time, [], false⟩, .acks [], d.time, [], false, 0, 0⟩ })).serve
        k).pump k 3 := by
  have hline : (d.queueWork k q).lineAt k = ⟨.inv, 0, none, [⟨q, d.time, [], false⟩]⟩ := by
    simp [Dev.queueWork, Dev.onLine, Dev.setLine, Dev.lineAt, hl, Tab.get, Tab.find?, Tab.put, Tab.ins, Line.norm, Line.idle]
  have hfree : (d.queueWork k q).busyOf k = none := by simp only [Dev.busyOf, hline]
  have hnext : (d.queueWork k q).nextWork k = some (⟨q, d.time, [], false⟩, []) := by simp only [Dev.nextWork, hline]
  have hgo : (d.queueWork k q).modeHolds k ⟨q, d.time, [], false⟩ = false := by
    have : (d.queueWork k q).flag Reg.DIR_STAT_MODE_CHANGE_BUSY = false := hmode
    simp only [Dev.modeHolds, this, Bool.false_and]
  have htime : (d.queueWork k q).time = d.time := rfl
  unfold Dev.pumpLine
  rw [hline]
  simp only [List.length_cons, List.length_nil]
  rw [Dev.pump, hfree, hnext]
  simp only [hgo, Bool.false_eq_true, if_false, htime]

/-- A look-up of the directory of homes that hold no line changes nothing. -/
theorem Dev.dirLooks_none {d : Dev} (hl : d.home.lines = []) (ks : List Nat) : d.each ks Dev.dirLook = d := by
  induction ks with
  | nil => rfl
  | cons k ks ih =>
    simp only [Dev.each, List.foldl_cons] at ih ⊢
    rw [Dev.dirLook_few d k (by simp [hl]), ih]

/-- One line of a request that no hold has run out on comes to its turn at a home that holds no line. -/
theorem Dev.arriveLine_alone {d : Dev} {k : Nat} {q : HomeReq} (hl : d.home.lines = [])
    (hlate : ∀ p, q.who = .port p → (k, p) ∉ d.home.lateHolds) : d.arriveLine k false q = (d.queueWork k q).pumpLine k := by
  have hhold : d.lateHold k q = d := by
    unfold Dev.lateHold
    split
    iterate 4 exact if_neg (hlate _ ‹_›)
    rfl
  have hcross : d.crossedPorts k q = none := by
    simp only [Dev.crossedPorts, Dev.busyOf, Dev.lineAt_none hl, Line.idle, Option.map_none]
  simp only [Dev.arriveLine, hhold, hcross, Bool.false_eq_true, if_false]

/-- The lines of an INVAL of one line: that line alone. -/
theorem HomeReq.lines_inval (q : HomeReq) (hcount : q.count = 0) (hop : q.op = .inval) :
    q.lines = [(q.ppa / 64, { q with ppa := q.ppa / 64 * 64, first := q.ppa / 64 * 64 })] := by
  simp [HomeReq.lines, hop, hcount, rangeFrom]

/-- The live epoch is no mark of a request of the old map (R428). -/
theorem Dev.epoch_lt (d : Dev) : d.epoch < 65536 := by
  unfold Dev.epoch Dev.get fieldOf
  exact Nat.mod_lt _ (by norm_num [Reg.COMP_STAT_LIVE_EPOCH])

/-- A single-line INVAL of a port that reaches a home which holds no line: it is admitted and lined up under the live epoch. -/
theorem Dev.atHome_inval_lineUp {d : Dev} {r : HomeReq} (hF : d.FirstAtHome r .inval) (hl : d.home.lines = []) :
    d.atHome { r with op := .inval } =
      (d.admitFlight r.who r.tag r.ppa HomeOp.inval.writes).lineUp { r with op := .inval, epoch := d.epoch, no := d.ten.admissions + 1 } := by
  obtain ⟨harr, ⟨a, hpass⟩, hcounts, hnew, -, hparity, -, hlives, -⟩ := hF
  have hnone : d.sw.arrived.findSome? (arrivedNo { r with op := .inval }) = none := by rw [harr]; rfl
  have hlook := Dev.dirLooks_none (d := d.admitFlight r.who r.tag r.ppa HomeOp.inval.writes) (by rw [Dev.admitFlight_home, hl])
  have hep := d.epoch_lt
  unfold Dev.atHome
  rw [hnone]
  dsimp only
  rw [hpass]
  dsimp only [Dev.numbered]
  rw [Dev.admitFlight_no d r.who r.tag r.ppa _ hcounts hnew]
  unfold Dev.homeArrive
  rw [Dev.admitFlight_find d r.who r.tag r.ppa _ hcounts hnew (fun f => f.no == d.ten.admissions + 1) (by simp)]
  simp only [if_neg (Nat.not_le.mpr hep), hparity, Dev.when, hlook, Dev.parksAt, hcounts, if_true, hlives,
    beq_iff_eq, Nat.zero_ne_one, if_false, show ¬ ((0 : Nat) = 5) by decide]

/-- A part with an INVAL noted at its homes (R141). -/
def Dev.noteInval (d : Dev) (w : InvalWait) : Dev := { d with home := { d.home with invals := d.home.invals ++ [w] } }

/-- A port's INVAL of one line, lined up at a home that holds no line: noted, and its line comes. -/
theorem Dev.lineUp_inval {d : Dev} {q : HomeReq} {p : Nat} (hl : d.home.lines = []) (hop : q.op = .inval) (hwho : q.who = .port p)
    (hcount : q.count = 0) : d.lineUp q = (d.noteInval ⟨p, q.tag, [q.ppa / 64], [q.ppa / 64], q, 0⟩).arriveLine (q.ppa / 64) false
      { q with ppa := q.ppa / 64 * 64, first := q.ppa / 64 * 64 } := by
  have hgroup : ∀ q' : HomeReq, d.groupOpen (q.ppa / 64) q' = false := by
    intro q'
    simp only [Dev.groupOpen, Dev.lineAt_none hl, Line.idle, List.any_nil, Bool.or_false]
  unfold Dev.lineUp
  rw [q.lines_inval hcount hop]
  simp only [hop, hwho, List.all_cons, hgroup, Bool.false_and, List.map_cons, List.map_nil, Dev.each, List.foldl_cons, List.foldl_nil]
  rfl

/-- Noted, that line is served there and then. -/
theorem Dev.lineUp_inval_served {d : Dev} {q : HomeReq} {p : Nat} (hl : d.home.lines = []) (hop : q.op = .inval) (hwho : q.who = .port p)
    (hcount : q.count = 0) (hlate : (q.ppa / 64, p) ∉ d.home.lateHolds) (hmode : d.flag Reg.DIR_STAT_MODE_CHANGE_BUSY = false) (served : HomeReq)
    (hserved : { q with ppa := q.ppa / 64 * 64, first := q.ppa / 64 * 64 } = served) :
    d.lineUp q = ((((d.noteInval ⟨p, q.tag, [q.ppa / 64], [q.ppa / 64], q, 0⟩).queueWork (q.ppa / 64) served).onLine (q.ppa / 64)
      (fun l => { l with queue := [], busy := some ⟨⟨served, d.time, [], false⟩, .acks [], d.time, [], false, 0, 0⟩ })).serve
        (q.ppa / 64)).pump (q.ppa / 64) 3 := by
  have hport : ∀ p', served.who = .port p' → (q.ppa / 64, p') ∉ d.home.lateHolds := by
    subst hserved
    intro p' hp'
    rwa [← Agent.port.inj (hwho.symm.trans hp')]
  rw [Dev.lineUp_inval hl hop hwho hcount, hserved]
  exact (Dev.arriveLine_alone (d := d.noteInval _) hl hport).trans (Dev.pumpLine_alone (d := d.noteInval _) served hl hmode)

/-- R141: a single-line INVAL that reaches such a home is noted with its line and served there and then. -/
theorem Dev.atHome_inval {d : Dev} {r : HomeReq} {p k : Nat} (hF : d.FirstAtHome r .inval) (hwho : r.who = .port p) (hl : d.home.lines = [])
    (hk : k = r.ppa / 64) : d.atHome { r with op := .inval } =
      ((({ d.turn r .inval with home := { (d.turn r .inval).home with
        invals := d.home.invals ++ [⟨p, r.tag, [k], [k], { r with op := .inval, epoch := d.epoch, no := d.ten.admissions + 1 }, 0⟩] } } :
          Dev).serve k).pump k 3) := by
  rw [Dev.atHome_inval_lineUp hF hl]
  obtain ⟨-, -, -, -, hcount, -, hlate, -, hmode⟩ := hF
  subst hk
  have hhome := d.admitFlight_home r.who r.tag r.ppa HomeOp.inval.writes
  have htime := d.admitFlight_time r.who r.tag r.ppa HomeOp.inval.writes
  simp only [Dev.turn, Dev.turnWork, ← htime]
  generalize d.admitFlight r.who r.tag r.ppa HomeOp.inval.writes = A at hhome hmode ⊢
  rw [← hhome] at hl hlate ⊢
  exact Dev.lineUp_inval_served (q := { r with op := .inval, epoch := d.epoch, no := d.ten.admissions + 1 }) hl rfl hwho hcount (hlate p hwho) hmode
    (d.turnReq r .inval) rfl

/-- Settles O8: a request that reaches a home where nothing waits is served at once, and an INVAL is noted first. -/
theorem invalServed : Obligations.InvalServed := by
  unfold Obligations.InvalServed
  refine ⟨?requests, ?inval⟩
  case requests =>
    intro x hx s r t made st d hat hF k hk hl
    subst hk
    have hserved : x.2 ≠ .inval → d.atHome { r with op := x.2 } = ((d.turn r x.2).serve (r.ppa / 64)).pump (r.ppa / 64) 3 :=
      fun hop => Dev.atHome_first d r x.2 made st hF hop hl
    simp only [List.mem_cons, List.not_mem_nil, or_false] at hx
    rcases hx with rfl | rfl | rfl | rfl | rfl | rfl | rfl | rfl | rfl | rfl | rfl | rfl <;>
      exact settles_act (fun d => d.atHome { r with op := _ }) hat (hserved (by decide))
  case inval =>
    exact fun s r p t d hat hF hwho hl k hk => settles_act (fun d => d.atHome { r with op := .inval }) hat (Dev.atHome_inval hF hwho hl hk)

end Sys2Proof.Machine
end

section
/-! PROOF. A part whose registers are not in rising order serves a WR_LINE under another map than the one its RO_WRITE refusal is asked of:
COMP_STAT is listed twice, and the admission, which shows OLD_INFLIGHT there, drops the first of the two. -/
namespace Sys2Proof.Machine

/-- A REGION entry of domain 5 over the first 512 pages, to read and write, OWNED-WB, of a TIER. -/
def tierEntry (tier : Nat) : RtEntry := ⟨41, 512 + 3 * 2 ^ 32, 2 ^ 31 + tier * 2 ^ 34, 0⟩

/-- A map with that entry alone, and port 3 bound to domain 5. -/
def tierBank (tier : Nat) : Bank := { Bank.empty with rt := [(0, tierEntry tier)], bind := [(3, 4101)] }

/-- Domain 5 owns extent 0 and its live map has no TIER, the old map TIER RO; COMP_STAT is listed twice: first with LIVE_EPOCH 1 and
OLD_INFLIGHT 1, then with LIVE_EPOCH 2. -/
def twiceListed : Dev :=
  let d := Dev.reset.setReg Reg.COMP_STAT 2
  let d := ((d.set (Reg.EXT_BASE_PAGES 0) 512).set (Reg.EXT_STATE_OWNER 0) 5).set (Reg.EXT_STATE_STATE 0) 1
  { d with
    regs := (Reg.COMP_STAT.addr, 1 + 2 ^ 24) :: d.regs
    ten := { d.ten with exts := [0], live := tierBank 0, old := some (tierBank 2) } }

/-- A WR_LINE of port 3. -/
def portWrite : HomeReq := ⟨.port 3, 9, .wrLine, 5, 0x1000, 0, 0x1000, [], 0, 0, 0, 0, 0, 0, 0, none⟩

/-- The write passes its ingress and changes nothing there. -/
theorem portWrite_passes : ∃ a, twiceListed.homeChecks portWrite = (twiceListed, .pass a) := by
  refine ⟨0x1000, Prod.ext ?_ ?_⟩
  · decide +kernel
  · decide +kernel

/-- It is the first request at its home. -/
theorem portWrite_first : twiceListed.FirstAtHome portWrite .wrLine :=
  ⟨rfl, portWrite_passes, rfl, rfl, rfl, rfl, fun _ _ => List.not_mem_nil, by decide +kernel, by decide +kernel⟩

/-- Its admission moves the epoch that the registers show. -/
theorem twiceListed_epoch_moves : twiceListed.epoch = 1 ∧ (twiceListed.turn portWrite .wrLine).epoch = 2 := by decide +kernel

/-- What the statement has its turn come to. -/
def portWriteSaid : Dev :=
  let x := (twiceListed.turn portWrite .wrLine).poolWrite (portWrite.ppa / 64) 1 portWrite.data
  (if x.2 then x.1.wrote (portWrite.ppa / 64) (twiceListed.turnWork portWrite .wrLine) else x.1).pump (portWrite.ppa / 64) 3

theorem portWrite_refused : (twiceListed.atHome portWrite).settle.reg Reg.RO_WRITE_REFUSED = 1 := by decide +kernel

theorem portWriteSaid_not_refused : portWriteSaid.settle.reg Reg.RO_WRITE_REFUSED = 0 := by decide +kernel

theorem twiceListed_at : twiceListed.at 0 = twiceListed := by decide +kernel

/-- A command settles to one part. -/
theorem Settles.unique {c : Instr} {s : State} {e e' : Dev} (h : Settles c s e) (h' : Settles c s e') : e.settle = e'.settle := by
  rw [Settles, h'] at h
  injection h with h
  injection h with _ _ _ h
  exact h.symm

/-- Refutes O7: with COMP_STAT listed twice, the admission of a WR_LINE moves the live epoch, the write is judged by the old map, whose
TIER is RO, and it is refused, where the statement, which asks the live map, has it written. -/
theorem not_requestsServed : ¬ Obligations.RequestsServed := by
  unfold Obligations.RequestsServed
  rintro ⟨-, -, -, hwrite, -⟩
  have hallowed : twiceListed.roRefuses { portWrite with op := .wrLine, epoch := twiceListed.epoch } = false := by decide +kernel
  have hsaid := hwrite ⟨[], ⟨[], 0⟩, [], twiceListed⟩ portWrite 0 _ twiceListed_at portWrite_first rfl hallowed _ rfl
  have hdone := settles_act (c := .wrLine portWrite 0) (s := ⟨[], ⟨[], 0⟩, [], twiceListed⟩) (fun d => d.atHome portWrite) twiceListed_at rfl
  have hcount := congrArg (fun d => d.reg Reg.RO_WRITE_REFUSED) (hsaid.unique hdone)
  exact absurd (portWriteSaid_not_refused.symm.trans (hcount.trans portWrite_refused)) (by decide)

end Sys2Proof.Machine
end

section
/-! PROOF. Power and thermal samples, the core rail and configuration space (R475, R513, R556 to R560). -/
namespace Sys2Proof.Machine

/-! ### The limiter -/

/-- Whether the limiter is engaged after a sample (R557): engaged, it stays so until it has been calm for `calm`; released, it engages when
it has been over for `long` or the mean is past its bound. -/
theorem limiter_on_iff {was on : Bool} {above below : Option Nat} {now n mean calm long bound : Nat}
    (h : on = true ↔ if was = true then ¬ ∃ t0 ∈ below, t0 + calm ≤ now else (∃ t0 ∈ above, t0 + long ≤ now) ∨ (n = 10 ∧ bound < mean)) :
    (if was then !below.any (fun t0 => decide (t0 + calm ≤ now))
      else above.any (fun t0 => decide (t0 + long ≤ now)) || ((n == 10) && decide (bound < mean))) = on := by
  rw [Bool.eq_iff_iff, h]
  cases was
  · cases above <;> simp
  · cases below <;> simp

/-- A sample of the input (R557). -/
theorem Dev.powerSample_on {d : Dev} {mv ma mean : Nat} {samples : List Nat} {c e g : Dev} (hrails : d.boot.rails = true) (hc : c = d.countThrottle)
    (hsamples : samples = (mv * ma / 1000 :: c.boot.limiter.samples).take 10) (hmean : mean = sumBy id samples / samples.length)
    (he : e = (c.set Reg.PWR_STAT_VIN_MV (min 65535 mv)).set Reg.PWR_STAT_IIN_10MA (min 65535 (ma / 10)))
    (hg : g = (e.set Reg.PWR_STAT_PIN_W (min 65535 (mean / 1000))).set Reg.PWR_STAT_VCORE_NOW_MV e.vcoreNow) {above below : Option Nat}
    (habove : above = (if g.capMw < mv * ma / 1000 then some (c.boot.limiter.above.getD g.time) else none))
    (hbelow : below = (if mv * ma / 1000 * 100 < g.capMw * 95 then some (c.boot.limiter.below.getD g.time) else none)) {on : Bool}
    (hon : on = true ↔ if c.boot.limiter.on = true then ¬ ∃ t0 ∈ below, t0 + 1_000_000 ≤ g.time
      else (∃ t0 ∈ above, t0 + 8_000_000 ≤ g.time) ∨ (samples.length = 10 ∧ 1_850_000 < mean)) {counted : Nat}
    (hcounted : counted = (if on = true ∧ c.boot.limiter.on = false then g.time else c.boot.limiter.counted)) :
    d.powerSample mv ma = ({ g with boot := { g.boot with limiter := ⟨samples, above, below, on, counted⟩ } } : Dev).set Reg.THERM_STAT_THROTTLE
      (if on then 1 else 0) := by
  have hkept : counted = if on && !c.boot.limiter.on then g.time else c.boot.limiter.counted := by
    rw [hcounted]
    cases on <;> cases c.boot.limiter.on <;> rfl
  unfold Dev.powerSample
  simp only [hrails, Bool.not_true, Bool.false_eq_true, if_false, ← hc, ← hsamples, ← hmean, ← he, ← hg, ← habove, ← hbelow]
  -- The limits become variables: the kernel would count the numerals out where it compares the two sides.
  obtain ⟨calm, hcalm⟩ : ∃ n, n = 1_000_000 := ⟨_, rfl⟩
  obtain ⟨long, hlong⟩ : ∃ n, n = 8_000_000 := ⟨_, rfl⟩
  obtain ⟨bound, hbound⟩ : ∃ n, n = 1_850_000 := ⟨_, rfl⟩
  simp only [← hcalm, ← hlong, ← hbound] at hon ⊢
  rw [hkept, ← limiter_on_iff hon]
  cases above <;> cases below <;> dsimp only [Option.any_none, Option.any_some, Dev.limiterTo]

/-! ### The hottest sensor -/

/-- Whether a reading and its number are the hottest of a list, and the first that is. -/
def FirstMax (xs : List Int) (b : Int × Nat) : Prop := xs[b.2]? = some b.1 ∧ (∀ x ∈ xs, x ≤ b.1) ∧ ∀ j < b.2, xs[j]? ≠ some b.1

/-- One more reading keeps the first hottest one, unless it is hotter. -/
theorem FirstMax.snoc {seen : List Int} {b : Int × Nat} (h : FirstMax seen b) (x : Int) :
    FirstMax (seen ++ [x]) (if b.1 < x then (x, seen.length) else b) := by
  obtain ⟨hat, hmax, hfirst⟩ := h
  have hlt : b.2 < seen.length := (List.getElem?_eq_some_iff.mp hat).1
  split
  · next hx =>
    refine ⟨by simp, fun y hy => ?_, fun j hj => ?_⟩
    · rcases List.mem_append.mp hy with hy | hy
      · exact (hmax y hy).trans hx.le
      · simp_all
    · intro heq
      rw [List.getElem?_append_left hj] at heq
      exact absurd (hmax x (List.mem_of_getElem? heq)) (not_le.mpr hx)
  · next hx =>
    refine ⟨by rw [List.getElem?_append_left hlt, hat], fun y hy => ?_, fun j hj => ?_⟩
    · rcases List.mem_append.mp hy with hy | hy
      · exact hmax y hy
      · simp_all
    · rw [List.getElem?_append_left (hj.trans hlt)]
      exact hfirst j hj

/-- A search that has seen `seen` ends at the first hottest of all. -/
theorem FirstMax.scan (xs : List Int) {seen : List Int} {b : Int × Nat} (h : FirstMax seen b) :
    FirstMax (seen ++ xs) ((xs.zip (rangeFrom seen.length xs.length)).foldl (fun (b : Int × Nat) (x : Int × Nat) => if b.1 < x.1 then x else b) b) := by
  induction xs generalizing seen b with
  | nil => simpa [rangeFrom] using h
  | cons x xs ih =>
    have hnext := ih (h.snoc x)
    rw [List.append_assoc, List.length_append] at hnext
    exact hnext

/-- R560: the hottest reading, and the first sensor that has it. -/
theorem hottest_spec {temps : List Int} {tj : Int} {k : Nat} (hne : temps ≠ []) (h : hottest temps = (tj, k)) :
    temps[k]? = some tj ∧ (∀ x ∈ temps, x ≤ tj) ∧ (∀ j < k, temps[j]? ≠ some tj) := by
  cases temps with
  | nil => exact absurd rfl hne
  | cons x xs =>
    have hone : FirstMax [x] (x, 0) := ⟨rfl, by simp, by simp⟩
    have hall := hone.scan xs
    have hsearch : hottest (x :: xs) =
        (xs.zip (rangeFrom 1 xs.length)).foldl (fun (b : Int × Nat) (x : Int × Nat) => if b.1 < x.1 then x else b) (x, 0) := by
      simp [hottest, rangeFrom]
    rw [List.length_singleton, ← hsearch, h] at hall
    exact hall

/-- A sample of the 64 sensors (R559, R560). -/
theorem Dev.thermalSample_on {d : Dev} {temps : List Nat} {sensor : Nat} {bs : List Nat} {tj warn : Int} {e f : Dev} (hrails : d.boot.rails = true)
    (hbs : bs = (padBytes 64 (temps.map (BitVec.ofNat 8))).map BitVec.toNat) (htj : tj = (hottest (bs.map (signedOf 8))).1)
    (hsensor : sensor = (hottest (bs.map (signedOf 8))).2)
    (he : e = (({ d with boot := { d.boot with temps := bs } } : Dev).set Reg.THERM_STAT_TJ_MAX (unsignedOf 8 tj)).set Reg.THERM_STAT_HOT_SENSOR sensor)
    (hwarn : warn = ((clampTo 60 105 (e.get Reg.THERM_CFG_WARN_C) : Nat) : Int))
    (hf : f = (if warn < tj then e.set Reg.GSTAT_THERMAL_WARN 1 else if tj ≤ warn - 3 then e.set Reg.GSTAT_THERMAL_WARN 0 else e)) :
    d.thermalSample temps = if 115 < tj then (if f.flag Reg.THERM_STAT_TRIP then f else f.bump Reg.TRIP_COUNT).set Reg.THERM_STAT_TRIP 1
      else if tj < 110 then f.set Reg.THERM_STAT_TRIP 0 else f := by
  have hsample : d.thermalSample temps = if 115 < tj then (f.when (!f.flag Reg.THERM_STAT_TRIP) (fun d => d.bump Reg.TRIP_COUNT)).set
      Reg.THERM_STAT_TRIP 1 else if tj < 110 then f.set Reg.THERM_STAT_TRIP 0 else f := by
    subst hbs htj hsensor he hwarn hf
    unfold Dev.thermalSample
    exact if_neg (by simp [hrails])
  rw [hsample]
  cases f.flag Reg.THERM_STAT_TRIP <;> rfl

/-! ### Configuration space -/

/-- Before the image has been applied a request draws Request Retry Status (R513). -/
theorem Dev.configRequest_retry {d : Dev} {fn : Nat} {x : CfgField} {w : Option Nat} (hup : d.pcieUp = true) (himg : d.flag Reg.IMG_STAT_APPLIED = false) :
    d.configRequest fn x w = d.toHost (.retry fn) := by
  unfold Dev.configRequest
  simp only [hup, himg, Bool.not_true, Bool.not_false, Bool.false_eq_true, if_false, if_true]

/-- A function answers: PF0 always, a VF while VF Enable is set. -/
theorem Dev.config_answers {d : Dev} {fn : Nat} (h : fn = 0 ∨ d.host.vfEnable = true) : (fn != 0 && !d.host.vfEnable) = false := by
  rcases h with h | h <;> simp [h]

theorem Dev.configRequest_read {d : Dev} {fn : Nat} {x : CfgField} {bs : List Byte} (hup : d.pcieUp = true) (himg : d.flag Reg.IMG_STAT_APPLIED = true)
    (hfn : fn = 0 ∨ d.host.vfEnable = true)
    (h : (x, bs) ∈ [(CfgField.vendorId, natBytes 2 (d.get Reg.IDENT_VENDOR_CODE)), (.deviceId, natBytes 2 (if fn = 0 then 0x0A09 else 0x0A19)),
      (.classCode, natBytes 3 0x12_0000), (.vfEnable, natBytes 1 (if d.host.vfEnable then 1 else 0)),
      (.completionTimeout, natBytes 1 (Tab.get 0 d.boot.config fn))]) : d.configRequest fn x none = d.toHost (.reply fn bs) := by
  unfold Dev.configRequest
  simp only [hup, himg, Dev.config_answers hfn, Bool.not_true, Bool.false_eq_true, if_false]
  simp only [List.mem_cons, Prod.mk.injEq, List.not_mem_nil, or_false] at h
  rcases h with ⟨rfl, rfl⟩ | ⟨rfl, rfl⟩ | ⟨rfl, rfl⟩ | ⟨rfl, rfl⟩ | ⟨rfl, rfl⟩ <;> rfl

theorem Dev.configRequest_write {d e : Dev} {fn : Nat} {x : CfgField} {v : Nat} (hup : d.pcieUp = true) (himg : d.flag Reg.IMG_STAT_APPLIED = true)
    (hfn : fn = 0 ∨ d.host.vfEnable = true)
    (he : e = (if x = .vfEnable ∧ fn = 0 then { d with host := { d.host with vfEnable := v % 2 == 1 } }
      else if x = .completionTimeout then { d with boot := { d.boot with config := Tab.put 0 d.boot.config fn (v % 16) } } else d)) :
    d.configRequest fn x (some v) = e.toHost (.reply fn []) := by
  subst he
  unfold Dev.configRequest
  simp only [hup, himg, Dev.config_answers hfn, Bool.not_true, Bool.false_eq_true, if_false]
  cases x with
  | vfEnable => by_cases hpf : fn = 0 <;> simp [hpf, Dev.when]
  | completionTimeout => simp
  | vendorId | deviceId | classCode | other => simp

/-- Settles O55: each sample, the rail and each request by its own lemma. -/
theorem powerAndCooling : Obligations.PowerAndCooling := by
  unfold Obligations.PowerAndCooling
  refine ⟨?power, ?throttle, ?thermal, ?hottest, ?rail, ?ramp, ?retry, ?read, ?write⟩
  case power =>
    exact fun s mv ma t mean samples d c e g hat hrails hc hsamples hmean he hg above habove below hbelow on hon counted hcounted =>
      settles_act (fun d => d.powerSample mv ma) hat (Dev.powerSample_on hrails hc hsamples hmean he hg habove hbelow hon hcounted)
  case throttle =>
    intro d us hus l hl
    subst hus hl
    rfl
  case thermal =>
    exact fun s temps t sensor bs tj warn d e f hat hrails hbs htj hsensor he hwarn hf =>
      settles_act (fun d => d.thermalSample temps) hat (Dev.thermalSample_on hrails hbs htj hsensor he hwarn hf)
  case hottest => exact fun temps tj k hne h => hottest_spec hne h
  case rail => exact fun s mv t d hat hup => settles_bar (fun d => d.vcoreWrite mv.toNat) hat hup rfl
  case ramp =>
    intro d us hus
    subst hus
    rfl
  case retry => exact fun s fn x w t d hat hup himg => settles_act (fun d => d.configRequest fn.val x w) hat (Dev.configRequest_retry hup himg)
  case read =>
    exact fun s fn x bs t d hat hup himg hfn h => settles_act (fun d => d.configRequest fn.val x none) hat (Dev.configRequest_read hup himg hfn h)
  case write =>
    exact fun s fn x v t d e hat hup himg hfn he =>
      settles_act (fun d => d.configRequest fn.val x (some v)) hat (Dev.configRequest_write hup himg hfn he)

end Sys2Proof.Machine
end

section
/-! PROOF. The host interface (R14, R15, R40, R477, R479, R481): BAR2, host reads, Function Level Reset, and accesses of BAR0. -/
namespace Sys2Proof.Machine

/-! ### BAR2 -/

/-- A write of PF0 within the bytes that its region maps lands there whole. -/
theorem Dev.bar2_write {d : Dev} {a len : Nat} {bs : List Byte} (hup : d.pcieUp = true) (hfit : a + bs.length ≤ d.mapped 0)
    (hlow : a + bs.length ≤ 0x1000_0000) : d.bar2 0 a len (some bs) = d.writeMem (d.regionBase 0 + a) bs := by
  have htake : bs.take (d.mapped 0 - a) = bs := List.take_of_length_le (by omega)
  simp only [Dev.bar2, hup, bne_self_eq_false, Bool.not_true, Bool.false_and, Bool.or_self, Bool.false_eq_true, if_false, if_pos hlow, htake]

/-- A read of PF0 there, with sound ECC, is answered with those bytes. -/
theorem Dev.bar2_read {d : Dev} {a len : Nat} (hup : d.pcieUp = true) (hfit : a + len ≤ d.mapped 0) (hlow : a + len ≤ 0x1000_0000)
    (hsound : d.upset = []) : d.bar2 0 a len none = d.toHost (.reply 0 (padBytes len (d.readMem (d.regionBase 0 + a) len))) := by
  have hmin : min len (d.mapped 0 - a) = len := by omega
  simp only [Dev.bar2, hup, bne_self_eq_false, Bool.not_true, Bool.false_and, Bool.or_self, Bool.false_eq_true, if_false, if_pos hlow, hmin,
    Dev.answerBar2, Dev.readEcc_sound _ _ _ hsound]

/-! ### Host reads -/

section
variable {d : Dev} {tag tile g : Nat} {r : HostRead}

theorem Dev.hostCompletion_data {z : Fuses} {bs : List Byte} (hread : d.host.reads.find? (fun r => r.tag == tag) = some r)
    (huse : r.use = .operator tile g) : d.hostCompletion z tag (some bs) =
      (({ d with host := { d.host with reads := d.host.reads.filter (fun x => x.tag != tag) } } : Dev).sendLines .host (.tile tile) (g % tagSpace)
        (ownTc 2) r.fn 0 (padBytes r.len bs) (.came g 0 (padBytes r.len bs))) := by
  simp only [Dev.hostCompletion, Dev.hostReadDone, hread, huse]

theorem Dev.hostCompletion_failed {z : Fuses} (hread : d.host.reads.find? (fun r => r.tag == tag) = some r)
    (huse : r.use = .operator tile g) : d.hostCompletion z tag none =
      ((({ d with host := { d.host with reads := d.host.reads.filter (fun x => x.tag != tag) } } : Dev).hostFailed r.fn).sendLines .host (.tile tile)
        (g % tagSpace) (ownTc 2) r.fn 1 [] (.came g 1 [])) := by
  simp only [Dev.hostCompletion, Dev.hostReadDone, hread, huse]

end

/-! ### Function Level Reset -/

/-- The rings left by the reset of a VF: its own are idle, and idle rings are not listed. -/
def Dev.ringsReset (d : Dev) (fn : Nat) : List (Nat × Ring) :=
  (d.host.rings.map (fun r => if r.1 / 64 == fn then (r.1, { Ring.idle with gen := r.2.gen }) else r)).filter
    (fun r => decide (r.2 ≠ Ring.idle))

section
variable {d : Dev} {fn : Nat}

theorem Dev.functionReset_host (hvf : fn ≠ 0) (hheats : d.heats.list = []) :
    (d.functionReset fn).host.started = d.host.started.filter (fun s => !(s.cmd.fn.val == fn)) ∧
    (d.functionReset fn).host.rings = d.ringsReset fn := by
  simp only [Dev.functionReset, hheats, List.filter_nil, Dev.each_nil, Dev.when, beq_eq_false_iff_ne.mpr hvf, Bool.false_eq_true, if_false,
    Dev.zeroMem_host, Bool.false_or]
  split <;> exact ⟨rfl, rfl⟩

theorem Dev.ringsReset_mine {x : Nat × Ring} (hx : x ∈ d.ringsReset fn) (hmine : x.1 / 64 = fn) : x.2.en = false := by
  obtain ⟨y, -, hy⟩ := List.mem_map.mp (List.mem_filter.mp hx).1
  split at hy
  · subst hy
    simp [Ring.en, Ring.idle, bitOf]
  · next hother => subst hy; simp [hmine] at hother

theorem Dev.mem_ringsReset {x : Nat × Ring} (hx : x ∈ d.host.rings) (hother : x.1 / 64 ≠ fn) (hset : x.2 ≠ Ring.idle) :
    x ∈ d.ringsReset fn := by
  refine List.mem_filter.mpr ⟨List.mem_map.mpr ⟨x, hx, if_neg (by simp [hother])⟩, by simpa using hset⟩

/-- A cleared range reads as unwritten, whatever the order of the cells. -/
theorem Memory.read_cleared {b : Byte} (m : List (Nat × Byte)) {a n x : Nat} (hlo : a ≤ x) (hhi : x < a + n) :
    Memory.read b (Memory.clear m a n) x = b := by
  induction m with
  | nil => rfl
  | cons c m ih =>
    rw [Memory.clear_cons]
    split
    · next hout =>
      rw [Memory.read_cons, if_neg (by omega), ih, ite_self]
    · exact ih

/-- What the ring regions' places and sizes are read from is another register than WPUSH_STAT. -/
theorem Dev.region_set_wpush (h : d.Rising) (v : Nat) : (d.set Reg.WPUSH_STAT_BUSY v).regionBase fn = d.regionBase fn ∧
    (d.set Reg.WPUSH_STAT_BUSY v).mapped fn = d.mapped fn := by
  have hbase := Dev.get_set_other h (f := Reg.WPUSH_STAT_BUSY) (g := Reg.FORGE_AREA_BASE_2M 0) v (by decide)
  have hsize := Dev.get_set_other h (f := Reg.WPUSH_STAT_BUSY) (g := Reg.FORGE_AREA_SIZE_2M 0) v (by decide)
  simp only [Dev.regionBase, Dev.mapped, Dev.regionSize, Dev.vfRegion, Dev.areaBase, Dev.areaSize, hbase, hsize, and_self]

/-- The region of a VF that is reset reads zero. -/
theorem Dev.functionReset_zeroes (hvf : fn ≠ 0) (hheats : d.heats.list = []) (h : d.Rising) {a : Nat} (hlo : d.regionBase fn ≤ a)
    (hhi : a < d.regionBase fn + d.mapped fn) : (d.functionReset fn).readMem a 1 = [0#8] := by
  obtain ⟨hbase, hsize⟩ := Dev.region_set_wpush (fn := fn) h 0
  have hclear : (d.functionReset fn).dmem = Memory.clear d.dmem (d.regionBase fn) (d.mapped fn) := by
    simp only [Dev.functionReset, hheats, List.filter_nil, Dev.each_nil, Dev.when, beq_eq_false_iff_ne.mpr hvf, Bool.false_eq_true, if_false]
    split
    · exact congrArg₂ (Memory.clear d.dmem) hbase hsize
    · rfl
  rw [Dev.readMem, hclear, Memory.readN, Memory.read_cleared _ hlo hhi]
  rfl

end

/-! ### Accesses of BAR0 -/

section
variable {d : Dev}

/-- R39: PF0's write of a whole register that no other rule takes sets its RW bits and clears its RW1C bits. -/
theorem Dev.registerWrite_plain {z : Fuses} {a : Nat} {v : Word} {r : RegRow} {is : List Nat} (hup : d.pcieUp = true) (halign : a % 8 = 0)
    (hreg : Reg.find a = some (r, is)) (hlive : d.deadPort r is = false) {m : Nat} (hm : m = Nat.land (2 ^ 64 - 1) (r.mask (fun _ => true)))
    (hport : d.portWrite r is a v.toNat m = none) (hmap : d.mapWrite r is a v.toNat m = none) (hsec : d.secWrite z r is v.toNat m = none)
    (hfn : d.fnWrite r is v.toNat m = none) :
    d.registerWrite z 0 a 8 v.toNat = d.setReg ⟨a, r.rst⟩ (r.written (d.reg ⟨a, r.rst⟩) v.toNat m) := by
  subst hm
  have hopen : (d.barOpen 0 && barSized a 8) = true := by simp [Dev.barOpen, barSized, hup, halign]
  have haddr : barAddr 0 a = some a := rfl
  simp only [Dev.registerWrite, hopen, haddr, if_true, Nat.mod_eq_of_lt v.isLt, Dev.regWrite, hreg, hlive, Bool.false_eq_true, if_false, hport, hmap,
    hsec, hfn, Option.orElse_none, Dev.plainWrite]

theorem Dev.registerWrite_odd {z : Fuses} {fn a n v : Nat} (h : barSized a n = false) : d.registerWrite z fn a n v = d := by
  simp only [Dev.registerWrite, h, Bool.and_false]

theorem Dev.barRead_register {fn a b n : Nat} (hup : d.pcieUp = true) (hfn : fn = 0 ∨ d.host.vfEnable = true) (hn : n = 4 ∨ n = 8)
    (halign : a % n = 0) (haddr : barAddr fn a = some b) : d.barRead fn a n = ((natBytes 8 (d.regRead (b / 8 * 8))).drop (b % 8)).take n := by
  have hopen : (d.barOpen fn && barSized a n) = true := by
    rcases hfn with rfl | hvf <;> rcases hn with rfl | rfl <;> simp [Dev.barOpen, barSized, *]
  simp only [Dev.barRead, hopen, haddr]

theorem Dev.barRead_other {fn a n : Nat} (h : (n ≠ 4 ∧ n ≠ 8) ∨ a % n ≠ 0 ∨ barAddr fn a = none) : d.barRead fn a n = List.replicate n 0#8 := by
  rcases h with ⟨h4, h8⟩ | halign | haddr
  · simp [Dev.barRead, barSized, h4, h8]
  · have hodd : barSized a n = false := by
      by_cases h8 : n = 8 <;> by_cases h4 : n = 4 <;> simp_all [barSized]
    simp only [Dev.barRead, hodd, Bool.and_false]
  · simp only [Dev.barRead, haddr]
    cases d.barOpen fn && barSized a n <;> rfl

end

/-! ### The bits of a register written -/

/-- The bits that a mask of 64 bits leaves out. -/
theorem testBit_mask_compl {m i : Nat} (h : m < 2 ^ 64) : (2 ^ 64 - 1 - m).testBit i = (decide (i < 64) && !m.testBit i) := by
  rw [Nat.sub_sub, Nat.add_comm 1 m, Nat.testBit_two_pow_sub_succ h]

/-- R15: an RW bit written takes the value, an RW1C bit written with 1 clears, every other bit stays. -/
theorem RegRow.bitOf_written (r : RegRow) {old v m : Nat} (i : Nat) (hold : old < 2 ^ 64) (hv : v < 2 ^ 64) (hm : m < 2 ^ 64) :
    bitOf (r.written old v m) i =
      if bitOf m i && bitOf (r.mask (fun x => x == .rw)) i then bitOf v i
      else bitOf old i && !(bitOf v i && bitOf m i && bitOf (r.mask (fun x => x == .w1c)) i) := by
  have hrw : Nat.land m (r.mask (fun x => x == .rw)) < 2 ^ 64 := Nat.lt_of_le_of_lt Nat.and_le_left hm
  have hclear : Nat.land (Nat.land v m) (r.mask (fun x => x == .w1c)) < 2 ^ 64 :=
    Nat.lt_of_le_of_lt (Nat.and_le_left.trans Nat.and_le_left) hv
  have hbits : (r.written old v m).testBit i =
      (old.testBit i && (decide (i < 64) && !(m.testBit i && (r.mask (fun x => x == .rw)).testBit i)) &&
        (decide (i < 64) && !(v.testBit i && m.testBit i && (r.mask (fun x => x == .w1c)).testBit i)) ||
        v.testBit i && (m.testBit i && (r.mask (fun x => x == .rw)).testBit i)) := by
    simp only [RegRow.written, show ∀ x y, Nat.lor x y = x ||| y from fun _ _ => rfl, show ∀ x y, Nat.land x y = x &&& y from fun _ _ => rfl,
      Nat.testBit_or, Nat.testBit_and] at hrw hclear ⊢
    rw [testBit_mask_compl hrw, testBit_mask_compl hclear]
    simp only [Nat.testBit_and]
  simp only [bitOf_eq_testBit, hbits]
  by_cases hi : i < 64
  · simp only [hi, decide_true, Bool.true_and]
    cases old.testBit i <;> cases v.testBit i <;> cases m.testBit i <;> cases (r.mask (fun x => x == .rw)).testBit i <;> simp
  · have hhigh : ∀ x < 2 ^ 64, x.testBit i = false := fun x hx =>
      Nat.testBit_lt_two_pow (hx.trans_le (Nat.pow_le_pow_right (by decide) (Nat.not_lt.mp hi)))
    simp [hhigh old hold, hhigh v hv]

/-- Settles O50: each access by its own lemma. -/
theorem hostReaches : Obligations.HostReaches := by
  unfold Obligations.HostReaches
  refine ⟨?bar2Write, ?bar2Read, ?readData, ?readFailed, ?reset, ?register, ?odd, ?read, ?readOther, ?bits⟩
  case bar2Write =>
    exact fun s fn a len t bs d hat hup hfn hfit hlow => settles_act (fun d => d.bar2 fn.val a len (some bs)) hat
      (by rw [hfn]; exact Dev.bar2_write hup hfit hlow)
  case bar2Read =>
    exact fun s fn a len t d hat hup hfn hfit hlow hsound => settles_act (fun d => d.bar2 fn.val a len none) hat
      (by rw [hfn]; exact Dev.bar2_read hup hfit hlow hsound)
  case readData =>
    exact fun s tag tile g t r bs d hat hread huse => settles_act (fun d => d.hostCompletion s.fuse tag (some bs)) hat
      (Dev.hostCompletion_data hread huse)
  case readFailed =>
    exact fun s tag tile g t r d hat hread huse => settles_act (fun d => d.hostCompletion s.fuse tag none) hat
      (Dev.hostCompletion_failed hread huse)
  case reset =>
    intro s fn t d e hat hvf hheats he
    subst he
    obtain ⟨hstarted, hrings⟩ := Dev.functionReset_host hvf hheats
    refine ⟨settles_act (fun d => d.functionReset fn.val) hat rfl, fun x hx => ?_, fun x hx hmine => ?_, fun x hx hother hset => ?_, ?_⟩
    · rw [hstarted] at hx
      simpa using (List.mem_filter.mp hx).2
    · exact Dev.ringsReset_mine (hrings ▸ hx) hmine
    · exact hrings ▸ Dev.mem_ringsReset hx hother hset
    · exact fun a hlo hhi h => Dev.functionReset_zeroes hvf hheats h hlo hhi
  case register =>
    exact fun s fn a t v r is d hat hup hfn halign hreg hlive m hm hport hmap hsec hwrite =>
      settles_act (fun d => d.registerWrite s.fuse fn.val a 8 v.toNat) hat
        (by rw [hfn]; exact Dev.registerWrite_plain hup halign hreg hlive hm hport hmap hsec hwrite)
  case odd =>
    exact fun s fn a n t v d hat hodd => settles_act (fun d => d.registerWrite s.fuse fn.val a n v.toNat) hat (Dev.registerWrite_odd hodd)
  case read => exact fun d fn a b n hup hfn hn halign haddr => Dev.barRead_register hup hfn hn halign haddr
  case readOther => exact fun d fn a n h => Dev.barRead_other h
  case bits => exact fun r old v m i hold hv hm => r.bitOf_written i hold hv hm

end Sys2Proof.Machine
end

section
/-! PROOF. Messages of the partners at their engines: operator writes (R62, R146), the answers of trays and of requesters (R105, R120, R121,
R134, R140, R298), and management (R104, R107, R463). -/
namespace Sys2Proof.Machine

/-! ### Operator writes -/

section
variable {d : Dev} {p : Nat} {m : Msg}

/-- An admitted operator write is in flight under the number by which it is found (R418). -/
theorem Dev.admitOps_flying (d : Dev) (p tag : Nat) :
    (d.admitOps p tag).ten.flight.any (fun f => f.isOf (.port p) tag && f.no == (d.admitOps p tag).flightNo (.port p) tag) = true := by
  have hthere : ∃ f ∈ (d.admitOps p tag).ten.flight, f.isOf (.port p) tag = true := by
    unfold Dev.admitOps
    split
    · next hin =>
      obtain ⟨f, hf, hmine⟩ := List.any_eq_true.mp hin
      exact ⟨f, hf, (Bool.and_eq_true_iff.mp hmine).1⟩
    · exact ⟨_, List.mem_append_right _ (List.mem_singleton_self _), by simp [Flight.isOf]⟩
  obtain ⟨f, hfound⟩ := Option.isSome_iff_exists.mp (List.find?_isSome.mpr hthere)
  refine List.any_eq_true.mpr ⟨f, List.mem_of_find?_eq_some hfound, ?_⟩
  have hmine := List.find?_some hfound
  simp only [Dev.flightNo, hfound, hmine, Option.map_some, Option.getD_some, beq_self_eq_true, Bool.and_self]

theorem none_arrived {α : Type} {d : Dev} (f : Arrival → Option α) (h : d.sw.arrived = []) : d.sw.arrived.findSome? f = none := by
  rw [h]
  rfl

/-- R62, R146: an operator write to device memory that names no counter. -/
theorem Dev.opsWrite_lands {gen : Nat} (hnone : d.sw.arrived = []) (hlive : d.fenced p = false) (hdom : d.boundDom p = some m.domain)
    (hord : m.ord ≠ 1) (hallowed : d.opsAllowed m.domain m = true) (hspace : m.space ≠ 0) (hcounter : counterId m.ctrKind m.ctr = none) :
    d.opsWrite p m gen = (((d.admitOps p m.tag).writeMem m.addr (chunksBytes m.data)).sendMsg (.forge (stackOf m.addr)) p (rspMsg 0 m.tag m.tc 0)
      m.domain).endFlight (.port p) m.tag := by
  have hfree : d.mustHold p m = false := by simp [Dev.mustHold, hord]
  have hflying := d.admitOps_flying p m.tag
  simp only [Dev.opsWrite, none_arrived _ hnone, hlive, hdom, hfree, hallowed, bne_self_eq_false, Bool.not_true, Bool.false_eq_true, if_false,
    Dev.opsLand, if_neg hspace, hcounter, Dev.opsAnswer, Dev.writeMem_ten, hflying]

/-- R418: one of a foreign domain. -/
theorem Dev.opsWrite_foreign {gen : Nat} (hnone : d.sw.arrived = []) (hlive : d.fenced p = false) (hdom : d.boundDom p ≠ some m.domain) :
    d.opsWrite p m gen = (d.bump Reg.DOMAIN_MISMATCH).cmpTo p m 1 := by
  simp only [Dev.opsWrite, none_arrived _ hnone, hlive, bne_iff_ne, ne_eq, hdom, not_false_eq_true, if_true, Bool.false_eq_true, if_false]

end

/-- Settles O10: the write that lands and the one of a foreign domain. -/
theorem operatorWriteLands : Obligations.OperatorWriteLands := by
  unfold Obligations.OperatorWriteLands
  refine ⟨?lands, ?foreign⟩
  case lands =>
    exact fun s p m gen t d hat hnone hlive hdom hord hallowed hspace hcounter => settles_act (fun d => d.opsWrite p.val m gen) hat
      (Dev.opsWrite_lands hnone hlive hdom hord hallowed hspace hcounter)
  case foreign =>
    exact fun s p m gen t d hat hnone hlive hdom => settles_act (fun d => d.opsWrite p.val m gen) hat (Dev.opsWrite_foreign hnone hlive hdom)

/-! ### Answers at their engines -/

section
variable {d : Dev} {p : Nat} {m : Msg}

/-- A live port's message comes to its engine now where none has arrived through the switch. -/
theorem Dev.fromPort_live (f : Dev → Dev) (hnone : d.sw.arrived = []) (hlive : d.fenced p = false) : d.fromPort p m f = f d := by
  simp only [Dev.fromPort, hnone, List.any_nil, hlive, Bool.false_eq_true, if_false]

/-- A partner's message to an engine settles what its meaning makes of the part. -/
theorem settles_port {c : Instr} {s : State} {t : Nat} {e : Dev} (f : Dev → Dev) (hat : s.dev.at t = d) (hnone : d.sw.arrived = [])
    (hlive : d.fenced p = false) (hf : f d = e) (harm : exec c s = act s t (fun d => d.fromPort p m f) := by rfl) : Settles c s e :=
  settles_act (fun d => d.fromPort p m f) hat ((Dev.fromPort_live f hnone hlive).trans hf) harm

/-- The parity failure that a message's own row reports, as an event of a bank of the port's die (R121, R451). -/
theorem Dev.coreParity_eq (d : Dev) (p : Nat) :
    d.coreParity p = (d.fresh 6).2.temperEvent 2 (64 * (d.fresh 6).2.portDie p + (d.fresh 6).1) := rfl

theorem Dev.outOf_coreParity (d : Dev) (p q tag : Nat) : (d.coreParity p).outOf q tag = d.outOf q tag := by
  rw [Dev.coreParity_eq, Dev.outOf, Dev.temperEvent_home]
  rfl

/-- R105: DATA in good order go to the line of the request whose TAG they carry. -/
theorem Dev.trayData_sound {o : Out} {mirror : Bool} (hout : d.outOf p m.tag = some o) (huse : o.use = .read mirror) :
    d.trayData p m false = (d.dropOut o).trayLine o mirror m := by
  simp only [Dev.trayData, hout, huse, Bool.false_eq_true, if_false]

/-- R121: DATA whose parity failed in the core are asked for again. -/
theorem Dev.trayData_failed {o : Out} {mirror : Bool} (hout : d.outOf p m.tag = some o) (huse : o.use = .read mirror) (htries : o.tries < 3) :
    d.trayData p m true = (d.bump (Reg.E2E_REPLAY p)).resend o o.msg := by
  simp only [Dev.trayData, hout, huse, if_true, if_pos htries]

/-- R120: the old value of a memory-side atomic. -/
theorem Dev.trayAtomic_sound {o : Out} (hout : d.outOf p m.tag = some o) (huse : o.use = .memside) (hok : m.status = 0) :
    d.trayAtomic p m false = (d.dropOut o).memsideDone o.line p (chunksBytes (m.data.take 1)) := by
  simp only [Dev.trayAtomic, hout, huse, hok, Bool.false_eq_true, if_false, bne_self_eq_false]

/-- R105: a CMP ends the copy of a write. -/
theorem Dev.cmpCame_write {o : Out} {copy : Nat} (hout : d.outOf p m.tag = some o) (huse : o.use = .write copy) (hok : m.status = 0) :
    d.cmpCame p m = (d.dropOut o).copyDone o.line o.port 0 := by
  simp only [Dev.cmpCame, hout, huse, Dev.trayCmp, hok, Dev.when, Nat.zero_ne_one, beq_iff_eq, if_false]

end

/-- Settles O11: each answer at its engine. -/
theorem trayAnswers : Obligations.TrayAnswers := by
  unfold Obligations.TrayAnswers
  refine ⟨?data, ?failed, ?atomic, ?write⟩
  case data =>
    exact fun s p m t o mirror d hat hnone hlive hout huse => settles_port (fun d => (d.when false (fun d => d.coreParity p.val)).trayData p.val m false)
      hat hnone hlive (Dev.trayData_sound hout huse)
  case failed =>
    intro s p m t o mirror d hat hnone hlive e he hout huse htries
    refine settles_port (fun d => (d.when true (fun d => d.coreParity p.val)).trayData p.val m true) hat hnone hlive ?_
    rw [he, ← Dev.coreParity_eq]
    exact Dev.trayData_failed ((Dev.outOf_coreParity d p.val p.val m.tag).trans hout) huse htries
  case atomic =>
    exact fun s p m t o d hat hnone hlive hout huse hok => settles_port
      (fun d => (d.when false (fun d => d.coreParity p.val)).trayAtomic p.val m false) hat hnone hlive (Dev.trayAtomic_sound hout huse hok)
  case write =>
    exact fun s p m t copy o d hat hnone hlive hout huse hok => settles_port (fun d => d.cmpCame p.val m) hat hnone hlive
      (Dev.cmpCame_write hout huse hok)

/-! ### The answers of a requester -/

section
variable {d : Dev} {p : Nat} {m : Msg}

theorem mem_of_mem_dropFirst {α : Type} {f : α → Bool} {l : List α} {x : α} (hx : x ∈ dropFirst f l) : x ∈ l := by
  induction l with
  | nil => exact hx
  | cons y ys ih =>
    simp only [dropFirst] at hx
    split at hx
    · exact List.mem_cons_of_mem _ hx
    · rcases List.mem_cons.mp hx with rfl | hx
      · exact List.mem_cons_self
      · exact List.mem_cons_of_mem _ (ih hx)

/-- R101: where no snoop waits for a TAG, an answered one only leaves the list. -/
theorem Dev.dropSnoop_none_waits (x : Nat × Nat × Nat) (htags : ∀ y ∈ d.home.snoops, y.2.1 < tagSpace) :
    d.dropSnoop x = { d with home := { d.home with snoops := dropFirst (fun y => decide (y = x)) d.home.snoops } } := by
  have hnone : (dropFirst (fun y => decide (y = x)) d.home.snoops).find? (fun y => y.1 == x.1 && decide (tagSpace ≤ y.2.1)) = none := by
    refine List.find?_eq_none.mpr fun y hy => ?_
    have hlow := htags y (mem_of_mem_dropFirst hy)
    simp [Nat.not_le.mpr hlow]
  simp only [Dev.dropSnoop, hnone]

/-- Two changes of a line's work in service that agree on it agree. -/
theorem Dev.onBusy_congr {k : Nat} {b : Busy} {f g : Busy → Busy} (hbusy : d.busyOf k = some b) (hfg : f b = g b) : d.onBusy k f = d.onBusy k g := by
  have hline : (d.lineAt k).busy = some b := hbusy
  simp only [Dev.onBusy, Dev.onLine, hline, Option.map_some, hfg]

/-- R140: SNP_DATA ends its snoop, and its line is to be written first. -/
theorem Dev.snpData_line {x : Nat × Nat × Nat} {b : Busy} (hsnoop : d.snoopOf p m.tag = some x) (hbusy : (d.dropSnoop x).busyOf x.2.2 = some b)
    (hwait : ∃ ports, b.wait = .acks ports ∨ b.wait = .takeBack ports) :
    d.snpData p m = ((d.dropSnoop x).onBusy x.2.2 (fun b => { b with line := chunksBytes m.data, stage := 2 })).portAnswered x.2.2 p := by
  simp only [Dev.snpData, hsnoop]
  congr 1
  refine Dev.onBusy_congr hbusy ?_
  obtain ⟨ports, h | h⟩ := hwait <;> simp only [h]

end

/-- Settles O12: each answer at its engine. -/
theorem requesterAnswers : Obligations.RequesterAnswers := by
  unfold Obligations.RequesterAnswers
  refine ⟨?ack, fun d x htags => Dev.dropSnoop_none_waits x htags, ?data, ?result, ?push⟩
  case ack =>
    exact fun s p m t x d hat hnone hlive hsnoop => settles_port (fun d => d.snpAck p.val m.tag) hat hnone hlive
      (by simp only [Dev.snpAck, hsnoop])
  case data =>
    exact fun s p m t x b d hat hnone hlive hsnoop hbusy hwait => settles_port (fun d => d.snpData p.val m) hat hnone hlive
      (Dev.snpData_line hsnoop hbusy hwait)
  case result =>
    exact fun s p m t tile tag r d hat hnone hlive hres huse => settles_port (fun d => d.resultAcked p.val m) hat hnone hlive
      (by simp only [Dev.resultAcked, hres, huse])
  case push =>
    exact fun s p m t n stack r d hat hnone hlive hres huse => settles_port (fun d => d.resultAcked p.val m) hat hnone hlive
      (by simp only [Dev.resultAcked, hres, huse])

/-! ### Management messages -/

section
variable {d e : Dev} {p : Nat} {m : Msg}

/-- R463: a heartbeat of the port's epoch, on a port that is not fenced. -/
theorem Dev.takeHeartbeat_now (hglois : e.isGlois p = true)
    (hd : d = (e.when (e.link p).hbLate (fun d => d.bump Reg.LATE_ITEMS)).onLink p (fun l => { l with hbLate := false }))
    (hepoch : m.fenceEpoch = d.get (Reg.PORT_FENCE_FENCE_EPOCH p)) (hlive : (d.onLink p (fun l => { l with hbSeen := d.time })).fenced p = false) :
    e.takeHeartbeat p m = d.onLink p (fun l => { l with hbSeen := d.time }) := by
  simp only [Dev.takeHeartbeat, hglois, Bool.not_true, Bool.false_eq_true, if_false, ← hd, hepoch, bne_self_eq_false, hlive, Bool.false_and]

/-- R466: a heartbeat of another epoch. -/
theorem Dev.takeHeartbeat_stale (hglois : e.isGlois p = true)
    (hd : d = (e.when (e.link p).hbLate (fun d => d.bump Reg.LATE_ITEMS)).onLink p (fun l => { l with hbLate := false }))
    (hepoch : m.fenceEpoch ≠ d.get (Reg.PORT_FENCE_FENCE_EPOCH p)) : e.takeHeartbeat p m = d.bump Reg.HB_STALE := by
  simp only [Dev.takeHeartbeat, hglois, Bool.not_true, Bool.false_eq_true, if_false, ← hd, bne_iff_ne, ne_eq, hepoch, not_false_eq_true, if_true]

end

/-- Settles O13: each message of a partner's management. -/
theorem managementTaken : Obligations.ManagementTaken := by
  unfold Obligations.ManagementTaken
  refine ⟨?nop, ?now, ?stale, ?event⟩
  case nop => exact fun s p m t d hat => settles_act (fun d => d.consume (arrivedMsg p.val m)) hat rfl
  case now =>
    intro s p m t d e hat he hglois f hf hepoch hlive
    subst he
    exact settles_act (fun d => (d.consume (arrivedMsg p.val m)).takeHeartbeat p.val m) hat (Dev.takeHeartbeat_now hglois hf hepoch hlive)
  case stale =>
    intro s p m t d e hat he hglois f hf hepoch
    subst he
    exact settles_act (fun d => (d.consume (arrivedMsg p.val m)).takeHeartbeat p.val m) hat (Dev.takeHeartbeat_stale hglois hf hepoch)
  case event =>
    intro s p m t d e hat he htray hone
    subst he
    refine settles_act (fun d => if (d.consume (arrivedMsg p.val m)).isRole p.val 1 then (d.consume (arrivedMsg p.val m)).trayEvent p.val m
      else d.consume (arrivedMsg p.val m)) hat ?_
    simp only [htray, if_true, Dev.trayEvent, hone, beq_self_eq_true, Dev.when]

end Sys2Proof.Machine
end

section
/-! PROOF. The timers of the homes (R141, R142, R150, R151, R161), PARK_CTL and REVERT_GO (R157, R161, R163). -/
namespace Sys2Proof.Machine

section
variable {d : Dev} {k : Nat} {b : Busy}

/-- R141: a hold at its limit. -/
theorem Dev.holdExpired_due {p since : Nat} (hst : (d.lineAt k).st = .held p (some since)) (hidle : d.busyOf k = none)
    (hdue : since + max 100 (d.get Reg.DIR_CTL_HOLD_LIMIT_NS) ≤ d.time) : d.holdExpired k =
      ((({ d with home := { d.home with lateHolds := addOnce d.home.lateHolds (k, p) } }).bump Reg.HOLD_EXPIRED).setState k .inv).pumpLine k := by
  simp only [Dev.holdExpired, hst, hidle, Option.isNone_none, Bool.true_and, decide_eq_true hdue, if_true]

/-- R142: one overdue snoop answer. -/
theorem Dev.snoopLate_one {p : Nat} (hbusy : d.busyOf k = some b) (hwait : b.wait = .acks [p]) (htold : b.told = false)
    (hdue : b.since + max 1 (d.get Reg.DIR_CTL_SNP_TIMEOUT_US) * 1000 ≤ d.time) :
    d.snoopLate k = ((d.onBusy k (fun b => { b with told := true })).bump Reg.SNP_TIMEOUTS).post [0] 0x2A [p, k * 64] := by
  simp only [Dev.snoopLate, hbusy, hwait, htold, decide_eq_false (Nat.not_lt.mpr hdue), reduceCtorEq, decide_false, Bool.or_false,
    Bool.false_eq_true, if_false, Dev.each, List.foldl_cons, List.foldl_nil]

/-- R150: a buffered line that no atomic has touched for ATOMIC_IDLE_NS. -/
theorem Dev.atomicIdle_due {a : AtomicLine} (hbuf : d.buffered k = some a) (hidle : d.busyOf k = none)
    (hdue : a.used + d.get Reg.DIR_CTL_ATOMIC_IDLE_NS ≤ d.time) : d.atomicIdle k = (d.queueWork k (recallReq d k 4 k)).pumpLine k := by
  simp only [Dev.atomicIdle, hbuf, hidle, Option.isNone_none, Bool.true_and, decide_eq_true hdue, if_true]

/-- R151: the window of a line's group in service. -/
theorem Dev.closeGroups_due (hbusy : d.busyOf k = some b) (hqueue : (d.lineAt k).queue = []) (hdue : b.work.opened + d.combineWin ≤ d.time) :
    d.closeGroups k = d.onLine k (fun l => { l with queue := [], busy := some { b with work := { b.work with closed := true } } }) := by
  have hline : (d.lineAt k).busy = some b := hbusy
  simp only [Dev.closeGroups, Dev.onLine, hline, hqueue, List.map_nil, Option.map_some, decide_eq_true hdue, Bool.or_true, if_true]

/-- R161: one request parked at its turn for the limit. -/
theorem Dev.parkExpired_one {l : Line} {p since : Nat} (hlines : d.home.lines = [(k, l)]) (hpark : d.home.park = []) (hbusy : l.busy = some b)
    (halone : b.work.members = []) (hwait : b.wait = .parked p since) (hlimit : d.get Reg.PARK_CTL_PARK_LIMIT_US ≠ 0)
    (hdue : since + d.get Reg.PARK_CTL_PARK_LIMIT_US * 1000 ≤ d.time) : d.parkExpired =
      ((({ d with home := { d.home with lateParks := d.home.lateParks ++ [(p, k)] } }).bumpBy Reg.PARK_POISON 1).dropLine k 1).showParked := by
  have hat : l.parkedAt = some (p, since) := by simp only [Line.parkedAt, hbusy, Option.map_some, hwait]
  have hreqs : l.parkedReqs = [b.work.req] := by simp only [Line.parkedReqs, hbusy, hat, Work.all, halone]
  have hset : d.get Reg.PARK_CTL_PARK_LIMIT_US * 1000 ≠ 0 := by omega
  simp only [Dev.parkExpired, if_neg hset, Dev.endParked, Dev.parkKeys, hlines, hpark, List.flatMap_cons, List.flatMap_nil,
    List.filter_cons, List.filter_nil, hat, hreqs, decide_eq_true hdue, Option.any_some, List.map_cons, List.map_nil, List.append_nil, List.foldl_cons,
    List.foldl_nil, List.any_nil, if_true, Bool.false_eq_true, if_false, List.nil_append, Dev.each]
  congr 4
  simp [addOnce]

/-- R157: a REVERT of pages that hold one LOST-DIRTY line, which nothing waits at. -/
theorem Dev.revertGo_one {n : Nat} {l : Line} (hfree : d.flag Reg.DIR_STAT_REVERT_BUSY = false) (hlines : d.home.lines = [(k, l)])
    (hlost : l.st = .lost) (hbusy : l.busy = none) (hqueue : l.queue = []) (hlow : d.get Reg.REVERT_BASE_PAGE ≤ pageOf (k * 64))
    (hhigh : pageOf (k * 64) < d.get Reg.REVERT_BASE_PAGE + n) : d.revertGo n = (d.setState k .inv).showReverts := by
  have hn : n ≠ 0 := by omega
  simp only [Dev.revertGo, hfree, hn, decide_false, Bool.or_self, Bool.false_eq_true, if_false, Dev.revert, hlines, List.filter_cons, hlost,
    decide_true, decide_eq_true hlow, decide_eq_true hhigh, Bool.and_self, if_true, List.filter_nil, Dev.each, List.foldl_cons, List.foldl_nil,
    hbusy, hqueue, Option.isNone_none, beq_self_eq_true]

end

/-- Settles O14: each timer at its time, and the two registers. -/
theorem homeTimersFire : Obligations.HomeTimersFire := by
  unfold Obligations.HomeTimersFire
  refine ⟨?hold, ?snoop, ?atomic, ?group, ?park, ?limit, ?revert⟩
  case hold =>
    exact fun s k t p since d hat hst hidle hdue => settles_act (fun d => d.holdExpired k) hat (Dev.holdExpired_due hst hidle hdue)
  case snoop =>
    exact fun s k t p b d hat hbusy hwait htold hdue => settles_act (fun d => d.snoopLate k) hat (Dev.snoopLate_one hbusy hwait htold hdue)
  case atomic =>
    exact fun s k t a d hat hbuf hidle hdue => settles_act (fun d => d.atomicIdle k) hat (Dev.atomicIdle_due hbuf hidle hdue)
  case group =>
    exact fun s k t b d hat hbusy hqueue hdue => settles_act (fun d => d.closeGroups k) hat (Dev.closeGroups_due hbusy hqueue hdue)
  case park =>
    exact fun s k t p since l b d hat hlines hpark hbusy halone hwait hlimit hdue => settles_act (fun d => d.parkExpired) hat
      (Dev.parkExpired_one hlines hpark hbusy halone hwait hlimit hdue)
  case limit => exact fun s v t d hat hup => settles_bar (fun d => d.parkCtl v.toNat) hat hup rfl
  case revert =>
    exact fun s n t k l d hat hup hfree hlines hlost hbusy hqueue hlow hhigh => settles_bar (fun d => d.revertGo n.toNat) hat hup
      (Dev.revertGo_one hfree hlines hlost hbusy hqueue hlow hhigh)

end Sys2Proof.Machine
end

section
/-! PROOF. A cell epoch (R173, R176) and the switch's other events (R190, R212, R221). -/
namespace Sys2Proof.Machine

section
variable {d : Dev}

/-- With nothing asked for no round grants anything. -/
theorem Dev.matchRounds_nil (d : Dev) (n : Nat) (first : Bool) : d.matchRounds [] n first [] = (d, []) := by
  induction n generalizing first with
  | zero => rfl
  | succ n ih =>
    have hround : d.matchRound [] [] = [] := rfl
    simp only [Dev.matchRounds, hround, Dev.each_nil, ite_self, List.append_nil, ih]

/-- With no frame waiting for a cell nothing tries again. -/
theorem Dev.retryWaiting_none (hwaiting : d.sw.waiting = []) : d.retryWaiting = d := by
  have hsame : ({ d with sw := { d.sw with waiting := [] } } : Dev) = d := by rw [← hwaiting]
  simp only [Dev.retryWaiting, hwaiting, Dev.each_nil, hsame]

/-- The part with an epoch's duration shown (R199). -/
def Dev.epochShown (d : Dev) (ps : Nat) : Dev :=
  (d.set Reg.MATCH_STAT_EPOCH_PS (min 65535 ps)).set Reg.MATCH_STAT_EPOCH_PS_MAX
    (max ((d.set Reg.MATCH_STAT_EPOCH_PS (min 65535 ps)).get Reg.MATCH_STAT_EPOCH_PS_MAX) (min 65535 ps))

@[simp] theorem Dev.epochShown_sw (d : Dev) (ps : Nat) : (d.epochShown ps).sw = d.sw := by
  rw [Dev.epochShown, Dev.set_sw, Dev.set_sw]

/-- R176: an epoch moves the pairs that the matcher's rounds leave. -/
theorem Dev.cellEpoch_moves {ps : Nat} {hits : List ParityHit} {e : Dev} {x : Dev × List Ask} (he : e = (d.epochShown ps).retryWaiting)
    (hx : e.matchRounds (((heads e.sw.cells).filter e.eligible).flatMap
        (fun c => (e.slotsOf c.src).flatMap (fun i => (e.slotsOf c.dst).map (fun o => (⟨i, o, e.rankOf c⟩ : Ask)))))
      (clampTo 1 4 (e.get Reg.MATCH_CTL_ROUNDS)) true [] = x) :
    d.cellEpoch ps hits = x.1.movePairs e.rankOf ((heads e.sw.cells).filter e.eligible) hits x.2 := by
  subst he hx
  rfl

/-- An epoch with nothing queued only shows its duration. -/
theorem Dev.cellEpoch_empty {ps : Nat} {hits : List ParityHit} (hcells : d.sw.cells = []) (hwaiting : d.sw.waiting = []) :
    d.cellEpoch ps hits = d.epochShown ps := by
  have hsame : d.epochShown ps = (d.epochShown ps).retryWaiting := by
    rw [Dev.retryWaiting_none (by rw [Dev.epochShown_sw, hwaiting])]
  have hnone : (heads (d.epochShown ps).sw.cells).filter (d.epochShown ps).eligible = [] := by
    rw [Dev.epochShown_sw, hcells]
    rfl
  rw [Dev.cellEpoch_moves hsame rfl, hnone, List.flatMap_nil, Dev.matchRounds_nil]
  simp only [Dev.movePairs, List.foldl_nil]

/-- A pair moves the cell chosen for it, whole, where no parity fails on it and it has not to cross again (R453). -/
theorem Dev.movePair_whole {rank : Cell → Nat} {live : List Cell} {hits : List ParityHit} {moved : List Nat} {a : Ask} {c : Cell}
    (hchosen : d.chooseCell rank live moved a = some c) (hsound : hits.find? (fun h => h.slot.val == a.i) = none) (hlast : c.more = 0) {e : Dev}
    (he : e = ({ d with sw := { d.sw with classPtr := Tab.put 0 d.sw.classPtr (a.i * 1344 + a.o) ((c.tc + 1) % 8) } } : Dev).chargeCell c)
    (hcross : e.planesShort = false ∨ c.half = true) : d.movePair rank live hits moved a = ((e.deliver c).dropCell c, moved ++ [c.store]) := by
  have honce : (e.planesShort && !c.half) = false := by
    rcases hcross with h | h <;> simp [h]
  simp only [Dev.movePair, hchosen, ← he, hsound, honce, Bool.false_eq_true, if_false, hlast, if_true]

/-- With no aged cell the sweep discards none (R190). -/
theorem Dev.ageSweep_none (hyoung : ∀ c ∈ d.sw.cells, d.aged c = false) : d.ageSweep = { d with sw := { d.sw with sweptAt := d.time } } := by
  have hnone : d.sw.cells.filter (fun c => d.aged c && c.more == 0) = [] :=
    List.filter_eq_nil_iff.mpr fun c hc => by simp [hyoung c hc]
  simp only [Dev.ageSweep, hnone, Dev.each_nil]

/-- A sample of one port placed takes its eight classes (R212). -/
theorem Dev.sampleAll_one {p : Nat} (hplaced : (rangeFrom 0 512).filter d.placed = [p]) (hdue : d.sw.sampledAt + d.samplePeriod ≤ d.time) :
    d.sampleAll = ({ d with sw := { d.sw with sampledAt := d.time } } : Dev).each (rangeFrom 0 8) (fun d tc => d.sampleQueue p tc) := by
  have hsame : (rangeFrom 0 512).filter ({ d with sw := { d.sw with sampledAt := d.time } } : Dev).placed = [p] := hplaced
  simp only [Dev.sampleAll, if_neg (Nat.not_lt.mpr hdue), hsame, Dev.each, List.foldl_cons,
    List.foldl_nil]

end

/-- Settles O15: an epoch as its rounds and the moves of its pairs, and each of the other events. -/
theorem switchMoves : Obligations.SwitchMoves := by
  unfold Obligations.SwitchMoves
  refine ⟨?epoch, ?pair, ?empty, ?rounds, fun d n first => d.matchRounds_nil n first, ?sweep, ?sample, ?clear⟩
  case epoch =>
    exact fun s ps hits t d e f pairs hat he hpairs => settles_act (fun d => d.cellEpoch ps hits) hat (Dev.cellEpoch_moves he hpairs)
  case pair => exact fun d rank live hits moved a c hchosen hsound hlast e he hcross => Dev.movePair_whole hchosen hsound hlast he hcross
  case empty =>
    exact fun s ps hits t d hat hcells hwaiting => settles_act (fun d => d.cellEpoch ps hits) hat (Dev.cellEpoch_empty hcells hwaiting)
  case rounds =>
    exact fun s ps hits t d hat e he x hx => settles_act (fun d => d.cellEpoch ps hits) hat (Dev.cellEpoch_moves he hx.symm)
  case sweep => exact fun s t d hat hyoung => settles_act (fun d => d.ageSweep) hat (Dev.ageSweep_none hyoung)
  case sample =>
    intro s t p d hat hplaced hdue e he
    subst he
    exact settles_act (fun d => d.sampleAll) hat (Dev.sampleAll_one hplaced hdue)
  case clear => exact fun s p t d hat hup => settles_bar (fun d => d.clearTelemetry p.val) hat hup rfl

end Sys2Proof.Machine
end

section
/-! PROOF. The admission of a heat (R258, R491). -/
namespace Sys2Proof.Machine

theorem Dev.readable_sound {d : Dev} (h : d.upset = []) (a n : Nat) : d.readable a n = (d, true) := by
  cases d
  subst h
  rfl

/-- A submission whose record can be read: HOLD_ADMIT is off, ECC is sound, and the record's address is one of device memory that its
function may read (R491). -/
structure Dev.RecordRead (e : Dev) (c : RingCmd) (bs : List Byte) : Prop where
  admits : e.flag Reg.HEAT_CTL_HOLD_ADMIT = false
  sound : e.upset = []
  memory : taSpace (c.arg 8 8) = 1
  reached : e.typedOk c.fn.val [] (c.arg 8 8) 64 false = true
  record : bs = e.readMem (taAddr (c.arg 8 8)) 64

section
variable {e : Dev} {c : RingCmd} {bs : List Byte}

/-- With HOLD_ADMIT a submission stays queued. -/
theorem Dev.heatSubmit_held (h : e.flag Reg.HEAT_CTL_HOLD_ADMIT = true) : e.heatSubmit c = e := by
  simp only [Dev.heatSubmit, h, if_true]

/-- A faulty record refuses its heat. -/
theorem Dev.RecordRead.refused (h : e.RecordRead c bs) {err : Nat} (hfault : e.recordFault c bs = err) (herr : err ≠ 0) :
    e.heatSubmit c = (e.bump Reg.HEATS_REFUSED).complete c 1 err 0 (natBytes 6 (fieldBytes bs 0 6)) := by
  obtain ⟨hadmits, hsound, hmemory, hreached, rfl⟩ := h
  simp only [Dev.heatSubmit, hadmits, hmemory, hreached, bne_self_eq_false, Bool.not_true, Bool.or_self, Bool.false_eq_true, if_false,
    Dev.readEcc_sound e _ _ hsound, hfault, bne_iff_ne.mpr herr, if_true, Dev.refuseHeat]

/-- What a submission comes to whose record and counters are in order: the first faulty descriptor refuses it (R258). -/
theorem Dev.RecordRead.descriptor_refused (h : e.RecordRead c bs) (hfault : e.recordFault c bs = 0) {ctrs : List (Nat × Nat)}
    (hctrs : e.readCtrs (taAddr (fieldBytes bs 24 8)) (fieldBytes bs 20 2) = some ctrs) {descs : List (List Nat)}
    (hdescs : descs = e.readDescs (taAddr (fieldBytes bs 8 8)) (fieldBytes bs 16 4)) {ix err : Nat}
    (hfirst : e.firstFault c.fn.val ((descs.map dTile).foldl addOnce []) (ctrs.map Prod.fst) descs = some (ix, err)) :
    e.heatSubmit c = (e.bump Reg.HEATS_REFUSED).complete c 1 err ix (natBytes 6 (fieldBytes bs 0 6)) := by
  obtain ⟨hadmits, hsound, hmemory, hreached, rfl⟩ := h
  subst hdescs
  simp only [Dev.heatSubmit, hadmits, hmemory, hreached, bne_self_eq_false, Bool.not_true, Bool.or_self, Bool.false_eq_true, if_false,
    Dev.readEcc_sound e _ _ hsound, hfault, Dev.readable_sound hsound, Bool.and_self, hctrs, hfirst, Dev.refuseHeat]

/-- A heat in order joins the heats of its function, last in its stream. -/
theorem Dev.RecordRead.admitted (h : e.RecordRead c bs) (hfault : e.recordFault c bs = 0) {ctrs : List (Nat × Nat)}
    (hctrs : e.readCtrs (taAddr (fieldBytes bs 24 8)) (fieldBytes bs 20 2) = some ctrs) {descs : List (List Nat)}
    (hdescs : descs = e.readDescs (taAddr (fieldBytes bs 8 8)) (fieldBytes bs 16 4))
    (hfirst : e.firstFault c.fn.val ((descs.map dTile).foldl addOnce []) (ctrs.map Prod.fst) descs = none)
    (hdep : fieldBytes bs 22 2 = 1 → e.depOk c.fn.val (fieldBytes bs 40 2) (fieldBytes bs 42 6) = true) {heat : Heat}
    (hheat : heat = { fn := c.fn.val, ring := c.ring.val, no := fieldBytes bs 0 6, cmd := c, descs := descs, ctrs := ctrs,
                      status := taAddr (fieldBytes bs 32 8),
                      dep := if fieldBytes bs 22 2 = 1 then
                        some (fieldBytes bs 40 2, fieldBytes bs 42 6, e.streamGen c.fn.val (fieldBytes bs 40 2)) else none,
                      wdog := fieldBytes bs 48 4, running := false, start := 0, codes := [], acks := [], landed := [], mute := false })
    {f : Dev} (hf : f = e.beginCmd c) :
    e.heatSubmit c = (({ f with heats := { f.heats with
        list := f.heats.list ++ [heat],
        streams := Tab.ins f.heats.streams (c.fn.val * 16 + c.ring.val)
          (f.streamGen c.fn.val c.ring.val, ((f.stream c.fn.val c.ring.val).map Prod.fst).getD (fieldBytes bs 0 6),
            (fieldBytes bs 0 6 + 1) % 2 ^ 48) } } : Dev).showHeats) := by
  obtain ⟨hadmits, hsound, hmemory, hreached, rfl⟩ := h
  subst hdescs hheat hf
  have hdepends : (fieldBytes (e.readMem (taAddr (c.arg 8 8)) 64) 22 2 == 1 && !e.depOk c.fn.val
      (fieldBytes (e.readMem (taAddr (c.arg 8 8)) 64) 40 2) (fieldBytes (e.readMem (taAddr (c.arg 8 8)) 64) 42 6)) = false := by
    by_cases h : fieldBytes (e.readMem (taAddr (c.arg 8 8)) 64) 22 2 = 1
    · simp [h, hdep h]
    · simp [h]
  simp only [Dev.heatSubmit, hadmits, hmemory, hreached, bne_self_eq_false, Bool.not_true, Bool.or_self, Bool.false_eq_true, if_false,
    Dev.readEcc_sound e _ _ hsound, hfault, Dev.readable_sound hsound, Bool.and_self, hctrs, hfirst, hdepends, beq_iff_eq]

end

/-- Settles O17: a submission by what its record holds. -/
theorem heatAdmitted : Obligations.HeatAdmitted := by
  unfold Obligations.HeatAdmitted
  refine ⟨?held, ?record, ?descriptor, ?admitted⟩
  case held => exact fun s c t d e hat hstart hheld => settles_ring (fun d => d.heatSubmit c) hat hstart (Dev.heatSubmit_held hheld)
  case record =>
    exact fun s c t err bs d e hat hstart hadmits hsound hmemory hreached hbs hfault herr =>
      settles_ring (fun d => d.heatSubmit c) hat hstart (Dev.RecordRead.refused ⟨hadmits, hsound, hmemory, hreached, hbs⟩ hfault herr)
  case descriptor =>
    exact fun s c t ix err bs ctrs d e hat hstart hadmits hsound hmemory hreached hbs hfault hctrs descs hdescs hfirst =>
      settles_ring (fun d => d.heatSubmit c) hat hstart
        (Dev.RecordRead.descriptor_refused ⟨hadmits, hsound, hmemory, hreached, hbs⟩ hfault hctrs hdescs hfirst)
  case admitted =>
    exact fun s c t bs ctrs d e hat hstart hadmits hsound hmemory hreached hbs hfault hctrs descs hdescs hfirst hdep h hh f hf =>
      settles_ring (fun d => d.heatSubmit c) hat hstart
        (Dev.RecordRead.admitted ⟨hadmits, hsound, hmemory, hreached, hbs⟩ hfault hctrs hdescs hfirst hdep hh hf)

/-! ### Start, completion and the watchdog -/

section
variable {d : Dev} {fn ring no : Nat} {h : Heat}

/-- R260: a heat that may start, with no tile barred to it, takes its tiles and counters and runs. -/
theorem Dev.heatStart_runs (hheat : d.heatOf fn ring no = some h) (hready : d.heatReady h = true)
    (hopen : ∀ w ∈ h.descs, (d.flag (Reg.TILE_RES_RESERVED (dTile w)) && d.get (Reg.TILE_RES_DOMAIN (dTile w)) != fn) = false ∧
      d.flag (Reg.TILE_MAP_FAILED (dTile w)) = false) :
    d.heatStart fn ring no =
      ((((((d.onHeat fn ring no (fun h => { h with running := true, start := d.time })).each h.tiles
          (fun d t => d.takeTile h t)).each h.ctrs (fun d c => d.takeCtr c.1 c.2
            (if ((h.descs.find? (fun w => dWait w == some c.1 || dSig w == some c.1)).map dFollow).getD false then 1 else 0) (d.startGen h c.1)
            ⟨fn, fn, ring, no, [], []⟩)).trace 0 0xF (no + fn * 2 ^ 48)).checkWaits).showHeats) := by
  have hnone : h.descs.findIdx? (fun w => (d.flag (Reg.TILE_RES_RESERVED (dTile w)) && d.get (Reg.TILE_RES_DOMAIN (dTile w)) != fn) ||
      d.flag (Reg.TILE_MAP_FAILED (dTile w))) = none :=
    List.findIdx?_eq_none_iff.mpr fun w hw => by rw [(hopen w hw).1, (hopen w hw).2, Bool.or_self]
  simp only [Dev.heatStart, hheat, hready, Bool.not_true, Bool.false_eq_true, if_false, hnone]

/-- R262: a running heat completes once every status word is written and no write is outstanding. -/
theorem Dev.heatComplete_done (hheat : d.heatOf fn ring no = some h) (hruns : h.running = true) (hcodes : h.codes.length = h.descs.length)
    (hacks : h.acks = []) : d.heatComplete fn ring no = d.finishHeat h := by
  simp only [Dev.heatComplete, hheat, hruns, hcodes, hacks, beq_self_eq_true, Bool.and_self, if_true]

/-- R262: what completion leaves, with the first of the heat's codes. -/
theorem Dev.finishHeat_posted (hmute : h.mute = false) {e : Dev}
    (he : e = ((d.each h.tiles (fun d t => (({ d with heats := { d.heats with runs := Tab.del d.heats.runs t } } : Dev).set
      (Reg.TILE_RES_HELD t) 0).set (Reg.TILE_STAT_BUSY t) 0)).each h.ctrs (fun d c => d.dropCtr c.1))) {code : Nat}
    (hcode : code = (h.codes.map Prod.snd).foldl worse 0) :
    d.finishHeat h = ((((({ e with heats := { e.heats with list := dropFirst (fun x => x.isOf h.fn h.ring h.no) e.heats.list } } : Dev).bump
        Reg.HEATS_DONE).trace 1 0xF (h.no + code * 2 ^ 48)).complete h.cmd code 0 0 (natBytes 6 h.no)).showHeats) := by
  simp only [Dev.finishHeat, ← he, ← hcode, hmute, Bool.false_eq_true, if_false]

/-- R263: the watchdog of a running heat. -/
theorem Dev.watchdogExpiry_due (hheat : d.heatOf fn ring no = some h) (hruns : h.running = true) (hset : d.watchdogOf h ≠ 0)
    (hdue : h.start + d.watchdogOf h * 1000000 ≤ d.time) : d.watchdogExpiry fn ring no = (d.bump Reg.WATCHDOG_EXPIRED).endHeat fn ring no := by
  simp only [Dev.watchdogExpiry, hheat, hruns, bne_iff_ne.mpr hset, decide_eq_true hdue, Bool.and_self, if_true]

end

/-- R19: of two codes the worse one counts, in any order. -/
theorem worse_laws : ∀ a ∈ codeOrder, ∀ b ∈ codeOrder, ∀ c ∈ codeOrder,
    worse a b = worse b a ∧ worse (worse a b) c = worse a (worse b c) ∧ worse 0 a = a ∧ worse 3 a = 3 := by
  decide +kernel

/-- Settles O18: the start, the completion and the watchdog of a heat, and the order of the codes. -/
theorem heatsRun : Obligations.HeatsRun := by
  unfold Obligations.HeatsRun
  refine ⟨?start, ?complete, ?watchdog, worse_laws⟩
  case start =>
    exact fun s k t h d hat hheat hready hopen => settles_act (fun d => d.heatStart k.fn.val k.ring.val k.no) hat
      (Dev.heatStart_runs hheat hready hopen)
  case complete =>
    exact fun s k t h d hat hheat hruns hcodes hacks hmute e he code hcode => settles_act (fun d => d.heatComplete k.fn.val k.ring.val k.no) hat
      ((Dev.heatComplete_done hheat hruns hcodes hacks).trans (Dev.finishHeat_posted hmute he hcode))
  case watchdog =>
    exact fun s k t h d hat hheat hruns hset hdue => settles_act (fun d => d.watchdogExpiry k.fn.val k.ring.val k.no) hat
      (Dev.watchdogExpiry_due hheat hruns hset hdue)

end Sys2Proof.Machine
end

section
/-! PROOF. Waits, deadlines and migrations of tiles (R71, R269, R277). -/
namespace Sys2Proof.Machine

/-! ### The groups that a tile has still to run -/

/-- The groups of a tile that have not begun. -/
def Dev.todoAt (d : Dev) (t : Nat) : List (List Nat) := ((d.runAt t).map Run.todo).getD []

section
variable {d : Dev} {t : Nat}

/-- A change of a tile's run that leaves its groups leaves them. -/
theorem Dev.todoAt_onRun {f : Run → Run} (hf : ∀ r, (f r).todo = r.todo) : (d.onRun t f).todoAt t = d.todoAt t := by
  cases hrun : d.runAt t with
  | none => simp only [Dev.onRun, hrun]
  | some r =>
    have hafter : (d.onRun t f).runAt t = some (f r) := by
      simp only [Dev.onRun, hrun]
      exact Tab.find_ins_same _ _ _
    simp only [Dev.todoAt, hafter, hrun, Option.map_some, hf]

theorem Dev.todoAt_countMissed (n : Nat) : (d.countMissed t n).todoAt t = d.todoAt t := by
  unfold Dev.countMissed
  split
  · rfl
  · exact Dev.todoAt_onRun fun _ => rfl

theorem Dev.todoAt_dropPage (ix key : Nat) : (d.dropPage t ix key).todoAt t = d.todoAt t := by
  unfold Dev.dropPage Dev.onStage
  refine (Dev.todoAt_onRun ?stages).trans (Dev.todoAt_onRun (d := d) ?items)
  case stages => exact fun _ => rfl
  case items => exact fun _ => rfl

theorem Dev.todoAt_dropPages (ix : Nat) (keys : List Nat) : (d.each keys (fun d k => d.dropPage t ix k)).todoAt t = d.todoAt t := by
  induction keys generalizing d with
  | nil => rfl
  | cons k ks ih => exact ih.trans (Dev.todoAt_dropPage ix k)

/-- A tile with no group to begin has no deadline of a later one to meet. -/
theorem Dev.deadline_last (htodo : (d.deadlineNow t).todoAt t = []) : d.deadline t = d.deadlineNow t := by
  have hnone : ∀ h, (d.deadlineNow t).dueLater h t = [] := fun h => by
    have : (((d.deadlineNow t).runAt t).map Run.todo).getD [] = [] := htodo
    simp only [Dev.dueLater, this, List.filterMap_nil]
  unfold Dev.deadline
  dsimp only
  split
  · simp only [hnone, List.filter_nil, Dev.each_nil]
  · rfl

/-- R277: the deadline of the chain that runs parts the pages landed from those missed. -/
theorem Dev.deadline_due {r : Run} {h : Heat} {x : Stage} (hrun : d.runAt t = some r) (hheat : d.heatOn t = some h) (hhead : r.stages.head? = some x)
    (htodo : r.todo = []) (hfirst : r.deadlined = false) (hdue : d.isDue h x.w = true) {keys landed left : List Nat}
    (hkeys : keys = ((r.items.filter (fun i => decide (i.page < 2 ^ 64))).map Item.page).foldl addOnce [])
    (hlanded : landed = keys.filter (fun k => r.items.all (fun i => i.page != k || i.status.isSome)))
    (hleft : left = (if x.fin then [] else (d.pagesAhead t x).filter (fun k => decide (k ∉ landed)))) {e : Dev}
    (he : e = (d.onRun t (fun r => { r with
      deadlined := true, inTime := if dOp x.w = 9 then landed else landed ++ rangeFrom 1 x.step,
      missed := r.missed ++ left })).countMissed t left.length) :
    d.deadline t = if dMiss x.w = 0 then e else e.each (keys.filter (fun k => decide (k ∉ landed))) (fun d k => d.dropPage t x.ix k) := by
  have hkeysLanded : r.landedKeys = landed := by rw [hlanded, hkeys]; rfl
  have hpages : d.pagesLeft t = left := by simp only [Dev.pagesLeft, hrun, hhead, hkeysLanded, hleft]
  have hnow : d.deadlineNow t = if dMiss x.w = 0 then e else
      e.each (keys.filter (fun k => decide (k ∉ landed))) (fun d k => d.dropPage t x.ix k) := by
    simp only [Dev.deadlineNow, hrun, hheat, hhead, hfirst, hdue, Bool.not_true, Bool.or_self, Bool.false_eq_true, if_false, hkeysLanded, hpages,
      ← hkeys, ← he]
  have he0 : e.todoAt t = [] := by
    rw [he, Dev.todoAt_countMissed, Dev.todoAt_onRun, Dev.todoAt, hrun, Option.map_some, Option.getD_some, htodo]
    exact fun _ => rfl
  rw [Dev.deadline_last, hnow]
  rw [hnow]
  split
  · exact he0
  · rw [Dev.todoAt_dropPages, he0]

end

/-! ### Migrations -/

section
variable {d : Dev} {t : Nat}

/-- R71: a tile whose group has a free spare is frozen. -/
theorem Dev.migrate_freezes {readable : Bool} (hfree : Tab.find? d.heats.frozen t = none) (hspare : (d.spareTile t).isSome = true) :
    d.migrate t readable = { d with heats := { d.heats with frozen := Tab.ins d.heats.frozen t ⟨d.time, readable, []⟩ } } := by
  have hhas : (d.spareTile t).isNone = false := by rw [Option.isNone_eq_false_iff, hspare]
  simp only [Dev.migrate, hfree, hhas, Option.isSome_none, Bool.or_self, Bool.false_eq_true, if_false]

theorem Dev.copyPlacement_whole (gone kept : List (Nat × Nat)) :
    (d.copyPlacement t true gone kept).spa = Memory.clear d.spa (t * spaBytes) spaBytes := rfl

theorem Dev.copyPlacement_kept (kept : List (Nat × Nat)) : d.copyPlacement t false [] kept = d := rfl

/-- R71: the end of an idle tile's migration points it at the spare under the next generation. -/
theorem Dev.migrationDone_idle {spare : Nat} {z : Frozen} (hfrozen : Tab.find? d.heats.frozen t = some z) (hspare : d.spareTile t = some spare)
    (hidle : d.runAt t = none) (hheat : d.heatOn t = none) (hread : z.readable = true) (hframes : z.frames = [])
    (hsound : d.get (Reg.TILE_MAP_PHYS t) ∉ d.ras.badTiles) {gen : Nat} (hgen : gen = (d.tileGen t + 1) % 65536) {g : Dev}
    (hg : g = { d.bumpBy Reg.SLAG_PLACEMENT 0 with heats := { d.heats with
      gens := Tab.put 0 (Tab.put 0 d.heats.gens t gen) (256 + t) 1, frozen := Tab.del d.heats.frozen t } }) :
    d.migrationDone t = ((((g.set (Reg.TILE_MAP_PHYS t) spare).set (Reg.TILE_MAP_DIE t) (spare / 144)).set (Reg.TILE_MAP_ON_SPARE t) 1).trace 7 0xF
        (t + gen * 256)) := by
  subst hg hgen
  have hsame : (d.bumpBy Reg.SLAG_PLACEMENT 0).heatOn t = none := hheat
  have hstill : (d.bumpBy Reg.SLAG_PLACEMENT 0).runAt t = none := hidle
  have hgen : (d.bumpBy Reg.SLAG_PLACEMENT 0).tileGen t = d.tileGen t := by rw [Dev.tileGen, Dev.bumpBy_heats, Dev.tileGen]
  simp only [Dev.migrationDone, hfrozen, hspare, hidle, hheat, hread, hframes, Dev.migrantCtrs, Option.map_none, Option.getD_none, List.any_nil,
    List.filter_nil, List.flatMap_nil, List.map_nil, List.reverse_nil, List.length_nil, sumBy, bne_self_eq_false, Bool.not_true, Bool.not_false,
    Bool.and_false, Bool.or_self, Bool.false_eq_true, if_false, if_true, Dev.copyPlacement_kept, hsame, Dev.onRun, hstill, Dev.each_nil, Dev.when,
    Dev.recount, List.foldl_nil, Nat.add_zero, Dev.set_ras, Dev.bumpBy_ras, Dev.bumpBy_heats, hsound, decide_false, hgen]

end

/-! ### Counters that move -/

section
variable {d : Dev} {id : Nat}

/-- What a counter's current register becomes when it moves: no count, and the next generation. -/
def movedCur (cur : Nat) : Nat := fieldPut (fieldPut (fieldPut cur 0 44 0) 45 1 0) 48 16 ((fieldOf cur 48 16 + 1) % 65536)

/-- What its previous-generation register becomes: with FOLLOW the count that was current, live. -/
def movedPrev (follow : Bool) (cur prev : Nat) : Nat :=
  if follow then fieldOf cur 0 44 + fieldOf cur 45 1 * 2 ^ 45 + 2 ^ 46 + fieldOf cur 48 16 * 2 ^ 48 else fieldPut prev 46 1 0

theorem movedCur_count (cur : Nat) : fieldOf (movedCur cur) 0 44 = 0 := by
  rw [movedCur, fieldOf_fieldPut_ne _ _ _ _ _ _ (by omega), fieldOf_fieldPut_ne _ _ _ _ _ _ (by omega), fieldOf_fieldPut_same,
    Nat.zero_mod]

theorem movedCur_gen (cur : Nat) : fieldOf (movedCur cur) 48 16 = (fieldOf cur 48 16 + 1) % 65536 := by
  rw [movedCur, fieldOf_fieldPut_same]
  exact Nat.mod_mod _ _

theorem movedPrev_live (follow : Bool) (cur prev : Nat) : bitOf (movedPrev follow cur prev) 46 = follow := by
  cases follow with
  | false => rw [bitOf_eq_fieldOf, movedPrev, if_neg (by decide), fieldOf_fieldPut_same]; rfl
  | true =>
    have hcount := fieldOf_lt cur 0 44
    have hsat := fieldOf_lt cur 45 1
    simp only [movedPrev, if_true, bitOf, beq_iff_eq]
    omega

theorem movedPrev_count (cur prev : Nat) : fieldOf (movedPrev true cur prev) 0 44 = fieldOf cur 0 44 := by
  have hcount := fieldOf_lt cur 0 44
  rw [movedPrev, if_pos rfl, fieldOf_zero_lo]
  omega

theorem Dev.moveCtr_regs (follow : Bool) : (d.moveCtr follow id).regs =
    ((d.setReg (ctrPrev id) (movedPrev follow (d.reg (ctrCur id)) (d.reg (ctrPrev id)))).setReg (ctrCur id) (movedCur (d.reg (ctrCur id)))).regs := by
  simp only [Dev.moveCtr, movedPrev, movedCur]

theorem Dev.reg_moveCtr (hrising : d.Rising) (hapart : (ctrCur id).addr ≠ (ctrPrev id).addr) (follow : Bool) :
    (d.moveCtr follow id).reg (ctrCur id) = movedCur (d.reg (ctrCur id)) ∧
    (d.moveCtr follow id).reg (ctrPrev id) = movedPrev follow (d.reg (ctrCur id)) (d.reg (ctrPrev id)) := by
  have hmid := hrising.setReg (ctrPrev id) (movedPrev follow (d.reg (ctrCur id)) (d.reg (ctrPrev id)))
  have hcur := Dev.reg_setReg_same _ (ctrCur id) (movedCur (d.reg (ctrCur id))) hmid
  have hprev := (Dev.reg_setReg_ne _ (ctrCur id) (ctrPrev id) (movedCur (d.reg (ctrCur id))) hmid hapart.symm).trans
    (Dev.reg_setReg_same _ _ _ hrising)
  constructor
  · rw [Dev.reg, Dev.moveCtr_regs]
    exact hcur
  · rw [Dev.reg, Dev.moveCtr_regs]
    exact hprev

end

/-- R269: a wait past its limit ends its stage with POISON and WAIT_TIMEOUT, and the later ones with CHAIN. -/
theorem Dev.waitTimeout_due {d e f : Dev} {t : Nat} {r : Run} {x : Stage} (he : e = d.checkWaits) (hrun : e.runAt t = some r)
    (hfound : r.stages.find? (fun s => !s.waited && !s.fin && dWaitLimit s.w != 0 && decide (r.since + dWaitLimit s.w * 1000 ≤ e.time)) = some x)
    (hf : f = (match dWait x.w with
      | some c => (match Tab.find? e.ctrs c with
        | some z => { e with ctrs := Tab.ins e.ctrs c { z with late := addOnce z.late (dWaitN x.w) } }
        | none => e)
      | none => e)) : d.waitTimeout t = f.failStage t x.ix 1 3 := by
  subst hf
  cases hwait : dWait x.w with
  | none => simp only [Dev.waitTimeout, ← he, hrun, hfound, hwait]
  | some c => cases hctr : Tab.find? e.ctrs c <;> simp only [Dev.waitTimeout, ← he, hrun, hfound, hwait, hctr]

/-- Settles O19: waits, deadlines, migrations, and the counters and scratchpads that move with a tile. -/
theorem tilesTimed : Obligations.TilesTimed := by
  unfold Obligations.TilesTimed
  refine ⟨?wait, ?deadline, ?migrate, ?done, ?copy, ?counter⟩
  case wait =>
    exact fun s p t r x d e hat he hrun hfound f hf => settles_act (fun d => d.waitTimeout p.val) hat (Dev.waitTimeout_due he hrun hfound hf)
  case deadline =>
    exact fun s p t r h x d hat hrun hheat hhead htodo hfirst hdue keys hkeys landed hlanded left hleft e he =>
      settles_act (fun d => d.deadline p.val) hat (Dev.deadline_due hrun hheat hhead htodo hfirst hdue hkeys hlanded hleft he)
  case migrate =>
    exact fun s p readable t d hat hfree hspare => settles_act (fun d => d.migrate p.val readable) hat (Dev.migrate_freezes hfree hspare)
  case done =>
    exact fun s p t spare z d hat hfrozen hspare hidle hheat hread hframes hsound gen hgen g hg =>
      settles_act (fun d => d.migrationDone p.val) hat (Dev.migrationDone_idle hfrozen hspare hidle hheat hread hframes hsound hgen hg)
  case copy =>
    exact fun d t gone kept => ⟨Dev.copyPlacement_whole gone kept, congrArg Dev.spa (Dev.copyPlacement_kept kept)⟩
  case counter =>
    intro d id follow hrising hapart hgen
    obtain ⟨hcur, hprev⟩ := Dev.reg_moveCtr hrising hapart follow
    refine ⟨?_, ?_, ?_, ?_⟩
    · rw [hcur, movedCur_count]
    · rw [Dev.ctrGen, hcur, movedCur_gen, hgen]
    · rw [hprev, movedPrev_live]
    · rintro rfl
      rw [hprev, movedPrev_count]

end Sys2Proof.Machine
end

section
/-! PROOF. The steps of the fourteen operators, with replay at a parity failure (R270, R273, R560). -/
namespace Sys2Proof.Machine

section
variable {d e : Dev} {t op ix : Nat} {y : Stage}

/-- R273: a step that its operator takes but whose parity fails leaves its failure alone. -/
theorem Dev.opStep_parity {f : Dev → Stage → Dev × Bool} (h : d.AtStep t op y) (hf : f d y = (e, true)) :
    d.opStep t op { noUpset with parity := true } f = d.parityFailed t y.ix := by
  obtain ⟨hmoving, hstage, hfound⟩ := h
  unfold Dev.opStep noUpset
  have hnone : (d.upsetWords []).each ([] : List (Nat × Nat × Bool)) (fun d x => d.upsetTable x.1 x.2.1 x.2.2) = d := rfl
  rw [hnone]
  simp only [hmoving, hfound, hstage, hf, Option.isSome_none, Bool.false_eq_true, if_false, if_true, Bool.not_true]

/-- R560: below the trip point the matrix unit issues waves. -/
theorem Dev.matrixStep_cool (f : Dev → Dev) (h : d.flag Reg.THERM_STAT_TRIP = false) : d.matrixStep f = f d := by
  simp only [Dev.matrixStep, h, Bool.false_eq_true, if_false]

theorem Dev.matrixStep_hot (f : Dev → Dev) (h : d.flag Reg.THERM_STAT_TRIP = true) : d.matrixStep f = d := by
  simp only [Dev.matrixStep, h, if_true]

/-- R273: the step that brought the count of failures to four ends its descriptor. -/
theorem Dev.parityFailed_fourth {r : Run} (he : e = d.temperEvent 1 (d.get (Reg.TILE_MAP_PHYS t))) (hrun : e.runAt t = some r)
    (htries : 3 ≤ Tab.get 0 r.tries ix) : d.parityFailed t ix = (e.bump Reg.STEP_POISON).failStage t ix 1 4 := by
  subst he
  simp only [Dev.parityFailed, hrun, Option.map_some, Option.getD_some, if_pos (Nat.succ_le_succ htries)]

/-- R273: a step that has added no failure of its own forgets those before it. -/
theorem Dev.stepDone_forgets {base : Dev}
    (h : ((d.runAt t).map (fun r => Tab.get 0 r.tries ix)) = ((base.runAt t).map (fun r => Tab.get 0 r.tries ix))) :
    base.stepDone d t ix = d.onRun t (fun r => { r with tries := Tab.del r.tries ix }) := by
  simp only [Dev.stepDone, h, beq_self_eq_true, if_true]

/-- A row of an operator that works anywhere on its tile: its step stands, or its parity fails. -/
theorem settles_step {c : Upset → Instr} {s : State} {at_ : Nat} {f : Dev → Stage → Dev × Bool} (hat : s.dev.at at_ = d) (h : d.AtStep t op y)
    (hf : f d y = (e, true)) (harm : ∀ par, exec (c par) s = act s at_ (fun d => d.opStep t op par f)) :
    Settles (c noUpset) s (d.stepDone e t y.ix) ∧ Settles (c { noUpset with parity := true }) s (d.parityFailed t y.ix) :=
  ⟨settles_act (fun d => d.opStep t op noUpset f) hat (d.opStep_done t op y h f e hf) (harm _),
    settles_act (fun d => d.opStep t op { noUpset with parity := true } f) hat (Dev.opStep_parity h hf) (harm _)⟩

/-- So is a row of an operator of the matrix unit below the trip point. -/
theorem settles_matrix {c : Upset → Instr} {s : State} {at_ : Nat} {f : Dev → Stage → Dev × Bool} (hat : s.dev.at at_ = d)
    (hcool : d.flag Reg.THERM_STAT_TRIP = false) (h : d.AtStep t op y) (hf : f d y = (e, true))
    (harm : ∀ par, exec (c par) s = act s at_ (fun d => d.matrixStep (fun d => d.opStep t op par f))) :
    Settles (c noUpset) s (d.stepDone e t y.ix) ∧ Settles (c { noUpset with parity := true }) s (d.parityFailed t y.ix) :=
  ⟨settles_act (fun d => d.matrixStep (fun d => d.opStep t op noUpset f)) hat
      ((Dev.matrixStep_cool _ hcool).trans (d.opStep_done t op y h f e hf)) (harm _),
    settles_act (fun d => d.matrixStep (fun d => d.opStep t op { noUpset with parity := true } f)) hat
      ((Dev.matrixStep_cool _ hcool).trans (Dev.opStep_parity h hf)) (harm _)⟩

end

/-- Settles O20: each row runs its operator's step, on the matrix unit or elsewhere. -/
theorem operatorsStep : Obligations.OperatorsStep := by
  unfold Obligations.OperatorsStep
  refine ⟨?steps, ?hot, fun base d t ix h => Dev.stepDone_forgets h, fun d e t ix r he hrun htries => Dev.parityFailed_fourth he hrun htries⟩
  case steps =>
    intro x hx s p t y d e hat hcool hstep hf
    simp only [List.mem_cons, List.not_mem_nil, or_false] at hx
    have harm : (∀ par, exec (x.1 p par t) s = act s t (fun d => d.opStep p.val x.2.1 par (fun d y => x.2.2 d p.val y))) ∨
        (∀ par, exec (x.1 p par t) s = act s t (fun d => d.matrixStep (fun d => d.opStep p.val x.2.1 par (fun d y => x.2.2 d p.val y)))) := by
      rcases hx with rfl | rfl | rfl | rfl | rfl | rfl | rfl | rfl | rfl | rfl | rfl | rfl | rfl | rfl
      iterate 8 exact .inl fun _ => rfl
      iterate 2 exact .inr fun _ => rfl
      iterate 4 exact .inl fun _ => rfl
    rcases harm with harm | harm
    · exact settles_step (c := fun par => x.1 p par t) hat hstep hf harm
    · exact settles_matrix (c := fun par => x.1 p par t) hat hcool hstep hf harm
  case hot =>
    intro s p par t d hat hhot
    exact ⟨settles_act (fun d => d.matrixStep (fun d => d.opStep p.val 8 par (fun d x => d.topkStep p.val x))) hat (Dev.matrixStep_hot _ hhot),
      settles_act (fun d => d.matrixStep (fun d => d.opStep p.val 9 par (fun d x => d.attendStep p.val x))) hat (Dev.matrixStep_hot _ hhot)⟩

end Sys2Proof.Machine
end

section
/-! PROOF. What one step of each of the fourteen operators does on operands that have landed (R267, R285 to R308). -/
namespace Sys2Proof.Machine

section
variable {d e : Dev} {t op len x n : Nat} {y z : Stage}

theorem Dev.withGot_ok (ix : Nat) (bs : List Byte) (k : List Byte → Dev × Bool) : d.withGot t ix (.ok bs) k = k bs := rfl

/-- Flags joined with none. -/
theorem lor_none (a : Nat) : Nat.lor a 0 = a := Nat.or_zero a

/-- The stage of an operator's step is one of that operator, and has not ended. -/
theorem Dev.AtStep.op_open (h : d.AtStep t op y) : dOp y.w = op ∧ y.fin = false := by
  obtain ⟨-, -, hfound⟩ := h
  obtain ⟨r, -, hr⟩ := Option.bind_eq_some_iff.mp hfound
  have hprop := List.find?_some hr
  simp only [Bool.and_eq_true, beq_iff_eq, Bool.not_eq_true'] at hprop
  exact ⟨hprop.1.1, hprop.2⟩

/-- An operator off the matrix unit whose step is taken. -/
theorem settles_done {i : Instr} {s : State} {at_ : Nat} {f : Dev → Stage → Dev × Bool} (hat : s.dev.at at_ = d) (h : d.AtStep t op y)
    (hf : f d y = (e, true)) (harm : exec i s = act s at_ (fun d => d.opStep t op noUpset f) := by rfl) :
    Settles i s (d.stepDone e t y.ix) :=
  settles_act (fun d => d.opStep t op noUpset f) hat (d.opStep_done t op y h f e hf) harm

/-- An operator of the matrix unit, below the trip point, whose step is taken. -/
theorem settles_wave {i : Instr} {s : State} {at_ : Nat} {f : Dev → Stage → Dev × Bool} (hat : s.dev.at at_ = d)
    (hcool : d.flag Reg.THERM_STAT_TRIP = false) (h : d.AtStep t op y) (hf : f d y = (e, true))
    (harm : exec i s = act s at_ (fun d => d.matrixStep (fun d => d.opStep t op noUpset f)) := by rfl) : Settles i s (d.stepDone e t y.ix) :=
  settles_act (fun d => d.matrixStep (fun d => d.opStep t op noUpset f)) hat
    ((Dev.matrixStep_cool _ hcool).trans (d.opStep_done t op y h f e hf)) harm

/-! ### The operators of bytes -/

/-- R286: COPY moves 4 KiB of rows. -/
theorem Dev.copyStep_landed {rows : Nat} {f : Nat × Nat → List Byte} {parts : List (Nat × Nat)} (hplain : bitOf (dF y.w 2) 48 = false)
    (hlen : len = dBits y.w 2 0 48) (hrows : rows = max 1 (dBits y.w 3 0 32)) (hx : x = 4096 * y.step) (hn : n = min 4096 (rows * len - x))
    (hparts : parts = rowParts (dF y.w 0) len (dBits y.w 4 0 32) (n + 1) x n) (hland : ∀ a ∈ parts, d.Landed t y.ix a.1 a.2 (f a)) :
    d.copyStep t y = (d.writeParts t y.ix (rowParts (dF y.w 1) len (dBits y.w 4 32 32) (n + 1) x n) (parts.flatMap f)).stepTo t y.ix
      (ceilDiv (rows * len) 4096) (fun s => { s with result := s.result + n }) := by
  simp only [Dev.copyStep, hplain, Bool.false_eq_true, if_false, ← hlen, ← hrows, ← hx, ← hn, ← hparts, Dev.grabMany_landed _ _ _ _ f _ hland,
    Dev.withGot_ok]

/-- R287: COMPARE finds the first place that differs. -/
theorem Dev.compareStep_landed {a b : List Byte} (hnums : y.nums = []) (hlen : len = dBits y.w 2 0 48) (hx : x = 4096 * y.step)
    (hn : n = min 4096 (len - x)) (ha : d.Landed t y.ix (dF y.w 0 + x) n a) (hb : d.Landed t y.ix (dF y.w 1 + x) n b) :
    d.compareStep t y = d.stepTo t y.ix (ceilDiv len 4096) (fun s => match firstDiff x a b with
      | some i => { s with nums := [i], result := i }
      | none => { s with result := 2 ^ 49 - 1 }) := by
  cases hfirst : firstDiff x a b <;>
    simp only [Dev.compareStep, ← hlen, ← hx, ← hn, Dev.grab_landed _ _ _ _ _ _ _ ha, Dev.grab_landed _ _ _ _ _ _ _ hb, hnums, hfirst]

/-- R289: SCATTER writes out 4 KiB of source. -/
theorem Dev.scatterStep_landed {a : List Byte} (hprev : d.prevStage t y.ix = none) (hflat : bitOf (dF y.w 2) 48 = false)
    (hlen : len = dBits y.w 2 0 48) (hx : x = 4096 * y.step) (hn : n = min 4096 (len - x)) (ha : d.Landed t y.ix (dF y.w 0 + x) n a) :
    d.scatterStep t y = (d.write t y.ix none (dF y.w 1 + x) a).stepTo t y.ix (ceilDiv len 4096)
      (fun s => { s with result := s.result + n }) := by
  simp only [Dev.scatterStep, hprev, ← hlen, ← hx, ← hn, Dev.grab_landed _ _ _ _ _ _ _ ha, Dev.scatterTo, hflat, Bool.not_false, if_true,
    bne_self_eq_false, Bool.false_eq_true, if_false, Dev.withGot_ok]

/-- R307, R308: PACK codes 4 KiB of source, where every line has a code and the stream has room. -/
theorem Dev.packStep_landed {bs out : List Byte} (hlen : len = dataBytes (dIn y.w) (dBits y.w 2 0 48)) (hx : x = 4096 * y.step)
    (hn : n = min 4096 (len - x)) (hbs : d.Landed t y.ix (dF y.w 0 + x) n bs)
    (hcoded : ∀ l ∈ linesOf 64 bs, (packLine (dIn y.w) (bitOf (dF y.w 2) 48) l).isSome = true)
    (hout : out = (linesOf 64 bs).flatMap (fun l => (packLine (dIn y.w) (bitOf (dF y.w 2) 48) l).getD []))
    (hroom : y.result + out.length ≤ dBits y.w 3 0 32) :
    d.packStep t y = (d.write t y.ix none (dF y.w 1 + y.result) out).stepTo t y.ix (ceilDiv len 4096)
      (fun s => { s with result := s.result + out.length, flags := Nat.lor s.flags (if x + n < len then 0 else d.packFlags t y) }) := by
  have hall : ((linesOf 64 bs).map (packLine (dIn y.w) (bitOf (dF y.w 2) 48))).any Option.isNone = false := by
    simp only [List.any_map, List.any_eq_false, Function.comp, Option.isNone_iff_eq_none]
    intro l hl hnone
    simpa only [hnone, Option.isSome_none, Bool.false_eq_true] using hcoded l hl
  have hout' : ((linesOf 64 bs).map (packLine (dIn y.w) (bitOf (dF y.w 2) 48))).flatMap (fun c => c.getD []) = out := by
    rw [List.flatMap_map, hout]
  simp only [Dev.packStep, ← hlen, ← hx, ← hn, Dev.grab_landed _ _ _ _ _ _ _ hbs, Dev.withGot_ok, hall, hout',
    decide_eq_false (Nat.not_lt.mpr hroom), Bool.or_self, Bool.false_eq_true, if_false]

/-- R307, R308: UNPACK decodes a landed page in place. -/
theorem Dev.unpackStep_landed {b out : List Byte} (hprev : d.prevStage t y.ix = some z) (hlen : len = dataBytes (dOut y.w) (dBits y.w 2 0 48))
    (hstep : y.step < d.stagePages t y) (hpage : d.chainPage t y y.step = .here b) (hplain : d.outcomeOf t (y.step + 1) ≠ 1)
    (hfits : len ≤ 2 ^ d.stageLog t y) (hout : unpackAll (dOut y.w) (bitOf (dF y.w 2) 48) (ceilDiv len 64) b = some out) :
    d.unpackStep t y = (d.writeHere t (d.slotAddr t y.step) y (out.take len)).stepTo t y.ix (d.stagePages t y)
      (fun s => { s with result := s.result + len }) := by
  simp only [Dev.unpackStep, hprev, ← hlen, if_neg (Nat.not_le.mpr hstep), hpage, beq_eq_false_iff_ne.mpr hplain, Bool.false_eq_true, if_false,
    if_neg (Nat.not_lt.mpr hfits), hout]

/-! ### The operators of records -/

/-- R290: FILTER takes the records of a landed page that pass. -/
theorem Dev.filterStep_landed {size per : Nat} {pred bs : List Byte} {terms recs : List (List Byte)} {hits : List Nat}
    (hprev : d.prevStage t y.ix = some z) (hstep : y.step < d.stagePages t y) (hsize : size = max 1 (dBits y.w 1 40 16))
    (hpred : d.Landed t y.ix (dF y.w 2) (dBits y.w 3 0 4 * 16) pred) (hterms : terms = filterTerms (dBits y.w 3 0 4) pred)
    (hpage : d.chainPage t y y.step = .here bs) (hper : per = 2 ^ d.stageLog t y / size) (hrecs : recs = recordsOf size per bs)
    (hhits : hits = (rangeFrom 0 recs.length).filter (fun j => recordPasses terms (recs.getD j []))) (hmode : dBits y.w 3 4 2 = 0) :
    d.filterStep t y = d.stepTo t y.ix (d.stagePages t y) (fun s => { s with
      result := s.result + hits.length,
      flags := Nat.lor s.flags ((recs.flatMap (fun r => terms.map (termFlags r))).foldl Nat.lor 0), pass := s.pass ++ [(s.step, hits)] }) := by
  simp only [Dev.filterStep, if_neg (Nat.not_le.mpr hstep), Dev.grab_landed _ _ _ _ _ _ _ hpred, Dev.withGot_ok, Dev.recordPage, hprev, hpage,
    ← hsize, ← hper, ← hrecs, ← hterms, ← hhits, hmode, bne_self_eq_false, Dev.when, Bool.false_eq_true, if_false]

/-- R292 to R294: TOPK scores the records of a landed page. -/
theorem Dev.topkStep_landed {size nq : Nat} {qs bs : List Byte} {queries : List (List Num)} {recs : List (List Byte)}
    {acc : List (List (Nat × Nat)) × Nat} (hprev : d.prevStage t y.ix = some z) (hop : dOp z.w ≠ 7) (hstep : y.step + 1 < d.stagePages t y)
    (hrank : y.rank ≠ []) (hnq : nq = dBits y.w 2 43 4 + 1) (hsize : size = max 1 (dBits y.w 1 40 16))
    (hqs : d.Landed t y.ix (dF y.w 3) (nq * rowBytes (if bitOf (dF y.w 2) 49 then 0 else 1) (dBits y.w 2 16 16)) qs)
    (hqueries : queries = queryRows (if bitOf (dF y.w 2) 49 then 0 else 1) (dBits y.w 2 16 16) nq qs)
    (hpage : d.chainPage t y y.step = .here bs) (hrecs : recs = recordsOf size (2 ^ d.stageLog t y / size) bs) (hsome : recs ≠ [])
    (hacc : acc = (rangeFrom 0 recs.length).foldl
      (fun acc j => scoreRecord y.w queries acc (y.step * (2 ^ d.stageLog t y / size) + j) (recs.getD j []))
      (y.rank, (queries.map readFlags).foldl Nat.lor 0)) :
    d.topkStep t y = d.stepTo t y.ix (d.stagePages t y) (fun s => { s with
      rank := acc.1, result := s.result + recs.length, flags := Nat.lor s.flags acc.2 }) := by
  have hpass : rangeFrom 0 recs.length ≠ [] := by
    rw [← List.length_pos_iff, rangeFrom_length]
    exact List.length_pos_iff.mpr hsome
  simp only [Dev.topkStep, if_neg (show ¬ d.stagePages t y ≤ y.step by omega), ← hnq, Dev.grab_landed _ _ _ _ _ _ _ hqs, Dev.withGot_ok,
    Dev.recordPage, hprev, hpage, if_neg hop, if_neg hrank, ← hsize, ← hrecs, ← hqueries, if_neg hpass, ← hacc, rangeFrom_length,
    decide_eq_false (show ¬ d.stagePages t y ≤ y.step + 1 by omega), Dev.when, Bool.false_and, Bool.false_eq_true, if_false, lor_none]


/-! ### REDUCE and COMBINE -/

/-- R298: REDUCE adds the contributions of its slice, which have all landed, and sends the sum to its destination. -/
theorem Dev.reduceStep_landed {count : Nat} {h : Heat} {rows : List (List Byte)} {cs : List Crucible} {slot : Nat → Nat}
    (hheat : d.heatOn t = some h) (hown : taSpace (dF y.w 1) = 0) (hcount : count = dBits y.w 2 0 9) (hn : n = dBits y.w 3 0 9)
    (hslot : ∀ k, slot k = y.step % max 1 (dBits y.w 2 16 8) * count + k) (hover : (t, y.ix, overrunMark) ∉ h.landed)
    (hfence : d.fencedWait h t y.ix y.step = false) (hland : ∀ k ∈ rangeFrom 0 count, (t, y.ix, slot k) ∈ h.landed)
    (hrows : rows = (rangeFrom 0 count).map (fun k => d.readSpa t (taAddr (dF y.w 0) + slot k * 256) (dataBytes (dIn y.w) n)))
    (hsum : rows.foldl (fun (a : Option (List Crucible)) r => a.bind (fun a => addContribution (dIn y.w) n (dScale y.w) a r))
      (some (List.replicate n Crucible.clear)) = some cs)
    (hpush : bitOf (dF y.w 3) 9 = false) (hstore : bitOf (dF y.w 3) 10 = true)
    (he : e = ((d.onHeat h.fn h.ring h.no (fun h => { h with
        landed := h.landed.filter (fun x => decide (x ∉ (rangeFrom 0 count).map (fun k => (t, y.ix, slot k)))) })).onRun t (fun r => { r with
        frames := r.frames.filter (fun f => !(decide (taAddr (dF y.w 0) ≤ f.off) &&
          decide ((t, y.ix, (f.off - taAddr (dF y.w 0)) / 256) ∈ (rangeFrom 0 count).map (fun k => (t, y.ix, slot k))))) })).keepCruc t cs) :
    d.reduceStep t y = (e.write t y.ix none (dF y.w 4 + y.step * (sliceOut (dOut y.w) cs).1.length) (sliceOut (dOut y.w) cs).1).stepTo t y.ix
      (dBits y.w 2 32 32) (fun s => { s with result := s.result + 1, flags := Nat.lor s.flags (Nat.lor
        (if dIn y.w = 0xFE then 0 else (rows.map (fun r => readFlags (readRow (dIn y.w) n r))).foldl Nat.lor 0)
        (sliceOut (dOut y.w) cs).2) }) := by
  have hall : (rangeFrom 0 count).all (fun k => decide ((t, y.ix, slot k) ∈ h.landed)) = true :=
    List.all_eq_true.mpr fun k hk => decide_eq_true (hland k hk)
  simp only [Dev.reduceStep, hheat, hown, if_true, ← hcount, ← hn, ← hslot, if_neg hover, hfence, hall, ← hrows, hsum, hpush, hstore, Dev.when,
    Bool.not_true, Bool.false_eq_true, if_false, ← he]

/-- A fold that answers `g` for every element and changes nothing. -/
theorem foldl_answers {α β γ : Type} (f : β → α → β × γ) (g : α → γ) (b : β) (l : List α) (h : ∀ x ∈ l, f b x = (b, g x)) (acc : List γ) :
    l.foldl (fun (a : β × List γ) x => ((f a.1 x).1, a.2 ++ [(f a.1 x).2])) (b, acc) = (b, acc ++ l.map g) := by
  induction l generalizing acc with
  | nil => simp only [List.foldl_nil, List.map_nil, List.append_nil]
  | cons x xs ih =>
    rw [List.foldl_cons, h x List.mem_cons_self, ih (fun z hz => h z (List.mem_cons_of_mem x hz)), List.map_cons, List.append_assoc,
      List.singleton_append]

/-- Ranges at an offset, all of which have landed. -/
theorem Dev.grabMany_offset {a : Nat} {g : Nat × Nat → List Byte} (remoteOk : Bool) (ps : List (Nat × Nat))
    (h : ∀ q ∈ ps, d.Landed t y.ix (a + q.1) q.2 (g q)) :
    d.grabMany t y.ix remoteOk (ps.map (fun p => (a + p.1, p.2))) = (d, .ok (ps.flatMap g)) := by
  induction ps with
  | nil => rfl
  | cons q qs ih =>
    simp only [List.map_cons, Dev.grabMany, Dev.grab_landed _ _ _ _ _ _ _ (h q List.mem_cons_self),
      ih (fun z hz => h z (List.mem_cons_of_mem q hz)), List.flatMap_cons]

/-- R302: COMBINE merges a head of partials that have landed. -/
theorem Dev.combineStep_landed {tab : List Byte} {f : Nat → Nat × Nat → List Byte} (hprev : d.prevStage t y.ix = none) (hn : n = dBits y.w 1 0 9)
    (htab : d.Landed t y.ix (dF y.w 0) (8 * n) tab)
    (hland : ∀ i ∈ rangeFrom 0 n, ∀ q ∈ combineParts y.w y.step, d.Landed t y.ix (fieldBytes tab (8 * i) 8 + q.1) q.2 (f i q)) :
    d.combineStep t y = d.combineHead t y y.step ((rangeFrom 0 n).map (fun i => (combineParts y.w y.step).flatMap (f i))) := by
  have hgot : ∀ i ∈ rangeFrom 0 n, d.grabMany t y.ix false ((combineParts y.w y.step).map (fun p => (fieldBytes tab (8 * i) 8 + p.1, p.2))) =
      (d, Got.ok ((combineParts y.w y.step).flatMap (f i))) := fun i hi => Dev.grabMany_offset false _ (hland i hi)
  have hfold := foldl_answers (fun (d : Dev) i =>
    d.grabMany t y.ix false ((combineParts y.w y.step).map (fun p => (fieldBytes tab (8 * i) 8 + p.1, p.2)))) _ d _ hgot []
  simp only [Dev.combineStep, hprev, ← hn, Dev.grab_landed _ _ _ _ _ _ _ htab, Dev.withGot_ok, hfold, List.nil_append, List.filterMap_map,
    Function.comp_def, List.filterMap_none, List.filterMap_eq_map', bne_self_eq_false, Bool.false_eq_true, if_false, List.length_map,
    rangeFrom_length, Nat.lt_irrefl]


/-! ### The operators of pages: GATHER, RESHARD and ATTEND -/

/-- R282: a table's entry of a hole, with nothing read ahead, notes the hole. -/
theorem Dev.walkPage_hole {pt count log space miss look limit i : Nat} {bs : List Byte}
    (hahead : min look (min count limit - (i + 1)) = 0) (hentry : d.tableEntry t y.ix pt count i = (d, .ok bs)) (hhole : entryOf space log bs = .hole) :
    d.walkPage t y.ix pt count log space miss look limit i = (d.noteHole t (i + 1), .hole) := by
  simp only [Dev.walkPage, hentry, hahead, rangeFrom, Dev.each_nil, hhole]

/-- R277: a page all of whose pieces have landed, under MISS WAIT and before the deadline, is there. -/
theorem Dev.pageGot_landed {h : Heat} {r : Run} {key index a : Nat} {ps : List (Nat × Nat)} {need : Shadow → List (Nat × Nat)} {b : List Byte}
    (hheat : d.heatOn t = some h) (hrun : d.runAt t = some r) (hcode : r.hardCode key = none) (hremote : d.mayRemote t y.ix = true)
    (hdue : r.deadlined = false) (hlost : r.lost = []) (hmiss : d.missPolicy t = 0) (hgot : d.collect t key ps = .ok b) :
    d.pageGot t y.ix key index 0 a len ps need = (d, .data b) := by
  have hfetch := Dev.fetch_whole d t key (d.mayRemote t y.ix) ps (Dev.collect_asked d t key ps b hgot)
  have hkeep : d.missPoisoned t key = d := by
    simp only [Dev.missPoisoned, hrun, hmiss, bne_self_eq_false, Bool.false_and, Bool.false_eq_true, if_false]
  rw [hremote] at hfetch
  simp only [Dev.pageGot, hheat, hrun, hcode, hremote, hdue, hlost, Bool.not_true, Bool.false_and, Bool.false_eq_true, if_false, Dev.when,
    List.not_mem_nil, hfetch, hkeep, Option.map_some, Option.getD_some, decide_false, hgot]

/-- R282: an entry of a page whose pieces have landed gives the page, and its reads are used up. -/
theorem Dev.walkPage_landed {h : Heat} {r : Run} {pt count log space look limit i q : Nat} {bs b : List Byte}
    (hheat : d.heatOn t = some h) (hrun : d.runAt t = some r) (hcode : r.hardCode (i + 1) = none) (hremote : d.mayRemote t y.ix = true)
    (hdue : r.deadlined = false) (hlost : r.lost = []) (hmiss : d.missPolicy t = 0) (hahead : min look (min count limit - (i + 1)) = 0)
    (hentry : d.tableEntry t y.ix pt count i = (d, .ok bs)) (hpage : entryOf space log bs = .page q)
    (hgot : d.collect t (i + 1) (d.piecesOf h.fn q (2 ^ log)) = .ok b) :
    d.walkPage t y.ix pt count log space 0 look limit i = (d.clearKey t (i + 1), .here b) := by
  simp only [Dev.walkPage, hentry, hahead, rangeFrom, Dev.each_nil, hpage, hheat, Option.map_some, Option.getD_some,
    Dev.pageGot_landed hheat hrun hcode hremote hdue hlost hmiss hgot]

/-- R288: GATHER lands its last page. -/
theorem Dev.gatherStep_landed {log a lo hi q : Nat} {h : Heat} {r : Run} {line b : List Byte} (hop : d.AtStep t 5 y) (hheat : d.heatOn t = some h)
    (hrun : d.runAt t = some r) (hone : r.stages = [y]) (hdue : r.deadlined = false) (hlost : r.lost = []) (hcode : r.hardCode (y.step + 1) = none)
    (hmiss : dMiss y.w = 0) (hlog : log = dBits y.w 1 32 5) (hlast : y.step + 1 = dBits y.w 1 0 32) (ha : a = dF y.w 0 + 8 * y.step)
    (hlo : lo = max (dF y.w 0) (a - taAddr a % 64)) (hhi : hi = min (dF y.w 0 + 8 * (y.step + 1)) (a - taAddr a % 64 + 64))
    (hline : d.Landed t y.ix lo (hi - lo) line) (hpage : entryOf (dBits y.w 1 37 3) log ((line.drop (a - lo)).take 8) = .page q)
    (hgot : d.collect t (y.step + 1) (d.piecesOf h.fn q (2 ^ log)) = .ok b) (he : e = d.clearKey t (y.step + 1)) :
    d.gatherStep t y = (e.writeHere t (taAddr (dF y.w 2) + (if dBits y.w 3 0 16 = 0 then y.step else y.step % dBits y.w 3 0 16) * 2 ^ log) y
      (padBytes (2 ^ log) b)).stepTo t y.ix (y.step + 1) (fun s => { s with result := s.result + 1 }) := by
  have hremote : d.mayRemote t y.ix = true := by
    obtain ⟨hgather, -⟩ := hop.op_open
    obtain ⟨-, hstage, -⟩ := hop
    simp only [Dev.mayRemote, hstage, Option.map_some, hgather, Option.getD_some]
    decide
  have hpolicy : d.missPolicy t = 0 := by
    simp only [Dev.missPolicy, hrun, Option.bind_some, hone, List.head?_cons, Option.map_some, Option.getD_some, hmiss]
  have hentry := Dev.tableEntry_landed d t y.ix (dF y.w 0) (y.step + 1) y.step a lo hi line ha hlo hhi hline
  have hwalk := Dev.walkPage_landed (look := dLook y.w) (limit := y.step + 1) hheat hrun hcode hremote hdue hlost hpolicy
    (by rw [Nat.min_self, Nat.sub_self, Nat.min_zero]) hentry hpage hgot
  simp only [Dev.gatherStep, ← hlast, ← hlog, hrun, hone, hmiss, if_neg (show ¬ y.step + 1 ≤ y.step by omega), List.length_singleton,
    Nat.le_refl, decide_true, Bool.or_true, if_true, hwalk, ← he, lor_none]

/-- R306: RESHARD moves the rows of a hole page, zeros, to the pages of its destination table. -/
theorem Dev.reshardStep_hole {log space rb total a lo hi : Nat} {line : List Byte} {tos : Nat × (Nat × Nat) → Nat}
    (hlog : log = dBits y.w 2 42 5) (hspace : space = dBits y.w 2 47 3) (hrb : rb = dBits y.w 3 0 16)
    (htotal : total = reshardPages y.w (dBits y.w 2 40 1)) (hstep : y.step < total) (hrows : reshardRows y.w y.step ≠ [])
    (ha : a = dF y.w 0 + 8 * y.step) (hlo : lo = max (dF y.w 0) (a - taAddr a % 64))
    (hhi : hi = min (dF y.w 0 + 8 * total) (a - taAddr a % 64 + 64)) (hline : d.Landed t y.ix lo (hi - lo) line)
    (hhole : entryOf space log ((line.drop (a - lo)).take 8) = .hole)
    (hdst : ∀ r ∈ reshardRows y.w y.step, ∃ bs, (d.noteHole t (y.step + 1)).tableEntry t y.ix (dF y.w 1) (reshardPages y.w (dBits y.w 2 41 1))
      (reshardTo y.w r.2.1 r.2.2).1 = (d.noteHole t (y.step + 1), .ok bs) ∧ entryOf space log bs = .page (tos r)) :
    d.reshardStep t y = ((d.noteHole t (y.step + 1)).each (reshardRows y.w y.step) (fun d r =>
      d.write t y.ix none (tos r + (reshardTo y.w r.2.1 r.2.2).2 * rb) (((List.replicate (2 ^ log) 0#8).drop (r.1 * rb)).take rb))).stepTo
        t y.ix total (fun s => { s with result := s.result + (reshardRows y.w y.step).length }) := by
  choose! line' hentry' hpage' using hdst
  have hwalk := Dev.walkPage_hole (miss := 0) (look := 0) (limit := total) (Nat.zero_min _)
    (Dev.tableEntry_landed d t y.ix (dF y.w 0) total y.step a lo hi line ha hlo hhi hline) hhole
  have hfold := foldl_answers (fun (d : Dev) (r : Nat × Nat × Nat) =>
    ((d.tableEntry t y.ix (dF y.w 1) (reshardPages y.w (dBits y.w 2 41 1)) (reshardTo y.w r.2.1 r.2.2).1).1,
      ((reshardTo y.w r.2.1 r.2.2).2,
        (d.tableEntry t y.ix (dF y.w 1) (reshardPages y.w (dBits y.w 2 41 1)) (reshardTo y.w r.2.1 r.2.2).1).2)))
    (fun r => ((reshardTo y.w r.2.1 r.2.2).2, Got.ok (line' r))) (d.noteHole t (y.step + 1)) _
    (fun r hr => by rw [hentry' r hr]) []
  have hentries : (reshardRows y.w y.step).map (fun r => ((reshardTo y.w r.2.1 r.2.2).2, some (entryOf space log (line' r)))) =
      (reshardRows y.w y.step).map (fun r => ((reshardTo y.w r.2.1 r.2.2).2, some (Entry.page (tos r)))) :=
    List.map_congr_left fun r hr => by rw [hpage' r hr]
  have hnone : ∀ l : List (Nat × Nat × Nat), l.any (fun _ => false) = false := fun l => List.any_eq_false.mpr fun _ _ => Bool.false_ne_true
  simp only [Dev.reshardStep, ← hlog, ← hspace, ← hrb, ← htotal, if_neg (Nat.not_le.mpr hstep), if_neg hrows, hwalk, hfold, List.nil_append,
    List.filterMap_map, List.map_map, Function.comp_def, List.filterMap_none, bne_self_eq_false, Bool.false_eq_true, if_false, hentries,
    List.any_map, Option.isNone_some, hnone, Option.some.injEq, reduceCtorEq, decide_false, ← List.map_prod_left_eq_zip, Dev.each,
    List.foldl_map, List.filter_map, ne_eq, not_false_eq_true, decide_true, List.length_map, List.filter_true]

/-- A stage of a run after a change that leaves its number. -/
theorem Dev.stageAt_onStage {ix : Nat} {f : Stage → Stage} (hstage : d.stageAt t ix = some y) (hix : ∀ s, (f s).ix = s.ix) :
    (d.onStage t ix f).stageAt t ix = some (f y) := by
  obtain ⟨r, hrun, hfind⟩ := Option.bind_eq_some_iff.mp hstage
  have hafter : (d.onStage t ix f).runAt t = some { r with stages := r.stages.map (fun s => if s.ix = ix then f s else s) } := by
    simp only [Dev.onStage, Dev.onRun, hrun]
    exact Tab.find_ins_same _ _ _
  have hhere : y.ix = ix := by simpa only [beq_iff_eq] using List.find?_some hfind
  have hcomp : ((fun s : Stage => s.ix == ix) ∘ fun s => if s.ix = ix then f s else s) = fun s => s.ix == ix := by
    funext s
    simp only [Function.comp]
    split
    · rw [hix]
    · rfl
  simp only [Dev.stageAt, hafter, Option.bind_some, List.find?_map, hcomp, hfind, Option.map_some, if_pos hhere]

/-- R314, R326: ATTEND takes the next landed page of its chain. -/
theorem Dev.attendStep_landed {q i : Nat} {x : Stage} {le : LenEntry} {toks : List (Nat × Nat)} {bs : List Byte} {g : Dev} (hop : d.AtStep t 9 y)
    (hprev : d.prevStage t y.ix = some z)
    (hg : g = d.onStage t y.ix (fun s => { s with flags := Nat.lor s.flags (readFlags [f32Num (dBits s.w 3 0 32)]) }))
    (hx : g.stageAt t y.ix = some x) (hblobs : y.blobs ≠ []) (hle : le = lenEntry (y.blobs.headD []))
    (hq : (entryPages y.w le)[y.nums.getD 1 0]? = some q) (hi : i = y.nums.headD 0) (htoks : toks = pageTokens y.w le (y.blobs.getD 1 []) q)
    (hlive : toks ≠ []) (hpages : i < g.stagePages t x) (hpage : g.chainPage t x i = .here bs) (hplain : g.outcomeOf t (i + 1) ≠ 1) :
    d.attendStep t y = ((g.bumpBy Reg.ATTEND_OVERREAD (bs.length - toks.length * attRow y.w)).attCompute t x true
      (toks.map (fun x => (bs.drop (x.2 * attRow y.w)).take (attRow y.w))) (attRow y.w)).attPassed t y.ix true
      (entryPages y.w le).length toks.length := by
  obtain ⟨-, hopen⟩ := hop.op_open
  obtain ⟨-, hstage, -⟩ := hop
  have hsame : x = { y with flags := Nat.lor y.flags (readFlags [f32Num (dBits y.w 3 0 32)]) } :=
    Option.some.inj (hx.symm.trans (hg ▸ Dev.stageAt_onStage hstage fun _ => rfl))
  have htable : g.tableBytes t y.ix = d.tableBytes t y.ix := by
    rw [hg]
    obtain ⟨r, hrun, -⟩ := Option.bind_eq_some_iff.mp hstage
    have hafter := Tab.find_ins_same d.heats.runs t
    have hrun' : Tab.find? d.heats.runs t = some r := hrun
    simp only [Dev.tableBytes, Dev.onStage, Dev.onRun, Dev.runAt, hrun', hafter, Option.map_some]
  have hchained : (d.prevStage t y.ix).isSome = true := by rw [hprev]; rfl
  have hfin : x.fin = false := hsame ▸ hopen
  have hix : x.ix = y.ix := hsame ▸ rfl
  have hw : x.w = y.w := hsame ▸ rfl
  have hnums : x.nums = y.nums := hsame ▸ rfl
  have hblobs' : x.blobs = y.blobs := hsame ▸ rfl
  simp only [Dev.attendStep, hchained, ← hg, if_neg hblobs, htable, Nat.lt_irrefl, decide_false, Dev.when, Bool.false_eq_true, if_false, hx, hfin, hix, hw, hnums,
    hblobs', Bool.not_true, if_true, Dev.attChained, ← hle, hq, ← hi, ← htoks, if_neg (Nat.not_le.mpr hpages), hpage, beq_eq_false_iff_ne.mpr hplain,
    if_neg hlive]

end

/-- Settles O21: each operator takes the step that its equation above spells out. -/
theorem operatorsComplete : Obligations.OperatorsComplete := by
  unfold Obligations.OperatorsComplete
  refine ⟨?nop, ?fill, ?copy, ?compare, ?reduce, ?gather, ?scatter, ?filter, ?topk, ?attend, ?combine, ?reshard, ?pack, ?unpack⟩
  case nop =>
    intro s p t y d hat hop
    exact settles_done (f := fun d x => d.nopStep p.val x) hat hop rfl
  case fill =>
    intro s p t len off n y d hat hop hlen hoff hn
    subst hlen hoff hn
    exact settles_done (f := fun d x => d.fillStep p.val x) hat hop rfl
  case copy =>
    intro s p t len rows x n y f parts d hat hop hplain hlen hrows hx hn hparts hland
    exact settles_done (f := fun d x => d.copyStep p.val x) hat hop (Dev.copyStep_landed hplain hlen hrows hx hn hparts hland)
  case compare =>
    intro s p t len x n y a b d hat hop hnums hlen hx hn ha hb
    exact settles_done (f := fun d x => d.compareStep p.val x) hat hop (Dev.compareStep_landed hnums hlen hx hn ha hb)
  case reduce =>
    intro s p t count n y h rows cs slot d e hat hop hheat hown hcount hn hslot hover hfence hland hrows hsum hpush hstore he
    exact settles_done (f := fun d x => d.reduceStep p.val x) hat hop
      (Dev.reduceStep_landed hheat hown hcount hn hslot hover hfence hland hrows hsum hpush hstore he)
  case gather =>
    intro s p t log a lo hi y h r line b d e hat hop hheat hrun hone hdue hlost hcode hmiss hlog hlast ha hlo hhi hline q hpage hgot he
    exact settles_done (f := fun d x => d.gatherStep p.val x) hat hop
      (Dev.gatherStep_landed hop hheat hrun hone hdue hlost hcode hmiss hlog hlast ha hlo hhi hline hpage hgot he)
  case scatter =>
    intro s p t len x n y a d hat hop hprev hflat hlen hx hn ha
    exact settles_done (f := fun d x => d.scatterStep p.val x) hat hop (Dev.scatterStep_landed hprev hflat hlen hx hn ha)
  case filter =>
    intro s p t size per y z pred bs terms recs hits d hat hop hprev hstep hsize hpred hterms hpage hper hrecs hhits hmode
    exact settles_done (f := fun d x => d.filterStep p.val x) hat hop
      (Dev.filterStep_landed hprev hstep hsize hpred hterms hpage hper hrecs hhits hmode)
  case topk =>
    intro s p t size nq y z qs bs queries recs acc d hat hcool hop hprev hother hstep hrank hnq hsize hqs hqueries hpage hrecs hsome hacc
    exact settles_wave (f := fun d x => d.topkStep p.val x) hat hcool hop
      (Dev.topkStep_landed hprev hother hstep hrank hnq hsize hqs hqueries hpage hrecs hsome hacc)
  case attend =>
    intro s p t q i y z x e toks bs d g hat hcool hop hprev hg hx hblobs he hq hi htoks hlive hpages hpage hplain
    refine settles_wave (f := fun d x => d.attendStep p.val x) hat hcool hop ?step
    case step =>
      exact (Dev.attendStep_landed hop hprev hg hx hblobs he hq hi htoks hlive hpages hpage hplain).trans
        (Prod.ext rfl (Dev.attPassed_taken _ _ _ _ _ _))
  case combine =>
    intro s p t n y tab f d hat hop hprev hn htab hland
    exact settles_done (f := fun d x => d.combineStep p.val x) hat hop
      ((Dev.combineStep_landed hprev hn htab hland).trans (Prod.ext rfl (Dev.combineHead_taken _ _ _ _ _)))
  case reshard =>
    intro s p t log space rb total a lo hi y line tos d hat hop hlog hspace hrb htotal hstep hrows ha hlo hhi hline hhole hdst
    refine settles_done (f := fun d x => d.reshardStep p.val x) hat hop
      (Dev.reshardStep_hole (tos := tos) hlog hspace hrb htotal hstep hrows ha hlo hhi hline hhole fun r hr => ?entry)
    case entry =>
      obtain ⟨bs, hlanded, hpage⟩ := hdst r hr _ _ _ rfl rfl rfl
      exact ⟨_, Dev.tableEntry_landed _ _ _ _ _ _ _ _ _ _ rfl rfl rfl hlanded, hpage⟩
  case pack =>
    intro s p t len x n y bs out d hat hop hlen hx hn hbs hcoded hout hroom
    exact settles_done (f := fun d x => d.packStep p.val x) hat hop (Dev.packStep_landed hlen hx hn hbs hcoded hout hroom)
  case unpack =>
    intro s p t len y z b out d hat hop hprev hlen hstep hpage hplain hfits hout
    exact settles_done (f := fun d x => d.unpackStep p.val x) hat hop
      (Dev.unpackStep_landed hprev hlen hstep hpage hplain hfits hout)

end Sys2Proof.Machine
end

section
/-! PROOF. The tier, shadow builds, weight pushes and key sweeps (R345 to R350, R355, R358, R373). -/
namespace Sys2Proof.Machine

section
variable {d e : Dev}

/-- R346: with no demotion under way the first candidate that may be promoted takes the free frame. -/
theorem Dev.tierPromotion_starts {page slot : Nat} {rest : List Nat} (hup : d.coreUp 15 = true)
    (hcalm : d.store.frames.filter (fun f => f.mode == 2 && f.out == []) = []) (hen : d.flag Reg.TIER_CTL_PROMOTE_EN = true)
    (hcands : d.store.cands = page :: rest) (he : e = ({ d with store := { d.store with cands := rest } } : Dev).showTier)
    (hregion : ∃ ix x, e.ten.live.byPpa (page * 0x20_0000) = some (ix, x) ∧ (x.tier = 1 ∨ x.tier = 2)) (hframe : e.frameOf page = none)
    (hslot : e.freeSlot = some slot) : d.tierPromotion = e.startPromotion page slot := by
  obtain ⟨ix, x, hppa, htier⟩ := hregion
  have hok : e.promotable page = true := by
    simp only [Dev.promotable, hframe, Option.isNone_none, hppa, Option.map_some, Option.getD_some, Bool.true_and, Bool.or_eq_true, beq_iff_eq,
      htier]
  simp only [Dev.tierPromotion, hup, hcalm, List.map_nil, Dev.each_nil, hen, hcands, ← he, hok, hslot, Bool.not_true, Bool.false_eq_true, if_false]

/-- R345: a decay that is due halves every counter listed. -/
theorem Dev.counterDecay_due (hdue : d.store.decayAt + max 1 (d.get Reg.TIER_THR_DECAY_MS) * 1000000 ≤ d.time) :
    d.counterDecay = ({ d with store := { d.store with decayAt := d.time } } : Dev).each
        (((d.dmem.filter (fun c => decide (d.areaBase 4 ≤ c.1) && decide (c.1 < d.areaBase 4 + d.areaSize 4))).map
          (fun c => (c.1 - d.areaBase 4) / 2)).foldl addOnce [])
        (fun e page => e.writeMem (d.areaBase 4 + page * 2) (natBytes 2 (e.accessCounter page / 2))) := by
  rw [Dev.counterDecay, if_neg (Nat.not_lt.mpr hdue)]

/-- R348: a line dirty for CLEAN_MS that is not out goes to its home. -/
theorem Dev.cleanWriteback_due {k : Nat} {f : TierFrame} {x : Nat × Nat} (hframe : d.frameOf (k / 32768) = some f)
    (hdirty : f.dirty.find? (fun x => x.1 == k % 32768) = some x) (hin : k % 32768 ∉ f.out)
    (hdue : x.2 + max 1 (d.get Reg.TIER_THR_CLEAN_MS) * 1000000 ≤ d.time) :
    d.cleanWriteback k = d.moveTierLine (k / 32768) (k % 32768) .clean := by
  simp only [Dev.cleanWriteback, hframe, hdirty, decide_eq_false hin, decide_eq_false (Nat.not_lt.mpr hdue), Bool.or_self, Bool.false_eq_true,
    if_false]

/-- R165: the request for a line of a frame goes through the switch, and is no request in flight. -/
theorem Dev.moveTierLine_asks {page ix : Nat} {op : HomeOp} {r : HomeReq} (hr : r =
    { who := .tier page, tag := page * 32768 + ix, op := op, dom := 0, ppa := page * 0x20_0000 + 64 * ix, count := 0,
      first := page * 0x20_0000 + 64 * ix, data := [], mask := 0, tc := d.get Reg.TIER_CTL_TIER_TC, ctrKind := 0, ctr := 0,
      epoch := d.epoch, no := d.flightNo (.tier page) (page * 32768 + ix), parity := 0, gen := none }) :
    d.moveTierLine page ix op = (d.onFrame page (fun f => { f with out := f.out ++ [ix] })).sendInner .tier
      (.slice (homeSlice (page * 0x20_0000 + 64 * ix))) (askMsg r) 0 (.ask r) := by
  have haddr : (page * 32768 + ix) * 64 = page * 0x20_0000 + 64 * ix := by omega
  subst hr
  have huncounted (g : Dev) (a : Nat) (b : Bool) : g.admitFlight (.tier page) (page * 32768 + ix) a b = g := by
    simp only [Dev.admitFlight, Agent.counted, Bool.not_false, Bool.true_or, if_true]
  simp only [Dev.moveTierLine, Dev.askHome, Dev.tierReq, haddr, huncounted, Dev.agentAt, askMsg]
  rfl

/-- R355: a page of a span with no valid shadow, no build and no write since is read anew from its first line. -/
theorem Dev.shadowBuild_starts {ppa page len : Nat} {x : Span} (hup : d.coreUp 15 = true) (hspan : d.spanPage ppa = some (page, len, x))
    (hnone : ∀ y ∈ d.store.shadows, y.ppa = page → y.valid = false) (hidle : ∀ b ∈ d.store.builds, b.ppa ≠ page) (hquiet : d.store.quiet = [])
    (hroom : shadowLen len x.fmt x.d ≤ d.areaSize 6) :
    d.shadowBuild ppa = ({ d with store := { d.store with builds := d.store.builds ++ [⟨page, len, x.fmt, x.d, [], false⟩] } } : Dev).askHome
      (d.shadowReq page (page / 64)) := by
  have habsent : (d.store.shadows.any (fun x => x.ppa == page && x.valid) || d.store.builds.any (fun b => b.ppa == page)) = false := by
    simp only [Bool.or_eq_false_iff, List.any_eq_false, Bool.and_eq_true, beq_iff_eq, not_and, Bool.not_eq_true]
    exact ⟨hnone, hidle⟩
  have hcalm : (rangeFrom (page / 4096) (len / 4096)).all (fun u => (Tab.find? d.store.quiet u).isNone) = true := by
    simp only [hquiet, List.all_eq_true]
    exact fun _ _ => rfl
  simp only [Dev.shadowBuild, hup, hspan, habsent, hcalm, decide_eq_false (Nat.not_lt.mpr hroom), Bool.not_true, Bool.true_or, Bool.or_self,
    Bool.false_eq_true, if_false]

/-- R378: WPUSH_GO with a group and a source in device memory starts a push. -/
theorem Dev.wpushGo_starts (hidle : d.flag Reg.WPUSH_STAT_BUSY = false) (hgroup : 8192 ≤ d.get Reg.WPUSH_CFG_GROUP)
    (hsrc : d.dmaNamed (d.get Reg.WPUSH_SRC_ADDR) (d.get Reg.WPUSH_CFG_LENGTH) = true) :
    d.wpushGo = d.startPush none (d.get Reg.WPUSH_SRC_ADDR) (d.get Reg.WPUSH_DST_ADDR) (d.get Reg.WPUSH_CFG_LENGTH) (d.get Reg.WPUSH_CFG_GROUP) := by
  simp only [Dev.wpushGo, hidle, decide_eq_false (Nat.not_lt.mpr hgroup), hsrc, Bool.not_true, Bool.or_self, Bool.false_eq_true, if_false]

/-- R373: a sweep asks the home of the next line of its page. -/
theorem Dev.keySweepLine_next {dom page : Nat} {rest : List Nat} {x : Sweep} (hsweep : d.sweepOf dom = some x) (hpages : x.pages = page :: rest)
    (hnext : x.next < 32768) :
    d.keySweepLine dom = ({ d with store := { d.store with sweeps := d.store.sweeps.map (fun (y : Sweep) =>
      if y.dom = dom then { y with next := y.next + 1, out := y.out ++ [page * 32768 + x.next] } else y) } } : Dev).askHome
      (d.sweepReq dom (page * 32768 + x.next)) := by
  simp only [Dev.keySweepLine, hsweep, hpages, if_neg (Nat.not_le.mpr hnext)]

end

/-- Settles O30: promotion, decay, cleaning and flushing, and the request for a line of a frame. -/
theorem tierMoves : Obligations.TierMoves := by
  unfold Obligations.TierMoves
  refine ⟨?promotion, ?decay, ?clean, ?flush, fun d page ix op _ r hr => Dev.moveTierLine_asks hr⟩
  case promotion =>
    intro s t page slot rest d hat hup hcalm hen hcands e he hregion hframe hslot
    exact settles_act (fun d => d.tierPromotion) hat (Dev.tierPromotion_starts hup hcalm hen hcands he hregion hframe hslot)
  case decay =>
    intro s t d hat hdue
    exact settles_act (fun d => d.counterDecay) hat (Dev.counterDecay_due hdue)
  case clean =>
    intro s k t since f x d hat hframe hdirty hsince hin hdue
    subst hsince
    exact settles_act (fun d => d.cleanWriteback k) hat (Dev.cleanWriteback_due hframe hdirty hin hdue)
  case flush =>
    intro s t d hat hup fresh hfresh
    subst hfresh
    exact settles_bar (fun d => d.flushTier) hat hup rfl

/-- Settles O31: shadow builds, weight pushes and key sweeps. -/
theorem enginesStart : Obligations.EnginesStart := by
  unfold Obligations.EnginesStart
  refine ⟨?build, ?push, ?sweep⟩
  case build =>
    intro s ppa t page len x d hat hup hspan hnone hidle hquiet hroom
    exact settles_act (fun d => d.shadowBuild ppa) hat (Dev.shadowBuild_starts hup hspan hnone hidle hquiet hroom)
  case push =>
    intro s t d hat hup hidle hgroup hsrc
    exact settles_bar (fun d => d.wpushGo) hat hup (Dev.wpushGo_starts hidle hgroup hsrc)
  case sweep =>
    intro s dom t page rest x d hat hsweep hpages hnext
    exact settles_act (fun d => d.keySweepLine dom.val) hat (Dev.keySweepLine_next hsweep hpages hnext)

end Sys2Proof.Machine
end

section
/-! PROOF. Frames, pauses and the state of an uplink (R384, R408 to R410). -/
namespace Sys2Proof.Machine

section
variable {d e : Dev} {p i : Nat}

/-! ### Frames -/

/-- Whether the FCS of a frame holds. -/
theorem fcs_eq {frame : List Byte} (hlong : 4 ≤ frame.length) (good : Nat) :
    (!false && decide (4 ≤ frame.length) && bytesNat (frame.drop (frame.length - 4)) == good) =
      decide (bytesNat (frame.drop (frame.length - 4)) = good) := by
  rw [decide_eq_true hlong, Bool.not_false, Bool.true_and, Bool.true_and, beq_eq_decide]

/-- R408: a PFC frame is acted on where its FCS holds. -/
theorem Dev.grtFrameReceive_pfc {frame bs : List Byte} (hrole : d.isRole p 2 = true) (hactive : d.linkState p = 4) (hlong : 4 ≤ frame.length)
    (hbs : bs = frame.take (frame.length - 4)) (hpfc : isPfc bs = true) :
    d.grtFrameReceive p frame false = if bytesNat (frame.drop (frame.length - 4)) = crc32 bs then (d.bump (Reg.FRAMES_IN p)).takePfc p bs
      else (d.bump (Reg.FRAMES_IN p)).bump Reg.SLAG_GRT_BAD := by
  simp only [Dev.grtFrameReceive, hrole, hactive, ← hbs, hpfc, if_true, fcs_eq hlong, decide_eq_true_eq, Bool.not_true,
    bne_self_eq_false, Bool.or_self, Bool.false_eq_true, if_false]

/-- R384: any other frame meets the policer, and goes to the engine of its uplink's core die. -/
theorem Dev.grtFrameReceive_frame {frame bs : List Byte} {act tc : Nat} (hrole : d.isRole p 2 = true) (hactive : d.linkState p = 4)
    (hlong : 4 ≤ frame.length) (hbs : bs = frame.take (frame.length - 4)) (hframe : isPfc bs = false)
    (hact : act = ((d.bump (Reg.FRAMES_IN p)).police p frame.length).1) (he : e = ((d.bump (Reg.FRAMES_IN p)).police p frame.length).2)
    (htc : tc = (if act = 2 then e.get (Reg.POL_CFG_REMARK_TC p) else if etherAt bs = 16 then wireNat bs 14 2 / 8192 else 0)) :
    d.grtFrameReceive p frame false = if act = 3 then e.bump (Reg.SLAG_POLICED p) else e.send (.port p) (.grt (e.portDie p)) 6 tc
      ⟨.grtIn bs (decide (bytesNat (frame.drop (frame.length - 4)) = crc32 bs)), e.time, 0, false, 0⟩ := by
  simp only [Dev.grtFrameReceive, hrole, hactive, ← hbs, hframe, fcs_eq hlong, ← hact, ← he, ← htc, Bool.not_true,
    bne_self_eq_false, Bool.or_self, Bool.false_eq_true, if_false]

/-- R384: a frame whose FCS does not hold counts in SLAG_GRT_BAD. -/
theorem Dev.engineFrame_bad (bs : List Byte) : d.engineFrame p bs false = d.bump Reg.SLAG_GRT_BAD := rfl

/-- R384: one that is not addressed to its uplink counts in SLAG_REJECT. -/
theorem Dev.engineFrame_elsewhere {bs : List Byte} (haddr : d.grtAddressed p bs = false) : d.engineFrame p bs true = d.bump (Reg.SLAG_REJECT p) := by
  simp only [Dev.engineFrame, haddr, Bool.not_true, Bool.not_false, Bool.false_eq_true, if_false, if_true]

/-- R384: a sound packet goes to its context. -/
theorem Dev.engineFrame_sound {bs : List Byte} (haddr : d.grtAddressed p bs = true) (hsound : grtSound bs = true)
    (hhead : gHeadOk ((bs.drop (etherAt bs + 2)).drop 48) (grtPacket p bs).payload.length = true) :
    d.engineFrame p bs true = d.enginePacket p (grtReceived bs) := by
  simp only [Dev.engineFrame, haddr, hsound, hhead, Bool.not_true, Bool.false_eq_true, if_false]

/-! ### Pauses -/

/-- R408: a pause whose quanta have run out is over, and the timers of its contexts have stood still meanwhile. -/
theorem Dev.pauseExpiry_over {x : Nat × Nat} (hpause : Tab.find? d.grt.pauses (p * 8 + i) = some x) (hover : x.2 ≤ d.time) :
    d.pauseExpiry p i =
      { d with grt := { d.grt with pauses := Tab.del d.grt.pauses (p * 8 + i),
                                   storms := d.grt.storms.filter (fun k => k != p * 8 + i),
                                   ctxs := d.grt.ctxs.map (fun c => if c.2.uplink == p && c.2.tc == i then
                                     (c.1, { c.2 with times := c.2.times.map (fun u => (u.1, u.2 + (x.2 - max x.1 u.2))) }) else c) } } := by
  have hrun : d.paused p i = false := by
    simp only [Dev.paused, hpause, Option.map_some, Option.getD_some, decide_eq_false (Nat.not_lt.mpr hover), Bool.and_false]
  simp only [Dev.pauseExpiry, hrun, Bool.false_eq_true, if_false, Dev.pauseEnds, hpause, Nat.min_eq_right hover, GCtx.uplink, GCtx.tc, GCtx.f] <;>
    rfl

/-- R409: the watchdog of a priority paused for PFC_WD_MS posts its event and counts. -/
theorem Dev.pfcWatchdog_storm {x : Nat × Nat} {f : Dev} (hpause : Tab.find? d.grt.pauses (p * 8 + i) = some x) (hpaused : d.paused p i = true)
    (hms : d.get Reg.GRT_CFG_PFC_WD_MS ≠ 0) (hdue : x.1 + d.get Reg.GRT_CFG_PFC_WD_MS * 1000000 ≤ d.time) (hfirst : p * 8 + i ∉ d.grt.storms)
    (he : e = (d.post [0] 0x44 [p, i]).bump Reg.PFC_STORMS) (hf : f = { e with grt := { e.grt with storms := e.grt.storms ++ [p * 8 + i] } })
    (hkeep : f.flag Reg.GRT_CFG_PFC_WD_DROP = false) : d.pfcWatchdog p i = f := by
  simp only [Dev.pfcWatchdog, hpause, decide_eq_false hms, hpaused, decide_eq_false (Nat.not_lt.mpr hdue), decide_eq_false hfirst, Bool.not_true,
    Bool.or_self, Bool.false_eq_true, if_false, ← he, ← hf, hkeep, Bool.not_false, if_true]

/-- R408: an XOFF is refreshed after 10 µs. -/
theorem Dev.pfcOn_refresh {since : Nat} (hone : (rangeFrom 0 8).filter (fun i => bitOf (d.get (Reg.UPL_PFC_PFC_EN p)) i) = [i])
    (hxoff : Tab.find? d.grt.xoff (p * 8 + i) = some since) (hfull : d.get (Reg.UPL_PFC_XON_CELLS p) < d.pfcCells p i)
    (hdue : since + 10000 ≤ d.time) (he : e = d.sendPfc p i 0xFFFF) :
    d.pfcOn true p = { e with grt := { e.grt with xoff := Tab.ins e.grt.xoff (p * 8 + i) e.time } } := by
  simp only [Dev.pfcOn, hone, Dev.each, List.foldl_cons, List.foldl_nil, hxoff, if_neg (Nat.not_lt.mpr hfull.le), decide_eq_true hfull,
    decide_eq_true hdue, Bool.and_self, if_true, ← he]

/-! ### The state of an uplink -/

/-- R381: an uplink whose PCS aligns is ACTIVE at its width. -/
theorem Dev.uplink_up (hrole : d.isRole p 2 = true) (hdown : d.linkState p ≠ 4) (hrunning : d.running = true) (hhalt : d.boot.halt = false)
    (henabled : d.flag (Reg.LINK_CTL_DISABLE p) = false) (he : e = d.set (Reg.LINK_STAT_WIDTH_NOW p) (d.get (Reg.PORT_CFG_WIDTH_CODE p))) :
    d.uplink p true = (e.set (Reg.LINK_STAT_STATE p) 4).post (e.uplinkFns p) 0x41 [p] := by
  simp only [Dev.uplink, hrole, beq_eq_false_iff_ne.mpr hdown, hrunning, hhalt, henabled, Bool.not_true, Bool.or_self, Bool.and_false,
    beq_true, Bool.false_eq_true, if_false, if_true, ← he]

/-- R381: one that loses its alignment is DOWN. -/
theorem Dev.uplink_down (hrole : d.isRole p 2 = true) (hup : d.linkState p = 4) (he : e = d.set (Reg.LINK_STAT_WIDTH_NOW p) 0) :
    d.uplink p false = (e.set (Reg.LINK_STAT_STATE p) 0).post (e.uplinkFns p) 0x40 [p] := by
  simp only [Dev.uplink, hrole, hup, beq_self_eq_true, Bool.not_true, Bool.or_self, Bool.false_and, beq_false, Bool.false_eq_true,
    if_false, ← he]

end

/-- Settles O32: frames at an uplink, at its engine, its pauses and its state. -/
theorem uplinksWork : Obligations.UplinksWork := by
  unfold Obligations.UplinksWork
  refine ⟨?pfc, ?frame, ?engine, ?ended, ?storm, ?refresh, ?up, ?down⟩
  case pfc =>
    intro s p frame bs t d hat hrole hactive hlong hbs hpfc
    have hmeans := Dev.grtFrameReceive_pfc hrole hactive hlong hbs hpfc
    exact ⟨fun hfcs => settles_act (fun d => d.grtFrameReceive p.val frame false) hat (hmeans.trans (if_pos hfcs)),
      fun hfcs => settles_act (fun d => d.grtFrameReceive p.val frame false) hat (hmeans.trans (if_neg hfcs))⟩
  case frame =>
    intro s p frame bs t act tc d e hat hrole hactive hlong hbs hframe hact he htc
    exact settles_act (fun d => d.grtFrameReceive p.val frame false) hat
      (Dev.grtFrameReceive_frame hrole hactive hlong hbs hframe hact he htc)
  case engine => exact fun d p bs => ⟨Dev.engineFrame_bad bs, Dev.engineFrame_elsewhere, Dev.engineFrame_sound⟩
  case ended =>
    intro s p i t x d hat hpause hover
    exact settles_act (fun d => d.pauseExpiry p.val i.val) hat (Dev.pauseExpiry_over hpause hover)
  case storm =>
    intro s p i t x d hat hpause hpaused hms hdue hfirst e he f hf hkeep
    exact settles_act (fun d => d.pfcWatchdog p.val i.val) hat (Dev.pfcWatchdog_storm hpause hpaused hms hdue hfirst he hf hkeep)
  case refresh =>
    intro s p i t since d hat hone hxoff hfull hdue e he
    exact settles_act (fun d => d.pfcOn true p.val) hat (Dev.pfcOn_refresh hone hxoff hfull hdue he)
  case up =>
    intro s p t d hat hrole hdown hrunning hhalt henabled e he
    exact settles_act (fun d => d.uplink p.val true) hat (Dev.uplink_up hrole hdown hrunning hhalt henabled he)
  case down =>
    intro s p t d hat hrole hup e he
    exact settles_act (fun d => d.uplink p.val false) hat (Dev.uplink_down hrole hup he)

end Sys2Proof.Machine
end

section
/-! PROOF. The contexts of Glois Remote Transport: the sender, the timers and the fetch, and the packets that take effect (R393 to R403). -/
namespace Sys2Proof.Machine

section
variable {d e : Dev} {c : Nat} {x : GCtx}

/-! ### The sender -/

/-- R396: a context that may start its next new packet sends it under NEXT, and keeps it. -/
theorem Dev.packetSend_new {p q : GPacket} (hctx : d.gctx c = some x) (hcached : x.cached = true) (hready : x.state = 1) (hrnr : x.rnr = none)
    (hlink : d.linkState x.uplink = 4) (hresend : x.resend = none) (hhead : x.head = some p) (hmay : d.mayStart x p = true)
    (hq : q = { p with psn := x.next, flags :=
      if x.sent.length + 1 == max 1 (x.window / 2) || bitOf p.flags 1 then Nat.lor p.flags 4 else p.flags }) :
    d.packetSend c = ((d.bump Reg.GRT_TX_PKTS).sendPacket c x q (x.f 24 6)).onCtx c (fun y => { y with
      used := d.time, times := Tab.ins y.times q.psn d.time,
      queue := dropFirst (fun z => decide (z = p)) y.queue, open_ := if bitOf q.flags 1 then none else some q.message, sent := y.sent ++ [q],
      next := (y.next + 1) % 2 ^ 24, resend := none,
      reads := y.reads.map (fun r => if q.op = 2 && r.msg = q.msg then { r with psn := some q.psn } else r) }) := by
  have hstate : ¬ x.state = 3 := by rw [hready]; decide
  have hpsn : q.psn = x.next := by rw [hq]
  have hop : q.op = p.op := by rw [hq]
  have hmsg : q.msg = p.msg := by rw [hq]
  have hflags : q.flags = if x.sent.length + 1 == max 1 (x.window / 2) || bitOf p.flags 1 then Nat.lor p.flags 4 else p.flags := by rw [hq]
  simp only [Dev.packetSend, hctx, hcached, decide_eq_false hstate, hlink, hresend, hhead, hrnr, hmay, ← hq, Bool.not_true, bne_self_eq_false,
    Bool.or_self, Bool.false_eq_true, if_false, Option.bind_none, Option.isSome_none, hpsn, hop, hmsg, hflags]

/-- R398: an ACK acknowledges all up to its PSN. -/
theorem Dev.takeAck_acks {p : GPacket} {rest : List GPacket} (hctx : d.gctx c = some x) (hnext : x.answers = p :: rest) (hop : p.op = 0x10)
    (hretries : x.retries = 0) :
    d.takeAck c = ((d.onCtx c (fun y => { y with answers := rest, used := d.time })).ackUpTo c p.psn).messagesDone c := by
  simp only [Dev.takeAck, hctx, hnext, hop, hretries, bne_self_eq_false, Bool.false_and, Bool.false_eq_true, if_false]

/-- R398: a NAK of kind SEQ resends from its PSN. -/
theorem Dev.takeNakG_seq {p : GPacket} {rest : List GPacket} (hctx : d.gctx c = some x) (hnext : x.answers = p :: rest) (hop : p.op = 0x11)
    (hkind : p.msg = 0) (hrnr : x.rnr = none) (hsent : x.sent.any (fun q => q.psn == p.psn) = true) :
    d.takeNakG c = (d.onCtx c (fun y => { y with answers := rest, used := d.time })).onCtx c (fun y => { y with resend := some p.psn }) := by
  simp only [Dev.takeNakG, hctx, hnext, hop, hkind, hrnr, hsent, bne_self_eq_false, Bool.not_true, Bool.false_eq_true, if_false, if_true]

/-- R399: an RTO with retries left resends from UNA; with none left the context enters ERROR. -/
theorem Dev.rtoExpiry_due (hctx : d.gctx c = some x) (hsent : x.sent ≠ []) (hstate : x.state ≠ 3)
    (hpause : Tab.find? d.grt.pauses (x.uplink * 8 + x.tc) = none) (hdue : x.unaAt + x.rto ≤ d.time) :
    d.rtoExpiry c = if x.f 46 1 < x.retries + 1 then d.ctxError c 1 else (d.bump Reg.GRT_RTO).onCtx c (fun y => { y with
      retries := y.retries + 1, resend := some y.una, times := Tab.ins y.times y.una d.time }) := by
  have hrun : d.paused x.uplink x.tc = false := by simp only [Dev.paused, hpause, Option.map_none, Option.getD_none, Bool.and_false]
  have hpast : ¬ d.time < d.rtoDue x := by simp only [Dev.rtoDue, hpause]; omega
  simp only [Dev.rtoExpiry, hctx, decide_eq_false hsent, decide_eq_false hstate, hrun, decide_eq_false hpast, Bool.or_self, Bool.false_eq_true,
    if_false]

/-! ### Fetches and timers -/

/-- R393: a context backed by device memory is installed from its record there. -/
theorem Dev.contextFetchDone_installs (hctx : d.gctx c = some x) (hfetching : x.fetching.isSome = true) (hdmem : x.hosted = false)
    (hsound : d.upset = []) : d.contextFetchDone c = d.installCtx c (d.readMem (d.areaBase 3 + 128 * c) 128) := by
  simp only [Dev.contextFetchDone, hctx, hfetching, hdmem, Bool.not_false, Bool.and_self, if_true, Dev.readEcc_sound d _ _ hsound, Dev.ctxBack]

/-- R393: a host fetch past its limit is given up. -/
theorem Dev.hostFetchLimit_due {since : Nat} (hctx : d.gctx c = some x) (hfetching : x.fetching = some since) (hhosted : x.hosted = true)
    (hdue : since + max 1 (d.get Reg.GRT_CFG2_HOST_FETCH_LIMIT_US) * 1000 ≤ d.time) :
    d.hostFetchLimit c = ((({ d with host := { d.host with reads := d.host.reads.map (fun r =>
        if r.use = HostUse.context c then { r with use := .given c } else r) } } : Dev).dropParked c).ctxError c 3) := by
  simp only [Dev.hostFetchLimit, hctx, hfetching, hhosted, decide_eq_true hdue, Bool.and_self, if_true, Dev.giveFetch, Dev.fetchFailed]

/-- R397: 10 µs without EPSN send the SEQ NAK again. -/
theorem Dev.seqNakResend_due {since : Nat} (hctx : d.gctx c = some x) (hnak : x.nakAt = some since) (hcached : x.cached = true)
    (hdue : since + 10000 ≤ d.time) (he : e = (d.sendPacket c x (answerPacket 0x11 0 0 x.epsn) x.mac).bump Reg.GRT_SEQ_NAK_TX) :
    d.seqNakResend c = e.onCtx c (fun y => { y with nakAt := some d.time }) := by
  simp only [Dev.seqNakResend, hctx, Option.bind_some, hnak, if_pos hdue, Dev.answerDue, hcached, if_true, Dev.sendSeqNak, Dev.sendAnswer, ← he]

/-- R398: an ACK owed goes after ACK_DELAY. -/
theorem Dev.ackDelayExpiry_due {since : Nat} (hctx : d.gctx c = some x) (hack : x.ackFrom = some since) (hcached : x.cached = true)
    (hdue : since + max 100 (d.get Reg.GRT_CFG_ACK_DELAY_NS) ≤ d.time) :
    d.ackDelayExpiry c = (d.sendPacket c x (answerPacket 0x10 0 0 x.cpsn) x.mac).onCtx c (fun y => { y with since := 0, ackFrom := none }) := by
  simp only [Dev.ackDelayExpiry, hctx, Option.bind_some, hack, if_pos hdue, Dev.answerDue, hcached, if_true, Dev.sendAck, Dev.sendAnswer]

/-- R399: a draining context is freed after RTO × RETRY_LIMIT. -/
theorem Dev.drainTimeout_due {since : Nat} (hctx : d.gctx c = some x) (hdrain : x.drain = some since) (hdue : since + x.rto * x.f 46 1 ≤ d.time) :
    d.drainTimeout c = d.freeCtx c := by
  simp only [Dev.drainTimeout, hctx, hdrain, if_pos hdue]

/-! ### Packets that take effect -/

section
variable {y : GRx} (hctx : d.gctx c = some x) (hnext : x.nextRx = some y)
include hctx hnext

/-- R400: a WRITE that does not release goes to its homes. -/
theorem Dev.grtWrite_next (hop : y.pkt.op = 1) (hplain : fieldOf y.pkt.flags 4 2 ≠ 1)
    (hreg : (d.onRx c y.pkt.psn (fun e => { e with stage := 1 })).regLost y.pkt.reg = false) :
    d.grtWrite c = ((d.onRx c y.pkt.psn (fun e => { e with stage := 1 })).writeLines c x y.pkt.psn (y.pkt.payload.length + 1)
      (((Tab.find? d.grt.regs y.pkt.reg).map RegRange.base).getD 0 + y.pkt.offset) y.pkt.payload).writeDone c y.pkt.psn := by
  simp only [Dev.grtWrite, hctx, hnext, hop, beq_eq_false_iff_ne.mpr hplain, hreg, bne_self_eq_false, Bool.false_and, Bool.or_self,
    Bool.false_eq_true, if_false]

/-- R403: a READ_REQ behind committed packets is served. -/
theorem Dev.grtReadReq_next (hop : y.pkt.op = 2) (halone : x.alone y = true)
    (he : e = ((d.onRx c y.pkt.psn (fun e => { e with stage := 2 })).onCtx c (fun z => { z with serves := z.serves ++
      [⟨y.pkt.psn + y.pkt.reg * 2 ^ 24, ((Tab.find? d.grt.regs y.pkt.reg).map RegRange.base).getD 0 + y.pkt.offset, y.pkt.length,
        [], 0, none⟩] }))) (hreg : e.regLost y.pkt.reg = false) :
    d.grtReadReq c = e.serveNext c (y.pkt.psn + y.pkt.reg * 2 ^ 24) y.pkt.reg := by
  simp only [Dev.grtReadReq, hctx, hnext, hop, halone, ← he, hreg, bne_self_eq_false, Bool.not_true, Bool.or_self, Bool.false_eq_true, if_false]

/-- R403: a READ_RESP that names no read is discarded. -/
theorem Dev.grtReadResp_stray (hop : y.pkt.op = 3) (hnone : x.reads.find? (fun r => r.psn == some y.pkt.reg && !r.done) = none) :
    d.grtReadResp c = (d.onRx c y.pkt.psn (fun e => { e with stage := 2 })).bump Reg.SLAG_GRT_FAILED_MSG := by
  simp only [Dev.grtReadResp, hctx, hnext, hop, hnone, bne_self_eq_false, Bool.false_eq_true, if_false]

/-- R403: what a READ_RESP brings goes on to the tile of its read. -/
theorem Dev.grtReadResp_lands {r : GRead} {m : GMessage} (hop : y.pkt.op = 3)
    (hread : x.reads.find? (fun r => r.psn == some y.pkt.reg && !r.done) = some r) (hok : y.pkt.status = 0) (hmore : bitOf y.pkt.flags 1 = false)
    (hsome : y.pkt.payload ≠ []) (hmsg : x.msgs.find? (fun m => m.id == r.msg) = some m)
    (he : e = d.onRx c y.pkt.psn (fun e => { e with stage := 2 })) :
    d.grtReadResp c =
      ((e.sendLines (.grt (e.portDie x.uplink)) (.tile m.tile) (m.tag % tagSpace) (ownTc 2) x.dom 0 y.pkt.payload
        (.part m.tag y.pkt.offset y.pkt.payload)).onCtx c (fun z => { z with
          reads := z.reads.map (fun q => if q.msg = r.msg then { q with got := y.pkt.offset + y.pkt.payload.length, done := false } else q),
          msgs := z.msgs.map (fun m => if m.id = r.msg then { m with code := worse 0 m.code } else m) })).messagesDone c := by
  obtain ⟨b, bs, hbytes⟩ := List.exists_cons_of_ne_nil hsome
  simp only [Dev.grtReadResp, hctx, hnext, hop, hread, hok, hmore, hmsg, ← he, bne_self_eq_false, Bool.or_self, Bool.false_and,
    Bool.false_eq_true, if_false, hbytes]

end

end

/-- Settles O33: new packets, ACK and NAK, the end of an RNR wait, and the RTO. -/
theorem grtSends : Obligations.GrtSends := by
  unfold Obligations.GrtSends
  refine ⟨?new, ?ack, ?nak, ?rnr, ?retry, ?error⟩
  case new =>
    intro s c t x p d hat hctx hcached hready hrnr hlink hresend hhead hmay q hq
    exact settles_act (fun d => d.packetSend c.val) hat (Dev.packetSend_new hctx hcached hready hrnr hlink hresend hhead hmay hq)
  case ack =>
    intro s c t x p rest d hat hctx hnext hop hretries
    exact settles_act (fun d => d.takeAck c.val) hat (Dev.takeAck_acks hctx hnext hop hretries)
  case nak =>
    intro s c t x p rest d hat hctx hnext hop hkind hrnr hsent
    exact settles_act (fun d => d.takeNakG c.val) hat (Dev.takeNakG_seq hctx hnext hop hkind hrnr hsent)
  case rnr =>
    intro s c t psn until_ d hat hwait hover
    refine settles_act (fun d => d.rnrExpiry c.val) hat ?_
    simp only [Dev.rnrExpiry, hwait, if_neg (Nat.not_lt.mpr hover)] <;> rfl
  case retry =>
    intro s c t x d hat hctx hsent hstate hpause hdue hleft
    exact settles_act (fun d => d.rtoExpiry c.val) hat
      ((Dev.rtoExpiry_due hctx hsent hstate hpause hdue).trans (if_neg (Nat.not_lt.mpr hleft)))
  case error =>
    intro s c t x d hat hctx hsent hstate hpause hdue hover
    exact settles_act (fun d => d.rtoExpiry c.val) hat ((Dev.rtoExpiry_due hctx hsent hstate hpause hdue).trans (if_pos hover))

/-- Settles O34: the fetch, the timers and the drain. -/
theorem grtTimers : Obligations.GrtTimers := by
  unfold Obligations.GrtTimers
  refine ⟨?fetched, ?limit, ?nak, ?ack, ?drain⟩
  case fetched =>
    intro s c t x d hat hctx hfetching hdmem hsound
    exact settles_act (fun d => d.contextFetchDone c.val) hat (Dev.contextFetchDone_installs hctx hfetching hdmem hsound)
  case limit =>
    intro s c t since x d hat hctx hfetching hhosted hdue
    exact settles_act (fun d => d.hostFetchLimit c.val) hat (Dev.hostFetchLimit_due hctx hfetching hhosted hdue)
  case nak =>
    intro s c t since x d hat hctx hnak hcached hdue e he
    exact settles_act (fun d => d.seqNakResend c.val) hat (Dev.seqNakResend_due hctx hnak hcached hdue he)
  case ack =>
    intro s c t since x d hat hctx hack hcached hdue
    exact settles_act (fun d => d.ackDelayExpiry c.val) hat (Dev.ackDelayExpiry_due hctx hack hcached hdue)
  case drain =>
    intro s c t since x d hat hctx hdrain hdue
    exact settles_act (fun d => d.drainTimeout c.val) hat (Dev.drainTimeout_due hctx hdrain hdue)

/-- Settles O35: WRITE, READ_REQ and READ_RESP. -/
theorem grtServes : Obligations.GrtServes := by
  unfold Obligations.GrtServes
  refine ⟨?write, ?request, ?stray, ?lands⟩
  case write =>
    intro s c t x y d hat hctx hnext hop hplain hreg
    exact settles_act (fun d => d.grtWrite c.val) hat (Dev.grtWrite_next hctx hnext hop hplain hreg)
  case request =>
    intro s c t x y d hat hctx hnext hop halone e he hreg
    exact settles_act (fun d => d.grtReadReq c.val) hat (Dev.grtReadReq_next hctx hnext hop halone he hreg)
  case stray =>
    intro s c t x y d hat hctx hnext hop hnone
    exact settles_act (fun d => d.grtReadResp c.val) hat (Dev.grtReadResp_stray hctx hnext hop hnone)
  case lands =>
    intro s c t x y r m d hat hctx hnext hop hread hok hmore hsome hmsg e he
    exact settles_act (fun d => d.grtReadResp c.val) hat (Dev.grtReadResp_lands hctx hnext hop hread hok hmore hsome hmsg he)

end Sys2Proof.Machine
end

section
/-! PROOF. Commits, staging, extents, leases and windows (R421 to R440). -/
namespace Sys2Proof.Machine

section
variable {d f g h : Dev}

/-! ### Commits and staging -/

/-- R421: a commit with a change that may not stand is refused, and names it. -/
theorem Dev.commit_refused {fn ix cause : Nat} (hcause : (Tab.get [] d.ten.staged fn).findSome? (d.changeCause (d.nextBank fn)) = some (ix, cause)) :
    d.commit fn = ((((d.set Reg.COMP_ERR_INDEX ix).set Reg.COMP_ERR_CAUSE cause).set Reg.COMP_ERR_VALID 1).bump Reg.COMMIT_REFUSED, false) := by
  simp only [Dev.commit, hcause]

/-- R421: any other is live under the next epoch. -/
theorem Dev.commit_lives {fn : Nat} (hgood : (Tab.get [] d.ten.staged fn).findSome? (d.changeCause (d.nextBank fn)) = none) {e : Dev}
    (he : e = { d with ten := { d.ten with old := some d.ten.live, live := d.nextBank fn, oldAt := d.time } })
    (hf : f = (((e.set Reg.COMP_STAT_LIVE_EPOCH ((e.epoch + 1) % 65536)).set Reg.COMP_STAT_OLD_LIVE 1).set Reg.COMP_ERR_VALID 0))
    (hg : g = (((f.unstage fn).showFlight 65536).each (touchedBy (Tab.get [] d.ten.staged fn))
      (fun x i => x.entryChanged d.ten.live (d.nextBank fn) i)).modeRecalls d.ten.live)
    (hh : h = g.set Reg.DIR_STAT_MODE_CHANGE_BUSY (if g.recalling 1 none then 1 else 0)) :
    d.commit fn = (((h.trace 2 0xF h.epoch).retireEpoch 0).reissueParked, true) := by
  simp only [Dev.commit, hgood, ← he, ← hf, ← hg, ← hh]

/-- R421: a commit that is refused has found a change that may not stand. -/
theorem Dev.commit_refused_cause {fn : Nat} (hrefused : (d.commit fn).2 = false) :
    ∃ ix cause, (Tab.get [] d.ten.staged fn).findSome? (d.changeCause (d.nextBank fn)) = some (ix, cause) := by
  cases hcause : (Tab.get [] d.ten.staged fn).findSome? (d.changeCause (d.nextBank fn)) with
  | some x => exact ⟨x.1, x.2, rfl⟩
  | none =>
    rw [Dev.commit_lives hcause rfl rfl rfl rfl] at hrefused
    exact Bool.noConfusion hrefused

/-- R428: COMP_CTL.COMMIT with no old epoch live is the commit of PF0. -/
theorem Dev.registerCommit_new (hold : d.ten.old = none) : d.registerCommit = (d.commit 0).1 := by
  simp only [Dev.registerCommit, hold, Option.isSome_none, Bool.false_eq_true, if_false]

/-- R429: at the limit the old epoch's requests complete, and it retires. -/
theorem Dev.transitionLimit_due (hold : d.ten.old.isSome = true) (hdue : d.ten.oldAt + max 10 (d.get Reg.COMP_CTL_TRANS_LIMIT_US) * 1000 ≤ d.time) :
    d.transitionLimit = (d.each (d.ten.flight.filter d.oldFlight) (fun d f => d.staleOne f)).retireEpoch 1 := by
  have hlive : d.ten.old.isNone = false := by rw [← Option.not_isSome, hold]; rfl
  simp only [Dev.transitionLimit, hlive, decide_eq_false (Nat.not_lt.mpr hdue), Bool.or_self, Bool.false_eq_true, if_false]

/-! ### Extents -/

/-- R426: a FREE extent, or one whose state is lost, goes to its new owner. -/
theorem Dev.extAssign_free {e dom : Nat} (hext : e ∈ d.ten.exts) (hfree : d.extState e = 0 ∨ e ∈ d.ras.lostExts)
    (hf : f = { d with ras := { d.ras with lostExts := d.ras.lostExts.filter (fun x => x != e) } }) :
    (d.extAssign e dom).1 = ((f.set (Reg.EXT_STATE_STATE e) 1).trace 6 0xF (e + 65536)).set (Reg.EXT_STATE_OWNER e) dom := by
  have hok : (decide (e ∉ d.ten.exts) || (d.extState e != 0 && decide (e ∉ d.ras.lostExts))) = false := by
    rcases hfree with hfree | hlost
    · simp only [hext, hfree, not_true_eq_false, decide_false, bne_self_eq_false, Bool.false_and, Bool.or_self]
    · simp only [hext, hlost, not_true_eq_false, decide_false, Bool.and_false, Bool.or_self]
  rw [Dev.extAssign, hok, hf]
  rfl

/-- R426: an extent that is not FREE is not assigned. -/
theorem Dev.extAssign_taken {e dom : Nat} (hstate : d.extState e ≠ 0) (hkept : e ∉ d.ras.lostExts) :
    d.extAssign e dom = (d.bump Reg.EXT_CMD_REFUSED, false) := by
  simp only [Dev.extAssign, bne_iff_ne.mpr hstate, hkept, not_false_eq_true, decide_true, Bool.and_self, Bool.or_true, if_true]

/-- R432: an ASSIGNED extent is fenced, its parked requests end, and its copies are recalled. -/
theorem Dev.extRevoke_assigned {e owner : Nat} {erase : Bool} {gens : List Nat} (hext : e ∈ d.ten.exts) (hstate : d.extState e = 1)
    (hkept : e ∉ d.ras.lostExts) (howner : owner = d.get (Reg.EXT_STATE_OWNER e))
    (hgens : gens = d.get (Reg.KEYGEN_CUR_GEN owner) ::
      (if d.flag (Reg.KEYGEN_PREV_LIVE owner) then [d.get (Reg.KEYGEN_PREV_GEN owner)] else []))
    (hf : f = (d.setExtState e 2).set (Reg.EXT_STATE_ERASE e) (if erase then 1 else 0))
    (hg : g = ((({ f with ten := { f.ten with scrubs := f.ten.scrubs ++
      [⟨e, false, 0, 0, [], d.fillRanges e, if erase then gens else [], owner, (d.store.spans.filter (d.spanIn e)).map Prod.fst⟩] } } :
        Dev).revokeParked e).sweepSkips e)) :
    d.extRevoke e erase = (g.recallPages (g.get (Reg.EXT_BASE_PPA_PAGE e)) (g.extPages e) 5 e, true) := by
  simp only [Dev.extRevoke, hext, hstate, hkept, not_true_eq_false, decide_false, bne_self_eq_false, Bool.or_self, Bool.false_eq_true, if_false,
    ← howner, ← hgens, ← hf, ← hg]

/-- R432, R434: a fenced extent with nothing in flight, recalled or held enters QUENCHING. -/
theorem Dev.extentDrained_done {e : Nat} {x : Scrub} (hscrub : d.scrubOf e = some x) (hstate : d.extState e = 2)
    (hflight : ∀ y ∈ d.ten.flight, y.ext ≠ e) (hrecall : d.recalling 5 (some e) = false) (hheld : d.linesHeld e = [])
    (hf : f = ((d.setExtState e 3).post [0, x.owner] 0x31 [e]).removeTraces e) (hkeep : f.flag (Reg.EXT_STATE_ERASE e) = false) :
    d.extentDrained e = (f.scrubReady e).showQuench := by
  have hidle : d.ten.flight.any (fun y => y.ext == e) = false := by
    simp only [List.any_eq_false, beq_iff_eq]
    exact hflight
  simp only [Dev.extentDrained, hscrub, hstate, hidle, hrecall, hheld, bne_self_eq_false, Bool.or_self, Bool.false_eq_true, if_false, ← hf, hkeep,
    Bool.not_false, if_true]

/-- R436: with every port of a line alive no copy of it is missed. -/
theorem Dev.markFill_whole (ppa : Nat) (ports : List Nat) : d.markFill ppa ports ports = d := by
  unfold Dev.markFill
  split
  · rw [if_neg (Nat.lt_irrefl _)]
  · rfl

/-- R436: a zero line goes out where Quench may send through its port. -/
theorem Dev.sendFill_live {e line p : Nat} (hlive : d.fenced p = false) (hlink : d.linkState p = 4) (hrate : d.get (Reg.QSHAPE_CFG_RATE_MBPS p) ≠ 0) :
    d.sendFill e line p = d.toTray p line (.fill e) (zeroWrite (line * 64) (d.get Reg.BELLOWS_CTL_QUENCH_TC)) := by
  simp only [Dev.sendFill, hlive, Dev.quenchGoes, hlink, bne_iff_ne.mpr hrate, beq_self_eq_true, Bool.and_self, Bool.not_true, Bool.false_eq_true,
    if_false]

/-- R436: the next line of an extent goes as zeros to its port. -/
theorem Dev.zeroFill_next {e p ppa : Nat} {x : Scrub} (hscrub : d.scrubOf e = some x) (hfilling : e ∈ d.filling) (hkept : d.fillsKept e x = [])
    (hnext : x.next < d.extPages e * 32768) (hppa : ppa = d.get (Reg.EXT_BASE_PPA_PAGE e) * 0x20_0000 + x.next * 64)
    (hports : d.fillPorts x ppa = [p]) (hlive : d.fenced p = false) (hlink : d.linkState p = 4) (hrate : d.get (Reg.QSHAPE_CFG_RATE_MBPS p) ≠ 0)
    (hf : f = d.onScrub e (fun y => { y with next := y.next + 1 })) :
    d.zeroFill e = ((f.onScrub e (fun y => { y with out := y.out ++ [(ppa / 64, p, 0)] })).toTray p (ppa / 64) (.fill e)
      (zeroWrite ppa (d.get Reg.BELLOWS_CTL_QUENCH_TC))).showQuench.endFill e := by
  have hone : [p].filter (fun p => !d.fenced p) = [p] := by simp only [List.filter_cons, hlive, Bool.not_false, if_true, List.filter_nil]
  have hline : ppa / 64 * 64 = ppa := by omega
  have hsend := Dev.sendFill_live (d := f.onScrub e (fun y => { y with out := y.out ++ [(ppa / 64, p, 0)] })) (e := e) (line := ppa / 64) (p := p)
    (by rw [hf]; exact hlive) (by rw [hf]; exact hlink) (by rw [hf]; exact hrate)
  have htc : (f.onScrub e (fun y => { y with out := y.out ++ [(ppa / 64, p, 0)] })).get Reg.BELLOWS_CTL_QUENCH_TC =
      d.get Reg.BELLOWS_CTL_QUENCH_TC := by rw [hf]; rfl
  simp only [Dev.zeroFill, hscrub, decide_eq_false (not_not.mpr hfilling), hkept, List.find?_nil, if_neg (Nat.not_le.mpr hnext), ← hppa, hports,
    hone, ← hf, Dev.markFill_whole, List.cons_ne_nil, Dev.each, List.foldl_cons, List.foldl_nil, hsend, hline, htc, Bool.false_eq_true, if_false]

/-- R437: an extent whose lines are all filled is FREE. -/
theorem Dev.endFill_done {e : Nat} {x : Scrub} {ten : Tenancy} (hscrub : d.scrubOf e = some x) (hready : x.ready = true)
    (hall : d.extPages e * 32768 ≤ x.next) (hout : x.out = [])
    (hten : ten = { d.ten with scrubs := d.ten.scrubs.filter (fun y => y.ext != e), unowned := d.ten.unowned.filter (fun y => y != e) }) :
    d.endFill e = ((((({ d with ten := ten } : Dev).setExtState e 0).set (Reg.EXT_STATE_OWNER e) 0).set
        (Reg.EXT_STATE_ERASE e) 0).post [0, x.owner] 0x32 [e, x.failed]).showQuench := by
  simp only [Dev.endFill, hscrub, hready, decide_eq_false (Nat.not_lt.mpr hall), hout, bne_self_eq_false, Bool.not_true, Bool.or_self,
    Bool.false_eq_true, if_false, ← hten]

/-! ### Leases and windows -/

/-- R440: what wins over an entry, held or released. -/
theorem claimWins_some (x : Lease) (epoch pool : Nat) : claimWins (some x) epoch pool =
    if x.held then decide (x.epoch < epoch ∨ (x.epoch = epoch ∧ pool ≤ x.pool)) else decide (x.epoch ≤ epoch) := by
  simp only [claimWins, Bool.decide_or, Bool.decide_and, beq_eq_decide]

/-- R440: a held lease whose time is up is held no longer, and counts. -/
theorem Dev.leaseExpired_due {i : Nat} {l : Lease} (hlease : Tab.find? d.ten.leases i = some l) (hheld : l.held = true) (hkept : l.lost = false)
    (hover : l.until_ ≤ d.time) :
    d.leaseExpired i = ({ d with ten := { d.ten with leases := Tab.ins d.ten.leases i { l with held := false, expired := true } } } : Dev).bump
      Reg.LEASES_EXPIRED := by
  simp only [Dev.leaseExpired, hlease, hheld, hkept, decide_eq_true hover, Bool.not_false, Bool.and_self, if_true, Dev.putLease]

/-- R424: what stands at a window register already changes nothing. -/
theorem Dev.winWrite_same {w v : Nat} (hsame : v % 2 ^ 47 = d.reg (Reg.WIN w)) : (d.winWrite w v).1 = d := by
  simp only [Dev.winWrite, hsame, if_true]

/-- A choice by a test that stands for a proposition. -/
theorem ite_of_iff {α : Type} {b : Bool} {P : Prop} (hb : b = true ↔ P) (x y : α) :
    (P → (if b then x else y) = x) ∧ (¬ P → (if b then x else y) = y) :=
  ⟨fun h => if_pos (hb.mpr h), fun h => if_neg (fun hb' => h (hb.mp hb'))⟩

/-- R424: a new value is ignored and counted where a heat or another domain's window stands against it, and stored elsewhere. -/
theorem Dev.winWrite_new {w v new old : Nat} {stopped : Prop} (hnew : new = v % 2 ^ 47) (hold : old = d.reg (Reg.WIN w)) (hne : new ≠ old)
    (hstopped : stopped = ((∃ x ∈ [old, new], fieldOf x 17 17 ≠ 0 ∧ ∃ h ∈ d.heats.list, h.fn = fieldOf x 34 12) ∨
      (fieldOf new 17 17 ≠ 0 ∧ ∃ r ∈ d.regs, 0x114_0000 ≤ r.1 ∧ r.1 < 0x114_0000 + 8 * 8192 ∧ r.1 ≠ (Reg.WIN w).addr ∧
        fieldOf r.2 34 12 ≠ fieldOf new 34 12 ∧ fieldOf r.2 17 17 ≠ 0 ∧
        fieldOf r.2 0 17 < fieldOf new 0 17 + fieldOf new 17 17 ∧ fieldOf new 0 17 < fieldOf r.2 0 17 + fieldOf r.2 17 17))) :
    (stopped → (d.winWrite w v).1 = d.bump Reg.WIN_REFUSED) ∧ (¬ stopped → (d.winWrite w v).1 = d.setReg (Reg.WIN w) new) := by
  subst hstopped
  simp only [Dev.winWrite, winOf, ← hnew, ← hold, if_neg hne, apply_ite Prod.fst]
  refine ite_of_iff ?_ _ _
  simp only [Bool.or_eq_true, Bool.and_eq_true, bne_iff_ne, List.any_eq_true, List.mem_filter, beq_iff_eq, decide_eq_true_eq, meets,
    List.mem_cons, List.not_mem_nil, or_false, exists_eq_or_imp, exists_eq_left, and_assoc]

end

/-- Settles O38: a commit is refused whole, or is live under the next epoch. -/
theorem commitsApply : Obligations.CommitsApply := by
  unfold Obligations.CommitsApply
  refine ⟨?old, ?bad, ?lives, ?keeps⟩
  case old =>
    intro s t d hat hup hold
    exact settles_bar (fun d => d.registerCommit) hat hup (by simp only [Dev.registerCommit, hold, if_true])
  case bad =>
    intro s t ix cause d hat hup hold hcause
    exact settles_bar (fun d => d.registerCommit) hat hup
      (by rw [Dev.registerCommit_new hold, Dev.commit_refused hcause])
  case lives =>
    intro s t d hat hup hold b hb hgood e he f hf g hg h hh
    subst hb
    exact settles_bar (fun d => d.registerCommit) hat hup
      (by rw [Dev.registerCommit_new hold, Dev.commit_lives hgood he hf hg hh])
  case keeps =>
    intro d fn hrefused
    obtain ⟨ix, cause, hcause⟩ := Dev.commit_refused_cause hrefused
    rw [Dev.commit_refused hcause]
    refine ⟨?ten, ?home, ?sw, ?ras, ?dmem⟩
    case ten => rw [Dev.bump_ten, Dev.set_ten, Dev.set_ten, Dev.set_ten]
    case home => rw [Dev.bump_home, Dev.set_home, Dev.set_home, Dev.set_home]
    case sw => rw [Dev.bump_sw, Dev.set_sw, Dev.set_sw, Dev.set_sw]
    case ras => rw [Dev.bump_ras, Dev.set_ras, Dev.set_ras, Dev.set_ras]
    case dmem => rw [Dev.bump_dmem, Dev.set_dmem, Dev.set_dmem, Dev.set_dmem]

/-- Settles O39: staging and reading entries, discarding, and the transition limit. -/
theorem stagingRegisters : Obligations.StagingRegisters := by
  unfold Obligations.StagingRegisters
  refine ⟨?write, ?read, ?discard, ?limit⟩
  case write =>
    intro s t d hat hup hindex e he
    subst he
    refine settles_bar (fun d => d.rtGoWrite) hat hup ?_
    simp only [Dev.rtGoWrite, if_neg (Nat.not_le.mpr hindex), Dev.stage, if_true]
  case read =>
    intro s t e d hat hup hentry
    refine settles_bar (fun d => d.rtGoRead) hat hup ?_
    simp only [Dev.rtGoRead, hentry, Option.getD_some]
  case discard =>
    intro s t d hat hup
    exact settles_bar (fun d => d.unstage 0) hat hup rfl
  case limit =>
    intro s t d hat hold hdue
    exact settles_act (fun d => d.transitionLimit) hat (Dev.transitionLimit_due hold hdue)

/-- Settles O40: an extent assigned, revoked, drained, filled and freed. -/
theorem extentsMove : Obligations.ExtentsMove := by
  unfold Obligations.ExtentsMove
  refine ⟨?assign, ?taken, ?revoke, ?drained, ?fill, ?freed⟩
  case assign =>
    intro s e dom t d hat hup hext hfree f hf
    exact settles_bar (fun d => (d.extAssign e.val dom.val).1) hat hup (Dev.extAssign_free hext hfree hf)
  case taken =>
    intro s e dom t d hat hup hstate hkept
    exact settles_bar (fun d => (d.extAssign e.val dom.val).1) hat hup (congrArg Prod.fst (Dev.extAssign_taken hstate hkept))
  case revoke =>
    intro s e erase t d hat hup hext hstate hkept owner howner gens hgens f hf g hg
    exact settles_bar (fun d => (d.extRevoke e.val erase).1) hat hup
      (congrArg Prod.fst (Dev.extRevoke_assigned hext hstate hkept howner hgens hf hg))
  case drained =>
    intro s e t x d f hat hscrub hstate hflight hrecall hheld hf hkeep
    exact settles_act (fun d => d.extentDrained e.val) hat (Dev.extentDrained_done hscrub hstate hflight hrecall hheld hf hkeep)
  case fill =>
    intro s e t p ppa x d f hat hscrub hfilling hkept hnext hppa hports hlive hlink hrate hf
    exact ⟨Dev.markFill_whole ppa [p], settles_act (fun d => d.zeroFill e.val) hat
      (Dev.zeroFill_next hscrub hfilling hkept hnext hppa hports hlive hlink hrate hf)⟩
  case freed =>
    intro d e x hscrub hready hall hout ten hten
    exact Dev.endFill_done hscrub hready hall hout hten

/-- Settles O41: claims, the end of a lease, and window writes. -/
theorem leasesAndWindows : Obligations.LeasesAndWindows := by
  unfold Obligations.LeasesAndWindows
  refine ⟨fun _ _ => rfl, claimWins_some, ?lease, ?same, ?new⟩
  case lease =>
    intro s i t l d hat hlease hheld hkept hover
    exact settles_act (fun d => d.leaseExpired i.val) hat (Dev.leaseExpired_due hlease hheld hkept hover)
  case same =>
    intro s w v t d hat hup hsame
    exact settles_bar (fun d => (d.winWrite w.val v.toNat).1) hat hup (Dev.winWrite_same hsame)
  case new =>
    intro s w v t d new old stopped hat hup hnew hold hne hstopped
    obtain ⟨hrefused, hstored⟩ := Dev.winWrite_new hnew hold hne hstopped
    exact ⟨fun h => settles_bar (fun d => (d.winWrite w.val v.toNat).1) hat hup (hrefused h),
      fun h => settles_bar (fun d => (d.winWrite w.val v.toNat).1) hat hup (hstored h)⟩

end Sys2Proof.Machine
end

section
/-! PROOF. Ports declared dead and admitted, partitions, mirrored regions and drained banks (R453 to R467). -/
namespace Sys2Proof.Machine

section
variable {d e f g : Dev}

/-! ### Declarations and admission -/

/-- R463, R464: a port of the declaration is FENCED, announced, and its traffic settled. -/
theorem Dev.declareDead_new {p cause : Nat} (hglois : d.isGlois p = true) (hlive : d.fenced p = false) :
    d.declareDead p cause = ((d.set (Reg.PORT_FENCE_FENCED p) 1).announceDead p cause).settleFence p := by
  simp only [Dev.declareDead, hglois, hlive, Bool.not_true, Bool.false_eq_true, if_false]

/-- R464: a declaration takes the next epoch, shows its cause, and is posted and sent. -/
theorem Dev.announceDead_eq {p cause epoch : Nat} (hepoch : epoch = (d.get (Reg.PORT_FENCE_FENCE_EPOCH p) + 1) % 65536)
    (he : e = (d.set (Reg.PORT_FENCE_FENCE_EPOCH p) epoch).set (Reg.PORT_FENCE_CAUSE p) cause) :
    d.announceDead p cause = ((((e.bump Reg.PORTS_DEAD).set Reg.RAS_STAT_LAST_DEAD p).post (e.portFns p) 0x23 [p, cause, epoch]).trace 4 0xF
      (p + epoch * 65536)).sendFence p := by
  simp only [Dev.announceDead, ← hepoch, ← he]

/-- R463: an ACTIVE port without a heartbeat for its limit is declared. -/
theorem Dev.heartbeatTimeout_due {p : Nat} (hglois : d.isGlois p = true) (hlive : d.fenced p = false) (hactive : d.linkState p = 4)
    (hdue : (d.link p).hbSeen + max 1 (d.get Reg.RAS_CTL_HB_TIMEOUT_US) * 1000 ≤ d.time) :
    d.heartbeatTimeout p = (((d.set (Reg.PORT_FENCE_FENCED p) 1).announceDead p 1).settleFence p).onLink p (fun l => { l with hbLate := true }) := by
  simp only [Dev.heartbeatTimeout, hactive, decide_eq_true hdue, decide_true, Bool.and_self, if_true, Dev.declareDead_new hglois hlive]

/-- R465: ADMIT moves the epoch on and sends MGT ADMIT. -/
theorem Dev.admitPort_sends {p epoch : Nat} (hglois : d.isGlois p = true) (hfenced : d.fenced p = true)
    (hepoch : epoch = (d.get (Reg.PORT_FENCE_FENCE_EPOCH p) + 1) % 65536)
    (hg : g = (d.set (Reg.PORT_FENCE_FENCE_EPOCH p) epoch).set (Reg.PORT_FENCE_ADMIT_PENDING p) 1)
    (hf : f = g.onLink p (fun l => { l with hbSeen := g.time })) (hactive : f.linkState p = 4) :
    d.admitPort p = f.sendMsg .core p (mgtMsg 3 epoch) 0 := by
  simp only [Dev.admitPort, hglois, hfenced, ← hepoch, ← hg, ← hf, hactive, Bool.not_true, Bool.or_self, Bool.false_eq_true, if_false, if_true]

/-- R467: a partition's fence declares each of its ports and posts. -/
theorem Dev.fencePart_declares {k : Nat} (hk : k ≠ 0) (he : e = d.each (d.partPorts k) (fun d p => d.declareDead p 4)) :
    d.fencePart k false = e.post (0 :: e.partDoms k) 0x29 [k, 0] := by
  simp only [Dev.fencePart, if_neg hk, Bool.false_eq_true, if_false, ← he]

/-! ### Mirrored regions -/

/-- R462: MIRROR_MARK of a mirrored region puts it into DEGRADED with every page marked. -/
theorem Dev.markMirror_marks {index survivor back : Nat} {x : RtEntry} (hentry : Tab.find? d.ten.live.rt index = some x) (hlocal : x.kind = 1)
    (hmirror : x.mirror = true) (hback : back = (if survivor = 0 then d.ten.live.mirrorPort x (x.ppaPage * 0x20_0000)
      else d.ten.live.primary x (x.ppaPage * 0x20_0000)).getD 512) :
    d.markMirror index survivor = ({ d with ras := { d.ras with degraded := d.ras.degraded.filter (fun (x : Degraded) => x.index != index) ++
      [⟨index, survivor, back, rangeFrom x.ppaPage x.pages, [], [], true, true, 0⟩] } } : Dev).showRas := by
  simp only [Dev.markMirror, hentry, hlocal, hmirror, bne_self_eq_false, Bool.not_true, Bool.or_self, Bool.false_eq_true, if_false, ← hback,
    RtEntry.ppaPages]

/-- R462: of an entry that is no mirrored region it does nothing. -/
theorem Dev.markMirror_other {index survivor : Nat}
    (hother : ∀ x, Tab.find? d.ten.live.rt index = some x → x.kind ≠ 1 ∨ x.mirror = false) : d.markMirror index survivor = d := by
  cases hentry : Tab.find? d.ten.live.rt index with
  | none => simp only [Dev.markMirror, hentry]
  | some x =>
    have hbad : (x.kind != 1 || !x.mirror) = true := by
      rcases hother x hentry with hkind | hmirror
      · rw [bne_iff_ne.mpr hkind, Bool.true_or]
      · rw [hmirror, Bool.not_false, Bool.or_true]
    simp only [Dev.markMirror, hentry, hbad, if_true]

/-- R460: the next line to copy of a resync goes to its home. -/
theorem Dev.resyncStep_next {index k page : Nat} {rest : List Nat} {r : Degraded} {x : RtEntry}
    (hfound : d.ras.degraded.find? (fun x => x.index == index && x.resync) = some r) (hrecord : d.degradedOf r.key = some r)
    (hentry : Tab.find? d.ten.live.rt (r.key / 1024) = some x) (hras : d.rasUp = true) (hmarks : r.marks = page :: rest)
    (hnext : ((rangeFrom (page * 32768) 32768).filter (d.needsCopy r x)).find?
      (fun k => !(decide (k ∈ r.out)) && !d.fenced ((d.copyTarget r x k).getD 0)) = some k)
    (hf : f = d.onDegradedAt r.key (fun r => { r with out := r.out ++ [k] })) :
    d.resyncStep index = f.askHome (resyncReq r k ((d.copyTarget r x k).getD 0) d.epoch (d.get Reg.BELLOWS_CTL_QUENCH_TC)) := by
  have hresync : r.resync = true := (Bool.and_eq_true _ _ ▸ List.find?_some hfound).2
  have hsome : (rangeFrom (page * 32768) 32768).filter (d.needsCopy r x) ≠ [] := by
    intro hnone
    rw [hnone] at hnext
    exact nomatch hnext
  simp only [Dev.resyncStep, hfound, Dev.resyncRecord, hras, hrecord, hentry, hresync, hmarks, if_neg hsome, hnext, ← hf, Bool.not_true,
    Bool.false_eq_true, if_false]

/-! ### Banks -/

/-- A bank that holds no cell. -/
theorem Dev.bankBusy_none {b : Nat} (hempty : ∀ c ∈ d.sw.cells, c.number / 8192 ≠ b) : d.bankBusy b = false := by
  simp only [Dev.bankBusy, List.any_eq_false, beq_iff_eq]
  exact hempty

/-- R454: a drained bank with no cell left and no spare is retired. -/
theorem Dev.bankDrained_retired {b : Nat} (hdrain : b ∈ d.sw.draining) (hempty : ∀ c ∈ d.sw.cells, c.number / 8192 ≠ b)
    (hnone : d.get (if b < 64 then Reg.HEARTH_STAT_BANK_SPARES_A else Reg.HEARTH_STAT_BANK_SPARES_B) = 0) :
    d.bankDrained b = ({ d with sw := { d.sw with draining := d.sw.draining.filter (fun x => x != b), retired := d.sw.retired ++ [b] } } :
      Dev).showCells .core (b / 64) := by
  have hidle := Dev.bankBusy_none hempty
  have hspares : ({ d with sw := { d.sw with draining := d.sw.draining.filter (fun x => x != b) } } : Dev).get
      (if b < 64 then Reg.HEARTH_STAT_BANK_SPARES_A else Reg.HEARTH_STAT_BANK_SPARES_B) = 0 := hnone
  simp only [Dev.bankDrained, decide_eq_false (not_not.mpr hdrain), hidle, Bool.or_self, Bool.false_eq_true, if_false, hspares, if_true]

/-- R453: it gives way to a spare of its die, with the events of a swap. -/
theorem Dev.bankDrained_spared {b free : Nat} {s : Fld} (hdrain : b ∈ d.sw.draining) (hempty : ∀ c ∈ d.sw.cells, c.number / 8192 ≠ b)
    (hs : s = (if b < 64 then Reg.HEARTH_STAT_BANK_SPARES_A else Reg.HEARTH_STAT_BANK_SPARES_B)) (hfree : free = d.get s) (hsome : free ≠ 0)
    (he : e = { d with sw := { d.sw with draining := d.sw.draining.filter (fun x => x != b) } })
    (hg : g = (e.set s (free - 1)).logSwap 2 b (b / 64 * 4 + (4 - free))) :
    d.bankDrained b = (if free = 1 then g.sparesGone 2 (b / 64) else g).showCells .core (b / 64) := by
  have hidle := Dev.bankBusy_none hempty
  have hspares : e.get s = free := by rw [he, hfree]; rfl
  simp only [Dev.bankDrained, decide_eq_false (not_not.mpr hdrain), hidle, Bool.or_self, Bool.false_eq_true, if_false, ← he, ← hs, hspares,
    if_neg hsome, ← hg, Dev.when, beq_iff_eq]

end

/-- Settles O42: declarations, heartbeat timeouts, admissions and partitions. -/
theorem portsFenced : Obligations.PortsFenced := by
  unfold Obligations.PortsFenced
  refine ⟨?fence, fun d p cause epoch hepoch e he => Dev.announceDead_eq hepoch he, ?heartbeat, ?admits, ?partition, ?release⟩
  case fence =>
    intro s p t d hat hup hglois hlive
    exact settles_bar (fun d => d.declareDead p.val 3) hat hup (Dev.declareDead_new hglois hlive)
  case heartbeat =>
    intro s p t d hat hglois hlive hactive hdue
    exact settles_act (fun d => d.heartbeatTimeout p.val) hat (Dev.heartbeatTimeout_due hglois hlive hactive hdue)
  case admits =>
    intro s p t epoch d f g hat hup hglois hfenced hepoch hg hf hactive
    exact settles_bar (fun d => d.admitPort p.val) hat hup (Dev.admitPort_sends hglois hfenced hepoch hg hf hactive)
  case partition =>
    intro s k t d hat hup hk e he
    exact settles_bar (fun d => d.fencePart k.val false) hat hup (Dev.fencePart_declares hk he)
  case release =>
    intro s k t d hat hup hk
    exact settles_bar (fun d => d.releasePart k.val) hat hup (if_neg hk)

/-- Settles O43: MIRROR_MARK, resyncs and drained banks. -/
theorem mirrorsAndBanks : Obligations.MirrorsAndBanks := by
  unfold Obligations.MirrorsAndBanks
  refine ⟨?mark, ?other, ?resync, ?retired, ?spared⟩
  case mark =>
    intro s index survivor t e d hat hup hentry hlocal hmirror back hback
    exact settles_bar (fun d => d.markMirror index survivor.val) hat hup (Dev.markMirror_marks hentry hlocal hmirror hback)
  case other =>
    intro s index survivor t d hat hup hother
    exact settles_bar (fun d => d.markMirror index survivor.val) hat hup (Dev.markMirror_other hother)
  case resync =>
    intro s index t k page rest g e d hat hfound hrecord hentry hras hmarks hnext f hf
    exact settles_act (fun d => d.resyncStep index) hat (Dev.resyncStep_next hfound hrecord hentry hras hmarks hnext hf)
  case retired =>
    intro s b t d hat hdrain hempty hnone
    exact settles_act (fun d => d.bankDrained b.val) hat (Dev.bankDrained_retired hdrain hempty hnone)
  case spared =>
    intro s b t free f d e g hat hdrain hempty hf hfree hsome he hg
    exact settles_act (fun d => d.bankDrained b.val) hat (Dev.bankDrained_spared hdrain hempty hf hfree hsome he hg)

end Sys2Proof.Machine
end

section
/-! PROOF. Ring commands from their start to their completion, and the commands of composition and of the administrator (R485 to R502). -/
namespace Sys2Proof.Machine

section
variable {d e : Dev} {c : RingCmd}

/-! ### The start and the completion -/

/-- R502: nothing starts while its function's core is down. -/
theorem Dev.ringOp_down (op : Nat) (f : Dev → Dev) (hdown : d.coreUp (fabricCore c.fn.val) = false) : d.ringOp c op f = d := by
  simp only [Dev.ringOp, hdown, Bool.not_false, if_true]

/-- R485: no command without a free completion slot leaves its ring. -/
theorem Dev.ringOp_full (op : Nat) (f : Dev → Dev) (hnew : d.startedOf c = none) (hfull : d.slotFree c.fn.val c.ring.val = false) :
    d.ringOp c op f = d := by
  simp only [Dev.ringOp, hnew, hfull, Bool.not_false, if_true, ite_self]

/-- A command that leaves its ring now waits, is refused for its FLAGS, or takes effect. -/
theorem Dev.ringOp_taken (op : Nat) (f : Dev → Dev) (hup : d.coreUp (fabricCore c.fn.val) = true) (hnew : d.startedOf c = none)
    (hfree : d.slotFree c.fn.val c.ring.val = true) :
    d.ringOp c op f = if (d.takeCmd c op).mustWait c op then d.takeCmd c op
      else if 2 ≤ c.flags.toNat then (d.takeCmd c op).completeErr c 2 else f (d.takeCmd c op) := by
  simp only [Dev.ringOp, hup, hnew, hfree, Bool.not_true, Bool.false_eq_true, if_false]

/-- The record of a started command is of that command. -/
theorem Dev.startedOf_cmd {x : Started} (hstarted : d.startedOf c = some x) : x.cmd = c := by
  simpa only [decide_eq_true_eq] using List.find?_some hstarted

/-- R486, R492: a completion goes into the slot that the ring writes next, and gives back the slot reserved. -/
theorem Dev.complete_written {x : Started} {r : Ring} {status err index : Nat} {result : List Byte} {f : Dev} (hstarted : d.startedOf c = some x)
    (hup : d.endWaits x = false) (he : e = { d with host := { d.host with started := dropFirst (fun y => decide (y = x)) d.host.started } })
    (hr : r = e.ring c.fn.val 1 c.ring.val) (hen : r.en = true) (hgen : r.gen = x.gen)
    (hf : f = (e.setRing c.fn.val 1 c.ring.val { r with res := r.res - 1 }).putEntry c.fn.val 1 c.ring.val
      (completionEntry c x.op r.phase status err index ((d.time - x.at_) / 1000) result)) :
    d.complete c status err index result = if x.op = 1 then f else f.fwRecords (fabricCore c.fn.val) := by
  have hcmd := Dev.startedOf_cmd hstarted
  have hwrite : d.writeEnd x ⟨status, err, index, result⟩ = f := by
    have htime : (e.setRing c.fn.val 1 c.ring.val { r with res := r.res - 1 }).time = d.time := by rw [he]; rfl
    have hkept : (!r.en || r.gen != x.gen) = false := by rw [hen, hgen, bne_self_eq_false]; rfl
    simp only [Dev.writeEnd, hcmd, ← he, ← hr, hkept, Bool.false_eq_true, if_false, htime, ← hf]
  simp only [Dev.complete, hstarted, hup, Bool.false_eq_true, if_false, hwrite, Dev.when, bne_iff_ne, ne_eq, ite_not]

/-- R502: while the core is down its journal holds the completion. -/
theorem Dev.complete_held {x : Started} {status err index : Nat} {result : List Byte} {held : List Started} (hstarted : d.startedOf c = some x)
    (hheat : x.op ≠ 1) (hdown : d.coreUp (fabricCore c.fn.val) = false)
    (hheld : held = mapFirst (fun y => decide (y = x)) (fun y => { y with
      begun := true, ended := some (y.ended.getD ⟨status, err, index, result⟩) }) d.host.started) :
    d.complete c status err index result = { d with host := { d.host with started := held } } := by
  have hwaits : d.endWaits x = true := by
    simp only [Dev.endWaits, bne_iff_ne.mpr hheat, Dev.startedOf_cmd hstarted, hdown, Bool.not_false, Bool.and_self]
  simp only [Dev.complete, hstarted, hwaits, if_true, ← hheld]

/-! ### Composition -/

/-- R491: PF0 stages any entry. -/
theorem Dev.rtStage_pf (hpf : c.fn.val = 0) (hindex : c.arg 8 4 < d.get Reg.RT_CAP_TOTAL) :
    d.rtStage c = (d.stage 0 (.entry (c.arg 8 4) ⟨c.arg 16 8, c.arg 24 8, c.arg 32 8, c.arg 40 8⟩)).completeOk c [] := by
  simp only [Dev.rtStage, hpf, if_neg (Nat.not_le.mpr hindex), bne_self_eq_false, Bool.false_and, Bool.false_eq_true, if_false]

/-- R415: a VF stages nothing over an entry of another domain. -/
theorem Dev.rtStage_foreign {x : RtEntry} (hvf : c.fn.val ≠ 0) (hindex : c.arg 8 4 < d.get Reg.RT_CAP_TOTAL)
    (hentry : Tab.find? d.ten.live.rt (c.arg 8 4) = some x) (hkind : x.kind ≠ 0) (hdom : x.dom ≠ c.fn.val) :
    d.rtStage c = d.completeErr c 1 := by
  simp only [Dev.rtStage, if_neg (Nat.not_le.mpr hindex), hentry, bne_iff_ne.mpr hvf, beq_eq_false_iff_ne.mpr hkind,
    beq_eq_false_iff_ne.mpr hdom, Bool.or_self, Bool.and_false, Bool.not_false, Bool.and_self, if_true]

/-- R491: PF0 sets any pool. -/
theorem Dev.poolSet_pf (hpf : c.fn.val = 0) (hword : c.arg 9 1 < 8) (hdom : c.arg 24 2 < 4096) (hvalid : c.arg 26 1 < 2) :
    d.poolSet c = ((d.stage 0 (.pool (c.arg 8 1 * 8 + c.arg 9 1) (c.arg 16 8))).stage 0
      (.poolDom (c.arg 8 1) (c.arg 24 2 + c.arg 26 1 * 4096))).completeOk c [] := by
  simp only [Dev.poolSet, hpf, decide_eq_false (show ¬ 7 < c.arg 9 1 by omega), decide_eq_false (show ¬ 4095 < c.arg 24 2 by omega),
    decide_eq_false (show ¬ 1 < c.arg 26 1 by omega), bne_self_eq_false, Bool.false_and, Bool.or_self, Bool.false_eq_true, if_false]

/-! ### The administrator -/

/-- R491: EXTENT of PF0 does what EXT_CMD does. -/
theorem Dev.extentCmd_pf (hpf : c.fn.val = 0) (hop : fieldOf (c.arg 8 8) 16 2 = 1 ∨ fieldOf (c.arg 8 8) 16 2 = 2) {r : Dev × Bool}
    (hr : r = d.extCmd (c.arg 8 8)) : d.extentCmd c = if r.2 then r.1.completeOk c [] else r.1.completeErr c 3 := by
  have hdefined : (decide (fieldOf (c.arg 8 8) 16 2 = 0) || decide (fieldOf (c.arg 8 8) 16 2 = 3)) = false := by
    rcases hop with hop | hop <;> rw [hop] <;> rfl
  simp only [Dev.extentCmd, hpf, bne_self_eq_false, Bool.false_eq_true, if_false, hdefined, ← hr]

/-- R424, R491: WINDOW of PF0 does what its register does. -/
theorem Dev.windowCmd_pf (hpf : c.fn.val = 0) (hwindow : c.arg 8 2 < 8192) (hvalue : c.arg 16 8 < 2 ^ 47) {r : Dev × Bool}
    (hr : r = d.winWrite (c.arg 8 2) (c.arg 16 8)) : d.windowCmd c = if r.2 then r.1.completeOk c [] else r.1.completeErr c 3 := by
  simp only [Dev.windowCmd, hpf, bne_self_eq_false, Bool.false_eq_true, if_false, decide_eq_false (show ¬ 8191 < c.arg 8 2 by omega),
    decide_eq_false (Nat.not_le.mpr hvalue), Bool.or_self, ← hr]

/-- R392: HOST_BACKING of PF0 records the region. -/
theorem Dev.hostBacking_pf (hpf : c.fn.val = 0) (hspace : taSpace (c.arg 8 8) = 3) (hformed : taFormed (c.arg 8 8) = true)
    (hroom : taAddr (c.arg 8 8) + c.arg 16 8 ≤ 2 ^ 57) :
    d.hostBacking c = ({ d with host := { d.host with backing := some (taAddr (c.arg 8 8), c.arg 16 8) } } : Dev).completeOk c [] := by
  simp only [Dev.hostBacking, hpf, hspace, hformed, decide_eq_false (Nat.not_lt.mpr hroom), bne_self_eq_false, Bool.not_true, Bool.or_self,
    Bool.false_eq_true, if_false]

/-- R464: FENCE of PF0 declares a port dead and gives its epoch. -/
theorem Dev.fenceCmd_pf (hpf : c.fn.val = 0) (hport : c.arg 8 2 < 512) (hglois : d.isGlois (c.arg 8 2) = true)
    (he : e = d.declareDead (c.arg 8 2) 3) : d.fenceCmd c = e.completeOk c (natBytes 2 (e.get (Reg.PORT_FENCE_FENCE_EPOCH (c.arg 8 2)))) := by
  simp only [Dev.fenceCmd, hpf, hglois, decide_eq_false (show ¬ 511 < c.arg 8 2 by omega), bne_self_eq_false, Bool.not_true, Bool.or_self,
    Bool.false_eq_true, if_false, ← he]

/-- R501: CORE_RESTART of PF0 starts the restart that will complete it. -/
theorem Dev.coreRestart_pf (hpf : c.fn.val = 0) (hcore : c.arg 8 1 < 16) :
    d.coreRestart c = (d.beginCmd c).startRestart (c.arg 8 1) 3 (some c) := by
  simp only [Dev.coreRestart, hpf, bne_self_eq_false, Bool.false_eq_true, if_false, if_neg (show ¬ 15 < c.arg 8 1 by omega)]

/-- R465: ADMIT of PF0 admits a FENCED port and refuses another. -/
theorem Dev.admitCmd_pf (hpf : c.fn.val = 0) (hport : c.arg 8 2 < 512) (hglois : d.isGlois (c.arg 8 2) = true) :
    d.admitCmd c = if d.fenced (c.arg 8 2) then (d.admitPort (c.arg 8 2)).completeOk c [] else d.completeErr c 3 := by
  cases hfenced : d.fenced (c.arg 8 2) <;>
    simp only [Dev.admitCmd, hpf, hglois, hfenced, decide_eq_false (show ¬ 511 < c.arg 8 2 by omega), bne_self_eq_false, Bool.false_and,
      Bool.not_true, Bool.not_false, Bool.or_self, Bool.false_eq_true, if_false, if_true]

end

/-- Settles O44: a ring command's start, and its completion. -/
theorem ringCommandsStart : Obligations.RingCommandsStart := by
  unfold Obligations.RingCommandsStart
  refine ⟨fun d c op f hdown => Dev.ringOp_down op f hdown, fun d c op f hnew hfull => Dev.ringOp_full op f hnew hfull, ?waits, ?flags,
    fun d e c op f hstart => d.ringOp_starts e c op f hstart, ?written, ?held⟩
  case waits =>
    intro d c op f hup hnew hfree hwait
    rw [Dev.ringOp_taken op f hup hnew hfree, if_pos hwait]
  case flags =>
    intro d c op f hup hnew hfree hturn hflags
    rw [Dev.ringOp_taken op f hup hnew hfree, hturn, if_neg Bool.false_ne_true, if_pos hflags]
  case written =>
    intro d e c x r status err index result hstarted hup he hr hen hgen f hf
    exact Dev.complete_written hstarted hup he hr hen hgen hf
  case held =>
    intro d c x status err index result hstarted hheat hdown hopen held hheld
    exact Dev.complete_held hstarted hheat hdown hheld

/-- Settles O45: NOP, RT_STAGE, COMMIT, DISCARD, POOL_SET and the lease commands. -/
theorem compositionCommands : Obligations.CompositionCommands := by
  unfold Obligations.CompositionCommands
  refine ⟨?nop, ?stage, ?foreign, ?waits, ?commit, ?discard, ?pool, ?claim, ?release⟩
  case nop =>
    intro s c t d e hat hstart
    exact settles_ring (fun d => d.completeOk c []) hat hstart rfl
  case stage =>
    intro s c t d e hat hstart hpf hindex
    exact settles_ring (fun d => d.rtStage c) hat hstart (Dev.rtStage_pf hpf hindex)
  case foreign =>
    intro s c t x d e hat hstart hvf hindex hentry hkind hdom
    exact settles_ring (fun d => d.rtStage c) hat hstart (Dev.rtStage_foreign hvf hindex hentry hkind hdom)
  case waits =>
    intro s c t d e hat hstart hold
    exact settles_ring (fun d => d.commitCmd c) hat hstart (by simp only [Dev.commitCmd, hold, if_true])
  case commit =>
    intro s c t d e hat hstart hold r hr
    refine settles_ring (fun d => d.commitCmd c) hat hstart ?_
    simp only [Dev.commitCmd, hold, Option.isSome_none, Bool.false_eq_true, if_false, Dev.commitNow, ← hr]
  case discard =>
    intro s c t d e hat hstart
    exact settles_ring (fun d => (d.unstage c.fn.val).completeOk c []) hat hstart rfl
  case pool =>
    intro s c t d e hat hstart hpf hword hdom hvalid
    exact settles_ring (fun d => d.poolSet c) hat hstart (Dev.poolSet_pf hpf hword hdom hvalid)
  case claim =>
    intro s c t d e hat hstart r hr
    exact settles_ring (fun d => d.leaseClaim c) hat hstart (by simp only [Dev.leaseClaim, ← hr])
  case release =>
    intro s c t d e hat hstart r hr
    exact settles_ring (fun d => d.leaseRelease c) hat hstart (by simp only [Dev.leaseRelease, ← hr])

/-- Settles O46: the commands of PF0, refused from a VF, and ADMIT. -/
theorem administratorCommands : Obligations.AdministratorCommands := by
  unfold Obligations.AdministratorCommands
  refine ⟨?extent, ?window, ?backing, ?fence, ?restart, ?admits, ?refused⟩
  case extent =>
    intro s c t d e hat hstart hpf hop r hr
    exact settles_ring (fun d => d.extentCmd c) hat hstart (Dev.extentCmd_pf hpf hop hr)
  case window =>
    intro s c t d e hat hstart hpf hwindow hvalue r hr
    exact settles_ring (fun d => d.windowCmd c) hat hstart (Dev.windowCmd_pf hpf hwindow hvalue hr)
  case backing =>
    intro s c t d e hat hstart hpf hspace hformed hroom
    exact settles_ring (fun d => d.hostBacking c) hat hstart (Dev.hostBacking_pf hpf hspace hformed hroom)
  case fence =>
    intro s c t d e f hat hstart hpf hport hglois hf
    exact settles_ring (fun d => d.fenceCmd c) hat hstart (Dev.fenceCmd_pf hpf hport hglois hf)
  case restart =>
    intro s c t d e hat hstart hpf hcore
    exact settles_ring (fun d => d.coreRestart c) hat hstart (Dev.coreRestart_pf hpf hcore)
  case admits =>
    intro s c t d e hat hstart hpf hport hglois
    exact settles_ring (fun d => d.admitCmd c) hat hstart (Dev.admitCmd_pf hpf hport hglois)
  case refused =>
    intro s c t op i d e hat hstart hvf hi
    have hbad : (c.fn.val != 0) = true := bne_iff_ne.mpr hvf
    simp only [List.mem_cons, Prod.mk.injEq, List.not_mem_nil, or_false] at hi
    rcases hi with ⟨rfl, rfl⟩ | ⟨rfl, rfl⟩ | ⟨rfl, rfl⟩ | ⟨rfl, rfl⟩ | ⟨rfl, rfl⟩
    · exact settles_ring (fun d => d.fenceCmd c) hat hstart (if_pos hbad)
    · exact settles_ring (fun d => d.extentCmd c) hat hstart (if_pos hbad)
    · exact settles_ring (fun d => d.windowCmd c) hat hstart (if_pos hbad)
    · exact settles_ring (fun d => d.hostBacking c) hat hstart (if_pos hbad)
    · exact settles_ring (fun d => d.coreRestart c) hat hstart (if_pos hbad)

end Sys2Proof.Machine
end

section
/-! PROOF. The commands of registrations and contexts, of memory, and the rings themselves (R390 to R406, R354, R483 to R496, R536 to R538). -/
namespace Sys2Proof.Machine

section
variable {d e : Dev} {c : RingCmd}

/-- R490: a record that lies sound in device memory is handed on. -/
theorem Dev.withRecord_dmem {op a n : Nat} {r : List Byte} (f : Dev → List Byte → Dev) (hallowed : d.typedOk c.fn.val [] a n false = true)
    (hspace : taSpace a = 1) (hsound : d.upset = []) (hr : r = d.readMem (taAddr a) n) : d.withRecord c op a n f = f d r := by
  simp only [Dev.withRecord, hallowed, Bool.not_true, Bool.false_eq_true, if_false, hspace, if_true, Dev.readEcc_sound d _ _ hsound, hr]

/-- A command that has started has a record. -/
theorem startedOf_some (hstarted : (d.startedOf c).isSome = true) : (d.startedOf c).isNone = false := by
  rw [← Option.not_isSome, hstarted]
  rfl

/-! ### Registrations and contexts -/

/-- R404: a registration is created VALID at the lowest free handle. -/
theorem Dev.regCreate_new {base h : Nat} (hbase : dpaArg (c.arg 8 8) = some base) (hlen : c.arg 16 8 ≠ 0) (hroom : base + c.arg 16 8 ≤ 2 ^ 52)
    (hacc : c.arg 24 1 ≠ 0) (hdefined : c.arg 24 1 < 4) (hh : h = freshNumber (d.grt.regs.map Prod.fst) 0 ((d.grt.regs.map Prod.fst).length + 1))
    (hfree : h < 65536)
    (he : e = ((({ d with grt := { d.grt with regs := Tab.ins d.grt.regs h ⟨base, c.arg 16 8, 0, 0, false⟩ } } : Dev).set
      (Reg.GRT_REG_STATE h) 1).set (Reg.GRT_REG_DOMAIN h) c.fn.val).set (Reg.GRT_REG_ACCESS h) (c.arg 24 1)) :
    d.regCreate c = (e.set (Reg.GRT_REG_INFLIGHT h) 0).completeOk c (natBytes 2 h ++ natBytes 2 (e.get (Reg.GRT_REG_REG_EPOCH h))) := by
  simp only [Dev.regCreate, hbase, decide_eq_false hlen, decide_eq_false (Nat.not_lt.mpr hroom), decide_eq_false hacc,
    decide_eq_false (show ¬ 3 < c.arg 24 1 by omega), Bool.or_self, Bool.false_eq_true, if_false, ← hh, if_neg (Nat.not_le.mpr hfree), ← he]

/-- R406: PF0 revokes a VALID registration under the next epoch. -/
theorem Dev.regRevoke_pf {ep : Nat} (hpf : c.fn.val = 0) (hvalid : d.get (Reg.GRT_REG_STATE (c.arg 8 2)) = 1)
    (hep : ep = (d.get (Reg.GRT_REG_REG_EPOCH (c.arg 8 2)) + 1) % 65536) :
    d.regRevoke c = ((((d.set (Reg.GRT_REG_REG_EPOCH (c.arg 8 2)) ep).set (Reg.GRT_REG_STATE (c.arg 8 2)) 2).completeOk c
      (natBytes 2 ep)).regFreed (c.arg 8 2)) := by
  simp only [Dev.regRevoke, hpf, hvalid, ← hep, bne_self_eq_false, Bool.false_and, Bool.false_eq_true, if_false]

/-- R491: a context is allocated at the lowest number that is free and not reserved. -/
theorem Dev.ctxAlloc_pf {k : Nat} {used : List Nat} (hdom : c.arg 8 2 < 4096) (hpf : c.fn.val = 0)
    (hused : used = d.grt.ctxs.map Prod.fst ++ d.grt.reserved.map Prod.fst) (hk : k = freshNumber used 0 (used.length + 1))
    (hfree : k < d.get Reg.GRT_CAP_CTX_MAX) :
    d.ctxAlloc c = ({ d with grt := { d.grt with reserved := Tab.ins d.grt.reserved k (c.arg 8 2) } } : Dev).completeOk c (natBytes 4 k) := by
  simp only [Dev.ctxAlloc, hpf, ← hused, ← hk, if_neg (show ¬ 4095 < c.arg 8 2 by omega), if_neg (Nat.not_le.mpr hfree), bne_self_eq_false,
    Bool.false_and, Bool.false_eq_true, if_false]

/-- R391: a context is created READY from its record. -/
theorem Dev.ctxCreate_new {r : List Byte} {x : GCtx} (hstarted : (d.startedOf c).isSome = true) (hgood : d.ctxRefused c.fn.val r = 0)
    (hnumber : c.arg 8 4 < d.get Reg.GRT_CAP_CTX_MAX) (hreserved : ∀ dom ∈ Tab.find? d.grt.reserved (c.arg 8 4), dom = fieldBytes r 0 2)
    (hnew : d.gctx (c.arg 8 4) = none) (hx : x = GCtx.fresh r d.time) :
    d.ctxCreate c r = (({ d with grt := { d.grt with ctxs := Tab.ins d.grt.ctxs (c.arg 8 4) x,
                                                     reserved := Tab.del d.grt.reserved (c.arg 8 4) } } : Dev).ctxStore
        (c.arg 8 4) x).completeOk c [] := by
  cases hres : Tab.find? d.grt.reserved (c.arg 8 4) with
  | none =>
    simp only [Dev.ctxCreate, startedOf_some hstarted, hgood, bne_self_eq_false, if_neg (Nat.not_le.mpr hnumber), hres, hnew, Option.isSome_none,
      Bool.false_eq_true, if_false, ← hx]
  | some dom =>
    simp only [Dev.ctxCreate, startedOf_some hstarted, hgood, bne_self_eq_false, if_neg (Nat.not_le.mpr hnumber), hres, hreserved dom hres, hnew,
      Option.isSome_none, Bool.false_eq_true, if_false, ← hx]

/-- R391: a READY context takes its new record, its PSNs kept. -/
theorem Dev.ctxModify_pf {r : List Byte} {x y : GCtx} {f g : Dev} {room : Dev × Bool} {stay : Bool} (hstarted : (d.startedOf c).isSome = true)
    (hgood : d.ctxRefused c.fn.val r = 0) (hctx : d.gctx (c.arg 8 4) = some x) (hpf : c.fn.val = 0) (hready : x.state = 1)
    (hy : y = { x with rec_ := r.take 36 ++ (x.rec_.drop 36).take 8 ++ r.drop 44 }) (hg : g = d.giveFetch (c.arg 8 4))
    (hroom : room = (if x.cached && g.portDie x.uplink != g.portDie y.uplink then g.ctxRoom (g.portDie y.uplink) else (g, true)))
    (hstay : stay = (x.cached && room.2)) (hf : f = room.1.onCtx (c.arg 8 4) (fun _ => { y with cached := stay, fetching := none })) :
    d.ctxModify c r = ((if stay then f else f.ctxStore (c.arg 8 4) y).completeOk c []).showGrt := by
  rw [hpf] at hgood
  have hstate : (x.state != 1) = false := by rw [hready]; rfl
  have hafter : f = room.1.onCtx (c.arg 8 4) (fun _ => { x with
      rec_ := r.take 36 ++ (x.rec_.drop 36).take 8 ++ r.drop 44, cached := stay, fetching := none }) := by rw [hf, hy]
  simp only [Dev.ctxModify, startedOf_some hstarted, hpf, hgood, bne_self_eq_false, Bool.false_and, Bool.false_eq_true, if_false, hctx, hstate,
    ← hy, ← hg, ← hroom, ← hstay, ← hafter]

/-- R399: a context is destroyed by draining. -/
theorem Dev.ctxDestroy_pf {x : GCtx} {g : Dev} (hctx : d.gctx (c.arg 8 4) = some x) (hpf : c.fn.val = 0) (hstate : x.state ≠ 2)
    (he : e = d.beginCmd c)
    (hg : g = ((e.onCtx (c.arg 8 4) (fun x => { x with drain := some e.time, cmd := some c, queue := [] })).ctxState (c.arg 8 4) 2).dropParked
      (c.arg 8 4)) : d.ctxDestroy c = if x.quiet then g.freeCtx (c.arg 8 4) else g := by
  have htime : d.time = e.time := by rw [he]; rfl
  simp only [Dev.ctxDestroy, hctx, hpf, bne_self_eq_false, Bool.false_and, Bool.false_eq_true, if_false, if_neg hstate, ← he, htime, ← hg]

/-! ### The commands over memory -/

/-- R354: a well-formed span of SHADOWED regions is recorded. -/
theorem Dev.shadowAdd_new {r : List Byte} {key : Nat} (hstarted : (d.startedOf c).isSome = true) (hspan : spanOk r = true)
    (hall : d.shadowedAll c.fn.val (d.ten.live.rt.length + 1) (fieldBytes r 0 8) (fieldBytes r 0 8 + fieldBytes r 8 8) = true)
    (hnew : d.spanAt c.fn.val (fieldBytes r 0 8) = none) (hroom : d.store.spans.length < 65536)
    (hkey : key = freshNumber (d.store.spans.map Prod.fst) 0 (d.store.spans.length + 1)) :
    d.shadowAdd c r = ({ d with store := { d.store with spans := Tab.ins d.store.spans key ⟨c.fn.val, fieldBytes r 0 8, fieldBytes r 8 8,
      fieldBytes r 16 1, fieldBytes r 17 1, fieldBytes r 18 2, fieldBytes r 20 1, fieldBytes r 21 1⟩ } } : Dev).completeOk c [] := by
  simp only [Dev.shadowAdd, startedOf_some hstarted, hspan, hall, hnew, if_neg (Nat.not_le.mpr hroom), ← hkey, Bool.not_true, Bool.or_self,
    Bool.false_eq_true, if_false]

/-- R354: a span is removed with its shadows. -/
theorem Dev.shadowDel_there {base : Nat} {x : Nat × Span} (hbase : dpaArg (c.arg 8 8) = some base) (hspan : d.spanAt c.fn.val base = some x) :
    d.shadowDel c = (d.removeSpan x).completeOk c [] := by
  simp only [Dev.shadowDel, hbase, Option.bind_some, hspan]

/-- R358: WPUSH of PF0 begins its push. -/
theorem Dev.wpushCmd_pf (hlow : 8192 ≤ c.arg 32 2) (hhigh : c.arg 32 2 < 16384) (hspace : taSpace (c.arg 8 8) = 1)
    (hformed : taFormed (c.arg 8 8) = true) (hroom : c.arg 16 8 + c.arg 24 8 ≤ 2 ^ 52) (hnamed : d.dmaNamed (taAddr (c.arg 8 8)) (c.arg 24 8) = true)
    (hpf : c.fn.val = 0) (hidle : d.flag Reg.WPUSH_STAT_BUSY = false) :
    d.wpushCmd c = (d.beginCmd c).startPush (some c) (taAddr (c.arg 8 8)) (c.arg 16 8) (c.arg 24 8) (c.arg 32 2) := by
  simp only [Dev.wpushCmd, decide_eq_false (Nat.not_lt.mpr hlow), decide_eq_false (show ¬ 16383 < c.arg 32 2 by omega), hspace, hformed,
    decide_eq_false (Nat.not_lt.mpr hroom), hnamed, hpf, hidle, bne_self_eq_false, Bool.not_true, Bool.false_and, Bool.or_self, Bool.false_eq_true,
    if_false]

/-- R157: REVERT reverts every page that the function's LOCAL entries map. -/
theorem Dev.revertCmd_pages {a : Nat} {mine : List (Nat × RtEntry)} (ha : dpaArg (c.arg 8 8) = some a)
    (hmine : mine = d.ten.live.rt.filter (fun x => x.2.kind == 1 && x.2.dom == c.fn.val && meets x.2.dpaPage x.2.pages (pageOf a) (c.arg 16 4)))
    (he : e = d.each mine (fun d x => d.revert (x.2.ppaPage + (max (pageOf a) x.2.dpaPage - x.2.dpaPage))
      (min (pageOf a + c.arg 16 4) (x.2.dpaPage + x.2.pages) - max (pageOf a) x.2.dpaPage) (fun _ => true))) :
    d.revertCmd c = if e.recalling 6 none then e.beginCmd c else e.completeOk c [] := by
  simp only [Dev.revertCmd, ha, ← hmine, ← he, Dev.revertBegun]

/-- R538: KEY_LOAD of PF0 hands over the record that its address names. -/
theorem Dev.keyLoad_pf {z : Fuses} (hboot : d.coreUp 0 = true) (hpf : c.fn.val = 0) (hallowed : d.keyLoadAllowed z = true)
    (hdom : c.arg 16 2 < 4096) (hnamed : d.typedOk c.fn.val [] (c.arg 8 8) 96 false = true) (hspace : taSpace (c.arg 8 8) = 1)
    (hsound : d.upset = []) : d.keyLoad z c = d.keyRecord z c (d.readMem (taAddr (c.arg 8 8)) 96) := by
  have hrecord := Dev.withRecord_dmem (op := 0x10) (fun d r => d.keyRecord z c r) hnamed hspace hsound rfl
  simp only [Dev.keyLoad, hboot, hpf, hallowed, if_neg (show ¬ 4095 < c.arg 16 2 by omega), bne_self_eq_false, Bool.false_and, Bool.not_true,
    Bool.false_eq_true, if_false, hrecord]

/-- R538: from a VF for another domain it is refused. -/
theorem Dev.keyLoad_foreign {z : Fuses} (hboot : d.coreUp 0 = true) (hvf : c.fn.val ≠ 0) (hother : c.arg 16 2 ≠ c.fn.val) :
    d.keyLoad z c = d.completeErr c 1 := by
  simp only [Dev.keyLoad, hboot, bne_iff_ne.mpr hvf, bne_iff_ne.mpr hother, Bool.not_true, Bool.false_eq_true, if_false, Bool.and_self, if_true]

/-- R536 to R538: a well-formed key record is unwrapped and applied, or rejected. -/
theorem Dev.keyRecord_formed {z : Fuses} {r : List Byte} {rotation : Bool} (hversion : fieldBytes r 0 1 = 1) (hslot : fieldBytes r 1 1 < 2)
    (hzero : fieldBytes r 6 2 = 0) (hpad : fieldBytes r 80 16 = 0) (hdom : fieldBytes r 2 2 = c.arg 16 2)
    (hrotation : rotation = (decide (fieldBytes r 1 1 = 0) && d.flag (Reg.KEYGEN_PREV_LIVE (c.arg 16 2)) &&
      decide (fieldBytes r 4 2 = nextGen (d.get (Reg.KEYGEN_CUR_GEN (c.arg 16 2)))))) :
    d.keyRecord z c r = (kwUnwrap (z.kek (c.arg 16 2) (fieldBytes r 4 2)) ((r.drop 8).take 72)).elim
      (((d.post [c.arg 16 2, 0] 0x64 [c.arg 16 2, fieldBytes r 4 2]).bump Reg.KEY_REJECTS).completeErr c 2)
      (fun key => (d.applyKey (c.arg 16 2) (fieldBytes r 1 1) (fieldBytes r 4 2) key).elim
        (((if rotation then d.bump Reg.ROTATE_REFUSED else d).bump Reg.KEY_REJECTS).completeErr c 3)
        (fun f => ((f.bump Reg.KEY_LOADS).post [c.arg 16 2, 0] 0x63 [c.arg 16 2, fieldBytes r 1 1, fieldBytes r 4 2]).completeOk c
          (natBytes 2 (f.get (Reg.KEYGEN_CUR_GEN (c.arg 16 2)))))) := by
  have hformed : (fieldBytes r 0 1 != 1 || decide (1 < fieldBytes r 1 1) || fieldBytes r 6 2 != 0 || fieldBytes r 80 16 != 0 ||
      fieldBytes r 2 2 != c.arg 16 2) = false := by
    simp only [hversion, hzero, hpad, hdom, decide_eq_false (show ¬ 1 < fieldBytes r 1 1 by omega), bne_self_eq_false, Bool.or_self]
  cases hkey : kwUnwrap (z.kek (c.arg 16 2) (fieldBytes r 4 2)) ((r.drop 8).take 72) with
  | none => simp only [Dev.keyRecord, hformed, Bool.false_eq_true, if_false, hkey, Option.elim_none]
  | some key =>
    cases happly : d.applyKey (c.arg 16 2) (fieldBytes r 1 1) (fieldBytes r 4 2) key <;>
      simp only [Dev.keyRecord, hformed, Bool.false_eq_true, if_false, hkey, happly, Option.elim_some, Option.elim_none, Dev.when, ← hrotation]

/-- R535: ATTEST writes its report to device memory. -/
theorem Dev.attest_dmem {z : Fuses} {rep : List Byte} (hboot : d.coreUp 0 = true) (hstate : d.get Reg.LC_STAT_STATE ≠ 4)
    (hspace : taSpace (c.arg 8 8) = 1) (hnamed : d.typedOk c.fn.val [] (c.arg 8 8) 8640 true = true)
    (hrep : rep = d.report8640 z c.fn.val ((c.args.drop 8).take 32)) :
    d.attest z c = (((d.writeMem (taAddr (c.arg 8 8)) rep).bump Reg.ATTESTS).fwRecords 0).completeOk c (natBytes 4 8640) := by
  simp only [Dev.attest, hboot, if_neg hstate, hspace, hnamed, ← hrep, beq_self_eq_true, Bool.true_or, Bool.not_true, Bool.or_self,
    Bool.false_eq_true, if_false, if_true]


/-! ### The rings -/

section
variable {fn i : Nat} {r : Ring}

/-- R485: a doorbell moves its ring's producer index on. -/
theorem Dev.cmdDb_moves {pi : Nat} (hr : d.ring fn 0 i = r) (hen : r.en = true)
    (hahead : (r.pi + r.size - r.ci) % r.size ≤ (pi % r.size + r.size - r.ci) % r.size) (hown : bitOf r.cfg0 25 = false) :
    d.cmdDb fn i pi = d.setRing fn 0 i { r with pi := pi % r.size, avail := pi % r.size, held := !d.running } := by
  simp only [Dev.cmdDb, hr, hen, decide_eq_false (Nat.not_lt.mpr hahead), hown, Bool.not_true, Bool.or_self, Bool.false_eq_true, if_false]

/-- R489: one that is behind is an error of its function. -/
theorem Dev.cmdDb_behind {pi : Nat} (hr : d.ring fn 0 i = r)
    (hbehind : (pi % r.size + r.size - r.ci) % r.size < (r.pi + r.size - r.ci) % r.size) :
    d.cmdDb fn i pi = (d.set (Reg.FN_STAT_DB_ERR fn) 1).bump (Reg.DB_BAD fn) := by
  simp only [Dev.cmdDb, hr, decide_eq_true hbehind, Bool.or_true, if_true]

/-- R485: entries that the host has released free their slots. -/
theorem Dev.releaseEntries_some {kind ci step : Nat} (hr : d.ring fn kind i = r) (hen : r.en = true)
    (hstep : step = (ci % r.size + r.size - r.ci) % r.size) (hsome : step ≠ 0) :
    d.releaseEntries fn kind i ci = d.setRing fn kind i { r with ci := ci % r.size, used := r.used - step } := by
  simp only [Dev.releaseEntries, hr, hen, ← hstep, decide_eq_false hsome, Bool.false_and, Bool.not_true, Bool.false_eq_true, if_false]

/-- R484: enabling a ring that fits its function's region zeroes it and starts it afresh. -/
theorem Dev.ringCfg0_enables {v kind w : Nat} {want : Ring} (hsel : d.selected fn = some (kind, i)) (hkind : kind ≠ 0) (hr : r = d.ring fn kind i)
    (hoff : r.en = false) (hw : w = cfg0Mask v) (hen : bitOf w 0 = true) (hwant : want = { r with cfg0 := w })
    (hfits : fieldOf w 1 20 * 64 + want.size * ringEntry kind ≤ d.mapped fn) :
    d.ringCfg0 fn v = (d.zeroMem (d.ringAddr fn kind want 0) (want.size * ringEntry kind)).setRing fn kind i
      { Ring.idle with cfg0 := w, cfg1 := r.cfg1, phase := true, gen := r.gen + 1 } := by
  simp only [Dev.ringCfg0, hsel, beq_eq_false_iff_ne.mpr hkind, Bool.false_and, Dev.when, Bool.false_eq_true, if_false, ← hr, hoff, ← hw, hen,
    ← hwant, decide_eq_true hfits, Bool.not_true, Bool.not_false, Bool.and_self, if_true]

/-- R487: COMMAND_FETCH takes the next entry with its completion slot. -/
theorem Dev.commandFetch_next {f : Dom} {k : Fin 16} {bs : List Byte} (hr : d.ring f.val 0 k.val = r) (hen : r.en = true) (hnext : r.ci ≠ r.avail)
    (hup : d.coreUp (fabricCore f.val) = true) (hslot : d.slotFree f.val k.val = true) (hsound : d.upset = [])
    (hbs : bs = d.readMem (d.ringAddr f.val 0 r r.ci) 64) (hgood : badEntry bs = false) :
    d.commandFetch f k = (d.setRing f.val 0 k.val { r with ci := (r.ci + 1) % r.size, held := false }).takeCmd (entryCmd f k bs)
      (fieldBytes bs 0 1) := by
  simp only [Dev.commandFetch, hr, hen, beq_eq_false_iff_ne.mpr hnext, hup, hslot, Dev.readEcc_sound d _ _ hsound, ← hbs, Option.getD_some, hgood,
    Option.isNone_some, Bool.not_true, Bool.or_self, Bool.false_eq_true, if_false, Nat.add_zero]

/-- R496: after IRQ_US the oldest unsignalled entry's vector is signalled. -/
theorem Dev.irqExpiry_due {kind : Nat} (hr : d.ring fn kind i = r) (hen : r.en = true) (hunsig : r.unsig ≠ 0) (hus : fieldOf r.cfg0 48 16 ≠ 0)
    (hcount : fieldOf r.cfg0 38 10 ≠ 0) (hdue : r.oldest + fieldOf r.cfg0 48 16 * 1000 ≤ d.time) :
    d.irqExpiry fn kind i = (d.setRing fn kind i { r with unsig := 0 }).toHost (.irq fn (fieldOf r.cfg0 32 6)) := by
  simp only [Dev.irqExpiry, hr, hen, decide_eq_false hunsig, decide_eq_false hus, decide_eq_false hcount, decide_eq_false (Nat.not_lt.mpr hdue),
    Bool.not_true, Bool.or_self, Bool.false_eq_true, if_false]

end

end

/-- Settles O47: registrations created and revoked, contexts allocated, created, modified and destroyed. -/
theorem grtCommandsRun : Obligations.GrtCommandsRun := by
  unfold Obligations.GrtCommandsRun
  refine ⟨?create, ?revoke, ?alloc, ?context, ?modify, ?destroy⟩
  case create =>
    intro s c t base h d e f hat hstart hbase hlen hroom hacc hdefined hh hfree hf
    exact settles_ring (fun d => d.regCreate c) hat hstart (Dev.regCreate_new hbase hlen hroom hacc hdefined hh hfree hf)
  case revoke =>
    intro s c t ep d e hat hstart hpf hvalid hep
    exact settles_ring (fun d => d.regRevoke c) hat hstart (Dev.regRevoke_pf hpf hvalid hep)
  case alloc =>
    intro s c t k used d e hat hstart hdom hpf hused hk hfree
    exact settles_ring (fun d => d.ctxAlloc c) hat hstart (Dev.ctxAlloc_pf hdom hpf hused hk hfree)
  case context =>
    intro s c t r x d e hat hstart hnamed hspace hsound hr hstarted hgood hnumber hreserved hnew hx
    exact settles_ring (fun d => d.withRecord c 0x0B (c.arg 16 8) 128 (fun d r => d.ctxCreate c r)) hat hstart
      ((Dev.withRecord_dmem (fun d r => d.ctxCreate c r) hnamed hspace hsound hr).trans
        (Dev.ctxCreate_new hstarted hgood hnumber hreserved hnew hx))
  case modify =>
    intro s c t r x y d e hat hstart hnamed hspace hsound hr hstarted hgood hctx hpf hready hy g hg room hroom stay hstay f hf
    exact settles_ring (fun d => d.withRecord c 0x0C (c.arg 16 8) 128 (fun d r => d.ctxModify c r)) hat hstart
      ((Dev.withRecord_dmem (fun d r => d.ctxModify c r) hnamed hspace hsound hr).trans
        (Dev.ctxModify_pf hstarted hgood hctx hpf hready hy hg hroom hstay hf))
  case destroy =>
    intro s c t x d e f hat hstart hctx hpf hstate hf g hg
    exact settles_ring (fun d => d.ctxDestroy c) hat hstart (Dev.ctxDestroy_pf hctx hpf hstate hf hg)

/-- Settles O48: spans, pushes, reversions, keys and attestation. -/
theorem storeCommands : Obligations.StoreCommands := by
  unfold Obligations.StoreCommands
  refine ⟨?add, ?del, ?push, ?revert, ?key, ?foreign, ?record, ?attest⟩
  case add =>
    intro s c t key r d e hat hstart hnamed hspace hsound hr hstarted hspan hall hnew hroom hkey
    exact settles_ring (fun d => d.withRecord c 0x0E (c.arg 8 8) 32 (fun d r => d.shadowAdd c r)) hat hstart
      ((Dev.withRecord_dmem (fun d r => d.shadowAdd c r) hnamed hspace hsound hr).trans
        (Dev.shadowAdd_new hstarted hspan hall hnew hroom hkey))
  case del =>
    intro s c t base x d e hat hstart hbase hspan
    exact settles_ring (fun d => d.shadowDel c) hat hstart (Dev.shadowDel_there hbase hspan)
  case push =>
    intro s c t d e hat hstart hlow hhigh hspace hformed hroom hnamed hpf hidle
    exact settles_ring (fun d => d.wpushCmd c) hat hstart (Dev.wpushCmd_pf hlow hhigh hspace hformed hroom hnamed hpf hidle)
  case revert =>
    intro s c t a d e hat hstart ha mine hmine f hf
    exact settles_ring (fun d => d.revertCmd c) hat hstart (Dev.revertCmd_pages ha hmine hf)
  case key =>
    intro s c t d e hat hstart hboot hpf hallowed hdom hnamed hspace hsound
    exact settles_ring (fun d => d.keyLoad s.fuse c) hat hstart (Dev.keyLoad_pf hboot hpf hallowed hdom hnamed hspace hsound)
  case foreign =>
    intro s c t d e hat hstart hboot hvf hother
    exact settles_ring (fun d => d.keyLoad s.fuse c) hat hstart (Dev.keyLoad_foreign hboot hvf hother)
  case record =>
    intro d z c r rotation hversion hslot hzero hpad hdom hrotation
    exact Dev.keyRecord_formed hversion hslot hzero hpad hdom hrotation
  case attest =>
    intro s c t rep d e hat hstart hboot hstate hspace hnamed hrep
    exact settles_ring (fun d => d.attest s.fuse c) hat hstart (Dev.attest_dmem hboot hstate hspace hnamed hrep)

/-- Settles O49: doorbells, released entries, enabled rings, fetched commands and interrupts. -/
theorem ringsTurn : Obligations.RingsTurn := by
  unfold Obligations.RingsTurn
  refine ⟨?moves, ?behind, ?completions, ?events, ?enables, ?fetch, ?interrupt⟩
  case moves =>
    intro s fn i pi t r d hat hr hen hahead hown
    exact settles_act (fun d => d.cmdDb fn.val i.val pi.toNat) hat (Dev.cmdDb_moves hr hen hahead hown)
  case behind =>
    intro s fn i pi t r d hat hr hbehind
    exact settles_act (fun d => d.cmdDb fn.val i.val pi.toNat) hat (Dev.cmdDb_behind hr hbehind)
  case completions =>
    intro s fn i ci t step r d hat hup hr hen hstep hsome
    exact settles_bar (fun d => d.cplDb fn.val i.val ci.toNat) hat hup (Dev.releaseEntries_some hr hen hstep hsome)
  case events =>
    intro s fn ci t step r d hat hup hr hen hstep hsome
    exact settles_bar (fun d => d.evtDb fn.val ci.toNat) hat hup
      (congrArg (fun d => d.tellLost fn.val) (Dev.releaseEntries_some hr hen hstep hsome))
  case enables =>
    intro s fn v t kind ix w r d hat hup hsel hkind hr hoff hw hen want hwant hfits
    exact settles_bar (fun d => d.ringCfg0 fn.val v.toNat) hat hup (Dev.ringCfg0_enables hsel hkind hr hoff hw hen hwant hfits)
  case fetch =>
    intro s fn i t r bs d hat hr hen hnext hup hslot hsound hbs hgood
    exact settles_act (fun d => d.commandFetch fn i) hat (Dev.commandFetch_next hr hen hnext hup hslot hsound hbs hgood)
  case interrupt =>
    intro s fn k i t r d hat hr hen hunsig hus hcount hdue
    exact settles_act (fun d => d.irqExpiry fn.val k.val i.val) hat (Dev.irqExpiry_due hr hen hunsig hus hcount hdue)

end Sys2Proof.Machine
end

section
/-! PROOF. Firmware (R498, R499, R501, R507, R508): its bundle, the restarts of its cores, and TEL_SNAP. -/
namespace Sys2Proof.Machine

variable {d e f g : Dev}

theorem Dev.fwGo_begins (hup : d.pcieUp = true) (hhalt : d.boot.halt = false) (hwipe : d.flag Reg.GSTAT_WIPE_ACTIVE = false)
    (hstate : d.get Reg.FW_STAT_STATE = 0 ∨ d.get Reg.FW_STAT_STATE = 4) :
    d.fwGo = (((({ d with boot := { d.boot with asked := 0 } } : Dev).set Reg.FW_STAT_STATE 1).set Reg.FW_STAT_ERR 0).askBundle) := by
  have hidle : (d.get Reg.FW_STAT_STATE == 0 || d.get Reg.FW_STAT_STATE == 4) = true := by
    rw [Bool.or_eq_true, beq_iff_eq, beq_iff_eq]
    exact hstate
  simp only [Dev.fwGo, hup, hhalt, hwipe, hidle, Bool.not_true, Bool.or_self, Bool.false_eq_true, if_false]

theorem Dev.fwGo_ignored (hidle : d.get Reg.FW_STAT_STATE ≠ 0) (hfailed : d.get Reg.FW_STAT_STATE ≠ 4) : d.fwGo = d := by
  simp only [Dev.fwGo, beq_eq_false_iff_ne.mpr hidle, beq_eq_false_iff_ne.mpr hfailed, Bool.or_self, Bool.not_false, Bool.or_true, if_true]

theorem Dev.fwCopyDone_whole (hstate : d.get Reg.FW_STAT_STATE = 1) (hwhole : d.bundleWhole = true) :
    d.fwCopyDone = d.set Reg.FW_STAT_STATE 2 := by
  simp only [Dev.fwCopyDone, hstate, hwhole, decide_true, Bool.and_self, if_true]

/-- R499: the boot ROM reports the first failure of the bundle, or lets every core run it. -/
theorem Dev.fwVerifyDone_verifies {z : Fuses} {bs : List Byte} {r : Option (Nat × Nat)} (hstate : d.get Reg.FW_STAT_STATE = 2)
    (hbs : bs = d.readMem d.storeBase (min storeBytes (d.get Reg.FW_LEN_BYTES))) (hr : r = d.bundleFailure z bs)
    (he : e = { d with boot := { d.boot with bundle := some ⟨leratSvn bs, leratKey bs, bundleImages bs⟩ } })
    (hf : f = (((e.each (rangeFrom 0 16) (fun d c => (d.setCore c 1).sramChanged c)).set Reg.FW_STAT_STATE 3).set
      Reg.GSTAT_RUNNING 1).startFills) :
    d.fwVerifyDone z = r.elim
      (f.post [0] 0x62 [f.reg Reg.RESET_CAUSE, f.get Reg.LC_STAT_IMG_SLOT, f.get Reg.LC_STAT_IMG_FALLBACK])
      (fun x => ((d.set Reg.FW_STAT_STATE 4).set Reg.FW_STAT_ERR x.2).post [0] 0x03 [x.1, x.2]) := by
  have hverifying : (d.get Reg.FW_STAT_STATE != 2) = false := by rw [hstate, bne_self_eq_false]
  cases r with
  | none => simp only [Dev.fwVerifyDone, hverifying, ← hbs, ← hr, ← he, ← hf, Bool.false_eq_true, if_false, Option.elim_none]
  | some x => simp only [Dev.fwVerifyDone, hverifying, ← hbs, ← hr, Dev.fwFailed, Bool.false_eq_true, if_false, Option.elim_some]

/-- R501: a running part takes a core down that is not already restarting. -/
theorem Dev.startRestart_fresh {core cause : Nat} {cmd : Option RingCmd} (hrun : d.running = true) (hnone : ∀ r ∈ d.boot.restarts, r.core ≠ core) :
    d.startRestart core cause cmd = (({ d with boot := { d.boot with
      restarts := d.boot.restarts ++ [⟨core, cause, d.time, cmd⟩],
      halted := d.boot.halted.filter (fun h => h.1 != core) } } : Dev).setCore core 2) := by
  have hfresh : d.boot.restarts.any (fun r => r.core == core) = false :=
    List.any_eq_false.mpr fun r hr => (beq_eq_false_iff_ne.mpr (hnone r hr)).symm ▸ Bool.false_ne_true
  simp only [Dev.startRestart, hrun, hfresh, Bool.not_true, Bool.false_eq_true, if_false]

/-- R501, R507: the one restart under way ends; its core runs again under its counts, or stays halted. -/
theorem Dev.coreRestartDone_one {core us : Nat} {r : Restart} (hone : d.boot.restarts = [r]) (hcore : r.core = core) (hcmd : r.cmd = none)
    (he : e = { d with boot := { d.boot with restarts := [] } }) (hus : us = min (2 ^ 32 - 1) ((e.time - r.since) / 1000))
    (hf : f = (e.setCore core 1).sramChanged core)
    (hg : g = ((f.set (Reg.CORE_STAT_RESTARTS core) (min 255 (f.get (Reg.CORE_STAT_RESTARTS core) + 1))).set (Reg.CORE_STAT_LAST_CAUSE core)
      r.cause).set (Reg.CORE_STAT_LAST_US core) us) :
    d.coreRestartDone core = if e.imageSound core then
      (((g.set Reg.GSTAT_CORE_RESTARTS (min 255 (g.get Reg.GSTAT_CORE_RESTARTS + 1))).post [0] 0x02 [core, r.cause, us]).temperEvent 6 core).fwRecords core
      else (e.setCore core 0).post [0] 0x03 [core, 0x0B] := by
  have hits : (r.core == core) = true := beq_iff_eq.mpr hcore
  have hmine : [r].filter (fun x => x.core == core) = [r] := by
    rw [List.filter_singleton, hits, cond_true]
  have hrest : [r].filter (fun x => x.core != core) = [] := by
    rw [List.filter_singleton, bne, hits, Bool.not_true, cond_false]
  have hnocmd : [r].filterMap Restart.cmd = [] := by
    rw [List.filterMap_cons, hcmd, List.filterMap_nil]
  have htime : e.time = d.time := he ▸ rfl
  rw [htime] at hus
  simp only [Dev.coreRestartDone, hone, List.find?_singleton, hits, hmine, hrest, hnocmd, ← he, ← hf, hg, hus, Dev.each_nil]
  cases e.imageSound core <;> simp only [Bool.not_true, Bool.not_false, Bool.false_eq_true, if_false, if_true]

theorem Dev.telSnap_holds (he : e = d.set Reg.TEL_SNAP_HOLD 1) (hfree : e.snap = none) : d.telSnap true = { e with snap := some e.regs } := by
  simp only [Dev.telSnap, if_true, ← he, hfree, Option.isSome_none, Bool.false_eq_true, if_false]

theorem Dev.telSnap_releases : d.telSnap false = { (d.set Reg.TEL_SNAP_HOLD 0) with snap := none } := by
  simp only [Dev.telSnap, Bool.false_eq_true, if_false]

/-- Settles O51: the bundle's way from FW_GO to running cores, the restart of a core, and TEL_SNAP. -/
theorem firmwareRuns : Obligations.FirmwareRuns := by
  unfold Obligations.FirmwareRuns
  refine ⟨?go, ?ignored, ?copied, ?verified, ?restart, ?watchdog, ?restarted, ?held, ?released⟩
  case go =>
    intro s t d hat hup hhalt hwipe hstate
    exact settles_act (fun d => d.fwGo) hat (Dev.fwGo_begins hup hhalt hwipe hstate)
  case ignored =>
    intro s t d hat hidle hfailed
    exact settles_act (fun d => d.fwGo) hat (Dev.fwGo_ignored hidle hfailed)
  case copied =>
    intro s t d hat hstate hwhole
    exact settles_act (fun d => d.fwCopyDone) hat (Dev.fwCopyDone_whole hstate hwhole)
  case verified =>
    intro s t bs r d e f hat hstate hbs hr he hf
    exact settles_act (fun d => d.fwVerifyDone s.fuse) hat (Dev.fwVerifyDone_verifies hstate hbs hr he hf)
  case restart =>
    intro s c t d hat hup hrun hnone
    exact settles_act (fun d => d.coreCtlRestart c.val) hat ((if_pos hup).trans (Dev.startRestart_fresh hrun hnone))
  case watchdog =>
    intro s c parity t d hat hruns
    exact settles_act (fun d => d.coreWatchdog c.val parity) hat (if_pos hruns)
  case restarted =>
    intro s c t us r d e f g hat hone hcore hcmd he hus hf hg
    exact settles_act (fun d => d.coreRestartDone c.val) hat (Dev.coreRestartDone_one hone hcore hcmd he hus hf hg)
  case held =>
    intro s t d e hat hup he hfree
    exact settles_bar (fun d => d.telSnap true) hat hup (Dev.telSnap_holds he hfree)
  case released =>
    intro s t d hat hup
    exact settles_bar (fun d => d.telSnap false) hat hup Dev.telSnap_releases

end Sys2Proof.Machine
end

section
/-! PROOF. Power, resets, the start sequence and the store-engine test (R509, R511, R512, R514, R549, R554). -/
namespace Sys2Proof.Machine

variable {d e w : Dev}

theorem Dev.pcieUp_of_free (hrails : d.boot.rails = true) (hfree : d.boot.held = false) : d.pcieUp = true := by
  rw [Dev.pcieUp, hrails, hfree, Bool.not_false, Bool.and_self]

theorem Dev.powerOn_off {mv straps : Nat} (hoff : d.boot.rails = false) (hmv : 40000 ≤ mv)
    (hw : w = { Dev.reset with
      time := d.time, free := d.free, boot := { Boot.start with active := d.boot.active, temps := d.boot.temps } }) :
    d.powerOn mv straps = (w.setReg Reg.STRAP_STAT (straps % 8)).showActive := by
  simp only [Dev.powerOn, hoff, decide_eq_false (Nat.not_lt.mpr hmv), Bool.or_self, Bool.false_eq_true, if_false, hw]

theorem Dev.powerDown_on {mv : Nat} (hon : d.boot.rails = true) (hmv : mv < 38500) :
    d.powerDown mv = { Dev.reset with
      time := d.time, free := d.free
      boot := { Boot.start with rails := false, active := d.boot.active, temps := d.boot.temps } } := by
  simp only [Dev.powerDown, hon, decide_eq_false (Nat.not_le.mpr hmv), Bool.not_true, Bool.or_self, Bool.false_eq_true, if_false]

theorem Dev.startReset_free {cause source : Nat} (hrails : d.boot.rails = true) (hfree : d.boot.held = false) :
    d.startReset cause source = d.wiped cause source := by
  simp only [Dev.startReset, hrails, hfree, Bool.not_true, Bool.false_eq_true, if_false]

theorem Dev.resetPin_free (hrails : d.boot.rails = true) (hfree : d.boot.held = false) :
    d.resetPin = ({ d with boot := { d.boot with resetLow := true } } : Dev).wiped 1 0 :=
  (if_pos hrails).trans (Dev.startReset_free hrails hfree)

theorem Dev.perstPin_free (hrails : d.boot.rails = true) (hfree : d.boot.held = false) :
    d.perstPin = ({ d with boot := { d.boot with perstLow := true } } : Dev).wiped 2 0 :=
  (if_pos hrails).trans (Dev.startReset_free hrails hfree)

theorem Dev.devReset_code (hrails : d.boot.rails = true) (hfree : d.boot.held = false) : d.devReset 0x0A09 = d.wiped 3 0 := by
  rw [Dev.devReset, Dev.pcieUp_of_free hrails hfree, beq_self_eq_true, Bool.and_self, if_pos rfl, Dev.startReset_free hrails hfree]

theorem Dev.devReset_other {code : Nat} (hcode : code ≠ 0x0A09) : d.devReset code = d := by
  rw [Dev.devReset, beq_eq_false_iff_ne.mpr hcode, Bool.and_false, if_neg Bool.false_ne_true]

/-- A register keeps its value while two others are written after it. -/
theorem Dev.reg_setReg_first (h : w.Rising) {r q : RegRef} {x : Fld} (v u y : Nat) (hq : r.addr ≠ q.addr) (hx : r.addr ≠ x.reg.addr) :
    (((w.setReg r v).setReg q u).set x y).reg r = v := by
  have hr : (w.setReg r v).Rising := Dev.Rising.setReg h r v
  rw [Dev.set, Dev.reg_setReg_ne _ _ _ _ (Dev.Rising.setReg hr q u) hx, Dev.reg_setReg_ne _ _ _ _ hr hq, Dev.reg_setReg_same _ _ _ h]

/-- R511: RESET_CAUSE reads as before the reset. -/
theorem Dev.wiped_cause (cause source : Nat) : (d.wiped cause source).reg Reg.RESET_CAUSE = d.reg Reg.RESET_CAUSE :=
  Dev.reg_setReg_first (w := Dev.reset) (show Tab.Rising [] from List.Pairwise.nil) _ _ _ (by decide) (by decide)

/-- R512, R554: with neither pin low, no flash command under way and nothing else that holds it, the release begins step 1. -/
theorem Dev.resetRelease_free {z : Fuses} (hrails : d.boot.rails = true) (hheld : d.boot.held = true) (hbridge : d.boot.bridge = none)
    (hholds : d.boot.holds = []) :
    d.resetRelease z = (({ d with boot := { d.boot with
      resetLow := false, perstLow := false, held := false, want := false, released := d.time } } : Dev).firstStep z) := by
  simp only [Dev.resetRelease, Dev.tryRelease, hrails, hheld, hbridge, hholds, Option.isSome_none, bne_self_eq_false, Bool.not_true, Bool.or_self,
    Bool.false_eq_true, if_false]

theorem Dev.imageApplied_tries {z : Fuses} {flash : List Host.Cell} {unread : List Nat} {r : Sum Failure (Dev × ImageRecord)}
    {f : Failure → Dev} (hup : d.pcieUp = true)
    (hwiped : d.boot.wiped = true) (hhalt : d.boot.halt = false) (hnew : d.flag Reg.IMG_STAT_APPLIED = false)
    (he : e = (if d.get Reg.LC_STAT_STATE = 0 ∨ d.get Reg.LC_STAT_STATE = 4 then d else
      ({ d with boot := { d.boot with idKey := Config.slhPublic z.idSeeds } } : Dev).set Reg.LC_STAT_ID_READY 1))
    (hr : r = e.trySlots z flash unread (slotOrder flash) ⟨0x01, 0, 0⟩)
    (hf : f = (fun (x : Failure) => ((e.set Reg.IMG_STAT_ERR x.code).set Reg.IMG_STAT_SECTION x.ix).set Reg.IMG_STAT_OFFSET x.off)) :
    d.imageApplied z flash unread = r.elim
      (fun x => ((({ f x with boot := { (f x).boot with halt := true } } : Dev).set Reg.FW_STAT_STATE 4).set Reg.FW_STAT_ERR x.code))
      (fun y => ((((({ y.1 with boot := { y.1.boot with image := some y.2 } } : Dev).set Reg.LC_STAT_IMG_SLOT y.2.slot).set
        Reg.LC_STAT_IMG_FALLBACK (if (slotOrder flash).head? = some y.2.slot then 0 else 1)).set Reg.IMG_STAT_APPLIED 1).set
          Reg.IMG_SVN_SVN y.2.svn).set Reg.GSTAT_WIPE_ACTIVE 0) := by
  have hid : (if (decide (d.get Reg.LC_STAT_STATE = 0) || decide (d.get Reg.LC_STAT_STATE = 4)) = true then d else
      ({ d with boot := { d.boot with idKey := Config.slhPublic z.idSeeds } } : Dev).set Reg.LC_STAT_ID_READY 1) = e := by
    simp only [he, Bool.or_eq_true, decide_eq_true_eq]
  have hready : (!d.pcieUp || !d.boot.wiped || d.boot.halt || d.flag Reg.IMG_STAT_APPLIED) = false := by
    simp only [hup, hwiped, hhalt, hnew, Bool.not_true, Bool.or_self]
  simp only [Dev.imageApplied, hready, Bool.false_eq_true, if_false, hid, ← hr]
  cases r with
  | inl x => simp only [Sum.elim_inl, hf]
  | inr y => simp only [Sum.elim_inr]

theorem Dev.each_one {α : Type} (d : Dev) (x : α) (f : Dev → α → Dev) : d.each [x] f = f d x := rfl

theorem Dev.storeTest_one {p : Nat} (hup : d.coreUp 15 = true) (hmode : d.get Reg.TIER_CTL_SVC_MODE = 0) (hrole : d.isRole p 1 = true)
    (he : e = d.set (Reg.LINK_CTL_DISABLE p) 1) (hdown : e.linkState p = 0) :
    d.storeTest [p] =
      ((((e.set Reg.GSTAT_LASTING_FAULT 1).bump (Reg.LASTING 5)).post [0] 0x20 [5, p]).set Reg.TIER_CTL_SVC_MODE 1) := by
  have hfails : [p].filter (fun p => d.isRole p 1) = [p] := by
    rw [List.filter_singleton, hrole, cond_true]
  simp only [Dev.storeTest, hup, hmode, hfails, bne_self_eq_false, Bool.not_true, Bool.or_self, Bool.false_eq_true, if_false, Dev.each_one,
    ← he, hdown, Dev.when]

/-- Settles O52: power, resets, the start sequence and the store-engine test. -/
theorem resetsAndStart : Obligations.ResetsAndStart := by
  unfold Obligations.ResetsAndStart
  refine ⟨?on, ?off, ?resets, ?code, ?wiped, ?release, ?wipe, ?image, ?engine⟩
  case on =>
    intro s mv straps t d w hat hoff hmv hw
    exact settles_act (fun d => d.powerOn mv straps) hat (Dev.powerOn_off hoff hmv hw)
  case off =>
    rintro s mv t d hat hon hmv b rfl
    exact settles_act (fun d => d.powerDown mv) hat (Dev.powerDown_on hon hmv)
  case resets =>
    intro s t d hat hrails hfree
    exact ⟨settles_act (fun d => d.resetPin) hat (Dev.resetPin_free hrails hfree),
      settles_act (fun d => d.perstPin) hat (Dev.perstPin_free hrails hfree),
      settles_act (fun d => d.devReset 0x0A09) hat (Dev.devReset_code hrails hfree)⟩
  case code =>
    intro s code t d hat hcode
    exact settles_act (fun d => d.devReset code.toNat) hat (Dev.devReset_other fun h => hcode (BitVec.eq_of_toNat_eq h))
  case wiped =>
    intro d cause source
    exact ⟨rfl, rfl, rfl, rfl, rfl, rfl, rfl, Dev.wiped_cause cause source⟩
  case release =>
    intro s t d hat hrails hheld hbridge hholds
    exact settles_act (fun d => d.resetRelease s.fuse) hat (Dev.resetRelease_free hrails hheld hbridge hholds)
  case wipe =>
    intro s t d hat hup
    exact settles_act (fun d => d.wipeDone) hat (if_pos hup)
  case image =>
    intro s un t r d e hat hup hwiped hhalt hnew he hr f hf
    exact settles_act (fun d => d.imageApplied s.fuse s.flash (un.map Fin.val)) hat
      (Dev.imageApplied_tries hup hwiped hhalt hnew he hr hf)
  case engine =>
    intro s p t d e hat hup hmode hrole he hdown
    exact settles_act (fun d => d.storeTest [p.val]) hat (Dev.storeTest_one hup hmode hrole he hdown)

end Sys2Proof.Machine
end

section
/-! PROOF. Fuses, lifecycle transitions, debug and tamper alarms (R527 to R532, R540, R541). -/
namespace Sys2Proof.Machine

variable {d e f g : Dev} {z : Fuses}

theorem Dev.fuseProg_data {k : Nat} (hup : d.pcieUp = true) (hidle : d.boot.burns = []) (hk : k < 4)
    (hallowed : fuseAllowed (d.get Reg.LC_STAT_STATE) k = true) (hnew : z.programmed k = false) :
    d.fuseProg z k = d.startBurn [(k, d.fuseValue)] := by
  simp only [Dev.fuseProg, hup, hidle, hallowed, hnew, decide_eq_false (by omega : ¬ 4 < k), if_neg (by omega : ¬ k = 4), bne_self_eq_false,
    Bool.not_true, Bool.or_self, Bool.false_eq_true, if_false]

theorem Dev.fuseProg_refused {k : Nat} (hup : d.pcieUp = true) (hidle : d.boot.burns = []) (hk : k ≤ 4)
    (hrefused : fuseAllowed (d.get Reg.LC_STAT_STATE) k = false) : d.fuseProg z k = d.lcErr 0x0C := by
  simp only [Dev.fuseProg, hup, hidle, hrefused, decide_eq_false (by omega : ¬ 4 < k), bne_self_eq_false, Bool.not_true, Bool.not_false,
    Bool.or_self, Bool.false_eq_true, if_false, if_true]

theorem Dev.svnRaise_allowed {v : Nat} (hup : d.pcieUp = true) (hstate : d.get Reg.LC_STAT_STATE = 1 ∨ d.get Reg.LC_STAT_STATE = 2)
    (hidle : d.boot.burns = []) (habove : z.floor < v) (hmost : v ≤ 64) (hbundle : v ≤ (d.boot.bundle.map BundleRecord.svn).getD 0)
    (himage : v ≤ (d.boot.image.map ImageRecord.svn).getD 0) : d.svnRaise z v = d.startBurn [(5, 2 ^ v - 1)] := by
  have hallowed : (d.get Reg.LC_STAT_STATE != 1 && d.get Reg.LC_STAT_STATE != 2) = false := by
    obtain h | h := hstate <;> simp only [h, bne_self_eq_false, Bool.false_and, Bool.and_false]
  simp only [Dev.svnRaise, hup, hallowed, hidle, decide_eq_false (Nat.not_le.mpr habove), decide_eq_false (Nat.not_lt.mpr hbundle),
    decide_eq_false (Nat.not_lt.mpr himage), decide_eq_false (Nat.not_lt.mpr hmost), bne_self_eq_false, Bool.not_true, Bool.or_self,
    Bool.false_eq_true, if_false]

/-- R530: a permitted transition burns SECRET_OFF first and the state last; the token of RMA has been read. -/
theorem Dev.lcGo_idle {target : Nat} (hup : d.pcieUp = true) (hidle : d.boot.burns = []) (hf : f = (if target = 3 then d.tokenRead else d))
    (he : e = { f with boot := { f.boot with target := some target } }) :
    d.lcGo z target = if d.transitionOk z target then
      e.startBurn ((if 3 ≤ target then [(6, 1)] else []) ++ [(7, 2 ^ target - 1)]) else f.lcErr 0x0F := by
  have hread : d.when (target == 3) Dev.tokenRead = f := by
    simp only [Dev.when, beq_iff_eq, hf]
  simp only [Dev.lcGo, hup, hidle, hread, beq_self_eq_true, Bool.true_and, Bool.not_true, Bool.false_eq_true, if_false, ← he]
  cases d.transitionOk z target <;> simp only [Bool.not_true, Bool.not_false, Bool.false_eq_true, if_false, if_true]

theorem Dev.burned_first {k v : Nat} {rest : List (Nat × Nat)} (hburns : d.boot.burns = (k, v) :: rest) : d.burned z = z.burn k v := by
  rw [Dev.burned, hburns]

/-- R528: a field that is no SVN and no lifecycle fuse shows, and the array is busy while others are to burn. -/
theorem Dev.burnShown_plain {k v : Nat} {rest : List (Nat × Nat)} (hburns : d.boot.burns = (k, v) :: rest) (hsvn : k ≠ 5) (hlc : k ≠ 7)
    (he : e = ({ d with boot := { d.boot with burns := rest } } : Dev).showFuses z)
    (hg : g = (if rest = [] then e.set Reg.FUSE_STAT_BUSY 0 else e)) : d.burnShown z = g := by
  simp only [Dev.burnShown, hburns, ← he, Dev.when, beq_iff_eq, hsvn, hlc, if_false, hg]

/-- R530: the last fuse of a transition resets the part. -/
theorem Dev.burnShown_transition {v : Nat} (hburns : d.boot.burns = [(7, v)]) :
    d.burnShown z =
      ((({ d with boot := { d.boot with burns := [] } } : Dev).showFuses z).set Reg.FUSE_STAT_BUSY 0).startReset 4 0 := by
  simp only [Dev.burnShown, hburns, Dev.when, beq_self_eq_true, if_true, beq_eq_false_iff_ne.mpr (by decide : 7 ≠ 5), Bool.false_eq_true, if_false]

/-- R528: FUSE_BURN_DONE burns the field at the head of the burns. -/
theorem exec_fuseBurnDone {s : State} {t k v : Nat} {rest : List (Nat × Nat)} (hat : s.dev.at t = d)
    (hburns : s.dev.boot.burns = (k, v) :: rest) (hz : z = s.fuse.burn k v) (hshown : d.burnShown z = g) :
    exec (.fuseBurnDone t) s = .next { s with fuse := z, dev := g.settle } := by
  have hburned : s.dev.burned s.fuse = z := (Dev.burned_first hburns).trans hz.symm
  have harm : exec (.fuseBurnDone t) s = act { s with fuse := s.dev.burned s.fuse } t (fun d => d.burnShown (s.dev.burned s.fuse)) := rfl
  rw [harm, hburned, act_next]
  simp only [hat, hshown]

theorem Dev.debugUnlock_secured (hup : d.pcieUp = true) (hstate : d.get Reg.LC_STAT_STATE = 1) :
    d.debugUnlock z = if d.tokenOk z 0x10 then
      ((((d.tokenRead.set Reg.LC_STAT_DEBUG_OPEN 1).set Reg.LC_STAT_DEBUG_EVER 1).zeroizeAll).lcErr 0) else d.tokenRead.lcErr 0x0F := by
  simp only [Dev.debugUnlock, hup, hstate, bne_self_eq_false, Bool.not_true, Bool.false_eq_true, if_false]
  cases d.tokenOk z 0x10 <;> simp only [Bool.not_true, Bool.not_false, Bool.false_eq_true, if_false, if_true, Dev.openDebug]

theorem Dev.debugLock_up (hup : d.pcieUp = true) :
    d.debugLock = ((d.set Reg.LC_STAT_DEBUG_OPEN 0).each (d.boot.halted.map Prod.fst) Dev.resumeCore).lcErr 0 := by
  simp only [Dev.debugLock, hup, Bool.not_true, Bool.false_eq_true, if_false]

/-- R540, R555: an alarm that VIN's undervoltage does not mask latches, counts, and acts by its policy. -/
theorem Dev.tamperAlarm_acts {src : Nat} (hrails : d.boot.rails = true)
    (hunmasked : src = 0 → d.get Reg.PWR_STAT_VIN_MV = 0 ∨ 40000 ≤ d.get Reg.PWR_STAT_VIN_MV)
    (he : e = ({ d with boot := { d.boot with active := addOnce d.boot.active src } } : Dev).showActive)
    (hf : f = ((e.set Reg.TAMPER_STAT_LATCHED (Nat.lor (e.get Reg.TAMPER_STAT_LATCHED) (2 ^ src))).set Reg.GSTAT_ALARM 1).bump Reg.TAMPER_EVENTS) :
    d.tamperAlarm z src =
      if d.tamperPolicy z src = 0 then f.post [0] 0x60 [src, 0]
      else if d.tamperPolicy z src = 1 then (f.post [0] 0x60 [src, 1]).tamperFence
      else (({ f with boot := { f.boot with holds := addOnce f.boot.holds src } } : Dev).zeroizeAll).startReset 5 src := by
  have hopen : (src == 0 && d.voltMasked) = false := by
    rw [Bool.and_eq_false_iff, beq_eq_false_iff_ne, Dev.voltMasked, Bool.and_eq_false_iff, bne_eq_false_iff_eq, decide_eq_false_iff_not]
    by_cases hsrc : src = 0
    · exact .inr ((hunmasked hsrc).imp_right Nat.not_lt.mpr)
    · exact .inl hsrc
  have hacts : (!d.boot.rails || (src == 0 && d.voltMasked)) = false := by
    rw [hrails, hopen, Bool.not_true, Bool.or_self]
  simp only [Dev.tamperAlarm, hacts, Bool.false_eq_true, if_false, ← he, ← hf]
  match d.tamperPolicy z src with
  | 0 => exact (if_pos rfl).symm
  | 1 => exact ((if_neg Nat.one_ne_zero).trans (if_pos rfl)).symm
  | n + 2 => exact ((if_neg (by omega)).trans (if_neg (by omega))).symm

theorem Dev.eraseHoldRelease_on {src : Nat} (hrails : d.boot.rails = true) :
    d.eraseHoldRelease z src = ((({ d with boot := { d.boot with
      active := d.boot.active.filter (fun x => x != src), holds := d.boot.holds.filter (fun x => x != src) } } : Dev).showActive).tryRelease z) := by
  simp only [Dev.eraseHoldRelease, hrails, Bool.not_true, Bool.false_eq_true, if_false]

theorem Dev.tamperClear_up {bits active old left : Nat} {gone : List Nat} (hup : d.pcieUp = true)
    (he : e = ({ d with boot := { d.boot with active := (rangeFrom 0 4).filter (bitOf active) } } : Dev).showActive)
    (hold : old = e.get Reg.TAMPER_STAT_LATCHED)
    (hgone : gone = (rangeFrom 0 4).filter (fun x => bitOf old x && bitOf bits x && !bitOf active x))
    (hleft : left = old - sumBy (fun x => 2 ^ x) gone) :
    d.tamperClear bits active =
      ((e.set Reg.TAMPER_STAT_LATCHED left).set Reg.GSTAT_ALARM (if left = 0 then 0 else 1)).each gone (fun d x => d.post [0] 0x61 [x]) := by
  simp only [Dev.tamperClear, hup, Bool.not_true, Bool.false_eq_true, if_false, ← he, ← hold, ← hgone, ← hleft]

/-- Settles O53: fuses, the SVN floor, transitions, debug and tamper alarms. -/
theorem securityActs : Obligations.SecurityActs := by
  unfold Obligations.SecurityActs
  refine ⟨?fuse, ?refused, ?svn, ?go, ?burned, ?transition, ?unlock, ?lock, ?alarm, ?erased, ?clear⟩
  case fuse =>
    intro s k t d hat hup hidle hk hallowed hnew
    exact settles_act (fun d => d.fuseProg s.fuse k.val) hat (Dev.fuseProg_data hup hidle hk hallowed hnew)
  case refused =>
    intro s k t d hat hup hidle hk hrefused
    exact settles_act (fun d => d.fuseProg s.fuse k.val) hat (Dev.fuseProg_refused hup hidle hk hrefused)
  case svn =>
    intro s v t d hat hup hstate hidle habove hmost hbundle himage
    exact settles_act (fun d => d.svnRaise s.fuse v.toNat) hat (Dev.svnRaise_allowed hup hstate hidle habove hmost hbundle himage)
  case go =>
    intro s target t d hat hup hidle f hf e he
    exact settles_act (fun d => d.lcGo s.fuse target.toNat) hat (Dev.lcGo_idle hup hidle hf he)
  case burned =>
    intro s t k v rest z d e g hat hburns hz hsvn hlc he hg
    have hthere : d.boot.burns = (k, v) :: rest := by rw [← hat, Dev.at_boot, hburns]
    exact exec_fuseBurnDone hat hburns hz (Dev.burnShown_plain hthere hsvn hlc he hg)
  case transition =>
    intro s t v z d hat hburns hz
    have hthere : d.boot.burns = [(7, v)] := by rw [← hat, Dev.at_boot, hburns]
    exact exec_fuseBurnDone hat hburns hz (Dev.burnShown_transition hthere)
  case unlock =>
    intro s t d hat hup hstate
    exact settles_act (fun d => d.debugUnlock s.fuse) hat (Dev.debugUnlock_secured hup hstate)
  case lock =>
    intro s t d hat hup
    exact settles_act (fun d => d.debugLock) hat (Dev.debugLock_up hup)
  case alarm =>
    intro s src t d e f hat hrails hunmasked he hf
    exact settles_act (fun d => d.tamperAlarm s.fuse src.val) hat (Dev.tamperAlarm_acts hrails hunmasked he hf)
  case erased =>
    intro s src t d hat hrails
    exact settles_act (fun d => d.eraseHoldRelease s.fuse src.val) hat (Dev.eraseHoldRelease_on hrails)
  case clear =>
    intro s bits active t old left gone d e hat hup he hold hgone hleft
    exact settles_act (fun d => d.tamperClear bits.toNat active.toNat) hat (Dev.tamperClear_up hup he hold hgone hleft)

end Sys2Proof.Machine
end

section
/-! PROOF. The I3C management interface, its flash bridge and debug (R533, R550 to R553, R562). -/
namespace Sys2Proof.Machine

variable {d e : Dev}

/-- A management command settles what its meaning makes of a part whose rails are up. -/
theorem settles_i3c {c : Instr} {s : State} {t : Nat} (f : Dev → Dev) (hat : s.dev.at t = d) (hrails : d.boot.rails = true) (hf : f d = e)
    (harm : exec c s = act s t (fun d => d.i3c f) := by rfl) : Settles c s e :=
  settles_act (fun d => d.i3c f) hat ((if_pos hrails).trans hf) harm

/-- So does a debug command while debug is open. -/
theorem settles_debug {c : Instr} {s : State} {t : Nat} (f : Dev → Dev) (hat : s.dev.at t = d) (hrails : d.boot.rails = true)
    (hopen : d.flag Reg.LC_STAT_DEBUG_OPEN = true) (hf : f d = e)
    (harm : exec c s = act s t (fun d => d.i3c (fun d => d.debugCmd f)) := by rfl) : Settles c s e :=
  settles_i3c (fun d => d.debugCmd f) hat hrails ((if_pos hopen).trans hf) harm

/-- While debug is closed a debug command is refused. -/
theorem settles_closed {c : Instr} {s : State} {t : Nat} (f : Dev → Dev) (hat : s.dev.at t = d) (hrails : d.boot.rails = true)
    (hclosed : d.flag Reg.LC_STAT_DEBUG_OPEN = false) (harm : exec c s = act s t (fun d => d.i3c (fun d => d.debugCmd f)) := by rfl) :
    Settles c s (d.status 2) :=
  settles_i3c (fun d => d.debugCmd f) hat hrails (if_neg (by rw [hclosed]; exact Bool.false_ne_true)) harm

theorem Dev.bridgeFree_eq (hlow : d.boot.resetLow = true) (hidle : d.boot.bridge = none) : d.bridgeFree = true := by
  rw [Dev.bridgeFree, hlow, hidle, Option.isNone_none, Bool.and_self]

theorem Dev.flashRead_free {flash : List Host.Cell} {a n : Nat} (hlow : d.boot.resetLow = true) (hidle : d.boot.bridge = none) (hn : n ≤ 256)
    (hend : a + n ≤ flashBytes) : d.flashRead flash a n = d.replyWith (Memory.readN 0xFF#8 flash a n) := by
  simp only [Dev.flashRead, Dev.bridgeFree_eq hlow hidle, decide_eq_true hn, decide_eq_true hend, Bool.and_self, if_true]

/-- R553: with STRAP_FLASH_WE set a well-formed command that changes the flash runs. -/
theorem Dev.flashCmd_runs {op : FlashOp} (he : e = d.set Reg.STRAP_STAT_FLASH_WE 1) (hlow : e.boot.resetLow = true)
    (hidle : e.boot.bridge = none) : d.flashCmd op true true = { e with boot := { e.boot with bridge := some op, reply := natBytes 1 1 } } := by
  simp only [Dev.flashCmd, Dev.strapWe, if_true, ← he, Dev.bridgeFree_eq hlow hidle, Bool.and_self, Dev.status, Dev.replyWith]

theorem Dev.flashErase_runs {a : Nat} (he : e = d.set Reg.STRAP_STAT_FLASH_WE 1) (hlow : e.boot.resetLow = true) (hidle : e.boot.bridge = none)
    (haligned : a % 65536 = 0) (hin : a < flashBytes) :
    d.flashErase a true = { e with boot := { e.boot with bridge := some (.erase a), reply := natBytes 1 1 } } := by
  rw [Dev.flashErase, haligned, beq_self_eq_true, decide_eq_true hin, Bool.and_self, Dev.flashCmd_runs he hlow hidle]

theorem Dev.flashProgram_runs {a : Nat} {bs : List Byte} (he : e = d.set Reg.STRAP_STAT_FLASH_WE 1) (hlow : e.boot.resetLow = true)
    (hidle : e.boot.bridge = none) (haligned : a % 256 = 0) (hlen : bs.length = 256) (hin : a < flashBytes) :
    d.flashProgram a bs true = { e with boot := { e.boot with bridge := some (.program a bs), reply := natBytes 1 1 } } := by
  rw [Dev.flashProgram, haligned, hlen, beq_self_eq_true, beq_self_eq_true, decide_eq_true hin, Bool.and_self, Bool.and_self,
    Dev.flashCmd_runs he hlow hidle]

/-- R553: without STRAP_FLASH_WE no command changes the flash. -/
theorem Dev.flashCmd_refused {op : FlashOp} {ok : Bool} (he : e = d.set Reg.STRAP_STAT_FLASH_WE 0) : d.flashCmd op ok false = e.status 2 := by
  simp only [Dev.flashCmd, Dev.strapWe, Bool.false_eq_true, if_false, ← he, Bool.and_false, Bool.false_and]

theorem Dev.flashDone_runs {z : Fuses} {op : FlashOp} (hbridge : d.boot.bridge = some op) :
    d.flashDone z = (({ d with free := d.free + 256, boot := { d.boot with bridge := none } } : Dev).tryRelease z) :=
  if_pos (by rw [hbridge]; rfl)

/-- R551: at the end of a bridge command the flash is as the command leaves it. -/
theorem exec_flashOpDone {s : State} {t : Nat} {op : FlashOp} (hat : s.dev.at t = d) (hbridge : s.dev.boot.bridge = some op) :
    exec (.flashOpDone t) s = .next { s with
      flash := op.apply s.flash s.dev.free
      dev := (({ d with free := d.free + 256, boot := { d.boot with bridge := none } } : Dev).tryRelease s.fuse).settle } := by
  have hafter : s.dev.flashAfter s.flash = op.apply s.flash s.dev.free := by rw [Dev.flashAfter, hbridge]
  have hthere : d.boot.bridge = some op := by rw [← hat, Dev.at_boot, hbridge]
  have harm : exec (.flashOpDone t) s = act { s with flash := s.dev.flashAfter s.flash } t (fun d => d.flashDone s.fuse) := rfl
  rw [harm, hafter, act_next]
  simp only [hat, Dev.flashDone_runs hthere]

theorem Dev.traceRead_pin {n k : Nat} (hrun : d.running = true) (hout : d.flag Reg.TRACE_CTL_PIN_OUT = true)
    (hk : k = min (min n 16) d.host.pins.length) :
    d.traceRead n = (({ d with host := { d.host with pins := d.host.pins.drop k } } : Dev).replyWith
      (natBytes 1 k ++ (d.host.pins.take k).flatMap id)) := by
  simp only [Dev.traceRead, hrun, hout, Bool.and_self, if_true, ← hk]

theorem Dev.dbgHalt_up {c : Nat} (hruns : d.dbgHalted c = false) (hup : d.coreUp c = true) (he : e = (d.freshWords 33).2) :
    d.dbgHalt c =
      ((({ e with boot := { e.boot with halted := Tab.ins e.boot.halted c (d.freshWords 33).1 } } : Dev).setCore c 0).status 0) := by
  simp only [Dev.dbgHalt, hruns, hup, Bool.not_true, Bool.false_eq_true, if_false, ← he]

theorem Dev.dbgResume_halted {c : Nat} (hhalted : d.dbgHalted c = true) :
    d.dbgResume c = ((((({ d with boot := { d.boot with
      halted := d.boot.halted.filter (fun h => h.1 != c) } } : Dev).setCore c 1).sramChanged c)).status 0) :=
  (if_pos hhalted).trans (congrArg (fun d : Dev => d.status 0) (if_pos hhalted))

theorem Dev.dbgMemRead_within {c a n : Nat} (hn : n ≤ 256) (hend : a + n ≤ 0x20_0000) :
    d.dbgMemRead c a n = ((d.sramRead c a n).2.replyWith (d.sramRead c a n).1) := by
  simp only [Dev.dbgMemRead, decide_eq_true hn, decide_eq_true hend, Bool.and_self, if_true]

/-- R533: a byte written to a halted core's SRAM stays known. -/
theorem Dev.dbgMemWrite_byte {c a : Nat} {b : Byte} (hhalted : d.dbgHalted c = true) (hin : a < 0x20_0000) :
    d.dbgMemWrite c a [b] =
      (({ d with boot := { d.boot with sram := Tab.ins d.boot.sram (c * 0x20_0000 + a + 0) b } } : Dev).status 0) := by
  have hone : [b].zip (rangeFrom 0 1) = [(b, 0)] := rfl
  simp only [Dev.dbgMemWrite, List.length_singleton, hone, hhalted, decide_eq_true (by omega : 1 ≤ 256), decide_eq_true (by omega : a + 1 ≤ 0x20_0000),
    Bool.and_self, Bool.true_or, if_true, List.foldl_cons, List.foldl_nil]

theorem Dev.dbgCoreRegs_halted {c : Nat} {vs : List Nat} (hhalted : d.boot.halted.find? (fun h => h.1 == c) = some (c, vs)) :
    d.dbgCoreRegs c = d.replyWith (vs.flatMap (natBytes 4)) := by
  rw [Dev.dbgCoreRegs, hhalted]

/-- Settles O54: the commands of the management interface, of the flash bridge and of debug. -/
theorem managementReplies : Obligations.ManagementReplies := by
  unfold Obligations.ManagementReplies
  refine ⟨?status, ?temps, ?read, ?erase, ?program, ?locked, ?busy, ?done, ?trace, ?address, ?debug, ?closed, ?halt, ?resume, ?memory,
    ?byte, ?register, ?words⟩
  case status =>
    rintro s we t d e hat hrails rfl
    exact settles_i3c (fun d => (d.strapWe we).statusReply) hat hrails rfl
  case temps =>
    intro s t d hat hrails
    exact settles_i3c (fun d => d.tempAll) hat hrails rfl
  case read =>
    intro s a n t d hat hrails hlow hidle hn hend
    exact settles_i3c (fun d => d.flashRead s.flash a n) hat hrails (Dev.flashRead_free hlow hidle hn hend)
  case erase =>
    intro s a t d e hat hrails he hlow hidle haligned hin
    exact settles_i3c (fun d => d.flashErase a true) hat hrails (Dev.flashErase_runs he hlow hidle haligned hin)
  case program =>
    intro s a t bs d e hat hrails he hlow hidle haligned hlen hin
    exact settles_i3c (fun d => d.flashProgram a bs true) hat hrails (Dev.flashProgram_runs he hlow hidle haligned hlen hin)
  case locked =>
    intro s a t bs d e hat hrails he
    exact ⟨settles_i3c (fun d => d.flashErase a false) hat hrails (Dev.flashCmd_refused he),
      settles_i3c (fun d => d.flashProgram a bs false) hat hrails (Dev.flashCmd_refused he)⟩
  case busy =>
    intro s t d hat hrails hlow
    exact settles_i3c (fun d => d.flashStatus) hat hrails (if_pos hlow)
  case done =>
    intro s t op d hat hbridge
    exact exec_flashOpDone hat hbridge
  case trace =>
    intro s n t k d hat hrails hrun hout hk
    exact settles_i3c (fun d => d.traceRead n) hat hrails (Dev.traceRead_pin hrun hout hk)
  case address =>
    intro s a t d e hat hrails he
    exact ⟨settles_i3c (fun d => d.dynAddr a.toNat) hat hrails he.symm, settles_i3c (fun d => d.dynAddr a.toNat) hat hrails he.symm⟩
  case debug =>
    intro s t d hat hrails
    exact settles_i3c (fun d => d.dbgStatus) hat hrails rfl
  case closed =>
    intro s t op c i bs a n v d hat hrails hclosed hcmd
    simp only [List.mem_cons, Prod.mk.injEq, List.not_mem_nil, or_false] at hcmd
    obtain ⟨rfl, -⟩ | ⟨rfl, -⟩ | ⟨rfl, -⟩ | ⟨rfl, -⟩ | ⟨rfl, -⟩ | ⟨rfl, -⟩ | ⟨rfl, -⟩ := hcmd
    · exact settles_closed (fun d => d.dbgHalt c.val) hat hrails hclosed
    · exact settles_closed (fun d => d.dbgResume c.val) hat hrails hclosed
    · exact settles_closed (fun d => d.dbgMemRead c.val a n) hat hrails hclosed
    · exact settles_closed (fun d => d.dbgMemWrite c.val a bs) hat hrails hclosed
    · exact settles_closed (fun d => d.dbgRegRead a) hat hrails hclosed
    · exact settles_closed (fun d => d.dbgRegWrite s.fuse a v.toNat) hat hrails hclosed
    · exact settles_closed (fun d => d.dbgCoreRegs c.val) hat hrails hclosed
  case halt =>
    intro s t c d hat hrails hopen hruns hup e he
    exact settles_debug (fun d => d.dbgHalt c.val) hat hrails hopen (Dev.dbgHalt_up hruns hup he)
  case resume =>
    intro s t c d hat hrails hopen hhalted
    exact settles_debug (fun d => d.dbgResume c.val) hat hrails hopen (Dev.dbgResume_halted hhalted)
  case memory =>
    intro s t a n c d hat hrails hopen hn hend
    exact settles_debug (fun d => d.dbgMemRead c.val a n) hat hrails hopen (Dev.dbgMemRead_within hn hend)
  case byte =>
    intro s t a c b d hat hrails hopen hhalted hin
    exact settles_debug (fun d => d.dbgMemWrite c.val a [b]) hat hrails hopen (Dev.dbgMemWrite_byte hhalted hin)
  case register =>
    intro s t a v d hat hrails hopen haligned
    exact ⟨settles_debug (fun d => d.dbgRegRead a) hat hrails hopen (if_pos haligned),
      settles_debug (fun d => d.dbgRegWrite s.fuse a v.toNat) hat hrails hopen (if_pos haligned)⟩
  case words =>
    intro s t c vs d hat hrails hopen hhalted
    exact settles_debug (fun d => d.dbgCoreRegs c.val) hat hrails hopen (Dev.dbgCoreRegs_halted hhalted)

end Sys2Proof.Machine
end
